-- ==== Sys2Proof/Word.lean ====
section
/-! DEFINITION. Word types of the SW9 and the plain sparse table used for storage. -/

namespace Sys2Proof

/-- A 64-bit register word (R190). -/
abbrev Word := BitVec 64

/-- A byte, the smallest addressable unit (R77). -/
abbrev Byte := BitVec 8

/-- A six-bit register field of an instruction word (R189). -/
abbrev Reg := BitVec 6

/-- A sparse table: key and value pairs, kept with keys strictly rising. -/
abbrev Tbl (α : Type) := List (Nat × α)

end Sys2Proof
end

