-- ==== Sys2Proof/Config.lean ====
section
/-! DEFINITION. What one implementation fixes: the cause codes, the constants of the part, and the free values, which are opaque so
that no proof can see what they are. -/

namespace Sys2Proof

/-- The 64 cause codes of R393, in code order (0x00 to 0x3F). -/
inductive Cause where
  | illop | rsvfld | priv | fetchalign | fetchfault | bkpt | step | mixtrap
  | ldalign | stalign | access | xlate | prot | partbound | atomalign | eccunc
  | emptyrd | tokbad | qfull | engfault | shapebad | bwinbad | sfufault | gangbad
  | fpinv | fpdz | fpovf | fpunf | fpinx | intdz | apxbound | fpsat
  | sendovf | chinval | msgsize | deqovf | joinbad | trussbad | stealdom | barbad
  | cellbad | cellshape | cycle | formula | genabandon | snapold | bindlimit | genlimit
  | ddfull | ddnode | ddrefovf | ddorder | ddweight | ddopcache | ddcountovf | ddmasksize
  | dlmiss | timelost | skewexc | migrate | double | watchdog | replaydiv | machinechk
deriving DecidableEq, Repr

/-- The six-bit code of a cause (R393). -/
def Cause.code (c : Cause) : Nat := c.ctorIdx

/-- The value with which an ENQ token register fills: R93 says that it becomes full and gives no value (log 10, DESIGN CHOICE:
free value). -/
opaque Config.tokenValue : Nat → Word

/-- Whether an access uses a cached translation that an invalidation has not yet removed, or walks afresh: R31 and R32 leave it open
(log 11, DESIGN CHOICE: free value). -/
opaque Config.useCached : Nat → Bool

/-- The entry that a full translation cache gives up for a new one: R31 gives no replacement policy (log 62, DESIGN CHOICE: free value). -/
opaque Config.tlbVictim : Nat → Nat

/-- The hash of PEER and PVA[47:16] that picks a port of the peer's group: R67 gives no function (log 72, DESIGN CHOICE: free value). -/
opaque Config.portHash : Nat → Nat → Nat

/-- The victim a thief tries next: R169 says that the order is not architected (log 12, DESIGN CHOICE: free value). -/
opaque Config.stealVictim : Nat → Nat

/-- Which of the packets in flight lands next: R330 lets packets arrive in any order (log 13, DESIGN CHOICE: free value). -/
opaque Config.nextPacket : Nat → Nat

/-- The result of the reduced-voltage path of the SFU on an input: R226 gives it no architected value (log 14, DESIGN CHOICE: free
value). The arguments are the function number, the input bits and a fresh count. -/
opaque Config.approxSfu : Nat → Word → Nat → Word

/-- Operation-cache hits and misses that DDSTAT reports: they depend on a cache policy the spec does not give (R356, R369; log 15,
DESIGN CHOICE: free value). -/
opaque Config.cacheHits : Nat → Word

/-- See `Config.cacheHits`. -/
opaque Config.cacheMisses : Nat → Word

/-- The RSASSA-PSS signature of the identity key over a message: the private key and the salt are not in the spec (R433, R434;
log 16, DESIGN CHOICE: free value). -/
opaque Config.identitySign : List Byte → Nat → List Byte

/-- The digest of Tolfort's firmware key, fused in the sill die (R431). An implementation's constant. -/
opaque Config.fusedKeyDigest : List Byte

/-- The 48-bit provisioned id of the part on the sideband (R429). An implementation's constant. -/
opaque Config.provisionedId : BitVec 48

/-- The identity certificate of the part (R433). An implementation's constant. -/
opaque Config.certificate : List Byte

/-- The rounded value of a special function where the fixed-point bounds of the model do not decide it; the bounds are wide enough
that this is not expected for any input (R300; log 17, DESIGN CHOICE: free value). -/
opaque Config.sfuUndecided : Nat → Word → Word

/-- BENTID of a gateway core, which lies in no bay: R198 gives no value for it (log 19, DESIGN CHOICE: free value). -/
opaque Config.gatewayBentid : Nat → BitVec 12

/-- The header fields of a pad record other than its kind and its length: R177 gives them no value (log 20, DESIGN CHOICE: free value). -/
opaque Config.padField : Nat → Word

/-- Whether hardware moves a queued chain that may move, now: R324 lets it and states no occasion (log 21, DESIGN CHOICE: free value). -/
opaque Config.chainMoves : Nat → Bool

/-- Whether an exchange of a die with the grandmaster succeeds, the delay of its link in ticks, how much of the link's asymmetry the correction leaves, and
the grandmaster's turnaround: R106 gives none (log 73, DESIGN CHOICE: free values). -/
opaque Config.exchangeOk : Nat → Bool
opaque Config.linkDelay : Nat → Nat
opaque Config.linkResidue : Nat → Nat
opaque Config.turnaround : Nat → Nat

/-- The skew bound that the sill die computes at the end of a boot, in ticks: R108 bounds it by 32 and gives no value (log 74, DESIGN CHOICE: free value). -/
opaque Config.skewBound : Nat → Nat

/-- Whether a value on its way to a register arrives now (R193; log 30, DESIGN CHOICE: free value). -/
opaque Config.fillArrives : Nat → Bool

/-- Whether the current-ramp limiter holds back matrix issue of a die now: it depends on currents that the state does not hold (R437; log
28, DESIGN CHOICE: free value). -/
opaque Config.rampHolds : Nat → Bool

/-- What timing and the part's sensors give, by the place and time of the reading: the latency of an access or a copy in cycles; a package's power, currents and
temperatures; the energy a launch has taken, and its core-rail part (R423, R436, R438; log 82, DESIGN CHOICE: free values). -/
opaque Config.latency : Nat → Nat
opaque Config.sensor : Nat → Nat
opaque Config.energy : Nat → Nat

/-- Digest of the configuration that the Dreith service runs with (R433). An implementation's constant. -/
opaque Config.serviceDigest : List Byte

/-- Does an SFU serve its first request before another enters (R301)? The spec states no times of the VE and the SFU (log 79, DESIGN CHOICE: free
values). -/
opaque Config.sfuServes : Nat → Bool

/-- The lowest version of an interface that the Dreith service offers, major in bits [15:8] and minor in [7:0], and how far its range reaches
above it (R428). An implementation's constants (log 54, DESIGN CHOICE: free values). -/
opaque Config.ifaceMin : Nat → Nat
opaque Config.ifaceSpan : Nat → Nat

/-- The range of versions offered. -/
def Config.ifaceRange (id : Nat) : Nat × Nat := (Config.ifaceMin id, Config.ifaceMin id + Config.ifaceSpan id)

/-- `ticksAt n` is the tick count after `n` cycles: one cycle is 40/3 ticks (R104). -/
def Config.ticksAt (n : Nat) : Nat := n * 40 / 3

/-- Cores of the four compute dies: 32 columns by 36 rows each (R2). -/
def Config.dieCores : Nat := 1152

/-- First core number of the gateway bents, after the compute cores (R8). -/
def Config.gatewayBase : Nat := 4608

/-- ISAFEAT as its map gives it: versions 1.0, record and command versions 1, every feature implemented (R201). -/
def Config.isafeat : Word := 0x01001111000000FC#64

/-- What an unlisted byte of memory reads as: zero by R55 for launch storage; for device memory at power-on the spec states
nothing (log 2, DESIGN CHOICE). -/
def Config.emptyByte : Byte := 0#8

end Sys2Proof
end

