-- ==== Sys2Proof/Syntax.lean ====
section
/-! DEFINITION. The syntax of the SW9: one constructor for each row of the opcode table. The coded rows carry the fields of their
format (R188), the tile commands name the core whose queue holds them (R202), and the remaining rows are the steps of the hardware,
of system software and of the host, whose operands are what the outside supplies. -/

namespace Sys2Proof

/-- One constructor for each row of the opcode table; the rule in a comment gives its effect. -/
inductive Instr where
  | add (d a b : Reg) (ma mb : Bool)  -- R232
  | sub (d a b : Reg) (ma mb : Bool)  -- R232
  | and (d a b : Reg) (ma mb : Bool)  -- R232
  | or (d a b : Reg) (ma mb : Bool)  -- R232
  | xor (d a b : Reg) (ma mb : Bool)  -- R232
  | sll (d a b : Reg) (ma mb : Bool)  -- R232
  | srl (d a b : Reg) (ma mb : Bool)  -- R232
  | sra (d a b : Reg) (ma mb : Bool)  -- R232
  | min (d a b : Reg) (ma mb : Bool)  -- R232
  | max (d a b : Reg) (ma mb : Bool)  -- R232
  | minu (d a b : Reg) (ma mb : Bool)  -- R232
  | maxu (d a b : Reg) (ma mb : Bool)  -- R232
  | slt (d a b : Reg) (ma mb : Bool)  -- R232
  | sltu (d a b : Reg) (ma mb : Bool)  -- R232
  | seq (d a b : Reg) (ma mb : Bool)  -- R232
  | sne (d a b : Reg) (ma mb : Bool)  -- R232
  | mul (d a b : Reg) (ma mb : Bool)  -- R232
  | mulh (d a b : Reg) (ma mb : Bool)  -- R232
  | mulhu (d a b : Reg) (ma mb : Bool)  -- R232
  | div (d a b : Reg) (ma mb : Bool)  -- R233
  | divu (d a b : Reg) (ma mb : Bool)  -- R233
  | rem (d a b : Reg) (ma mb : Bool)  -- R233
  | remu (d a b : Reg) (ma mb : Bool)  -- R233
  | clz (d a : Reg) (ma : Bool)  -- R232
  | ctz (d a : Reg) (ma : Bool)  -- R232
  | popc (d a : Reg) (ma : Bool)  -- R232
  | mkga (d a b : Reg) (ma mb : Bool)  -- R235
  | gcoord (d : Reg)  -- R235
  | addi (d a : Reg) (imm : BitVec 12) (ma : Bool)  -- R234
  | andi (d a : Reg) (imm : BitVec 12) (ma : Bool)  -- R234
  | ori (d a : Reg) (imm : BitVec 12) (ma : Bool)  -- R234
  | xori (d a : Reg) (imm : BitVec 12) (ma : Bool)  -- R234
  | slti (d a : Reg) (imm : BitVec 12) (ma : Bool)  -- R234
  | sltiu (d a : Reg) (imm : BitVec 12) (ma : Bool)  -- R234
  | slli (d a : Reg) (sh : BitVec 6) (ma : Bool)  -- R234
  | srli (d a : Reg) (sh : BitVec 6) (ma : Bool)  -- R234
  | srai (d a : Reg) (sh : BitVec 6) (ma : Bool)  -- R234
  | lui (d : Reg) (imm : BitVec 19)  -- R236
  | auipc (d : Reg) (imm : BitVec 19)  -- R236
  | jal (d : Reg) (imm : BitVec 19)  -- R238
  | jalr (d a : Reg) (imm : BitVec 12) (ma : Bool)  -- R238
  | bfx (d a : Reg) (pos len : BitVec 6) (ma : Bool)  -- R237
  | bfi (d a : Reg) (pos len : BitVec 6) (ma : Bool)  -- R237
  | sel (d a b c : Reg) (mq : Bool)  -- R237
  | beq (a b : Reg) (imm : BitVec 11) (ma mb : Bool)  -- R238
  | bne (a b : Reg) (imm : BitVec 11) (ma mb : Bool)  -- R238
  | blt (a b : Reg) (imm : BitVec 11) (ma mb : Bool)  -- R238
  | bge (a b : Reg) (imm : BitVec 11) (ma mb : Bool)  -- R238
  | bltu (a b : Reg) (imm : BitVec 11) (ma mb : Bool)  -- R238
  | bgeu (a b : Reg) (imm : BitVec 11) (ma mb : Bool)  -- R238
  | ldB (d a : Reg) (imm : BitVec 12) (ma : Bool)  -- R240
  | ldH (d a : Reg) (imm : BitVec 12) (ma : Bool)  -- R240
  | ldW (d a : Reg) (imm : BitVec 12) (ma : Bool)  -- R240
  | ldD (d a : Reg) (imm : BitVec 12) (ma : Bool)  -- R240
  | ldzB (d a : Reg) (imm : BitVec 12) (ma : Bool)  -- R240
  | ldzH (d a : Reg) (imm : BitVec 12) (ma : Bool)  -- R240
  | ldzW (d a : Reg) (imm : BitVec 12) (ma : Bool)  -- R240
  | ldfW (d a : Reg) (imm : BitVec 12) (ma : Bool)  -- R240
  | ldfD (d a : Reg) (imm : BitVec 12) (ma : Bool)  -- R240
  | stB (s a : Reg) (imm : BitVec 11) (ms ma : Bool)  -- R240
  | stH (s a : Reg) (imm : BitVec 11) (ms ma : Bool)  -- R240
  | stW (s a : Reg) (imm : BitVec 11) (ms ma : Bool)  -- R240
  | stD (s a : Reg) (imm : BitVec 11) (ms ma : Bool)  -- R240
  | stfW (s a : Reg) (imm : BitVec 11) (ms ma : Bool)  -- R240
  | stfD (s a : Reg) (imm : BitVec 11) (ms ma : Bool)  -- R240
  | ldnbB (d a b : Reg) (ma mb : Bool)  -- R241
  | ldnbH (d a b : Reg) (ma mb : Bool)  -- R241
  | ldnbW (d a b : Reg) (ma mb : Bool)  -- R241
  | ldnbD (d a b : Reg) (ma mb : Bool)  -- R241
  | twait (a : Reg) (ma : Bool)  -- R123
  | stvaB (a b c : Reg) (mq : Bool)  -- R241
  | stvaH (a b c : Reg) (mq : Bool)  -- R241
  | stvaW (a b c : Reg) (mq : Bool)  -- R241
  | stvaD (a b c : Reg) (mq : Bool)  -- R241
  | amoaddW (d a b : Reg) (ma mb : Bool)  -- R243
  | amoaddD (d a b : Reg) (ma mb : Bool)  -- R243
  | amoaddWAcq (d a b : Reg) (ma mb : Bool)  -- R243
  | amoaddDAcq (d a b : Reg) (ma mb : Bool)  -- R243
  | amoaddWRel (d a b : Reg) (ma mb : Bool)  -- R243
  | amoaddDRel (d a b : Reg) (ma mb : Bool)  -- R243
  | amoaddWSc (d a b : Reg) (ma mb : Bool)  -- R243
  | amoaddDSc (d a b : Reg) (ma mb : Bool)  -- R243
  | amoandW (d a b : Reg) (ma mb : Bool)  -- R243
  | amoandD (d a b : Reg) (ma mb : Bool)  -- R243
  | amoandWAcq (d a b : Reg) (ma mb : Bool)  -- R243
  | amoandDAcq (d a b : Reg) (ma mb : Bool)  -- R243
  | amoandWRel (d a b : Reg) (ma mb : Bool)  -- R243
  | amoandDRel (d a b : Reg) (ma mb : Bool)  -- R243
  | amoandWSc (d a b : Reg) (ma mb : Bool)  -- R243
  | amoandDSc (d a b : Reg) (ma mb : Bool)  -- R243
  | amoorW (d a b : Reg) (ma mb : Bool)  -- R243
  | amoorD (d a b : Reg) (ma mb : Bool)  -- R243
  | amoorWAcq (d a b : Reg) (ma mb : Bool)  -- R243
  | amoorDAcq (d a b : Reg) (ma mb : Bool)  -- R243
  | amoorWRel (d a b : Reg) (ma mb : Bool)  -- R243
  | amoorDRel (d a b : Reg) (ma mb : Bool)  -- R243
  | amoorWSc (d a b : Reg) (ma mb : Bool)  -- R243
  | amoorDSc (d a b : Reg) (ma mb : Bool)  -- R243
  | amoxorW (d a b : Reg) (ma mb : Bool)  -- R243
  | amoxorD (d a b : Reg) (ma mb : Bool)  -- R243
  | amoxorWAcq (d a b : Reg) (ma mb : Bool)  -- R243
  | amoxorDAcq (d a b : Reg) (ma mb : Bool)  -- R243
  | amoxorWRel (d a b : Reg) (ma mb : Bool)  -- R243
  | amoxorDRel (d a b : Reg) (ma mb : Bool)  -- R243
  | amoxorWSc (d a b : Reg) (ma mb : Bool)  -- R243
  | amoxorDSc (d a b : Reg) (ma mb : Bool)  -- R243
  | amominW (d a b : Reg) (ma mb : Bool)  -- R243
  | amominD (d a b : Reg) (ma mb : Bool)  -- R243
  | amominWAcq (d a b : Reg) (ma mb : Bool)  -- R243
  | amominDAcq (d a b : Reg) (ma mb : Bool)  -- R243
  | amominWRel (d a b : Reg) (ma mb : Bool)  -- R243
  | amominDRel (d a b : Reg) (ma mb : Bool)  -- R243
  | amominWSc (d a b : Reg) (ma mb : Bool)  -- R243
  | amominDSc (d a b : Reg) (ma mb : Bool)  -- R243
  | amomaxW (d a b : Reg) (ma mb : Bool)  -- R243
  | amomaxD (d a b : Reg) (ma mb : Bool)  -- R243
  | amomaxWAcq (d a b : Reg) (ma mb : Bool)  -- R243
  | amomaxDAcq (d a b : Reg) (ma mb : Bool)  -- R243
  | amomaxWRel (d a b : Reg) (ma mb : Bool)  -- R243
  | amomaxDRel (d a b : Reg) (ma mb : Bool)  -- R243
  | amomaxWSc (d a b : Reg) (ma mb : Bool)  -- R243
  | amomaxDSc (d a b : Reg) (ma mb : Bool)  -- R243
  | amoswapW (d a b : Reg) (ma mb : Bool)  -- R243
  | amoswapD (d a b : Reg) (ma mb : Bool)  -- R243
  | amoswapWAcq (d a b : Reg) (ma mb : Bool)  -- R243
  | amoswapDAcq (d a b : Reg) (ma mb : Bool)  -- R243
  | amoswapWRel (d a b : Reg) (ma mb : Bool)  -- R243
  | amoswapDRel (d a b : Reg) (ma mb : Bool)  -- R243
  | amoswapWSc (d a b : Reg) (ma mb : Bool)  -- R243
  | amoswapDSc (d a b : Reg) (ma mb : Bool)  -- R243
  | amofaddW (d a b : Reg) (ma mb : Bool)  -- R244
  | amofaddD (d a b : Reg) (ma mb : Bool)  -- R244
  | amofaddWAcq (d a b : Reg) (ma mb : Bool)  -- R244
  | amofaddDAcq (d a b : Reg) (ma mb : Bool)  -- R244
  | amofaddWRel (d a b : Reg) (ma mb : Bool)  -- R244
  | amofaddDRel (d a b : Reg) (ma mb : Bool)  -- R244
  | amofaddWSc (d a b : Reg) (ma mb : Bool)  -- R244
  | amofaddDSc (d a b : Reg) (ma mb : Bool)  -- R244
  | amocasW (d a b c : Reg) (mq : Bool)  -- R245
  | amocasD (d a b c : Reg) (mq : Bool)  -- R245
  | amocasWAcq (d a b c : Reg) (mq : Bool)  -- R245
  | amocasDAcq (d a b c : Reg) (mq : Bool)  -- R245
  | amocasWRel (d a b c : Reg) (mq : Bool)  -- R245
  | amocasDRel (d a b c : Reg) (mq : Bool)  -- R245
  | amocasWSc (d a b c : Reg) (mq : Bool)  -- R245
  | amocasDSc (d a b c : Reg) (mq : Bool)  -- R245
  | fence (scope : BitVec 3) (kind : BitVec 4)  -- R87
  | fenceLoop  -- R90
  | femark (d a : Reg) (ma : Bool)  -- R249
  | fewait (a : Reg) (ma : Bool)  -- R250
  | ctlrd (d : Reg) (imm : BitVec 12)  -- R251
  | ctlwr (d a : Reg) (imm : BitVec 12) (ma : Bool)  -- R251
  | ctlset (d a : Reg) (imm : BitVec 12) (ma : Bool)  -- R251
  | ctlclr (d a : Reg) (imm : BitVec 12) (ma : Bool)  -- R251
  | faddS (d a b : Reg) (ma mb : Bool)  -- R253
  | fsubS (d a b : Reg) (ma mb : Bool)  -- R253
  | fmulS (d a b : Reg) (ma mb : Bool)  -- R253
  | fdivS (d a b : Reg) (ma mb : Bool)  -- R253
  | fsqrtS (d a : Reg) (ma : Bool)  -- R253
  | fminS (d a b : Reg) (ma mb : Bool)  -- R254
  | fmaxS (d a b : Reg) (ma mb : Bool)  -- R254
  | fcmpEqS (d a b : Reg) (ma mb : Bool)  -- R254
  | fcmpLtS (d a b : Reg) (ma mb : Bool)  -- R254
  | fcmpLeS (d a b : Reg) (ma mb : Bool)  -- R254
  | fclassS (d a : Reg) (ma : Bool)  -- R254
  | fsgnjS (d a b : Reg) (ma mb : Bool)  -- R253
  | fsgnjnS (d a b : Reg) (ma mb : Bool)  -- R253
  | fsgnjxS (d a b : Reg) (ma mb : Bool)  -- R253
  | fmvXS (d a : Reg) (ma : Bool)  -- R253
  | fmvFS (d a : Reg) (ma : Bool)  -- R253
  | faddD (d a b : Reg) (ma mb : Bool)  -- R253
  | fsubD (d a b : Reg) (ma mb : Bool)  -- R253
  | fmulD (d a b : Reg) (ma mb : Bool)  -- R253
  | fdivD (d a b : Reg) (ma mb : Bool)  -- R253
  | fsqrtD (d a : Reg) (ma : Bool)  -- R253
  | fminD (d a b : Reg) (ma mb : Bool)  -- R254
  | fmaxD (d a b : Reg) (ma mb : Bool)  -- R254
  | fcmpEqD (d a b : Reg) (ma mb : Bool)  -- R254
  | fcmpLtD (d a b : Reg) (ma mb : Bool)  -- R254
  | fcmpLeD (d a b : Reg) (ma mb : Bool)  -- R254
  | fclassD (d a : Reg) (ma : Bool)  -- R254
  | fsgnjD (d a b : Reg) (ma mb : Bool)  -- R253
  | fsgnjnD (d a b : Reg) (ma mb : Bool)  -- R253
  | fsgnjxD (d a b : Reg) (ma mb : Bool)  -- R253
  | fmvXD (d a : Reg) (ma : Bool)  -- R253
  | fmvFD (d a : Reg) (ma : Bool)  -- R253
  | fcvtSD (d a : Reg) (ma : Bool)  -- R255
  | fcvtLD (d a : Reg) (ma : Bool)  -- R255
  | fcvtLuD (d a : Reg) (ma : Bool)  -- R255
  | fcvtDS (d a : Reg) (ma : Bool)  -- R255
  | fcvtLS (d a : Reg) (ma : Bool)  -- R255
  | fcvtLuS (d a : Reg) (ma : Bool)  -- R255
  | fcvtDL (d a : Reg) (ma : Bool)  -- R255
  | fcvtSL (d a : Reg) (ma : Bool)  -- R255
  | fcvtLuL (d a : Reg) (ma : Bool)  -- R255
  | fcvtDLu (d a : Reg) (ma : Bool)  -- R255
  | fcvtSLu (d a : Reg) (ma : Bool)  -- R255
  | fcvtLLu (d a : Reg) (ma : Bool)  -- R255
  | fmaS (d a b c : Reg) (mq : Bool)  -- R256
  | fmaD (d a b c : Reg) (mq : Bool)  -- R256
  | spawn (d a b : Reg) (ma mb : Bool)  -- R260
  | joinw (d a : Reg) (ma : Bool)  -- R261
  | jdec (a b : Reg) (ma mb : Bool)  -- R262
  | done (a : Reg) (ma : Bool)  -- R263
  | yield  -- R264
  | susp (a : Reg) (ma : Bool)  -- R264
  | stealctl (d a : Reg) (ma : Bool)  -- R259
  | mbq (d a : Reg) (ma : Bool)  -- R265
  | send (a b : Reg) (chan : BitVec 8) (ma mb : Bool)  -- R267
  | reply (b : Reg) (chan : BitVec 8) (mb : Bool)  -- R268
  | chset (a b : Reg) (chan : BitVec 8) (ma mb : Bool)  -- R269
  | chblk (a : Reg) (chan : BitVec 8) (ma : Bool)  -- R272
  | chunblk (a : Reg) (chan : BitVec 8) (ma : Bool)  -- R272
  | barriv (a : Reg) (ma : Bool)  -- R274
  | barwait (d a b : Reg) (ma mb : Bool)  -- R275
  | cdef (a b : Reg) (ma mb : Bool)  -- R279
  | cbind (a b : Reg) (ma mb : Bool)  -- R279
  | cunbind (a : Reg) (ma : Bool)  -- R279
  | cst (a b : Reg) (ma mb : Bool)  -- R280
  | csnap (d a : Reg) (ma : Bool)  -- R281
  | cld (d a b : Reg) (ma mb : Bool)  -- R282
  | commit (d : Reg)  -- R144
  | abandon (d : Reg)  -- R159
  | cstat (d a : Reg) (ma : Bool)  -- R284
  | vadd (d a b : Reg) (ma mb : Bool)  -- R297
  | vsub (d a b : Reg) (ma mb : Bool)  -- R297
  | vmul (d a b : Reg) (ma mb : Bool)  -- R297
  | vmax (d a b : Reg) (ma mb : Bool)  -- R297
  | vmin (d a b : Reg) (ma mb : Bool)  -- R297
  | vabs (d a : Reg) (ma : Bool)  -- R297
  | vneg (d a : Reg) (ma : Bool)  -- R297
  | vcvt (d a : Reg) (ma : Bool)  -- R297
  | vred (d a : Reg) (ma : Bool)  -- R298
  | vcmp (d a b : Reg) (ma mb : Bool)  -- R297
  | vmov (d a : Reg) (ma : Bool)  -- R297
  | vshf (d a b : Reg) (ma mb : Bool)  -- R299
  | vwait  -- R295
  | vfma (d a b c : Reg) (mq : Bool)  -- R297
  | vsel (d a b c : Reg) (mq : Bool)  -- R297
  | vexp (d a : Reg) (ma : Bool)  -- R300
  | vlog (d a : Reg) (ma : Bool)  -- R300
  | vrcp (d a : Reg) (ma : Bool)  -- R300
  | vrsq (d a : Reg) (ma : Bool)  -- R300
  | vtanh (d a : Reg) (ma : Bool)  -- R300
  | vsigm (d a : Reg) (ma : Bool)  -- R300
  | vexpA (d a : Reg) (ma : Bool)  -- R226
  | vlogA (d a : Reg) (ma : Bool)  -- R226
  | vrcpA (d a : Reg) (ma : Bool)  -- R226
  | vrsqA (d a : Reg) (ma : Bool)  -- R226
  | vtanhA (d a : Reg) (ma : Bool)  -- R226
  | vsigmA (d a : Reg) (ma : Bool)  -- R226
  | mand (d a b : Reg) (ma mb : Bool)  -- R302
  | mor (d a b : Reg) (ma mb : Bool)  -- R302
  | mxor (d a b : Reg) (ma mb : Bool)  -- R302
  | mnot (d a : Reg) (ma : Bool)  -- R302
  | mshl (d a b : Reg) (ma mb : Bool)  -- R302
  | mshr (d a b : Reg) (ma mb : Bool)  -- R302
  | mpop (d a : Reg) (ma : Bool)  -- R302
  | mmovMX (d a : Reg) (ma : Bool)  -- R302
  | mmovXM (d a : Reg) (ma : Bool)  -- R302
  | mmovMM (d a : Reg) (ma : Bool)  -- R302
  | enqM (d a b : Reg) (ma mb q3 : Bool)  -- R204
  | enqV (d a b : Reg) (ma mb : Bool)  -- R204
  | enqC (d a b : Reg) (ma mb : Bool)  -- R204
  | qmig (d a : Reg) (ma : Bool)  -- R323
  | publ (a : Reg) (ma : Bool)  -- R341
  | wmrd (d a : Reg) (ma : Bool)  -- R342
  | baddq (a b : Reg) (ma mb : Bool)  -- R346
  | bqtake (d a : Reg) (ma : Bool)  -- R344
  | ddvar (d a : Reg) (ma : Bool)  -- R361
  | ddrestrict (d a b : Reg) (ma mb : Bool)  -- R363
  | ddexist (d a b : Reg) (ma mb : Bool)  -- R363
  | ddcount (d a b : Reg) (ma mb : Bool)  -- R364
  | ddmask (d a b : Reg) (ma mb : Bool)  -- R365
  | ddref (a : Reg) (ma : Bool)  -- R366
  | ddderef (a : Reg) (ma : Bool)  -- R366
  | ddswap (d a : Reg) (ma : Bool)  -- R368
  | ddcollect (d : Reg)  -- R367
  | ddstat (d a : Reg) (ma : Bool)  -- R369
  | ddinit (a : Reg) (ma : Bool)  -- R370
  | ddapply (d a b : Reg) (op : BitVec 4) (ma mb : Bool)  -- R362
  | ddite (d a b c : Reg) (mq : Bool)  -- R362
  | ecall (d a : Reg) (ma : Bool)  -- R412
  | halt (a : Reg) (ma : Bool)  -- R413
  | sleep (d a : Reg) (ma : Bool)  -- R414
  | bkpt  -- R417
  | perfrd (d a : Reg) (ma : Bool)  -- R423
  | enrd (d a : Reg) (ma : Bool)  -- R439
  | mmBf16 (core : Nat)  -- R312
  | mmF16 (core : Nat)  -- R312
  | mmE4m3 (core : Nat)  -- R312
  | mmE5m2 (core : Nat)  -- R312
  | mmE4m3e5m2 (core : Nat)  -- R312
  | mmMx4 (core : Nat)  -- R312
  | mmMx6a (core : Nat)  -- R312
  | mmMx6b (core : Nat)  -- R312
  | mmI8 (core : Nat)  -- R312
  | mmT2i8 (core : Nat)  -- R312
  | mloadb (core : Nat)  -- R316
  | mclr (core : Nat)  -- R317
  | mdrain (core : Nat)  -- R318
  | mmask (core : Nat)  -- R319
  | mredb (core : Nat)  -- R321
  | mredbCombine (core : Nat)  -- R321
  | mmbm (core : Nat)  -- R322
  | tcwVadd (core : Nat)  -- R303
  | tcwVsub (core : Nat)  -- R303
  | tcwVmul (core : Nat)  -- R303
  | tcwVmax (core : Nat)  -- R303
  | tcwVmin (core : Nat)  -- R303
  | tcwVabs (core : Nat)  -- R303
  | tcwVneg (core : Nat)  -- R303
  | tcwVcvt (core : Nat)  -- R303
  | tcwVred (core : Nat)  -- R303
  | tcwVcmp (core : Nat)  -- R303
  | tcwVmov (core : Nat)  -- R303
  | tcwVshf (core : Nat)  -- R303
  | tcwVexp (core : Nat)  -- R303
  | tcwVlog (core : Nat)  -- R303
  | tcwVrcp (core : Nat)  -- R303
  | tcwVrsq (core : Nat)  -- R303
  | tcwVtanh (core : Nat)  -- R303
  | tcwVsigm (core : Nat)  -- R303
  | tcwVexpA (core : Nat)  -- R303
  | tcwVlogA (core : Nat)  -- R303
  | tcwVrcpA (core : Nat)  -- R303
  | tcwVrsqA (core : Nat)  -- R303
  | tcwVtanhA (core : Nat)  -- R303
  | tcwVsigmA (core : Nat)  -- R303
  | tcwVfma (core : Nat)  -- R303
  | tcwVsel (core : Nat)  -- R303
  | copy (core : Nat)  -- R333
  | copyx (core : Nat)  -- R333
  | vectorStep (core : Nat) (thread : Nat) (bad : Option Nat)  -- R293
  | chainMigrate (origin target : Nat)  -- R324
  | copyRequest (core op : Nat)  -- R329
  | packetLand (core op pkt : Nat)  -- R330
  | landingHandler (core op pkt : Nat)  -- R334
  | publExchange (core thread : Nat)  -- R95
  | registerFill (uid reg : Nat)  -- R193
  | watchFill (uid reg : Nat)  -- R249
  | pageWalk (core : Nat) (asid : Nat) (va : Nat)  -- R29
  | notificationRecord (die : Nat)  -- R42
  | faultHoldRetry (die : Nat)  -- R46
  | fhReplayHid (die hid : Nat)  -- R44
  | fhKillHid (die hid : Nat)  -- R45
  | fhReplayAsid (die asid : Nat)  -- R44
  | fhKillAsid (die asid : Nat)  -- R45
  | tlbinvPage (die asid va dies size : Nat)  -- R49
  | tlbinvAsid (die asid dies : Nat)  -- R49
  | tlbinvAll (die dies : Nat)  -- R49
  | tlbinvComplete (die : Nat)  -- R50
  | remoteCompletion (req status reason cause : Nat) (data : List (BitVec 8))  -- R36
  | rmaInbound  -- R103
  | uetUnsupported (req : Nat)  -- R427
  | ateAccept (bay : Nat)  -- R70
  | doneMessage (bay : Nat)  -- R172
  | joinWake (core slot : Nat)  -- R261
  | barrierWake (core slot : Nat)  -- R275
  | messageArrival (core : Nat)  -- R177
  | refusalArrival (core : Nat)  -- R181
  | takeWork (core thread : Nat)  -- R163
  | steal (core thread victim : Nat)  -- R169
  | taskQueuePull (asid : Nat)  -- R387
  | windowClose (core : Nat)  -- R184
  | quantumEnd (asid : Nat)  -- R391
  | stvaArrival (home : Nat)  -- R116
  | ldnbArrival (home : Nat)  -- R117
  | homeTick (home : Nat)  -- R118
  | deadlineOutcome (core : Nat)  -- R126
  | twaitWake (core thread : Nat)  -- R123
  | sleepWake (core thread : Nat)  -- R414
  | timeExchange (die : Nat) (ok : Bool) (out : Nat) (back : Nat) (turn : Nat)  -- R106
  | ptpMessage (kind : Nat) (port : Nat) (domain : Nat) (seq : Nat) (source : Nat) (origin : Nat) (twoStep : Bool) (rank : List Nat)  -- R112
  | syncInterval  -- R114
  | announceTimeout  -- R114
  | genClose (asid : Nat)  -- R144
  | formulaHandout (asid : Nat)  -- R146
  | publicationAck (asid who : Nat)  -- R149
  | publication (asid : Nat)  -- R149
  | snapBind (uid slot : Nat)  -- R150
  | snapwaitExpiry (asid : Nat)  -- R155
  | dispatchSelection (asid : Nat)  -- R383
  | kick (asid qid tail : Nat)  -- R377
  | queueMap (asid slot qcb : Nat)  -- R379
  | queueUnmap (asid slot : Nat)  -- R379
  | launchStart  -- R372
  | launchEnd (asid : Nat)  -- R413
  | unitStop (core thread : Nat)  -- R397
  | stopRecord (die : Nat)  -- R398
  | cxcmdResume (die slot : Nat)  -- R403
  | cxcmdResumeOn (die slot lcore asid : Nat)  -- R403
  | cxcmdDiscard (die slot : Nat)  -- R403
  | cxcmdReleaseHandler (die slot : Nat)  -- R404
  | cxcmdDropMessage (die slot : Nat)  -- R404
  | cxcmdDeschedule (die asid lcore thread : Nat)  -- R407
  | cxcmdMigrate (die asid lcore target : Nat)  -- R408
  | cxcmdClearScarf (die target : Nat)  -- R409
  | migrationComplete (core : Nat) (ok : Bool)  -- R408
  | scarfForward (core : Nat)  -- R25
  | doubleFault (sc scause scode : Nat) (stval saddr : BitVec 64)  -- R406
  | dfcauseRead (sc : Nat)  -- R406
  | watchdog (asid : Nat)  -- R411
  | monitorSample (asid mon value : Nat)  -- R424
  | monitorClr (asid mon : Nat)  -- R424
  | trccfgWrite (asid : Nat) (value : BitVec 64)  -- R421
  | scrubRead (die granule : Nat)  -- R74
  | eccstatClr (die : Nat)  -- R75
  | apxmonClr (core : Nat)  -- R227
  | dqcfgWrite (core : Nat) (value : BitVec 64)  -- R167
  | mbcfgWrite (core : Nat) (value : BitVec 64)  -- R176
  | rfcfgWrite (core : Nat) (value : BitVec 64)  -- R182
  | ddordWrite (asid n : Nat) (value : BitVec 64)  -- R352
  | ddlimWrite (asid : Nat) (value : BitVec 64)  -- R353
  | registerWrite (addr value : BitVec 64)  -- R12
  | powerEval (die pkgW pkgA dieA dieT : Nat)  -- R436
  | energyUpdate (asid coreUj totalUj : Nat)  -- R438
  | powerOn  -- R430
  | rstcmd  -- R430
  | ready  -- R431
  | startFailure (why : Nat)  -- R431
  | sessionOpen (ifaces : List (Nat × Nat × Nat))  -- R428
  | sessionClose (session : Nat)  -- R428
  | quote (session : Nat) (nonce : List (BitVec 8))  -- R433
  | extend (session : Nat) (i : Nat) (digest : List (BitVec 8))  -- R433
  | clearFails (session : Nat)  -- R432
  | imageSlotWrite (session : Nat) (slot : Nat) (offset : Nat) (bytes : List (BitVec 8))  -- R432
  | i3cStatus (watts temp : Nat)  -- R429
  | i3cTemps (t0 t1 t2 t3 : Nat)  -- R429
  | i3cSetcap (watts : Nat)  -- R429
  | i3cSetfloor (arg : BitVec 8)  -- R429
  | i3cReset (arg : BitVec 8)  -- R429
  | i3cBootsel (arg : BitVec 8)  -- R429
  | i3cUnknownCommand  -- R429
  | i3cPrivateRead  -- R429
  | i3cHdrEntry  -- R429
  | entdaa (addr : Nat)  -- R429
  | setdasa (addr : Nat)  -- R429
  | rstdaa  -- R429
  | enec  -- R429
  | disec  -- R429
  | setmwl (len : Nat)  -- R429
  | setmrl (len : Nat)  -- R429
  | getpid  -- R429
  | getbcr  -- R429
  | getdcr  -- R429
  | getstatus  -- R429
  | getmwl  -- R429
  | getmrl  -- R429
  | rstact (action : Nat)  -- R429
  | cccUnsupported (code : Nat)  -- R429
  | systemCoreAccess (sc : Nat) (write : Bool) (addr : BitVec 64) (size : Nat) (value : BitVec 64)  -- R30
  | externalDisciplineRequest (session : Nat) (port : Nat) (domain : Nat) (allowance : Nat)  -- R112
  | i3cHdrExit  -- R429
  | endFrozenLaunch (asid : Nat)  -- R411
deriving DecidableEq, Repr

end Sys2Proof
end

