-- ==== Sys2Proof/WellFormed.lean ====
section
/-! DEFINITION. Well-formed instructions: every register field lies in its file (R191), and the operand ranges that R205 checks
at step 3 hold. -/

namespace Sys2Proof

/-- An f register number: 0 to 31 (R191). -/
def isF (r : Reg) : Bool := r.toNat < 32

/-- An m register number: 0 to 15 (R191). -/
def isM (r : Reg) : Bool := r.toNat < 16

/-- A JOINW or BARWAIT destination: x0 to x5 (R261, R275). -/
def isJoin (r : Reg) : Bool := r.toNat < 6

/-- An assigned scope code (R79, R86). -/
def isScope (s : BitVec 3) : Bool := s.toNat < 6

/-- The operand ranges of R205 step 3. -/
def Instr.wf : Instr → Bool
  | .add _ _ _ _ _ => true
  | .sub _ _ _ _ _ => true
  | .and _ _ _ _ _ => true
  | .or _ _ _ _ _ => true
  | .xor _ _ _ _ _ => true
  | .sll _ _ _ _ _ => true
  | .srl _ _ _ _ _ => true
  | .sra _ _ _ _ _ => true
  | .min _ _ _ _ _ => true
  | .max _ _ _ _ _ => true
  | .minu _ _ _ _ _ => true
  | .maxu _ _ _ _ _ => true
  | .slt _ _ _ _ _ => true
  | .sltu _ _ _ _ _ => true
  | .seq _ _ _ _ _ => true
  | .sne _ _ _ _ _ => true
  | .mul _ _ _ _ _ => true
  | .mulh _ _ _ _ _ => true
  | .mulhu _ _ _ _ _ => true
  | .div _ _ _ _ _ => true
  | .divu _ _ _ _ _ => true
  | .rem _ _ _ _ _ => true
  | .remu _ _ _ _ _ => true
  | .clz _ _ _ => true
  | .ctz _ _ _ => true
  | .popc _ _ _ => true
  | .mkga _ _ _ _ _ => true
  | .gcoord _ => true
  | .addi _ _ _ _ => true
  | .andi _ _ _ _ => true
  | .ori _ _ _ _ => true
  | .xori _ _ _ _ => true
  | .slti _ _ _ _ => true
  | .sltiu _ _ _ _ => true
  | .slli _ _ _ _ => true
  | .srli _ _ _ _ => true
  | .srai _ _ _ _ => true
  | .lui _ _ => true
  | .auipc _ _ => true
  | .jal _ _ => true
  | .jalr _ _ _ _ => true
  | .bfx _ _ _ _ _ => true
  | .bfi _ _ _ _ _ => true
  | .sel _ _ _ _ _ => true
  | .beq _ _ _ _ _ => true
  | .bne _ _ _ _ _ => true
  | .blt _ _ _ _ _ => true
  | .bge _ _ _ _ _ => true
  | .bltu _ _ _ _ _ => true
  | .bgeu _ _ _ _ _ => true
  | .ldB _ _ _ _ => true
  | .ldH _ _ _ _ => true
  | .ldW _ _ _ _ => true
  | .ldD _ _ _ _ => true
  | .ldzB _ _ _ _ => true
  | .ldzH _ _ _ _ => true
  | .ldzW _ _ _ _ => true
  | .ldfW d _ _ _ => isF d
  | .ldfD d _ _ _ => isF d
  | .stB _ _ _ _ _ => true
  | .stH _ _ _ _ _ => true
  | .stW _ _ _ _ _ => true
  | .stD _ _ _ _ _ => true
  | .stfW s _ _ _ _ => isF s
  | .stfD s _ _ _ _ => isF s
  | .ldnbB _ _ _ _ _ => true
  | .ldnbH _ _ _ _ _ => true
  | .ldnbW _ _ _ _ _ => true
  | .ldnbD _ _ _ _ _ => true
  | .twait _ _ => true
  | .stvaB _ _ _ _ => true
  | .stvaH _ _ _ _ => true
  | .stvaW _ _ _ _ => true
  | .stvaD _ _ _ _ => true
  | .amoaddW _ _ _ _ _ => true
  | .amoaddD _ _ _ _ _ => true
  | .amoaddWAcq _ _ _ _ _ => true
  | .amoaddDAcq _ _ _ _ _ => true
  | .amoaddWRel _ _ _ _ _ => true
  | .amoaddDRel _ _ _ _ _ => true
  | .amoaddWSc _ _ _ _ _ => true
  | .amoaddDSc _ _ _ _ _ => true
  | .amoandW _ _ _ _ _ => true
  | .amoandD _ _ _ _ _ => true
  | .amoandWAcq _ _ _ _ _ => true
  | .amoandDAcq _ _ _ _ _ => true
  | .amoandWRel _ _ _ _ _ => true
  | .amoandDRel _ _ _ _ _ => true
  | .amoandWSc _ _ _ _ _ => true
  | .amoandDSc _ _ _ _ _ => true
  | .amoorW _ _ _ _ _ => true
  | .amoorD _ _ _ _ _ => true
  | .amoorWAcq _ _ _ _ _ => true
  | .amoorDAcq _ _ _ _ _ => true
  | .amoorWRel _ _ _ _ _ => true
  | .amoorDRel _ _ _ _ _ => true
  | .amoorWSc _ _ _ _ _ => true
  | .amoorDSc _ _ _ _ _ => true
  | .amoxorW _ _ _ _ _ => true
  | .amoxorD _ _ _ _ _ => true
  | .amoxorWAcq _ _ _ _ _ => true
  | .amoxorDAcq _ _ _ _ _ => true
  | .amoxorWRel _ _ _ _ _ => true
  | .amoxorDRel _ _ _ _ _ => true
  | .amoxorWSc _ _ _ _ _ => true
  | .amoxorDSc _ _ _ _ _ => true
  | .amominW _ _ _ _ _ => true
  | .amominD _ _ _ _ _ => true
  | .amominWAcq _ _ _ _ _ => true
  | .amominDAcq _ _ _ _ _ => true
  | .amominWRel _ _ _ _ _ => true
  | .amominDRel _ _ _ _ _ => true
  | .amominWSc _ _ _ _ _ => true
  | .amominDSc _ _ _ _ _ => true
  | .amomaxW _ _ _ _ _ => true
  | .amomaxD _ _ _ _ _ => true
  | .amomaxWAcq _ _ _ _ _ => true
  | .amomaxDAcq _ _ _ _ _ => true
  | .amomaxWRel _ _ _ _ _ => true
  | .amomaxDRel _ _ _ _ _ => true
  | .amomaxWSc _ _ _ _ _ => true
  | .amomaxDSc _ _ _ _ _ => true
  | .amoswapW _ _ _ _ _ => true
  | .amoswapD _ _ _ _ _ => true
  | .amoswapWAcq _ _ _ _ _ => true
  | .amoswapDAcq _ _ _ _ _ => true
  | .amoswapWRel _ _ _ _ _ => true
  | .amoswapDRel _ _ _ _ _ => true
  | .amoswapWSc _ _ _ _ _ => true
  | .amoswapDSc _ _ _ _ _ => true
  | .amofaddW _ _ _ _ _ => true
  | .amofaddD _ _ _ _ _ => true
  | .amofaddWAcq _ _ _ _ _ => true
  | .amofaddDAcq _ _ _ _ _ => true
  | .amofaddWRel _ _ _ _ _ => true
  | .amofaddDRel _ _ _ _ _ => true
  | .amofaddWSc _ _ _ _ _ => true
  | .amofaddDSc _ _ _ _ _ => true
  | .amocasW _ _ _ _ _ => true
  | .amocasD _ _ _ _ _ => true
  | .amocasWAcq _ _ _ _ _ => true
  | .amocasDAcq _ _ _ _ _ => true
  | .amocasWRel _ _ _ _ _ => true
  | .amocasDRel _ _ _ _ _ => true
  | .amocasWSc _ _ _ _ _ => true
  | .amocasDSc _ _ _ _ _ => true
  | .fence scope _ => isScope scope
  | .fenceLoop => true
  | .femark _ _ _ => true
  | .fewait _ _ => true
  | .ctlrd _ _ => true
  | .ctlwr _ _ _ _ => true
  | .ctlset _ _ _ _ => true
  | .ctlclr _ _ _ _ => true
  | .faddS d a b _ _ => isF d && isF a && isF b
  | .fsubS d a b _ _ => isF d && isF a && isF b
  | .fmulS d a b _ _ => isF d && isF a && isF b
  | .fdivS d a b _ _ => isF d && isF a && isF b
  | .fsqrtS d a _ => isF d && isF a
  | .fminS d a b _ _ => isF d && isF a && isF b
  | .fmaxS d a b _ _ => isF d && isF a && isF b
  | .fcmpEqS _ a b _ _ => isF a && isF b
  | .fcmpLtS _ a b _ _ => isF a && isF b
  | .fcmpLeS _ a b _ _ => isF a && isF b
  | .fclassS _ a _ => isF a
  | .fsgnjS d a b _ _ => isF d && isF a && isF b
  | .fsgnjnS d a b _ _ => isF d && isF a && isF b
  | .fsgnjxS d a b _ _ => isF d && isF a && isF b
  | .fmvXS _ a _ => isF a
  | .fmvFS d _ _ => isF d
  | .faddD d a b _ _ => isF d && isF a && isF b
  | .fsubD d a b _ _ => isF d && isF a && isF b
  | .fmulD d a b _ _ => isF d && isF a && isF b
  | .fdivD d a b _ _ => isF d && isF a && isF b
  | .fsqrtD d a _ => isF d && isF a
  | .fminD d a b _ _ => isF d && isF a && isF b
  | .fmaxD d a b _ _ => isF d && isF a && isF b
  | .fcmpEqD _ a b _ _ => isF a && isF b
  | .fcmpLtD _ a b _ _ => isF a && isF b
  | .fcmpLeD _ a b _ _ => isF a && isF b
  | .fclassD _ a _ => isF a
  | .fsgnjD d a b _ _ => isF d && isF a && isF b
  | .fsgnjnD d a b _ _ => isF d && isF a && isF b
  | .fsgnjxD d a b _ _ => isF d && isF a && isF b
  | .fmvXD _ a _ => isF a
  | .fmvFD d _ _ => isF d
  | .fcvtSD d a _ => isF d && isF a
  | .fcvtLD _ a _ => isF a
  | .fcvtLuD _ a _ => isF a
  | .fcvtDS d a _ => isF d && isF a
  | .fcvtLS _ a _ => isF a
  | .fcvtLuS _ a _ => isF a
  | .fcvtDL d _ _ => isF d
  | .fcvtSL d _ _ => isF d
  | .fcvtLuL _ _ _ => true
  | .fcvtDLu d _ _ => isF d
  | .fcvtSLu d _ _ => isF d
  | .fcvtLLu _ _ _ => true
  | .fmaS d a b c _ => isF d && isF a && isF b && isF c
  | .fmaD d a b c _ => isF d && isF a && isF b && isF c
  | .spawn _ _ _ _ _ => true
  | .joinw d _ _ => isJoin d
  | .jdec _ _ _ _ => true
  | .done _ _ => true
  | .yield => true
  | .susp _ _ => true
  | .stealctl _ _ _ => true
  | .mbq _ _ _ => true
  | .send _ _ _ _ _ => true
  | .reply _ _ _ => true
  | .chset _ _ _ _ _ => true
  | .chblk _ _ _ => true
  | .chunblk _ _ _ => true
  | .barriv _ _ => true
  | .barwait d _ _ _ _ => isJoin d
  | .cdef _ _ _ _ => true
  | .cbind _ _ _ _ => true
  | .cunbind _ _ => true
  | .cst _ _ _ _ => true
  | .csnap _ _ _ => true
  | .cld _ _ _ _ _ => true
  | .commit _ => true
  | .abandon _ => true
  | .cstat _ _ _ => true
  | .vadd _ _ _ _ _ => true
  | .vsub _ _ _ _ _ => true
  | .vmul _ _ _ _ _ => true
  | .vmax _ _ _ _ _ => true
  | .vmin _ _ _ _ _ => true
  | .vabs _ _ _ => true
  | .vneg _ _ _ => true
  | .vcvt _ _ _ => true
  | .vred _ _ _ => true
  | .vcmp _ _ _ _ _ => true
  | .vmov _ _ _ => true
  | .vshf _ _ _ _ _ => true
  | .vwait => true
  | .vfma _ _ _ _ _ => true
  | .vsel _ _ _ c _ => isM c
  | .vexp _ _ _ => true
  | .vlog _ _ _ => true
  | .vrcp _ _ _ => true
  | .vrsq _ _ _ => true
  | .vtanh _ _ _ => true
  | .vsigm _ _ _ => true
  | .vexpA _ _ _ => true
  | .vlogA _ _ _ => true
  | .vrcpA _ _ _ => true
  | .vrsqA _ _ _ => true
  | .vtanhA _ _ _ => true
  | .vsigmA _ _ _ => true
  | .mand d a b _ _ => isM d && isM a && isM b
  | .mor d a b _ _ => isM d && isM a && isM b
  | .mxor d a b _ _ => isM d && isM a && isM b
  | .mnot d a _ => isM d && isM a
  | .mshl d a _ _ _ => isM d && isM a
  | .mshr d a _ _ _ => isM d && isM a
  | .mpop _ a _ => isM a
  | .mmovMX d _ _ => isM d
  | .mmovXM _ a _ => isM a
  | .mmovMM d a _ => isM d && isM a
  | .enqM _ _ _ _ _ _ => true
  | .enqV _ _ _ _ _ => true
  | .enqC _ _ _ _ _ => true
  | .qmig _ _ _ => true
  | .publ _ _ => true
  | .wmrd _ _ _ => true
  | .baddq _ _ _ _ => true
  | .bqtake _ _ _ => true
  | .ddvar _ _ _ => true
  | .ddrestrict _ _ _ _ _ => true
  | .ddexist _ _ _ _ _ => true
  | .ddcount _ _ _ _ _ => true
  | .ddmask d _ _ _ _ => isM d
  | .ddref _ _ => true
  | .ddderef _ _ => true
  | .ddswap _ _ _ => true
  | .ddcollect _ => true
  | .ddstat _ _ _ => true
  | .ddinit _ _ => true
  | .ddapply _ _ _ _ _ _ => true
  | .ddite _ _ _ _ _ => true
  | .ecall _ _ _ => true
  | .halt _ _ => true
  | .sleep _ _ _ => true
  | .bkpt => true
  | .perfrd _ _ _ => true
  | .enrd _ _ _ => true
  | .mmBf16 _ => true
  | .mmF16 _ => true
  | .mmE4m3 _ => true
  | .mmE5m2 _ => true
  | .mmE4m3e5m2 _ => true
  | .mmMx4 _ => true
  | .mmMx6a _ => true
  | .mmMx6b _ => true
  | .mmI8 _ => true
  | .mmT2i8 _ => true
  | .mloadb _ => true
  | .mclr _ => true
  | .mdrain _ => true
  | .mmask _ => true
  | .mredb _ => true
  | .mredbCombine _ => true
  | .mmbm _ => true
  | .tcwVadd _ => true
  | .tcwVsub _ => true
  | .tcwVmul _ => true
  | .tcwVmax _ => true
  | .tcwVmin _ => true
  | .tcwVabs _ => true
  | .tcwVneg _ => true
  | .tcwVcvt _ => true
  | .tcwVred _ => true
  | .tcwVcmp _ => true
  | .tcwVmov _ => true
  | .tcwVshf _ => true
  | .tcwVexp _ => true
  | .tcwVlog _ => true
  | .tcwVrcp _ => true
  | .tcwVrsq _ => true
  | .tcwVtanh _ => true
  | .tcwVsigm _ => true
  | .tcwVexpA _ => true
  | .tcwVlogA _ => true
  | .tcwVrcpA _ => true
  | .tcwVrsqA _ => true
  | .tcwVtanhA _ => true
  | .tcwVsigmA _ => true
  | .tcwVfma _ => true
  | .tcwVsel _ => true
  | .copy _ => true
  | .copyx _ => true
  | .vectorStep _ _ _ => true
  | .chainMigrate _ _ => true
  | .copyRequest _ _ => true
  | .packetLand _ _ _ => true
  | .landingHandler _ _ _ => true
  | .publExchange _ _ => true
  | .registerFill _ _ => true
  | .watchFill _ _ => true
  | .pageWalk _ _ _ => true
  | .notificationRecord _ => true
  | .faultHoldRetry _ => true
  | .fhReplayHid _ _ => true
  | .fhKillHid _ _ => true
  | .fhReplayAsid _ _ => true
  | .fhKillAsid _ _ => true
  | .tlbinvPage _ _ _ _ _ => true
  | .tlbinvAsid _ _ _ => true
  | .tlbinvAll _ _ => true
  | .tlbinvComplete _ => true
  | .remoteCompletion _ _ _ _ _ => true
  | .rmaInbound => true
  | .uetUnsupported _ => true
  | .ateAccept _ => true
  | .doneMessage _ => true
  | .joinWake _ _ => true
  | .barrierWake _ _ => true
  | .messageArrival _ => true
  | .refusalArrival _ => true
  | .takeWork _ _ => true
  | .steal _ _ _ => true
  | .taskQueuePull _ => true
  | .windowClose _ => true
  | .quantumEnd _ => true
  | .stvaArrival _ => true
  | .ldnbArrival _ => true
  | .homeTick _ => true
  | .deadlineOutcome _ => true
  | .twaitWake _ _ => true
  | .sleepWake _ _ => true
  | .timeExchange _ _ _ _ _ => true
  | .ptpMessage _ _ _ _ _ _ _ _ => true
  | .syncInterval => true
  | .announceTimeout => true
  | .genClose _ => true
  | .formulaHandout _ => true
  | .publicationAck _ _ => true
  | .publication _ => true
  | .snapBind _ _ => true
  | .snapwaitExpiry _ => true
  | .dispatchSelection _ => true
  | .kick _ _ _ => true
  | .queueMap _ _ _ => true
  | .queueUnmap _ _ => true
  | .launchStart => true
  | .launchEnd _ => true
  | .unitStop _ _ => true
  | .stopRecord _ => true
  | .cxcmdResume _ _ => true
  | .cxcmdResumeOn _ _ _ _ => true
  | .cxcmdDiscard _ _ => true
  | .cxcmdReleaseHandler _ _ => true
  | .cxcmdDropMessage _ _ => true
  | .cxcmdDeschedule _ _ _ _ => true
  | .cxcmdMigrate _ _ _ _ => true
  | .cxcmdClearScarf _ _ => true
  | .migrationComplete _ _ => true
  | .scarfForward _ => true
  | .doubleFault _ _ _ _ _ => true
  | .dfcauseRead _ => true
  | .watchdog _ => true
  | .monitorSample _ _ _ => true
  | .monitorClr _ _ => true
  | .trccfgWrite _ _ => true
  | .scrubRead _ _ => true
  | .eccstatClr _ => true
  | .apxmonClr _ => true
  | .dqcfgWrite _ _ => true
  | .mbcfgWrite _ _ => true
  | .rfcfgWrite _ _ => true
  | .ddordWrite _ _ _ => true
  | .ddlimWrite _ _ => true
  | .registerWrite _ _ => true
  | .powerEval _ _ _ _ _ => true
  | .energyUpdate _ _ _ => true
  | .powerOn => true
  | .rstcmd => true
  | .ready => true
  | .startFailure _ => true
  | .sessionOpen _ => true
  | .sessionClose _ => true
  | .quote _ _ => true
  | .extend _ _ _ => true
  | .clearFails _ => true
  | .imageSlotWrite _ _ _ _ => true
  | .i3cStatus _ _ => true
  | .i3cTemps _ _ _ _ => true
  | .i3cSetcap _ => true
  | .i3cSetfloor _ => true
  | .i3cReset _ => true
  | .i3cBootsel _ => true
  | .i3cUnknownCommand => true
  | .i3cPrivateRead => true
  | .i3cHdrEntry => true
  | .entdaa _ => true
  | .setdasa _ => true
  | .rstdaa => true
  | .enec => true
  | .disec => true
  | .setmwl _ => true
  | .setmrl _ => true
  | .getpid => true
  | .getbcr => true
  | .getdcr => true
  | .getstatus => true
  | .getmwl => true
  | .getmrl => true
  | .rstact _ => true
  | .cccUnsupported _ => true
  | .systemCoreAccess _ _ _ _ _ => true
  | .externalDisciplineRequest _ _ _ _ => true
  | .i3cHdrExit => true
  | .endFrozenLaunch _ => true

end Sys2Proof
end

