-- ==== Sys2Proof/Decode.lean ====
section
/-! DEFINITION. Decoding and encoding of the instruction words of R187 to R189 and R197, and of the tile opcodes of R203. The order of
the refusals is that of R205: an unassigned opcode or function is ILLOP, then a field that must be zero or exceeds its file is RSVFLD. -/

namespace Sys2Proof

/-- Bits [lo + n - 1 : lo] of a word. -/
abbrev fld (w : BitVec 32) (lo n : Nat) : BitVec n := w.extractLsb' lo n

/-- Bit n of a word. -/
abbrev bit (w : BitVec 32) (n : Nat) : Bool := w.getLsbD n

/-- An instruction whose unused fields are zero and whose fields fit their files, or RSVFLD (R205, step 3). -/
def checked (zero : Bool) (i : Instr) : Except Cause Instr :=
  if zero && i.wf then .ok i else .error .rsvfld

/-- A word of format F-A: FN, MB, MA, B, A, D, OP (R188). -/
def mkA (fn : BitVec 5) (mb : Bool) (ma : Bool) (b : BitVec 6) (a : BitVec 6) (d : BitVec 6) (op : BitVec 7) : BitVec 32 :=
  fn ++ BitVec.ofBool mb ++ BitVec.ofBool ma ++ b ++ a ++ d ++ op

/-- A word of format F-I: IMM, MA, A, D, OP (R188). -/
def mkI (imm : BitVec 12) (ma : Bool) (a : BitVec 6) (d : BitVec 6) (op : BitVec 7) : BitVec 32 :=
  imm ++ BitVec.ofBool ma ++ a ++ d ++ op

/-- A word of format F-S: IMM[10:5], MS, MA, S, A, IMM[4:0], OP (R188). -/
def mkS (hi : BitVec 6) (ms : Bool) (ma : Bool) (s : BitVec 6) (a : BitVec 6) (lo : BitVec 5) (op : BitVec 7) : BitVec 32 :=
  hi ++ BitVec.ofBool ms ++ BitVec.ofBool ma ++ s ++ a ++ lo ++ op

/-- A word of format F-B: OFF[10:5], MB, MA, B, A, OFF[4:0], OP (R188). -/
def mkB (hi : BitVec 6) (mb : Bool) (ma : Bool) (b : BitVec 6) (a : BitVec 6) (lo : BitVec 5) (op : BitVec 7) : BitVec 32 :=
  hi ++ BitVec.ofBool mb ++ BitVec.ofBool ma ++ b ++ a ++ lo ++ op

/-- A word of format F-J: IMM19, D, OP (R188). -/
def mkJ (imm : BitVec 19) (d : BitVec 6) (op : BitVec 7) : BitVec 32 :=
  imm ++ d ++ op

/-- A word of format F-Q: MQ, C, B, A, D, OP (R188). -/
def mkQ (mq : Bool) (c : BitVec 6) (b : BitVec 6) (a : BitVec 6) (d : BitVec 6) (op : BitVec 7) : BitVec 32 :=
  BitVec.ofBool mq ++ c ++ b ++ a ++ d ++ op

/-- A word of format F-E: FN, Q, MB, MA, B, A, D, OP (R188). -/
def mkE (fn : BitVec 3) (q : BitVec 2) (mb : Bool) (ma : Bool) (b : BitVec 6) (a : BitVec 6) (d : BitVec 6) (op : BitVec 7) : BitVec 32 :=
  fn ++ q ++ BitVec.ofBool mb ++ BitVec.ofBool ma ++ b ++ a ++ d ++ op

/-- A word of format F-M: FN, MB, MA, CHAN, B, A, OP (R188). -/
def mkM (fn : BitVec 3) (mb : Bool) (ma : Bool) (chan : BitVec 8) (b : BitVec 6) (a : BitVec 6) (op : BitVec 7) : BitVec 32 :=
  fn ++ BitVec.ofBool mb ++ BitVec.ofBool ma ++ chan ++ b ++ a ++ op

/-- Major 0x01 (R197). -/
def decode01 (w : BitVec 32) : Except Cause Instr :=
  match fld w 27 5 with
  | 0#5 => checked (true) (.add (fld w 7 6) (fld w 13 6) (fld w 19 6) (bit w 25) (bit w 26))
  | 1#5 => checked (true) (.sub (fld w 7 6) (fld w 13 6) (fld w 19 6) (bit w 25) (bit w 26))
  | 2#5 => checked (true) (.and (fld w 7 6) (fld w 13 6) (fld w 19 6) (bit w 25) (bit w 26))
  | 3#5 => checked (true) (.or (fld w 7 6) (fld w 13 6) (fld w 19 6) (bit w 25) (bit w 26))
  | 4#5 => checked (true) (.xor (fld w 7 6) (fld w 13 6) (fld w 19 6) (bit w 25) (bit w 26))
  | 5#5 => checked (true) (.sll (fld w 7 6) (fld w 13 6) (fld w 19 6) (bit w 25) (bit w 26))
  | 6#5 => checked (true) (.srl (fld w 7 6) (fld w 13 6) (fld w 19 6) (bit w 25) (bit w 26))
  | 7#5 => checked (true) (.sra (fld w 7 6) (fld w 13 6) (fld w 19 6) (bit w 25) (bit w 26))
  | 8#5 => checked (true) (.min (fld w 7 6) (fld w 13 6) (fld w 19 6) (bit w 25) (bit w 26))
  | 9#5 => checked (true) (.max (fld w 7 6) (fld w 13 6) (fld w 19 6) (bit w 25) (bit w 26))
  | 10#5 => checked (true) (.minu (fld w 7 6) (fld w 13 6) (fld w 19 6) (bit w 25) (bit w 26))
  | 11#5 => checked (true) (.maxu (fld w 7 6) (fld w 13 6) (fld w 19 6) (bit w 25) (bit w 26))
  | 12#5 => checked (true) (.slt (fld w 7 6) (fld w 13 6) (fld w 19 6) (bit w 25) (bit w 26))
  | 13#5 => checked (true) (.sltu (fld w 7 6) (fld w 13 6) (fld w 19 6) (bit w 25) (bit w 26))
  | 14#5 => checked (true) (.seq (fld w 7 6) (fld w 13 6) (fld w 19 6) (bit w 25) (bit w 26))
  | 15#5 => checked (true) (.sne (fld w 7 6) (fld w 13 6) (fld w 19 6) (bit w 25) (bit w 26))
  | 16#5 => checked (true) (.mul (fld w 7 6) (fld w 13 6) (fld w 19 6) (bit w 25) (bit w 26))
  | 17#5 => checked (true) (.mulh (fld w 7 6) (fld w 13 6) (fld w 19 6) (bit w 25) (bit w 26))
  | 18#5 => checked (true) (.mulhu (fld w 7 6) (fld w 13 6) (fld w 19 6) (bit w 25) (bit w 26))
  | 19#5 => checked (true) (.div (fld w 7 6) (fld w 13 6) (fld w 19 6) (bit w 25) (bit w 26))
  | 20#5 => checked (true) (.divu (fld w 7 6) (fld w 13 6) (fld w 19 6) (bit w 25) (bit w 26))
  | 21#5 => checked (true) (.rem (fld w 7 6) (fld w 13 6) (fld w 19 6) (bit w 25) (bit w 26))
  | 22#5 => checked (true) (.remu (fld w 7 6) (fld w 13 6) (fld w 19 6) (bit w 25) (bit w 26))
  | 23#5 => checked (!(bit w 26) && (fld w 19 6 == 0)) (.clz (fld w 7 6) (fld w 13 6) (bit w 25))
  | 24#5 => checked (!(bit w 26) && (fld w 19 6 == 0)) (.ctz (fld w 7 6) (fld w 13 6) (bit w 25))
  | 25#5 => checked (!(bit w 26) && (fld w 19 6 == 0)) (.popc (fld w 7 6) (fld w 13 6) (bit w 25))
  | 26#5 => checked (true) (.mkga (fld w 7 6) (fld w 13 6) (fld w 19 6) (bit w 25) (bit w 26))
  | 27#5 => checked (!(bit w 26) && !(bit w 25) && (fld w 19 6 == 0) && (fld w 13 6 == 0)) (.gcoord (fld w 7 6))
  | _ => .error .illop

/-- Major 0x27 (R197). -/
def decode27 (w : BitVec 32) : Except Cause Instr :=
  match fld w 27 5 with
  | 0#5 => checked (true) (.ldnbB (fld w 7 6) (fld w 13 6) (fld w 19 6) (bit w 25) (bit w 26))
  | 1#5 => checked (true) (.ldnbH (fld w 7 6) (fld w 13 6) (fld w 19 6) (bit w 25) (bit w 26))
  | 2#5 => checked (true) (.ldnbW (fld w 7 6) (fld w 13 6) (fld w 19 6) (bit w 25) (bit w 26))
  | 3#5 => checked (true) (.ldnbD (fld w 7 6) (fld w 13 6) (fld w 19 6) (bit w 25) (bit w 26))
  | 4#5 => checked (!(bit w 26) && (fld w 19 6 == 0) && (fld w 7 6 == 0)) (.twait (fld w 13 6) (bit w 25))
  | _ => .error .illop

/-- Major 0x2C (R197). -/
def decode2C (w : BitVec 32) : Except Cause Instr :=
  match fld w 27 5 with
  | 0#5 => checked (true) (.amoaddW (fld w 7 6) (fld w 13 6) (fld w 19 6) (bit w 25) (bit w 26))
  | 1#5 => checked (true) (.amoandW (fld w 7 6) (fld w 13 6) (fld w 19 6) (bit w 25) (bit w 26))
  | 2#5 => checked (true) (.amoorW (fld w 7 6) (fld w 13 6) (fld w 19 6) (bit w 25) (bit w 26))
  | 3#5 => checked (true) (.amoxorW (fld w 7 6) (fld w 13 6) (fld w 19 6) (bit w 25) (bit w 26))
  | 4#5 => checked (true) (.amominW (fld w 7 6) (fld w 13 6) (fld w 19 6) (bit w 25) (bit w 26))
  | 5#5 => checked (true) (.amomaxW (fld w 7 6) (fld w 13 6) (fld w 19 6) (bit w 25) (bit w 26))
  | 6#5 => checked (true) (.amoswapW (fld w 7 6) (fld w 13 6) (fld w 19 6) (bit w 25) (bit w 26))
  | 7#5 => checked (true) (.amofaddW (fld w 7 6) (fld w 13 6) (fld w 19 6) (bit w 25) (bit w 26))
  | _ => .error .illop

/-- Major 0x2D (R197). -/
def decode2D (w : BitVec 32) : Except Cause Instr :=
  match fld w 27 5 with
  | 0#5 => checked (true) (.amoaddD (fld w 7 6) (fld w 13 6) (fld w 19 6) (bit w 25) (bit w 26))
  | 1#5 => checked (true) (.amoandD (fld w 7 6) (fld w 13 6) (fld w 19 6) (bit w 25) (bit w 26))
  | 2#5 => checked (true) (.amoorD (fld w 7 6) (fld w 13 6) (fld w 19 6) (bit w 25) (bit w 26))
  | 3#5 => checked (true) (.amoxorD (fld w 7 6) (fld w 13 6) (fld w 19 6) (bit w 25) (bit w 26))
  | 4#5 => checked (true) (.amominD (fld w 7 6) (fld w 13 6) (fld w 19 6) (bit w 25) (bit w 26))
  | 5#5 => checked (true) (.amomaxD (fld w 7 6) (fld w 13 6) (fld w 19 6) (bit w 25) (bit w 26))
  | 6#5 => checked (true) (.amoswapD (fld w 7 6) (fld w 13 6) (fld w 19 6) (bit w 25) (bit w 26))
  | 7#5 => checked (true) (.amofaddD (fld w 7 6) (fld w 13 6) (fld w 19 6) (bit w 25) (bit w 26))
  | _ => .error .illop

/-- Major 0x2E (R197). -/
def decode2E (w : BitVec 32) : Except Cause Instr :=
  match fld w 27 5 with
  | 0#5 => checked (true) (.amoaddWAcq (fld w 7 6) (fld w 13 6) (fld w 19 6) (bit w 25) (bit w 26))
  | 1#5 => checked (true) (.amoandWAcq (fld w 7 6) (fld w 13 6) (fld w 19 6) (bit w 25) (bit w 26))
  | 2#5 => checked (true) (.amoorWAcq (fld w 7 6) (fld w 13 6) (fld w 19 6) (bit w 25) (bit w 26))
  | 3#5 => checked (true) (.amoxorWAcq (fld w 7 6) (fld w 13 6) (fld w 19 6) (bit w 25) (bit w 26))
  | 4#5 => checked (true) (.amominWAcq (fld w 7 6) (fld w 13 6) (fld w 19 6) (bit w 25) (bit w 26))
  | 5#5 => checked (true) (.amomaxWAcq (fld w 7 6) (fld w 13 6) (fld w 19 6) (bit w 25) (bit w 26))
  | 6#5 => checked (true) (.amoswapWAcq (fld w 7 6) (fld w 13 6) (fld w 19 6) (bit w 25) (bit w 26))
  | 7#5 => checked (true) (.amofaddWAcq (fld w 7 6) (fld w 13 6) (fld w 19 6) (bit w 25) (bit w 26))
  | _ => .error .illop

/-- Major 0x2F (R197). -/
def decode2F (w : BitVec 32) : Except Cause Instr :=
  match fld w 27 5 with
  | 0#5 => checked (true) (.amoaddDAcq (fld w 7 6) (fld w 13 6) (fld w 19 6) (bit w 25) (bit w 26))
  | 1#5 => checked (true) (.amoandDAcq (fld w 7 6) (fld w 13 6) (fld w 19 6) (bit w 25) (bit w 26))
  | 2#5 => checked (true) (.amoorDAcq (fld w 7 6) (fld w 13 6) (fld w 19 6) (bit w 25) (bit w 26))
  | 3#5 => checked (true) (.amoxorDAcq (fld w 7 6) (fld w 13 6) (fld w 19 6) (bit w 25) (bit w 26))
  | 4#5 => checked (true) (.amominDAcq (fld w 7 6) (fld w 13 6) (fld w 19 6) (bit w 25) (bit w 26))
  | 5#5 => checked (true) (.amomaxDAcq (fld w 7 6) (fld w 13 6) (fld w 19 6) (bit w 25) (bit w 26))
  | 6#5 => checked (true) (.amoswapDAcq (fld w 7 6) (fld w 13 6) (fld w 19 6) (bit w 25) (bit w 26))
  | 7#5 => checked (true) (.amofaddDAcq (fld w 7 6) (fld w 13 6) (fld w 19 6) (bit w 25) (bit w 26))
  | _ => .error .illop

/-- Major 0x30 (R197). -/
def decode30 (w : BitVec 32) : Except Cause Instr :=
  match fld w 27 5 with
  | 0#5 => checked (true) (.amoaddWRel (fld w 7 6) (fld w 13 6) (fld w 19 6) (bit w 25) (bit w 26))
  | 1#5 => checked (true) (.amoandWRel (fld w 7 6) (fld w 13 6) (fld w 19 6) (bit w 25) (bit w 26))
  | 2#5 => checked (true) (.amoorWRel (fld w 7 6) (fld w 13 6) (fld w 19 6) (bit w 25) (bit w 26))
  | 3#5 => checked (true) (.amoxorWRel (fld w 7 6) (fld w 13 6) (fld w 19 6) (bit w 25) (bit w 26))
  | 4#5 => checked (true) (.amominWRel (fld w 7 6) (fld w 13 6) (fld w 19 6) (bit w 25) (bit w 26))
  | 5#5 => checked (true) (.amomaxWRel (fld w 7 6) (fld w 13 6) (fld w 19 6) (bit w 25) (bit w 26))
  | 6#5 => checked (true) (.amoswapWRel (fld w 7 6) (fld w 13 6) (fld w 19 6) (bit w 25) (bit w 26))
  | 7#5 => checked (true) (.amofaddWRel (fld w 7 6) (fld w 13 6) (fld w 19 6) (bit w 25) (bit w 26))
  | _ => .error .illop

/-- Major 0x31 (R197). -/
def decode31 (w : BitVec 32) : Except Cause Instr :=
  match fld w 27 5 with
  | 0#5 => checked (true) (.amoaddDRel (fld w 7 6) (fld w 13 6) (fld w 19 6) (bit w 25) (bit w 26))
  | 1#5 => checked (true) (.amoandDRel (fld w 7 6) (fld w 13 6) (fld w 19 6) (bit w 25) (bit w 26))
  | 2#5 => checked (true) (.amoorDRel (fld w 7 6) (fld w 13 6) (fld w 19 6) (bit w 25) (bit w 26))
  | 3#5 => checked (true) (.amoxorDRel (fld w 7 6) (fld w 13 6) (fld w 19 6) (bit w 25) (bit w 26))
  | 4#5 => checked (true) (.amominDRel (fld w 7 6) (fld w 13 6) (fld w 19 6) (bit w 25) (bit w 26))
  | 5#5 => checked (true) (.amomaxDRel (fld w 7 6) (fld w 13 6) (fld w 19 6) (bit w 25) (bit w 26))
  | 6#5 => checked (true) (.amoswapDRel (fld w 7 6) (fld w 13 6) (fld w 19 6) (bit w 25) (bit w 26))
  | 7#5 => checked (true) (.amofaddDRel (fld w 7 6) (fld w 13 6) (fld w 19 6) (bit w 25) (bit w 26))
  | _ => .error .illop

/-- Major 0x32 (R197). -/
def decode32 (w : BitVec 32) : Except Cause Instr :=
  match fld w 27 5 with
  | 0#5 => checked (true) (.amoaddWSc (fld w 7 6) (fld w 13 6) (fld w 19 6) (bit w 25) (bit w 26))
  | 1#5 => checked (true) (.amoandWSc (fld w 7 6) (fld w 13 6) (fld w 19 6) (bit w 25) (bit w 26))
  | 2#5 => checked (true) (.amoorWSc (fld w 7 6) (fld w 13 6) (fld w 19 6) (bit w 25) (bit w 26))
  | 3#5 => checked (true) (.amoxorWSc (fld w 7 6) (fld w 13 6) (fld w 19 6) (bit w 25) (bit w 26))
  | 4#5 => checked (true) (.amominWSc (fld w 7 6) (fld w 13 6) (fld w 19 6) (bit w 25) (bit w 26))
  | 5#5 => checked (true) (.amomaxWSc (fld w 7 6) (fld w 13 6) (fld w 19 6) (bit w 25) (bit w 26))
  | 6#5 => checked (true) (.amoswapWSc (fld w 7 6) (fld w 13 6) (fld w 19 6) (bit w 25) (bit w 26))
  | 7#5 => checked (true) (.amofaddWSc (fld w 7 6) (fld w 13 6) (fld w 19 6) (bit w 25) (bit w 26))
  | _ => .error .illop

/-- Major 0x33 (R197). -/
def decode33 (w : BitVec 32) : Except Cause Instr :=
  match fld w 27 5 with
  | 0#5 => checked (true) (.amoaddDSc (fld w 7 6) (fld w 13 6) (fld w 19 6) (bit w 25) (bit w 26))
  | 1#5 => checked (true) (.amoandDSc (fld w 7 6) (fld w 13 6) (fld w 19 6) (bit w 25) (bit w 26))
  | 2#5 => checked (true) (.amoorDSc (fld w 7 6) (fld w 13 6) (fld w 19 6) (bit w 25) (bit w 26))
  | 3#5 => checked (true) (.amoxorDSc (fld w 7 6) (fld w 13 6) (fld w 19 6) (bit w 25) (bit w 26))
  | 4#5 => checked (true) (.amominDSc (fld w 7 6) (fld w 13 6) (fld w 19 6) (bit w 25) (bit w 26))
  | 5#5 => checked (true) (.amomaxDSc (fld w 7 6) (fld w 13 6) (fld w 19 6) (bit w 25) (bit w 26))
  | 6#5 => checked (true) (.amoswapDSc (fld w 7 6) (fld w 13 6) (fld w 19 6) (bit w 25) (bit w 26))
  | 7#5 => checked (true) (.amofaddDSc (fld w 7 6) (fld w 13 6) (fld w 19 6) (bit w 25) (bit w 26))
  | _ => .error .illop

/-- Major 0x3C: SUB is IMM[11:7] (R189, R248). -/
def decode3C (w : BitVec 32) : Except Cause Instr :=
  match fld w 27 5 with
  | 0#5 => checked (!(bit w 19) && (fld w 13 6 == 0) && (fld w 7 6 == 0)) (.fence (fld w 24 3) (fld w 20 4))
  | 1#5 => checked ((fld w 24 3 == 0) && (fld w 20 4 == 0) && !(bit w 19) && (fld w 13 6 == 0) && (fld w 7 6 == 0)) (.fenceLoop)
  | 2#5 => checked ((fld w 24 3 == 0) && (fld w 20 4 == 0)) (.femark (fld w 7 6) (fld w 13 6) (bit w 19))
  | 3#5 => checked ((fld w 24 3 == 0) && (fld w 20 4 == 0) && (fld w 7 6 == 0)) (.fewait (fld w 13 6) (bit w 19))
  | _ => .error .illop

/-- Major 0x41 (R197). -/
def decode41 (w : BitVec 32) : Except Cause Instr :=
  match fld w 27 5 with
  | 0#5 => checked (true) (.faddS (fld w 7 6) (fld w 13 6) (fld w 19 6) (bit w 25) (bit w 26))
  | 1#5 => checked (true) (.fsubS (fld w 7 6) (fld w 13 6) (fld w 19 6) (bit w 25) (bit w 26))
  | 2#5 => checked (true) (.fmulS (fld w 7 6) (fld w 13 6) (fld w 19 6) (bit w 25) (bit w 26))
  | 3#5 => checked (true) (.fdivS (fld w 7 6) (fld w 13 6) (fld w 19 6) (bit w 25) (bit w 26))
  | 4#5 => checked (!(bit w 26) && (fld w 19 6 == 0)) (.fsqrtS (fld w 7 6) (fld w 13 6) (bit w 25))
  | 5#5 => checked (true) (.fminS (fld w 7 6) (fld w 13 6) (fld w 19 6) (bit w 25) (bit w 26))
  | 6#5 => checked (true) (.fmaxS (fld w 7 6) (fld w 13 6) (fld w 19 6) (bit w 25) (bit w 26))
  | 7#5 => checked (true) (.fcmpEqS (fld w 7 6) (fld w 13 6) (fld w 19 6) (bit w 25) (bit w 26))
  | 8#5 => checked (true) (.fcmpLtS (fld w 7 6) (fld w 13 6) (fld w 19 6) (bit w 25) (bit w 26))
  | 9#5 => checked (true) (.fcmpLeS (fld w 7 6) (fld w 13 6) (fld w 19 6) (bit w 25) (bit w 26))
  | 10#5 => checked (!(bit w 26) && (fld w 19 6 == 0)) (.fclassS (fld w 7 6) (fld w 13 6) (bit w 25))
  | 11#5 => checked (true) (.fsgnjS (fld w 7 6) (fld w 13 6) (fld w 19 6) (bit w 25) (bit w 26))
  | 12#5 => checked (true) (.fsgnjnS (fld w 7 6) (fld w 13 6) (fld w 19 6) (bit w 25) (bit w 26))
  | 13#5 => checked (true) (.fsgnjxS (fld w 7 6) (fld w 13 6) (fld w 19 6) (bit w 25) (bit w 26))
  | 14#5 => checked (!(bit w 26) && (fld w 19 6 == 0)) (.fmvXS (fld w 7 6) (fld w 13 6) (bit w 25))
  | 15#5 => checked (!(bit w 26) && (fld w 19 6 == 0)) (.fmvFS (fld w 7 6) (fld w 13 6) (bit w 25))
  | _ => .error .illop

/-- Major 0x42 (R197). -/
def decode42 (w : BitVec 32) : Except Cause Instr :=
  match fld w 27 5 with
  | 0#5 => checked (true) (.faddD (fld w 7 6) (fld w 13 6) (fld w 19 6) (bit w 25) (bit w 26))
  | 1#5 => checked (true) (.fsubD (fld w 7 6) (fld w 13 6) (fld w 19 6) (bit w 25) (bit w 26))
  | 2#5 => checked (true) (.fmulD (fld w 7 6) (fld w 13 6) (fld w 19 6) (bit w 25) (bit w 26))
  | 3#5 => checked (true) (.fdivD (fld w 7 6) (fld w 13 6) (fld w 19 6) (bit w 25) (bit w 26))
  | 4#5 => checked (!(bit w 26) && (fld w 19 6 == 0)) (.fsqrtD (fld w 7 6) (fld w 13 6) (bit w 25))
  | 5#5 => checked (true) (.fminD (fld w 7 6) (fld w 13 6) (fld w 19 6) (bit w 25) (bit w 26))
  | 6#5 => checked (true) (.fmaxD (fld w 7 6) (fld w 13 6) (fld w 19 6) (bit w 25) (bit w 26))
  | 7#5 => checked (true) (.fcmpEqD (fld w 7 6) (fld w 13 6) (fld w 19 6) (bit w 25) (bit w 26))
  | 8#5 => checked (true) (.fcmpLtD (fld w 7 6) (fld w 13 6) (fld w 19 6) (bit w 25) (bit w 26))
  | 9#5 => checked (true) (.fcmpLeD (fld w 7 6) (fld w 13 6) (fld w 19 6) (bit w 25) (bit w 26))
  | 10#5 => checked (!(bit w 26) && (fld w 19 6 == 0)) (.fclassD (fld w 7 6) (fld w 13 6) (bit w 25))
  | 11#5 => checked (true) (.fsgnjD (fld w 7 6) (fld w 13 6) (fld w 19 6) (bit w 25) (bit w 26))
  | 12#5 => checked (true) (.fsgnjnD (fld w 7 6) (fld w 13 6) (fld w 19 6) (bit w 25) (bit w 26))
  | 13#5 => checked (true) (.fsgnjxD (fld w 7 6) (fld w 13 6) (fld w 19 6) (bit w 25) (bit w 26))
  | 14#5 => checked (!(bit w 26) && (fld w 19 6 == 0)) (.fmvXD (fld w 7 6) (fld w 13 6) (bit w 25))
  | 15#5 => checked (!(bit w 26) && (fld w 19 6 == 0)) (.fmvFD (fld w 7 6) (fld w 13 6) (bit w 25))
  | _ => .error .illop

/-- Major 0x43 (R197). -/
def decode43 (w : BitVec 32) : Except Cause Instr :=
  match fld w 27 5 with
  | 1#5 => checked (!(bit w 26) && (fld w 19 6 == 0)) (.fcvtSD (fld w 7 6) (fld w 13 6) (bit w 25))
  | 2#5 => checked (!(bit w 26) && (fld w 19 6 == 0)) (.fcvtLD (fld w 7 6) (fld w 13 6) (bit w 25))
  | 3#5 => checked (!(bit w 26) && (fld w 19 6 == 0)) (.fcvtLuD (fld w 7 6) (fld w 13 6) (bit w 25))
  | 4#5 => checked (!(bit w 26) && (fld w 19 6 == 0)) (.fcvtDS (fld w 7 6) (fld w 13 6) (bit w 25))
  | 6#5 => checked (!(bit w 26) && (fld w 19 6 == 0)) (.fcvtLS (fld w 7 6) (fld w 13 6) (bit w 25))
  | 7#5 => checked (!(bit w 26) && (fld w 19 6 == 0)) (.fcvtLuS (fld w 7 6) (fld w 13 6) (bit w 25))
  | 8#5 => checked (!(bit w 26) && (fld w 19 6 == 0)) (.fcvtDL (fld w 7 6) (fld w 13 6) (bit w 25))
  | 9#5 => checked (!(bit w 26) && (fld w 19 6 == 0)) (.fcvtSL (fld w 7 6) (fld w 13 6) (bit w 25))
  | 11#5 => checked (!(bit w 26) && (fld w 19 6 == 0)) (.fcvtLuL (fld w 7 6) (fld w 13 6) (bit w 25))
  | 12#5 => checked (!(bit w 26) && (fld w 19 6 == 0)) (.fcvtDLu (fld w 7 6) (fld w 13 6) (bit w 25))
  | 13#5 => checked (!(bit w 26) && (fld w 19 6 == 0)) (.fcvtSLu (fld w 7 6) (fld w 13 6) (bit w 25))
  | 14#5 => checked (!(bit w 26) && (fld w 19 6 == 0)) (.fcvtLLu (fld w 7 6) (fld w 13 6) (bit w 25))
  | _ => .error .illop

/-- Major 0x46 (R197). -/
def decode46 (w : BitVec 32) : Except Cause Instr :=
  match fld w 27 5 with
  | 0#5 => checked (true) (.spawn (fld w 7 6) (fld w 13 6) (fld w 19 6) (bit w 25) (bit w 26))
  | 1#5 => checked (!(bit w 26) && (fld w 19 6 == 0)) (.joinw (fld w 7 6) (fld w 13 6) (bit w 25))
  | 2#5 => checked ((fld w 7 6 == 0)) (.jdec (fld w 13 6) (fld w 19 6) (bit w 25) (bit w 26))
  | 3#5 => checked (!(bit w 26) && (fld w 19 6 == 0) && (fld w 7 6 == 0)) (.done (fld w 13 6) (bit w 25))
  | 4#5 => checked (!(bit w 26) && !(bit w 25) && (fld w 19 6 == 0) && (fld w 13 6 == 0) && (fld w 7 6 == 0)) (.yield)
  | 5#5 => checked (!(bit w 26) && (fld w 19 6 == 0) && (fld w 7 6 == 0)) (.susp (fld w 13 6) (bit w 25))
  | 6#5 => checked (!(bit w 26) && (fld w 19 6 == 0)) (.stealctl (fld w 7 6) (fld w 13 6) (bit w 25))
  | 7#5 => checked (!(bit w 26) && (fld w 19 6 == 0)) (.mbq (fld w 7 6) (fld w 13 6) (bit w 25))
  | _ => .error .illop

/-- Major 0x47 (R197). -/
def decode47 (w : BitVec 32) : Except Cause Instr :=
  match fld w 29 3 with
  | 0#3 => checked (true) (.send (fld w 7 6) (fld w 13 6) (fld w 19 8) (bit w 27) (bit w 28))
  | 1#3 => checked (!(bit w 27) && (fld w 7 6 == 0)) (.reply (fld w 13 6) (fld w 19 8) (bit w 28))
  | 2#3 => checked (true) (.chset (fld w 7 6) (fld w 13 6) (fld w 19 8) (bit w 27) (bit w 28))
  | 3#3 => checked (!(bit w 28) && (fld w 13 6 == 0)) (.chblk (fld w 7 6) (fld w 19 8) (bit w 27))
  | 4#3 => checked (!(bit w 28) && (fld w 13 6 == 0)) (.chunblk (fld w 7 6) (fld w 19 8) (bit w 27))
  | _ => .error .illop

/-- Major 0x48 (R197). -/
def decode48 (w : BitVec 32) : Except Cause Instr :=
  match fld w 27 5 with
  | 0#5 => checked (!(bit w 26) && (fld w 19 6 == 0) && (fld w 7 6 == 0)) (.barriv (fld w 13 6) (bit w 25))
  | 1#5 => checked (true) (.barwait (fld w 7 6) (fld w 13 6) (fld w 19 6) (bit w 25) (bit w 26))
  | _ => .error .illop

/-- Major 0x49 (R197). -/
def decode49 (w : BitVec 32) : Except Cause Instr :=
  match fld w 27 5 with
  | 0#5 => checked ((fld w 7 6 == 0)) (.cdef (fld w 13 6) (fld w 19 6) (bit w 25) (bit w 26))
  | 1#5 => checked ((fld w 7 6 == 0)) (.cbind (fld w 13 6) (fld w 19 6) (bit w 25) (bit w 26))
  | 2#5 => checked (!(bit w 26) && (fld w 19 6 == 0) && (fld w 7 6 == 0)) (.cunbind (fld w 13 6) (bit w 25))
  | 3#5 => checked ((fld w 7 6 == 0)) (.cst (fld w 13 6) (fld w 19 6) (bit w 25) (bit w 26))
  | 4#5 => checked (!(bit w 26) && (fld w 19 6 == 0)) (.csnap (fld w 7 6) (fld w 13 6) (bit w 25))
  | 5#5 => checked (true) (.cld (fld w 7 6) (fld w 13 6) (fld w 19 6) (bit w 25) (bit w 26))
  | 6#5 => checked (!(bit w 26) && !(bit w 25) && (fld w 19 6 == 0) && (fld w 13 6 == 0)) (.commit (fld w 7 6))
  | 7#5 => checked (!(bit w 26) && !(bit w 25) && (fld w 19 6 == 0) && (fld w 13 6 == 0)) (.abandon (fld w 7 6))
  | 8#5 => checked (!(bit w 26) && (fld w 19 6 == 0)) (.cstat (fld w 7 6) (fld w 13 6) (bit w 25))
  | _ => .error .illop

/-- Major 0x4A (R197). -/
def decode4A (w : BitVec 32) : Except Cause Instr :=
  match fld w 27 5 with
  | 0#5 => checked (true) (.vadd (fld w 7 6) (fld w 13 6) (fld w 19 6) (bit w 25) (bit w 26))
  | 1#5 => checked (true) (.vsub (fld w 7 6) (fld w 13 6) (fld w 19 6) (bit w 25) (bit w 26))
  | 2#5 => checked (true) (.vmul (fld w 7 6) (fld w 13 6) (fld w 19 6) (bit w 25) (bit w 26))
  | 3#5 => checked (true) (.vmax (fld w 7 6) (fld w 13 6) (fld w 19 6) (bit w 25) (bit w 26))
  | 4#5 => checked (true) (.vmin (fld w 7 6) (fld w 13 6) (fld w 19 6) (bit w 25) (bit w 26))
  | 5#5 => checked (!(bit w 26) && (fld w 19 6 == 0)) (.vabs (fld w 7 6) (fld w 13 6) (bit w 25))
  | 6#5 => checked (!(bit w 26) && (fld w 19 6 == 0)) (.vneg (fld w 7 6) (fld w 13 6) (bit w 25))
  | 7#5 => checked (!(bit w 26) && (fld w 19 6 == 0)) (.vcvt (fld w 7 6) (fld w 13 6) (bit w 25))
  | 8#5 => checked (!(bit w 26) && (fld w 19 6 == 0)) (.vred (fld w 7 6) (fld w 13 6) (bit w 25))
  | 9#5 => checked (true) (.vcmp (fld w 7 6) (fld w 13 6) (fld w 19 6) (bit w 25) (bit w 26))
  | 10#5 => checked (!(bit w 26) && (fld w 19 6 == 0)) (.vmov (fld w 7 6) (fld w 13 6) (bit w 25))
  | 11#5 => checked (true) (.vshf (fld w 7 6) (fld w 13 6) (fld w 19 6) (bit w 25) (bit w 26))
  | 12#5 => checked (!(bit w 26) && !(bit w 25) && (fld w 19 6 == 0) && (fld w 13 6 == 0) && (fld w 7 6 == 0)) (.vwait)
  | _ => .error .illop

/-- Major 0x4D (R197). -/
noncomputable def decode4D (w : BitVec 32) : Except Cause Instr :=
  match fld w 27 5 with
  | 0#5 => checked (!(bit w 26) && (fld w 19 6 == 0)) (.vexp (fld w 7 6) (fld w 13 6) (bit w 25))
  | 1#5 => checked (!(bit w 26) && (fld w 19 6 == 0)) (.vlog (fld w 7 6) (fld w 13 6) (bit w 25))
  | 2#5 => checked (!(bit w 26) && (fld w 19 6 == 0)) (.vrcp (fld w 7 6) (fld w 13 6) (bit w 25))
  | 3#5 => checked (!(bit w 26) && (fld w 19 6 == 0)) (.vrsq (fld w 7 6) (fld w 13 6) (bit w 25))
  | 4#5 => checked (!(bit w 26) && (fld w 19 6 == 0)) (.vtanh (fld w 7 6) (fld w 13 6) (bit w 25))
  | 5#5 => checked (!(bit w 26) && (fld w 19 6 == 0)) (.vsigm (fld w 7 6) (fld w 13 6) (bit w 25))
  | 8#5 => checked (!(bit w 26) && (fld w 19 6 == 0)) (.vexpA (fld w 7 6) (fld w 13 6) (bit w 25))
  | 9#5 => checked (!(bit w 26) && (fld w 19 6 == 0)) (.vlogA (fld w 7 6) (fld w 13 6) (bit w 25))
  | 10#5 => checked (!(bit w 26) && (fld w 19 6 == 0)) (.vrcpA (fld w 7 6) (fld w 13 6) (bit w 25))
  | 11#5 => checked (!(bit w 26) && (fld w 19 6 == 0)) (.vrsqA (fld w 7 6) (fld w 13 6) (bit w 25))
  | 12#5 => checked (!(bit w 26) && (fld w 19 6 == 0)) (.vtanhA (fld w 7 6) (fld w 13 6) (bit w 25))
  | 13#5 => checked (!(bit w 26) && (fld w 19 6 == 0)) (.vsigmA (fld w 7 6) (fld w 13 6) (bit w 25))
  | _ => .error .illop

/-- Major 0x4E (R197). -/
noncomputable def decode4E (w : BitVec 32) : Except Cause Instr :=
  match fld w 27 5 with
  | 0#5 => checked (true) (.mand (fld w 7 6) (fld w 13 6) (fld w 19 6) (bit w 25) (bit w 26))
  | 1#5 => checked (true) (.mor (fld w 7 6) (fld w 13 6) (fld w 19 6) (bit w 25) (bit w 26))
  | 2#5 => checked (true) (.mxor (fld w 7 6) (fld w 13 6) (fld w 19 6) (bit w 25) (bit w 26))
  | 3#5 => checked (!(bit w 26) && (fld w 19 6 == 0)) (.mnot (fld w 7 6) (fld w 13 6) (bit w 25))
  | 4#5 => checked (true) (.mshl (fld w 7 6) (fld w 13 6) (fld w 19 6) (bit w 25) (bit w 26))
  | 5#5 => checked (true) (.mshr (fld w 7 6) (fld w 13 6) (fld w 19 6) (bit w 25) (bit w 26))
  | 6#5 => checked (!(bit w 26) && (fld w 19 6 == 0)) (.mpop (fld w 7 6) (fld w 13 6) (bit w 25))
  | 7#5 => checked (!(bit w 26) && (fld w 19 6 == 0)) (.mmovMX (fld w 7 6) (fld w 13 6) (bit w 25))
  | 8#5 => checked (!(bit w 26) && (fld w 19 6 == 0)) (.mmovXM (fld w 7 6) (fld w 13 6) (bit w 25))
  | 9#5 => checked (!(bit w 26) && (fld w 19 6 == 0)) (.mmovMM (fld w 7 6) (fld w 13 6) (bit w 25))
  | _ => .error .illop

/-- Major 0x4F (R197): ENQ by its Q field, where queue 3 is the combination of R207, and QMIG. -/
noncomputable def decode4F (w : BitVec 32) : Except Cause Instr :=
  match fld w 29 3 with
  | 0#3 =>
    match fld w 27 2 with
    | 0#2 => checked (true) (.enqM (fld w 7 6) (fld w 13 6) (fld w 19 6) (bit w 25) (bit w 26) false)
    | 1#2 => checked (true) (.enqV (fld w 7 6) (fld w 13 6) (fld w 19 6) (bit w 25) (bit w 26))
    | 2#2 => checked (true) (.enqC (fld w 7 6) (fld w 13 6) (fld w 19 6) (bit w 25) (bit w 26))
    | _ => checked (true) (.enqM (fld w 7 6) (fld w 13 6) (fld w 19 6) (bit w 25) (bit w 26) true)
  | 1#3 => checked ((fld w 27 2 == 0) && !(bit w 26) && (fld w 19 6 == 0)) (.qmig (fld w 7 6) (fld w 13 6) (bit w 25))
  | _ => .error .illop

/-- Major 0x50 (R197). -/
noncomputable def decode50 (w : BitVec 32) : Except Cause Instr :=
  match fld w 27 5 with
  | 0#5 => checked (!(bit w 26) && (fld w 19 6 == 0) && (fld w 7 6 == 0)) (.publ (fld w 13 6) (bit w 25))
  | 1#5 => checked (!(bit w 26) && (fld w 19 6 == 0)) (.wmrd (fld w 7 6) (fld w 13 6) (bit w 25))
  | 2#5 => checked ((fld w 7 6 == 0)) (.baddq (fld w 13 6) (fld w 19 6) (bit w 25) (bit w 26))
  | 3#5 => checked (!(bit w 26) && (fld w 19 6 == 0)) (.bqtake (fld w 7 6) (fld w 13 6) (bit w 25))
  | _ => .error .illop

/-- Major 0x51 (R197). -/
noncomputable def decode51 (w : BitVec 32) : Except Cause Instr :=
  match fld w 27 5 with
  | 0#5 => checked (!(bit w 26) && (fld w 19 6 == 0)) (.ddvar (fld w 7 6) (fld w 13 6) (bit w 25))
  | 1#5 => checked (true) (.ddrestrict (fld w 7 6) (fld w 13 6) (fld w 19 6) (bit w 25) (bit w 26))
  | 2#5 => checked (true) (.ddexist (fld w 7 6) (fld w 13 6) (fld w 19 6) (bit w 25) (bit w 26))
  | 3#5 => checked (true) (.ddcount (fld w 7 6) (fld w 13 6) (fld w 19 6) (bit w 25) (bit w 26))
  | 4#5 => checked (true) (.ddmask (fld w 7 6) (fld w 13 6) (fld w 19 6) (bit w 25) (bit w 26))
  | 5#5 => checked (!(bit w 26) && (fld w 19 6 == 0) && (fld w 7 6 == 0)) (.ddref (fld w 13 6) (bit w 25))
  | 6#5 => checked (!(bit w 26) && (fld w 19 6 == 0) && (fld w 7 6 == 0)) (.ddderef (fld w 13 6) (bit w 25))
  | 7#5 => checked (!(bit w 26) && (fld w 19 6 == 0)) (.ddswap (fld w 7 6) (fld w 13 6) (bit w 25))
  | 8#5 => checked (!(bit w 26) && !(bit w 25) && (fld w 19 6 == 0) && (fld w 13 6 == 0)) (.ddcollect (fld w 7 6))
  | 9#5 => checked (!(bit w 26) && (fld w 19 6 == 0)) (.ddstat (fld w 7 6) (fld w 13 6) (bit w 25))
  | 10#5 => checked (!(bit w 26) && (fld w 19 6 == 0) && (fld w 7 6 == 0)) (.ddinit (fld w 13 6) (bit w 25))
  | _ => if bit w 31 then checked (true) (.ddapply (fld w 7 6) (fld w 13 6) (fld w 19 6) (fld w 27 4) (bit w 25) (bit w 26)) else .error .illop

/-- Major 0x53 (R197). -/
noncomputable def decode53 (w : BitVec 32) : Except Cause Instr :=
  match fld w 27 5 with
  | 0#5 => checked (!(bit w 26) && (fld w 19 6 == 0)) (.ecall (fld w 7 6) (fld w 13 6) (bit w 25))
  | 1#5 => checked (!(bit w 26) && (fld w 19 6 == 0) && (fld w 7 6 == 0)) (.halt (fld w 13 6) (bit w 25))
  | 2#5 => checked (!(bit w 26) && (fld w 19 6 == 0)) (.sleep (fld w 7 6) (fld w 13 6) (bit w 25))
  | 3#5 => checked (!(bit w 26) && !(bit w 25) && (fld w 19 6 == 0) && (fld w 13 6 == 0) && (fld w 7 6 == 0)) (.bkpt)
  | 4#5 => checked (!(bit w 26) && (fld w 19 6 == 0)) (.perfrd (fld w 7 6) (fld w 13 6) (bit w 25))
  | 5#5 => checked (!(bit w 26) && (fld w 19 6 == 0)) (.enrd (fld w 7 6) (fld w 13 6) (bit w 25))
  | _ => .error .illop

/-- The instruction of a word whose major is below 0x4D, or the cause of R205 steps 1 to 3. -/
def decodeLow (w : BitVec 32) : Except Cause Instr :=
  match fld w 0 7 with
  | 0x01#7 => decode01 w
  | 0x02#7 => checked (true) (.addi (fld w 7 6) (fld w 13 6) (fld w 20 12) (bit w 19))
  | 0x03#7 => checked (true) (.andi (fld w 7 6) (fld w 13 6) (fld w 20 12) (bit w 19))
  | 0x04#7 => checked (true) (.ori (fld w 7 6) (fld w 13 6) (fld w 20 12) (bit w 19))
  | 0x05#7 => checked (true) (.xori (fld w 7 6) (fld w 13 6) (fld w 20 12) (bit w 19))
  | 0x06#7 => checked (true) (.slti (fld w 7 6) (fld w 13 6) (fld w 20 12) (bit w 19))
  | 0x07#7 => checked (true) (.sltiu (fld w 7 6) (fld w 13 6) (fld w 20 12) (bit w 19))
  | 0x08#7 => checked ((fld w 26 6 == 0)) (.slli (fld w 7 6) (fld w 13 6) (fld w 20 6) (bit w 19))
  | 0x09#7 => checked ((fld w 26 6 == 0)) (.srli (fld w 7 6) (fld w 13 6) (fld w 20 6) (bit w 19))
  | 0x0A#7 => checked ((fld w 26 6 == 0)) (.srai (fld w 7 6) (fld w 13 6) (fld w 20 6) (bit w 19))
  | 0x0B#7 => checked (true) (.lui (fld w 7 6) (fld w 13 19))
  | 0x0C#7 => checked (true) (.auipc (fld w 7 6) (fld w 13 19))
  | 0x0D#7 => checked (true) (.jal (fld w 7 6) (fld w 13 19))
  | 0x0E#7 => checked (true) (.jalr (fld w 7 6) (fld w 13 6) (fld w 20 12) (bit w 19))
  | 0x0F#7 => checked (true) (.bfx (fld w 7 6) (fld w 13 6) (fld w 20 6) (fld w 26 6) (bit w 19))
  | 0x10#7 => checked (true) (.bfi (fld w 7 6) (fld w 13 6) (fld w 20 6) (fld w 26 6) (bit w 19))
  | 0x11#7 => checked (true) (.sel (fld w 7 6) (fld w 13 6) (fld w 19 6) (fld w 25 6) (bit w 31))
  | 0x12#7 => checked (true) (.beq (fld w 12 6) (fld w 18 6) (fld w 26 6 ++ fld w 7 5) (bit w 24) (bit w 25))
  | 0x13#7 => checked (true) (.bne (fld w 12 6) (fld w 18 6) (fld w 26 6 ++ fld w 7 5) (bit w 24) (bit w 25))
  | 0x14#7 => checked (true) (.blt (fld w 12 6) (fld w 18 6) (fld w 26 6 ++ fld w 7 5) (bit w 24) (bit w 25))
  | 0x15#7 => checked (true) (.bge (fld w 12 6) (fld w 18 6) (fld w 26 6 ++ fld w 7 5) (bit w 24) (bit w 25))
  | 0x16#7 => checked (true) (.bltu (fld w 12 6) (fld w 18 6) (fld w 26 6 ++ fld w 7 5) (bit w 24) (bit w 25))
  | 0x17#7 => checked (true) (.bgeu (fld w 12 6) (fld w 18 6) (fld w 26 6 ++ fld w 7 5) (bit w 24) (bit w 25))
  | 0x18#7 => checked (true) (.ldB (fld w 7 6) (fld w 13 6) (fld w 20 12) (bit w 19))
  | 0x19#7 => checked (true) (.ldH (fld w 7 6) (fld w 13 6) (fld w 20 12) (bit w 19))
  | 0x1A#7 => checked (true) (.ldW (fld w 7 6) (fld w 13 6) (fld w 20 12) (bit w 19))
  | 0x1B#7 => checked (true) (.ldD (fld w 7 6) (fld w 13 6) (fld w 20 12) (bit w 19))
  | 0x1C#7 => checked (true) (.ldzB (fld w 7 6) (fld w 13 6) (fld w 20 12) (bit w 19))
  | 0x1D#7 => checked (true) (.ldzH (fld w 7 6) (fld w 13 6) (fld w 20 12) (bit w 19))
  | 0x1E#7 => checked (true) (.ldzW (fld w 7 6) (fld w 13 6) (fld w 20 12) (bit w 19))
  | 0x1F#7 => checked (true) (.ldfW (fld w 7 6) (fld w 13 6) (fld w 20 12) (bit w 19))
  | 0x20#7 => checked (true) (.ldfD (fld w 7 6) (fld w 13 6) (fld w 20 12) (bit w 19))
  | 0x21#7 => checked (true) (.stB (fld w 18 6) (fld w 12 6) (fld w 26 6 ++ fld w 7 5) (bit w 25) (bit w 24))
  | 0x22#7 => checked (true) (.stH (fld w 18 6) (fld w 12 6) (fld w 26 6 ++ fld w 7 5) (bit w 25) (bit w 24))
  | 0x23#7 => checked (true) (.stW (fld w 18 6) (fld w 12 6) (fld w 26 6 ++ fld w 7 5) (bit w 25) (bit w 24))
  | 0x24#7 => checked (true) (.stD (fld w 18 6) (fld w 12 6) (fld w 26 6 ++ fld w 7 5) (bit w 25) (bit w 24))
  | 0x25#7 => checked (true) (.stfW (fld w 18 6) (fld w 12 6) (fld w 26 6 ++ fld w 7 5) (bit w 25) (bit w 24))
  | 0x26#7 => checked (true) (.stfD (fld w 18 6) (fld w 12 6) (fld w 26 6 ++ fld w 7 5) (bit w 25) (bit w 24))
  | 0x27#7 => decode27 w
  | 0x28#7 => checked ((fld w 7 6 == 0)) (.stvaB (fld w 13 6) (fld w 19 6) (fld w 25 6) (bit w 31))
  | 0x29#7 => checked ((fld w 7 6 == 0)) (.stvaH (fld w 13 6) (fld w 19 6) (fld w 25 6) (bit w 31))
  | 0x2A#7 => checked ((fld w 7 6 == 0)) (.stvaW (fld w 13 6) (fld w 19 6) (fld w 25 6) (bit w 31))
  | 0x2B#7 => checked ((fld w 7 6 == 0)) (.stvaD (fld w 13 6) (fld w 19 6) (fld w 25 6) (bit w 31))
  | 0x2C#7 => decode2C w
  | 0x2D#7 => decode2D w
  | 0x2E#7 => decode2E w
  | 0x2F#7 => decode2F w
  | 0x30#7 => decode30 w
  | 0x31#7 => decode31 w
  | 0x32#7 => decode32 w
  | 0x33#7 => decode33 w
  | 0x34#7 => checked (true) (.amocasW (fld w 7 6) (fld w 13 6) (fld w 19 6) (fld w 25 6) (bit w 31))
  | 0x35#7 => checked (true) (.amocasD (fld w 7 6) (fld w 13 6) (fld w 19 6) (fld w 25 6) (bit w 31))
  | 0x36#7 => checked (true) (.amocasWAcq (fld w 7 6) (fld w 13 6) (fld w 19 6) (fld w 25 6) (bit w 31))
  | 0x37#7 => checked (true) (.amocasDAcq (fld w 7 6) (fld w 13 6) (fld w 19 6) (fld w 25 6) (bit w 31))
  | 0x38#7 => checked (true) (.amocasWRel (fld w 7 6) (fld w 13 6) (fld w 19 6) (fld w 25 6) (bit w 31))
  | 0x39#7 => checked (true) (.amocasDRel (fld w 7 6) (fld w 13 6) (fld w 19 6) (fld w 25 6) (bit w 31))
  | 0x3A#7 => checked (true) (.amocasWSc (fld w 7 6) (fld w 13 6) (fld w 19 6) (fld w 25 6) (bit w 31))
  | 0x3B#7 => checked (true) (.amocasDSc (fld w 7 6) (fld w 13 6) (fld w 19 6) (fld w 25 6) (bit w 31))
  | 0x3C#7 => decode3C w
  | 0x3D#7 => checked (!(bit w 19) && (fld w 13 6 == 0)) (.ctlrd (fld w 7 6) (fld w 20 12))
  | 0x3E#7 => checked (true) (.ctlwr (fld w 7 6) (fld w 13 6) (fld w 20 12) (bit w 19))
  | 0x3F#7 => checked (true) (.ctlset (fld w 7 6) (fld w 13 6) (fld w 20 12) (bit w 19))
  | 0x40#7 => checked (true) (.ctlclr (fld w 7 6) (fld w 13 6) (fld w 20 12) (bit w 19))
  | 0x41#7 => decode41 w
  | 0x42#7 => decode42 w
  | 0x43#7 => decode43 w
  | 0x44#7 => checked (true) (.fmaS (fld w 7 6) (fld w 13 6) (fld w 19 6) (fld w 25 6) (bit w 31))
  | 0x45#7 => checked (true) (.fmaD (fld w 7 6) (fld w 13 6) (fld w 19 6) (fld w 25 6) (bit w 31))
  | 0x46#7 => decode46 w
  | 0x47#7 => decode47 w
  | 0x48#7 => decode48 w
  | 0x49#7 => decode49 w
  | 0x4A#7 => decode4A w
  | 0x4B#7 => checked (true) (.vfma (fld w 7 6) (fld w 13 6) (fld w 19 6) (fld w 25 6) (bit w 31))
  | 0x4C#7 => checked (true) (.vsel (fld w 7 6) (fld w 13 6) (fld w 19 6) (fld w 25 6) (bit w 31))
  | _ => .error .illop

/-- The instruction of a word, or the cause of R205 steps 1 to 3. -/
noncomputable def decode (w : BitVec 32) : Except Cause Instr :=
  match fld w 0 7 with
  | 0x4D#7 => decode4D w
  | 0x4E#7 => decode4E w
  | 0x4F#7 => decode4F w
  | 0x50#7 => decode50 w
  | 0x51#7 => decode51 w
  | 0x52#7 => checked (true) (.ddite (fld w 7 6) (fld w 13 6) (fld w 19 6) (fld w 25 6) (bit w 31))
  | 0x53#7 => decode53 w
  | _ => decodeLow w

/-- The word of an instruction, from the same formats; a tile command and a step of the hardware have no word. -/
def encode : Instr → Option (BitVec 32)
  | .add d a b ma mb => some (mkA 0#5 mb ma b a d 0x01)
  | .sub d a b ma mb => some (mkA 1#5 mb ma b a d 0x01)
  | .and d a b ma mb => some (mkA 2#5 mb ma b a d 0x01)
  | .or d a b ma mb => some (mkA 3#5 mb ma b a d 0x01)
  | .xor d a b ma mb => some (mkA 4#5 mb ma b a d 0x01)
  | .sll d a b ma mb => some (mkA 5#5 mb ma b a d 0x01)
  | .srl d a b ma mb => some (mkA 6#5 mb ma b a d 0x01)
  | .sra d a b ma mb => some (mkA 7#5 mb ma b a d 0x01)
  | .min d a b ma mb => some (mkA 8#5 mb ma b a d 0x01)
  | .max d a b ma mb => some (mkA 9#5 mb ma b a d 0x01)
  | .minu d a b ma mb => some (mkA 10#5 mb ma b a d 0x01)
  | .maxu d a b ma mb => some (mkA 11#5 mb ma b a d 0x01)
  | .slt d a b ma mb => some (mkA 12#5 mb ma b a d 0x01)
  | .sltu d a b ma mb => some (mkA 13#5 mb ma b a d 0x01)
  | .seq d a b ma mb => some (mkA 14#5 mb ma b a d 0x01)
  | .sne d a b ma mb => some (mkA 15#5 mb ma b a d 0x01)
  | .mul d a b ma mb => some (mkA 16#5 mb ma b a d 0x01)
  | .mulh d a b ma mb => some (mkA 17#5 mb ma b a d 0x01)
  | .mulhu d a b ma mb => some (mkA 18#5 mb ma b a d 0x01)
  | .div d a b ma mb => some (mkA 19#5 mb ma b a d 0x01)
  | .divu d a b ma mb => some (mkA 20#5 mb ma b a d 0x01)
  | .rem d a b ma mb => some (mkA 21#5 mb ma b a d 0x01)
  | .remu d a b ma mb => some (mkA 22#5 mb ma b a d 0x01)
  | .clz d a ma => some (mkA 23#5 false ma 0 a d 0x01)
  | .ctz d a ma => some (mkA 24#5 false ma 0 a d 0x01)
  | .popc d a ma => some (mkA 25#5 false ma 0 a d 0x01)
  | .mkga d a b ma mb => some (mkA 26#5 mb ma b a d 0x01)
  | .gcoord d => some (mkA 27#5 false false 0 0 d 0x01)
  | .addi d a imm ma => some (mkI imm ma a d 0x02)
  | .andi d a imm ma => some (mkI imm ma a d 0x03)
  | .ori d a imm ma => some (mkI imm ma a d 0x04)
  | .xori d a imm ma => some (mkI imm ma a d 0x05)
  | .slti d a imm ma => some (mkI imm ma a d 0x06)
  | .sltiu d a imm ma => some (mkI imm ma a d 0x07)
  | .slli d a sh ma => some (mkI (0#6 ++ sh) ma a d 0x08)
  | .srli d a sh ma => some (mkI (0#6 ++ sh) ma a d 0x09)
  | .srai d a sh ma => some (mkI (0#6 ++ sh) ma a d 0x0A)
  | .lui d imm => some (mkJ imm d 0x0B)
  | .auipc d imm => some (mkJ imm d 0x0C)
  | .jal d imm => some (mkJ imm d 0x0D)
  | .jalr d a imm ma => some (mkI imm ma a d 0x0E)
  | .bfx d a pos len ma => some (mkI (len ++ pos) ma a d 0x0F)
  | .bfi d a pos len ma => some (mkI (len ++ pos) ma a d 0x10)
  | .sel d a b c mq => some (mkQ mq c b a d 0x11)
  | .beq a b imm ma mb => some (mkB (imm.extractLsb' 5 6) mb ma b a (imm.extractLsb' 0 5) 0x12)
  | .bne a b imm ma mb => some (mkB (imm.extractLsb' 5 6) mb ma b a (imm.extractLsb' 0 5) 0x13)
  | .blt a b imm ma mb => some (mkB (imm.extractLsb' 5 6) mb ma b a (imm.extractLsb' 0 5) 0x14)
  | .bge a b imm ma mb => some (mkB (imm.extractLsb' 5 6) mb ma b a (imm.extractLsb' 0 5) 0x15)
  | .bltu a b imm ma mb => some (mkB (imm.extractLsb' 5 6) mb ma b a (imm.extractLsb' 0 5) 0x16)
  | .bgeu a b imm ma mb => some (mkB (imm.extractLsb' 5 6) mb ma b a (imm.extractLsb' 0 5) 0x17)
  | .ldB d a imm ma => some (mkI imm ma a d 0x18)
  | .ldH d a imm ma => some (mkI imm ma a d 0x19)
  | .ldW d a imm ma => some (mkI imm ma a d 0x1A)
  | .ldD d a imm ma => some (mkI imm ma a d 0x1B)
  | .ldzB d a imm ma => some (mkI imm ma a d 0x1C)
  | .ldzH d a imm ma => some (mkI imm ma a d 0x1D)
  | .ldzW d a imm ma => some (mkI imm ma a d 0x1E)
  | .ldfW d a imm ma => some (mkI imm ma a d 0x1F)
  | .ldfD d a imm ma => some (mkI imm ma a d 0x20)
  | .stB s a imm ms ma => some (mkS (imm.extractLsb' 5 6) ms ma s a (imm.extractLsb' 0 5) 0x21)
  | .stH s a imm ms ma => some (mkS (imm.extractLsb' 5 6) ms ma s a (imm.extractLsb' 0 5) 0x22)
  | .stW s a imm ms ma => some (mkS (imm.extractLsb' 5 6) ms ma s a (imm.extractLsb' 0 5) 0x23)
  | .stD s a imm ms ma => some (mkS (imm.extractLsb' 5 6) ms ma s a (imm.extractLsb' 0 5) 0x24)
  | .stfW s a imm ms ma => some (mkS (imm.extractLsb' 5 6) ms ma s a (imm.extractLsb' 0 5) 0x25)
  | .stfD s a imm ms ma => some (mkS (imm.extractLsb' 5 6) ms ma s a (imm.extractLsb' 0 5) 0x26)
  | .ldnbB d a b ma mb => some (mkA 0#5 mb ma b a d 0x27)
  | .ldnbH d a b ma mb => some (mkA 1#5 mb ma b a d 0x27)
  | .ldnbW d a b ma mb => some (mkA 2#5 mb ma b a d 0x27)
  | .ldnbD d a b ma mb => some (mkA 3#5 mb ma b a d 0x27)
  | .twait a ma => some (mkA 4#5 false ma 0 a 0 0x27)
  | .stvaB a b c mq => some (mkQ mq c b a 0 0x28)
  | .stvaH a b c mq => some (mkQ mq c b a 0 0x29)
  | .stvaW a b c mq => some (mkQ mq c b a 0 0x2A)
  | .stvaD a b c mq => some (mkQ mq c b a 0 0x2B)
  | .amoaddW d a b ma mb => some (mkA 0#5 mb ma b a d 0x2C)
  | .amoaddD d a b ma mb => some (mkA 0#5 mb ma b a d 0x2D)
  | .amoaddWAcq d a b ma mb => some (mkA 0#5 mb ma b a d 0x2E)
  | .amoaddDAcq d a b ma mb => some (mkA 0#5 mb ma b a d 0x2F)
  | .amoaddWRel d a b ma mb => some (mkA 0#5 mb ma b a d 0x30)
  | .amoaddDRel d a b ma mb => some (mkA 0#5 mb ma b a d 0x31)
  | .amoaddWSc d a b ma mb => some (mkA 0#5 mb ma b a d 0x32)
  | .amoaddDSc d a b ma mb => some (mkA 0#5 mb ma b a d 0x33)
  | .amoandW d a b ma mb => some (mkA 1#5 mb ma b a d 0x2C)
  | .amoandD d a b ma mb => some (mkA 1#5 mb ma b a d 0x2D)
  | .amoandWAcq d a b ma mb => some (mkA 1#5 mb ma b a d 0x2E)
  | .amoandDAcq d a b ma mb => some (mkA 1#5 mb ma b a d 0x2F)
  | .amoandWRel d a b ma mb => some (mkA 1#5 mb ma b a d 0x30)
  | .amoandDRel d a b ma mb => some (mkA 1#5 mb ma b a d 0x31)
  | .amoandWSc d a b ma mb => some (mkA 1#5 mb ma b a d 0x32)
  | .amoandDSc d a b ma mb => some (mkA 1#5 mb ma b a d 0x33)
  | .amoorW d a b ma mb => some (mkA 2#5 mb ma b a d 0x2C)
  | .amoorD d a b ma mb => some (mkA 2#5 mb ma b a d 0x2D)
  | .amoorWAcq d a b ma mb => some (mkA 2#5 mb ma b a d 0x2E)
  | .amoorDAcq d a b ma mb => some (mkA 2#5 mb ma b a d 0x2F)
  | .amoorWRel d a b ma mb => some (mkA 2#5 mb ma b a d 0x30)
  | .amoorDRel d a b ma mb => some (mkA 2#5 mb ma b a d 0x31)
  | .amoorWSc d a b ma mb => some (mkA 2#5 mb ma b a d 0x32)
  | .amoorDSc d a b ma mb => some (mkA 2#5 mb ma b a d 0x33)
  | .amoxorW d a b ma mb => some (mkA 3#5 mb ma b a d 0x2C)
  | .amoxorD d a b ma mb => some (mkA 3#5 mb ma b a d 0x2D)
  | .amoxorWAcq d a b ma mb => some (mkA 3#5 mb ma b a d 0x2E)
  | .amoxorDAcq d a b ma mb => some (mkA 3#5 mb ma b a d 0x2F)
  | .amoxorWRel d a b ma mb => some (mkA 3#5 mb ma b a d 0x30)
  | .amoxorDRel d a b ma mb => some (mkA 3#5 mb ma b a d 0x31)
  | .amoxorWSc d a b ma mb => some (mkA 3#5 mb ma b a d 0x32)
  | .amoxorDSc d a b ma mb => some (mkA 3#5 mb ma b a d 0x33)
  | .amominW d a b ma mb => some (mkA 4#5 mb ma b a d 0x2C)
  | .amominD d a b ma mb => some (mkA 4#5 mb ma b a d 0x2D)
  | .amominWAcq d a b ma mb => some (mkA 4#5 mb ma b a d 0x2E)
  | .amominDAcq d a b ma mb => some (mkA 4#5 mb ma b a d 0x2F)
  | .amominWRel d a b ma mb => some (mkA 4#5 mb ma b a d 0x30)
  | .amominDRel d a b ma mb => some (mkA 4#5 mb ma b a d 0x31)
  | .amominWSc d a b ma mb => some (mkA 4#5 mb ma b a d 0x32)
  | .amominDSc d a b ma mb => some (mkA 4#5 mb ma b a d 0x33)
  | .amomaxW d a b ma mb => some (mkA 5#5 mb ma b a d 0x2C)
  | .amomaxD d a b ma mb => some (mkA 5#5 mb ma b a d 0x2D)
  | .amomaxWAcq d a b ma mb => some (mkA 5#5 mb ma b a d 0x2E)
  | .amomaxDAcq d a b ma mb => some (mkA 5#5 mb ma b a d 0x2F)
  | .amomaxWRel d a b ma mb => some (mkA 5#5 mb ma b a d 0x30)
  | .amomaxDRel d a b ma mb => some (mkA 5#5 mb ma b a d 0x31)
  | .amomaxWSc d a b ma mb => some (mkA 5#5 mb ma b a d 0x32)
  | .amomaxDSc d a b ma mb => some (mkA 5#5 mb ma b a d 0x33)
  | .amoswapW d a b ma mb => some (mkA 6#5 mb ma b a d 0x2C)
  | .amoswapD d a b ma mb => some (mkA 6#5 mb ma b a d 0x2D)
  | .amoswapWAcq d a b ma mb => some (mkA 6#5 mb ma b a d 0x2E)
  | .amoswapDAcq d a b ma mb => some (mkA 6#5 mb ma b a d 0x2F)
  | .amoswapWRel d a b ma mb => some (mkA 6#5 mb ma b a d 0x30)
  | .amoswapDRel d a b ma mb => some (mkA 6#5 mb ma b a d 0x31)
  | .amoswapWSc d a b ma mb => some (mkA 6#5 mb ma b a d 0x32)
  | .amoswapDSc d a b ma mb => some (mkA 6#5 mb ma b a d 0x33)
  | .amofaddW d a b ma mb => some (mkA 7#5 mb ma b a d 0x2C)
  | .amofaddD d a b ma mb => some (mkA 7#5 mb ma b a d 0x2D)
  | .amofaddWAcq d a b ma mb => some (mkA 7#5 mb ma b a d 0x2E)
  | .amofaddDAcq d a b ma mb => some (mkA 7#5 mb ma b a d 0x2F)
  | .amofaddWRel d a b ma mb => some (mkA 7#5 mb ma b a d 0x30)
  | .amofaddDRel d a b ma mb => some (mkA 7#5 mb ma b a d 0x31)
  | .amofaddWSc d a b ma mb => some (mkA 7#5 mb ma b a d 0x32)
  | .amofaddDSc d a b ma mb => some (mkA 7#5 mb ma b a d 0x33)
  | .amocasW d a b c mq => some (mkQ mq c b a d 0x34)
  | .amocasD d a b c mq => some (mkQ mq c b a d 0x35)
  | .amocasWAcq d a b c mq => some (mkQ mq c b a d 0x36)
  | .amocasDAcq d a b c mq => some (mkQ mq c b a d 0x37)
  | .amocasWRel d a b c mq => some (mkQ mq c b a d 0x38)
  | .amocasDRel d a b c mq => some (mkQ mq c b a d 0x39)
  | .amocasWSc d a b c mq => some (mkQ mq c b a d 0x3A)
  | .amocasDSc d a b c mq => some (mkQ mq c b a d 0x3B)
  | .fence scope kind => some (mkI (0#5 ++ scope ++ kind) false 0 0 0x3C)
  | .fenceLoop => some (mkI (1#5 ++ 0#7) false 0 0 0x3C)
  | .femark d a ma => some (mkI (2#5 ++ 0#7) ma a d 0x3C)
  | .fewait a ma => some (mkI (3#5 ++ 0#7) ma a 0 0x3C)
  | .ctlrd d imm => some (mkI imm false 0 d 0x3D)
  | .ctlwr d a imm ma => some (mkI imm ma a d 0x3E)
  | .ctlset d a imm ma => some (mkI imm ma a d 0x3F)
  | .ctlclr d a imm ma => some (mkI imm ma a d 0x40)
  | .faddS d a b ma mb => some (mkA 0#5 mb ma b a d 0x41)
  | .fsubS d a b ma mb => some (mkA 1#5 mb ma b a d 0x41)
  | .fmulS d a b ma mb => some (mkA 2#5 mb ma b a d 0x41)
  | .fdivS d a b ma mb => some (mkA 3#5 mb ma b a d 0x41)
  | .fsqrtS d a ma => some (mkA 4#5 false ma 0 a d 0x41)
  | .fminS d a b ma mb => some (mkA 5#5 mb ma b a d 0x41)
  | .fmaxS d a b ma mb => some (mkA 6#5 mb ma b a d 0x41)
  | .fcmpEqS d a b ma mb => some (mkA 7#5 mb ma b a d 0x41)
  | .fcmpLtS d a b ma mb => some (mkA 8#5 mb ma b a d 0x41)
  | .fcmpLeS d a b ma mb => some (mkA 9#5 mb ma b a d 0x41)
  | .fclassS d a ma => some (mkA 10#5 false ma 0 a d 0x41)
  | .fsgnjS d a b ma mb => some (mkA 11#5 mb ma b a d 0x41)
  | .fsgnjnS d a b ma mb => some (mkA 12#5 mb ma b a d 0x41)
  | .fsgnjxS d a b ma mb => some (mkA 13#5 mb ma b a d 0x41)
  | .fmvXS d a ma => some (mkA 14#5 false ma 0 a d 0x41)
  | .fmvFS d a ma => some (mkA 15#5 false ma 0 a d 0x41)
  | .faddD d a b ma mb => some (mkA 0#5 mb ma b a d 0x42)
  | .fsubD d a b ma mb => some (mkA 1#5 mb ma b a d 0x42)
  | .fmulD d a b ma mb => some (mkA 2#5 mb ma b a d 0x42)
  | .fdivD d a b ma mb => some (mkA 3#5 mb ma b a d 0x42)
  | .fsqrtD d a ma => some (mkA 4#5 false ma 0 a d 0x42)
  | .fminD d a b ma mb => some (mkA 5#5 mb ma b a d 0x42)
  | .fmaxD d a b ma mb => some (mkA 6#5 mb ma b a d 0x42)
  | .fcmpEqD d a b ma mb => some (mkA 7#5 mb ma b a d 0x42)
  | .fcmpLtD d a b ma mb => some (mkA 8#5 mb ma b a d 0x42)
  | .fcmpLeD d a b ma mb => some (mkA 9#5 mb ma b a d 0x42)
  | .fclassD d a ma => some (mkA 10#5 false ma 0 a d 0x42)
  | .fsgnjD d a b ma mb => some (mkA 11#5 mb ma b a d 0x42)
  | .fsgnjnD d a b ma mb => some (mkA 12#5 mb ma b a d 0x42)
  | .fsgnjxD d a b ma mb => some (mkA 13#5 mb ma b a d 0x42)
  | .fmvXD d a ma => some (mkA 14#5 false ma 0 a d 0x42)
  | .fmvFD d a ma => some (mkA 15#5 false ma 0 a d 0x42)
  | .fcvtSD d a ma => some (mkA 1#5 false ma 0 a d 0x43)
  | .fcvtLD d a ma => some (mkA 2#5 false ma 0 a d 0x43)
  | .fcvtLuD d a ma => some (mkA 3#5 false ma 0 a d 0x43)
  | .fcvtDS d a ma => some (mkA 4#5 false ma 0 a d 0x43)
  | .fcvtLS d a ma => some (mkA 6#5 false ma 0 a d 0x43)
  | .fcvtLuS d a ma => some (mkA 7#5 false ma 0 a d 0x43)
  | .fcvtDL d a ma => some (mkA 8#5 false ma 0 a d 0x43)
  | .fcvtSL d a ma => some (mkA 9#5 false ma 0 a d 0x43)
  | .fcvtLuL d a ma => some (mkA 11#5 false ma 0 a d 0x43)
  | .fcvtDLu d a ma => some (mkA 12#5 false ma 0 a d 0x43)
  | .fcvtSLu d a ma => some (mkA 13#5 false ma 0 a d 0x43)
  | .fcvtLLu d a ma => some (mkA 14#5 false ma 0 a d 0x43)
  | .fmaS d a b c mq => some (mkQ mq c b a d 0x44)
  | .fmaD d a b c mq => some (mkQ mq c b a d 0x45)
  | .spawn d a b ma mb => some (mkA 0#5 mb ma b a d 0x46)
  | .joinw d a ma => some (mkA 1#5 false ma 0 a d 0x46)
  | .jdec a b ma mb => some (mkA 2#5 mb ma b a 0 0x46)
  | .done a ma => some (mkA 3#5 false ma 0 a 0 0x46)
  | .yield => some (mkA 4#5 false false 0 0 0 0x46)
  | .susp a ma => some (mkA 5#5 false ma 0 a 0 0x46)
  | .stealctl d a ma => some (mkA 6#5 false ma 0 a d 0x46)
  | .mbq d a ma => some (mkA 7#5 false ma 0 a d 0x46)
  | .send a b chan ma mb => some (mkM 0#3 mb ma chan b a 0x47)
  | .reply b chan mb => some (mkM 1#3 mb false chan b 0 0x47)
  | .chset a b chan ma mb => some (mkM 2#3 mb ma chan b a 0x47)
  | .chblk a chan ma => some (mkM 3#3 false ma chan 0 a 0x47)
  | .chunblk a chan ma => some (mkM 4#3 false ma chan 0 a 0x47)
  | .barriv a ma => some (mkA 0#5 false ma 0 a 0 0x48)
  | .barwait d a b ma mb => some (mkA 1#5 mb ma b a d 0x48)
  | .cdef a b ma mb => some (mkA 0#5 mb ma b a 0 0x49)
  | .cbind a b ma mb => some (mkA 1#5 mb ma b a 0 0x49)
  | .cunbind a ma => some (mkA 2#5 false ma 0 a 0 0x49)
  | .cst a b ma mb => some (mkA 3#5 mb ma b a 0 0x49)
  | .csnap d a ma => some (mkA 4#5 false ma 0 a d 0x49)
  | .cld d a b ma mb => some (mkA 5#5 mb ma b a d 0x49)
  | .commit d => some (mkA 6#5 false false 0 0 d 0x49)
  | .abandon d => some (mkA 7#5 false false 0 0 d 0x49)
  | .cstat d a ma => some (mkA 8#5 false ma 0 a d 0x49)
  | .vadd d a b ma mb => some (mkA 0#5 mb ma b a d 0x4A)
  | .vsub d a b ma mb => some (mkA 1#5 mb ma b a d 0x4A)
  | .vmul d a b ma mb => some (mkA 2#5 mb ma b a d 0x4A)
  | .vmax d a b ma mb => some (mkA 3#5 mb ma b a d 0x4A)
  | .vmin d a b ma mb => some (mkA 4#5 mb ma b a d 0x4A)
  | .vabs d a ma => some (mkA 5#5 false ma 0 a d 0x4A)
  | .vneg d a ma => some (mkA 6#5 false ma 0 a d 0x4A)
  | .vcvt d a ma => some (mkA 7#5 false ma 0 a d 0x4A)
  | .vred d a ma => some (mkA 8#5 false ma 0 a d 0x4A)
  | .vcmp d a b ma mb => some (mkA 9#5 mb ma b a d 0x4A)
  | .vmov d a ma => some (mkA 10#5 false ma 0 a d 0x4A)
  | .vshf d a b ma mb => some (mkA 11#5 mb ma b a d 0x4A)
  | .vwait => some (mkA 12#5 false false 0 0 0 0x4A)
  | .vfma d a b c mq => some (mkQ mq c b a d 0x4B)
  | .vsel d a b c mq => some (mkQ mq c b a d 0x4C)
  | .vexp d a ma => some (mkA 0#5 false ma 0 a d 0x4D)
  | .vlog d a ma => some (mkA 1#5 false ma 0 a d 0x4D)
  | .vrcp d a ma => some (mkA 2#5 false ma 0 a d 0x4D)
  | .vrsq d a ma => some (mkA 3#5 false ma 0 a d 0x4D)
  | .vtanh d a ma => some (mkA 4#5 false ma 0 a d 0x4D)
  | .vsigm d a ma => some (mkA 5#5 false ma 0 a d 0x4D)
  | .vexpA d a ma => some (mkA 8#5 false ma 0 a d 0x4D)
  | .vlogA d a ma => some (mkA 9#5 false ma 0 a d 0x4D)
  | .vrcpA d a ma => some (mkA 10#5 false ma 0 a d 0x4D)
  | .vrsqA d a ma => some (mkA 11#5 false ma 0 a d 0x4D)
  | .vtanhA d a ma => some (mkA 12#5 false ma 0 a d 0x4D)
  | .vsigmA d a ma => some (mkA 13#5 false ma 0 a d 0x4D)
  | .mand d a b ma mb => some (mkA 0#5 mb ma b a d 0x4E)
  | .mor d a b ma mb => some (mkA 1#5 mb ma b a d 0x4E)
  | .mxor d a b ma mb => some (mkA 2#5 mb ma b a d 0x4E)
  | .mnot d a ma => some (mkA 3#5 false ma 0 a d 0x4E)
  | .mshl d a b ma mb => some (mkA 4#5 mb ma b a d 0x4E)
  | .mshr d a b ma mb => some (mkA 5#5 mb ma b a d 0x4E)
  | .mpop d a ma => some (mkA 6#5 false ma 0 a d 0x4E)
  | .mmovMX d a ma => some (mkA 7#5 false ma 0 a d 0x4E)
  | .mmovXM d a ma => some (mkA 8#5 false ma 0 a d 0x4E)
  | .mmovMM d a ma => some (mkA 9#5 false ma 0 a d 0x4E)
  | .enqM d a b ma mb q3 => some (mkE 0#3 (if q3 then 3#2 else 0#2) mb ma b a d 0x4F)
  | .enqV d a b ma mb => some (mkE 0#3 1#2 mb ma b a d 0x4F)
  | .enqC d a b ma mb => some (mkE 0#3 2#2 mb ma b a d 0x4F)
  | .qmig d a ma => some (mkE 1#3 0#2 false ma 0 a d 0x4F)
  | .publ a ma => some (mkA 0#5 false ma 0 a 0 0x50)
  | .wmrd d a ma => some (mkA 1#5 false ma 0 a d 0x50)
  | .baddq a b ma mb => some (mkA 2#5 mb ma b a 0 0x50)
  | .bqtake d a ma => some (mkA 3#5 false ma 0 a d 0x50)
  | .ddvar d a ma => some (mkA 0#5 false ma 0 a d 0x51)
  | .ddrestrict d a b ma mb => some (mkA 1#5 mb ma b a d 0x51)
  | .ddexist d a b ma mb => some (mkA 2#5 mb ma b a d 0x51)
  | .ddcount d a b ma mb => some (mkA 3#5 mb ma b a d 0x51)
  | .ddmask d a b ma mb => some (mkA 4#5 mb ma b a d 0x51)
  | .ddref a ma => some (mkA 5#5 false ma 0 a 0 0x51)
  | .ddderef a ma => some (mkA 6#5 false ma 0 a 0 0x51)
  | .ddswap d a ma => some (mkA 7#5 false ma 0 a d 0x51)
  | .ddcollect d => some (mkA 8#5 false false 0 0 d 0x51)
  | .ddstat d a ma => some (mkA 9#5 false ma 0 a d 0x51)
  | .ddinit a ma => some (mkA 10#5 false ma 0 a 0 0x51)
  | .ddapply d a b op ma mb => some (mkA (1#1 ++ op) mb ma b a d 0x51)
  | .ddite d a b c mq => some (mkQ mq c b a d 0x52)
  | .ecall d a ma => some (mkA 0#5 false ma 0 a d 0x53)
  | .halt a ma => some (mkA 1#5 false ma 0 a 0 0x53)
  | .sleep d a ma => some (mkA 2#5 false ma 0 a d 0x53)
  | .bkpt => some (mkA 3#5 false false 0 0 0 0x53)
  | .perfrd d a ma => some (mkA 4#5 false ma 0 a d 0x53)
  | .enrd d a ma => some (mkA 5#5 false ma 0 a d 0x53)
  | .mmBf16 _ => none
  | .mmF16 _ => none
  | .mmE4m3 _ => none
  | .mmE5m2 _ => none
  | .mmE4m3e5m2 _ => none
  | .mmMx4 _ => none
  | .mmMx6a _ => none
  | .mmMx6b _ => none
  | .mmI8 _ => none
  | .mmT2i8 _ => none
  | .mloadb _ => none
  | .mclr _ => none
  | .mdrain _ => none
  | .mmask _ => none
  | .mredb _ => none
  | .mredbCombine _ => none
  | .mmbm _ => none
  | .tcwVadd _ => none
  | .tcwVsub _ => none
  | .tcwVmul _ => none
  | .tcwVmax _ => none
  | .tcwVmin _ => none
  | .tcwVabs _ => none
  | .tcwVneg _ => none
  | .tcwVcvt _ => none
  | .tcwVred _ => none
  | .tcwVcmp _ => none
  | .tcwVmov _ => none
  | .tcwVshf _ => none
  | .tcwVexp _ => none
  | .tcwVlog _ => none
  | .tcwVrcp _ => none
  | .tcwVrsq _ => none
  | .tcwVtanh _ => none
  | .tcwVsigm _ => none
  | .tcwVexpA _ => none
  | .tcwVlogA _ => none
  | .tcwVrcpA _ => none
  | .tcwVrsqA _ => none
  | .tcwVtanhA _ => none
  | .tcwVsigmA _ => none
  | .tcwVfma _ => none
  | .tcwVsel _ => none
  | .copy _ => none
  | .copyx _ => none
  | .vectorStep _ _ _ => none
  | .chainMigrate _ _ => none
  | .copyRequest _ _ => none
  | .packetLand _ _ _ => none
  | .landingHandler _ _ _ => none
  | .publExchange _ _ => none
  | .registerFill _ _ => none
  | .watchFill _ _ => none
  | .pageWalk _ _ _ => none
  | .notificationRecord _ => none
  | .faultHoldRetry _ => none
  | .fhReplayHid _ _ => none
  | .fhKillHid _ _ => none
  | .fhReplayAsid _ _ => none
  | .fhKillAsid _ _ => none
  | .tlbinvPage _ _ _ _ _ => none
  | .tlbinvAsid _ _ _ => none
  | .tlbinvAll _ _ => none
  | .tlbinvComplete _ => none
  | .remoteCompletion _ _ _ _ _ => none
  | .rmaInbound => none
  | .uetUnsupported _ => none
  | .ateAccept _ => none
  | .doneMessage _ => none
  | .joinWake _ _ => none
  | .barrierWake _ _ => none
  | .messageArrival _ => none
  | .refusalArrival _ => none
  | .takeWork _ _ => none
  | .steal _ _ _ => none
  | .taskQueuePull _ => none
  | .windowClose _ => none
  | .quantumEnd _ => none
  | .stvaArrival _ => none
  | .ldnbArrival _ => none
  | .homeTick _ => none
  | .deadlineOutcome _ => none
  | .twaitWake _ _ => none
  | .sleepWake _ _ => none
  | .timeExchange _ _ _ _ _ => none
  | .ptpMessage _ _ _ _ _ _ _ _ => none
  | .syncInterval => none
  | .announceTimeout => none
  | .genClose _ => none
  | .formulaHandout _ => none
  | .publicationAck _ _ => none
  | .publication _ => none
  | .snapBind _ _ => none
  | .snapwaitExpiry _ => none
  | .dispatchSelection _ => none
  | .kick _ _ _ => none
  | .queueMap _ _ _ => none
  | .queueUnmap _ _ => none
  | .launchStart => none
  | .launchEnd _ => none
  | .unitStop _ _ => none
  | .stopRecord _ => none
  | .cxcmdResume _ _ => none
  | .cxcmdResumeOn _ _ _ _ => none
  | .cxcmdDiscard _ _ => none
  | .cxcmdReleaseHandler _ _ => none
  | .cxcmdDropMessage _ _ => none
  | .cxcmdDeschedule _ _ _ _ => none
  | .cxcmdMigrate _ _ _ _ => none
  | .cxcmdClearScarf _ _ => none
  | .migrationComplete _ _ => none
  | .scarfForward _ => none
  | .doubleFault _ _ _ _ _ => none
  | .dfcauseRead _ => none
  | .watchdog _ => none
  | .monitorSample _ _ _ => none
  | .monitorClr _ _ => none
  | .trccfgWrite _ _ => none
  | .scrubRead _ _ => none
  | .eccstatClr _ => none
  | .apxmonClr _ => none
  | .dqcfgWrite _ _ => none
  | .mbcfgWrite _ _ => none
  | .rfcfgWrite _ _ => none
  | .ddordWrite _ _ _ => none
  | .ddlimWrite _ _ => none
  | .registerWrite _ _ => none
  | .powerEval _ _ _ _ _ => none
  | .energyUpdate _ _ _ => none
  | .powerOn => none
  | .rstcmd => none
  | .ready => none
  | .startFailure _ => none
  | .sessionOpen _ => none
  | .sessionClose _ => none
  | .quote _ _ => none
  | .extend _ _ _ => none
  | .clearFails _ => none
  | .imageSlotWrite _ _ _ _ => none
  | .i3cStatus _ _ => none
  | .i3cTemps _ _ _ _ => none
  | .i3cSetcap _ => none
  | .i3cSetfloor _ => none
  | .i3cReset _ => none
  | .i3cBootsel _ => none
  | .i3cUnknownCommand => none
  | .i3cPrivateRead => none
  | .i3cHdrEntry => none
  | .entdaa _ => none
  | .setdasa _ => none
  | .rstdaa => none
  | .enec => none
  | .disec => none
  | .setmwl _ => none
  | .setmrl _ => none
  | .getpid => none
  | .getbcr => none
  | .getdcr => none
  | .getstatus => none
  | .getmwl => none
  | .getmrl => none
  | .rstact _ => none
  | .cccUnsupported _ => none
  | .systemCoreAccess _ _ _ _ _ => none
  | .externalDisciplineRequest _ _ _ _ => none
  | .i3cHdrExit => none
  | .endFrozenLaunch _ => none

/-- The instruction that a word of the opcode table's numbering decodes to: every coded row is one 32-bit word, stored little-endian
(R187), so bit 0 is the least significant bit of the word. A shorter or longer row has no word. -/
noncomputable def decodeTableWord (nbits w : Nat) : Option Instr :=
  if nbits ≤ 32 then
    match decode (BitVec.ofNat 32 (w % 2 ^ nbits)) with
    | .ok i => some i
    | .error _ => none
  else none


end Sys2Proof
end

