-- ==== Sys2Proof/Machine/Bits.lean ====
section
/-! DEFINITION. Bit fields, byte order, sparse tables and small list helpers that every meaning uses. -/

namespace Sys2Proof.Machine

/-- Bits [lo + n - 1 : lo] of a number. -/
def fieldOf (v lo n : Nat) : Nat := v >>> lo % 2 ^ n

/-- Bits [lo + n - 1 : lo] of a word, as a number. -/
def wfield (w : Word) (lo n : Nat) : Nat := fieldOf w.toNat lo n

/-- A word with bits [lo + n - 1 : lo] replaced by the low bits of v. -/
def wput (w : Word) (lo n v : Nat) : Word :=
  BitVec.ofNat 64 (w.toNat - fieldOf w.toNat lo n * 2 ^ lo + v % 2 ^ n * 2 ^ lo)

/-- The number with each listed (lowest bit, width, value) field, the fields being disjoint. -/
def packNat : List (Nat × Nat × Nat) → Nat
  | [] => 0
  | (lo, n, v) :: r => v % 2 ^ n * 2 ^ lo + packNat r

/-- `packNat` as a 64-bit word. -/
def pack (fs : List (Nat × Nat × Nat)) : Word := BitVec.ofNat 64 (packNat fs)

/-- 1 for true. -/
def b2n (b : Bool) : Nat := if b then 1 else 0

/-- A w-bit number read as two's complement. -/
def toSigned (w v : Nat) : Int := if v % 2 ^ w < 2 ^ (w - 1) then ((v % 2 ^ w : Nat) : Int) else ((v % 2 ^ w : Nat) : Int) - 2 ^ w

/-- An integer modulo 2^w. -/
def ofSigned (w : Nat) (i : Int) : Nat := (i % (2 ^ w : Int)).toNat

/-- SignExtend(v, w) of R231. -/
def sext (v w : Nat) : Word := BitVec.ofInt 64 (toSigned w v)

/-- Bytes of v, lowest first. -/
def leBytes : Nat → Nat → List Byte
  | 0, _ => []
  | n + 1, v => BitVec.ofNat 8 v :: leBytes n (v / 256)

/-- The number whose bytes, lowest first, are given. -/
def leNat : List Byte → Nat
  | [] => 0
  | b :: r => b.toNat + 256 * leNat r

/-- The first n of a list, filled with d. -/
def takeFill {α : Type} (d : α) : Nat → List α → List α
  | 0, _ => []
  | n + 1, [] => d :: takeFill d n []
  | n + 1, a :: r => a :: takeFill d n r

/-- The i-th of a list, or d. -/
def nth {α : Type} (d : α) (l : List α) (i : Nat) : α := l.getD i d

/-- [0, 1, ..., n - 1]. -/
def upTo (n : Nat) : List Nat := List.range n

/-- Rounded up to a multiple of m. -/
def roundUp (v m : Nat) : Nat := (v + m - 1) / m * m

/-- ceil(v / m). -/
def ceilDiv (v m : Nat) : Nat := (v + m - 1) / m

/-- Capped at the largest n-bit number. -/
def satN (n v : Nat) : Nat := min v (2 ^ n - 1)

/-- Do [a, a + n) and [b, b + m) meet? -/
def overlap (a n b m : Nat) : Bool := a < b + m && b < a + n

/-- The value at a key. -/
def tget {α : Type} : Tbl α → Nat → Option α
  | [], _ => none
  | (i, a) :: r, k => if i = k then some a else tget r k

/-- The value at a key, or d. -/
def tgetD {α : Type} (t : Tbl α) (k : Nat) (d : α) : α := (tget t k).getD d

/-- The table with the value at a key replaced. -/
def tput {α : Type} : Tbl α → Nat → α → Tbl α
  | [], k, v => [(k, v)]
  | (i, a) :: r, k, v => if k < i then (k, v) :: (i, a) :: r else if k = i then (k, v) :: r else (i, a) :: tput r k v

/-- The table without a key. -/
def tdel {α : Type} : Tbl α → Nat → Tbl α
  | [], _ => []
  | (i, a) :: r, k => if i = k then r else (i, a) :: tdel r k

/-- The table with f applied to the value at a key. -/
def tmod {α : Type} (t : Tbl α) (k : Nat) (f : α → α) : Tbl α := t.map fun p => if p.1 = k then (p.1, f p.2) else p

/-- The table with every value replaced. -/
def tmap {α β : Type} (t : Tbl α) (f : Nat → α → β) : Tbl β := t.map fun p => (p.1, f p.1 p.2)

/-- A table whose keys the function sets to a default is kept sparse: put, or drop when the value is the default. -/
def tputD {α : Type} [DecidableEq α] (d : α) (t : Tbl α) (k : Nat) (v : α) : Tbl α :=
  if v = d then tdel t k else tput t k v

/-- The smallest key from 0 to n - 1 that a table does not hold. -/
def tfree {α : Type} (t : Tbl α) (n : Nat) : Option Nat := (upTo n).find? fun i => (tget t i).isNone

/-- An element of a vector by number, or d past its end. -/
def vget {α : Type} {n : Nat} (v : Vector α n) (i : Nat) (d : α) : α := if h : i < n then v[i] else d

/-- A vector with one element replaced; past its end, unchanged. -/
def vset {α : Type} {n : Nat} (v : Vector α n) (i : Nat) (a : α) : Vector α n := if h : i < n then v.set i a h else v

/-- The element with the smallest measure, the first of equals. -/
def argMin {α : Type} (f : α → Nat) : List α → Option α
  | [] => none
  | a :: r =>
    match argMin f r with
    | none => some a
    | some b => if f b < f a then some b else some a

/-- Lexicographic: is the first list smaller? -/
def lexLt : List Nat → List Nat → Bool
  | [], [] => false
  | [], _ => true
  | _, [] => false
  | a :: r, b :: q => a < b || (a == b && lexLt r q)

/-- Inserts an element before the first that it precedes lexicographically by the measure. -/
def insertLex {α : Type} (f : α → List Nat) (a : α) : List α → List α
  | [] => [a]
  | b :: r => if lexLt (f a) (f b) then a :: b :: r else b :: insertLex f a r

/-- Sorted by a lexicographic measure; equal elements keep their order. -/
def sortLex {α : Type} (f : α → List Nat) (l : List α) : List α := l.foldl (fun acc a => insertLex f a acc) []

/-- A list without its i-th element. -/
def dropAt {α : Type} : List α → Nat → List α
  | [], _ => []
  | _ :: r, 0 => r
  | a :: r, i + 1 => a :: dropAt r i

/-- One byte of the canonical memory list: keys rising, unlisted keys read as `e`. -/
def memGet (e : Byte) : Tbl Byte → Nat → Byte
  | [], _ => e
  | (i, b) :: r, k => if i = k then b else if k < i then e else memGet e r k

/-- One byte written, keeping the canonical form: the byte that an unlisted key reads as is not listed. -/
def memPut (e : Byte) : Tbl Byte → Nat → Byte → Tbl Byte
  | [], k, v => if v = e then [] else [(k, v)]
  | (i, b) :: r, k, v =>
    if i < k then (i, b) :: memPut e r k v
    else if i = k then (if v = e then r else (i, v) :: r)
    else if v = e then (i, b) :: r else (k, v) :: (i, b) :: r

/-- The canonical form from a lower bound on. -/
def memWfFrom (e : Byte) : Nat → Tbl Byte → Bool
  | _, [] => true
  | lo, (i, b) :: r => decide (lo ≤ i) && decide (b ≠ e) && memWfFrom e (i + 1) r

/-- Is a tile opcode one of the approximate special functions (R203)? -/
def isApx (top : Nat) : Bool := 0x68 ≤ top && top < 0x70

end Sys2Proof.Machine
end

