-- ==== Sys2Proof/Machine/Event.lean ====
section
/-! DEFINITION. The steps of the hardware, of system software and of the host as data that State can hold: one constructor for each row
of the opcode table that has no instruction word, with the same operands. -/

namespace Sys2Proof.Machine

/-- A step that is due. -/
inductive Event where
  | mmBf16 (core : Nat)
  | mmF16 (core : Nat)
  | mmE4m3 (core : Nat)
  | mmE5m2 (core : Nat)
  | mmE4m3e5m2 (core : Nat)
  | mmMx4 (core : Nat)
  | mmMx6a (core : Nat)
  | mmMx6b (core : Nat)
  | mmI8 (core : Nat)
  | mmT2i8 (core : Nat)
  | mloadb (core : Nat)
  | mclr (core : Nat)
  | mdrain (core : Nat)
  | mmask (core : Nat)
  | mredb (core : Nat)
  | mredbCombine (core : Nat)
  | mmbm (core : Nat)
  | tcwVadd (core : Nat)
  | tcwVsub (core : Nat)
  | tcwVmul (core : Nat)
  | tcwVmax (core : Nat)
  | tcwVmin (core : Nat)
  | tcwVabs (core : Nat)
  | tcwVneg (core : Nat)
  | tcwVcvt (core : Nat)
  | tcwVred (core : Nat)
  | tcwVcmp (core : Nat)
  | tcwVmov (core : Nat)
  | tcwVshf (core : Nat)
  | tcwVexp (core : Nat)
  | tcwVlog (core : Nat)
  | tcwVrcp (core : Nat)
  | tcwVrsq (core : Nat)
  | tcwVtanh (core : Nat)
  | tcwVsigm (core : Nat)
  | tcwVexpA (core : Nat)
  | tcwVlogA (core : Nat)
  | tcwVrcpA (core : Nat)
  | tcwVrsqA (core : Nat)
  | tcwVtanhA (core : Nat)
  | tcwVsigmA (core : Nat)
  | tcwVfma (core : Nat)
  | tcwVsel (core : Nat)
  | copy (core : Nat)
  | copyx (core : Nat)
  | vectorStep (core : Nat) (thread : Nat) (bad : Option Nat)
  | chainMigrate (origin target : Nat)
  | copyRequest (core op : Nat)
  | packetLand (core op pkt : Nat)
  | landingHandler (core op pkt : Nat)
  | publExchange (core thread : Nat)
  | registerFill (uid reg : Nat)
  | watchFill (uid reg : Nat)
  | pageWalk (core : Nat) (asid : Nat) (va : Nat)
  | notificationRecord (die : Nat)
  | faultHoldRetry (die : Nat)
  | fhReplayHid (die hid : Nat)
  | fhKillHid (die hid : Nat)
  | fhReplayAsid (die asid : Nat)
  | fhKillAsid (die asid : Nat)
  | tlbinvPage (die asid va dies size : Nat)
  | tlbinvAsid (die asid dies : Nat)
  | tlbinvAll (die dies : Nat)
  | tlbinvComplete (die : Nat)
  | remoteCompletion (req status reason cause : Nat) (data : List (BitVec 8))
  | rmaInbound
  | uetUnsupported (req : Nat)
  | ateAccept (bay : Nat)
  | doneMessage (bay : Nat)
  | joinWake (core slot : Nat)
  | barrierWake (core slot : Nat)
  | messageArrival (core : Nat)
  | refusalArrival (core : Nat)
  | takeWork (core thread : Nat)
  | steal (core thread victim : Nat)
  | taskQueuePull (asid : Nat)
  | windowClose (core : Nat)
  | quantumEnd (asid : Nat)
  | stvaArrival (home : Nat)
  | ldnbArrival (home : Nat)
  | homeTick (home : Nat)
  | deadlineOutcome (core : Nat)
  | twaitWake (core thread : Nat)
  | sleepWake (core thread : Nat)
  | timeExchange (die : Nat) (ok : Bool) (out : Nat) (back : Nat) (turn : Nat)
  | ptpMessage (kind : Nat) (port : Nat) (domain : Nat) (seq : Nat) (source : Nat) (origin : Nat) (twoStep : Bool) (rank : List Nat)
  | syncInterval
  | announceTimeout
  | genClose (asid : Nat)
  | formulaHandout (asid : Nat)
  | publicationAck (asid who : Nat)
  | publication (asid : Nat)
  | snapBind (uid slot : Nat)
  | snapwaitExpiry (asid : Nat)
  | dispatchSelection (asid : Nat)
  | kick (asid qid tail : Nat)
  | queueMap (asid slot qcb : Nat)
  | queueUnmap (asid slot : Nat)
  | launchStart
  | launchEnd (asid : Nat)
  | unitStop (core thread : Nat)
  | stopRecord (die : Nat)
  | cxcmdResume (die slot : Nat)
  | cxcmdResumeOn (die slot lcore asid : Nat)
  | cxcmdDiscard (die slot : Nat)
  | cxcmdReleaseHandler (die slot : Nat)
  | cxcmdDropMessage (die slot : Nat)
  | cxcmdDeschedule (die asid lcore thread : Nat)
  | cxcmdMigrate (die asid lcore target : Nat)
  | cxcmdClearScarf (die target : Nat)
  | migrationComplete (core : Nat) (ok : Bool)
  | scarfForward (core : Nat)
  | doubleFault (sc scause scode : Nat) (stval saddr : BitVec 64)
  | dfcauseRead (sc : Nat)
  | watchdog (asid : Nat)
  | monitorSample (asid mon value : Nat)
  | monitorClr (asid mon : Nat)
  | trccfgWrite (asid : Nat) (value : BitVec 64)
  | scrubRead (die granule : Nat)
  | eccstatClr (die : Nat)
  | apxmonClr (core : Nat)
  | dqcfgWrite (core : Nat) (value : BitVec 64)
  | mbcfgWrite (core : Nat) (value : BitVec 64)
  | rfcfgWrite (core : Nat) (value : BitVec 64)
  | ddordWrite (asid n : Nat) (value : BitVec 64)
  | ddlimWrite (asid : Nat) (value : BitVec 64)
  | registerWrite (addr value : BitVec 64)
  | powerEval (die pkgW pkgA dieA dieT : Nat)
  | energyUpdate (asid coreUj totalUj : Nat)
  | powerOn
  | rstcmd
  | ready
  | startFailure (why : Nat)
  | sessionOpen (ifaces : List (Nat × Nat × Nat))
  | sessionClose (session : Nat)
  | quote (session : Nat) (nonce : List (BitVec 8))
  | extend (session : Nat) (i : Nat) (digest : List (BitVec 8))
  | clearFails (session : Nat)
  | imageSlotWrite (session : Nat) (slot : Nat) (offset : Nat) (bytes : List (BitVec 8))
  | i3cStatus (watts temp : Nat)
  | i3cTemps (t0 t1 t2 t3 : Nat)
  | i3cSetcap (watts : Nat)
  | i3cSetfloor (arg : BitVec 8)
  | i3cReset (arg : BitVec 8)
  | i3cBootsel (arg : BitVec 8)
  | i3cUnknownCommand
  | i3cPrivateRead
  | i3cHdrEntry
  | entdaa (addr : Nat)
  | setdasa (addr : Nat)
  | rstdaa
  | enec
  | disec
  | setmwl (len : Nat)
  | setmrl (len : Nat)
  | getpid
  | getbcr
  | getdcr
  | getstatus
  | getmwl
  | getmrl
  | rstact (action : Nat)
  | cccUnsupported (code : Nat)
  | systemCoreAccess (sc : Nat) (write : Bool) (addr : BitVec 64) (size : Nat) (value : BitVec 64)
  | externalDisciplineRequest (session : Nat) (port : Nat) (domain : Nat) (allowance : Nat)
  | i3cHdrExit
  | endFrozenLaunch (asid : Nat)
deriving DecidableEq, Repr

/-- The row of the opcode table that a due step performs. -/
noncomputable def Event.toInstr : Event → Instr
  | .mmBf16 core => .mmBf16 core
  | .mmF16 core => .mmF16 core
  | .mmE4m3 core => .mmE4m3 core
  | .mmE5m2 core => .mmE5m2 core
  | .mmE4m3e5m2 core => .mmE4m3e5m2 core
  | .mmMx4 core => .mmMx4 core
  | .mmMx6a core => .mmMx6a core
  | .mmMx6b core => .mmMx6b core
  | .mmI8 core => .mmI8 core
  | .mmT2i8 core => .mmT2i8 core
  | .mloadb core => .mloadb core
  | .mclr core => .mclr core
  | .mdrain core => .mdrain core
  | .mmask core => .mmask core
  | .mredb core => .mredb core
  | .mredbCombine core => .mredbCombine core
  | .mmbm core => .mmbm core
  | .tcwVadd core => .tcwVadd core
  | .tcwVsub core => .tcwVsub core
  | .tcwVmul core => .tcwVmul core
  | .tcwVmax core => .tcwVmax core
  | .tcwVmin core => .tcwVmin core
  | .tcwVabs core => .tcwVabs core
  | .tcwVneg core => .tcwVneg core
  | .tcwVcvt core => .tcwVcvt core
  | .tcwVred core => .tcwVred core
  | .tcwVcmp core => .tcwVcmp core
  | .tcwVmov core => .tcwVmov core
  | .tcwVshf core => .tcwVshf core
  | .tcwVexp core => .tcwVexp core
  | .tcwVlog core => .tcwVlog core
  | .tcwVrcp core => .tcwVrcp core
  | .tcwVrsq core => .tcwVrsq core
  | .tcwVtanh core => .tcwVtanh core
  | .tcwVsigm core => .tcwVsigm core
  | .tcwVexpA core => .tcwVexpA core
  | .tcwVlogA core => .tcwVlogA core
  | .tcwVrcpA core => .tcwVrcpA core
  | .tcwVrsqA core => .tcwVrsqA core
  | .tcwVtanhA core => .tcwVtanhA core
  | .tcwVsigmA core => .tcwVsigmA core
  | .tcwVfma core => .tcwVfma core
  | .tcwVsel core => .tcwVsel core
  | .copy core => .copy core
  | .copyx core => .copyx core
  | .vectorStep core thread bad => .vectorStep core thread bad
  | .chainMigrate origin target => .chainMigrate origin target
  | .copyRequest core op => .copyRequest core op
  | .packetLand core op pkt => .packetLand core op pkt
  | .landingHandler core op pkt => .landingHandler core op pkt
  | .publExchange core thread => .publExchange core thread
  | .registerFill uid reg => .registerFill uid reg
  | .watchFill uid reg => .watchFill uid reg
  | .pageWalk core asid va => .pageWalk core asid va
  | .notificationRecord die => .notificationRecord die
  | .faultHoldRetry die => .faultHoldRetry die
  | .fhReplayHid die hid => .fhReplayHid die hid
  | .fhKillHid die hid => .fhKillHid die hid
  | .fhReplayAsid die asid => .fhReplayAsid die asid
  | .fhKillAsid die asid => .fhKillAsid die asid
  | .tlbinvPage die asid va dies size => .tlbinvPage die asid va dies size
  | .tlbinvAsid die asid dies => .tlbinvAsid die asid dies
  | .tlbinvAll die dies => .tlbinvAll die dies
  | .tlbinvComplete die => .tlbinvComplete die
  | .remoteCompletion req status reason cause data => .remoteCompletion req status reason cause data
  | .rmaInbound => .rmaInbound
  | .uetUnsupported req => .uetUnsupported req
  | .ateAccept bay => .ateAccept bay
  | .doneMessage bay => .doneMessage bay
  | .joinWake core slot => .joinWake core slot
  | .barrierWake core slot => .barrierWake core slot
  | .messageArrival core => .messageArrival core
  | .refusalArrival core => .refusalArrival core
  | .takeWork core thread => .takeWork core thread
  | .steal core thread victim => .steal core thread victim
  | .taskQueuePull asid => .taskQueuePull asid
  | .windowClose core => .windowClose core
  | .quantumEnd asid => .quantumEnd asid
  | .stvaArrival home => .stvaArrival home
  | .ldnbArrival home => .ldnbArrival home
  | .homeTick home => .homeTick home
  | .deadlineOutcome core => .deadlineOutcome core
  | .twaitWake core thread => .twaitWake core thread
  | .sleepWake core thread => .sleepWake core thread
  | .timeExchange die ok out back turn => .timeExchange die ok out back turn
  | .ptpMessage kind port domain seq source origin twoStep rank => .ptpMessage kind port domain seq source origin twoStep rank
  | .syncInterval => .syncInterval
  | .announceTimeout => .announceTimeout
  | .genClose asid => .genClose asid
  | .formulaHandout asid => .formulaHandout asid
  | .publicationAck asid who => .publicationAck asid who
  | .publication asid => .publication asid
  | .snapBind uid slot => .snapBind uid slot
  | .snapwaitExpiry asid => .snapwaitExpiry asid
  | .dispatchSelection asid => .dispatchSelection asid
  | .kick asid qid tail => .kick asid qid tail
  | .queueMap asid slot qcb => .queueMap asid slot qcb
  | .queueUnmap asid slot => .queueUnmap asid slot
  | .launchStart => .launchStart
  | .launchEnd asid => .launchEnd asid
  | .unitStop core thread => .unitStop core thread
  | .stopRecord die => .stopRecord die
  | .cxcmdResume die slot => .cxcmdResume die slot
  | .cxcmdResumeOn die slot lcore asid => .cxcmdResumeOn die slot lcore asid
  | .cxcmdDiscard die slot => .cxcmdDiscard die slot
  | .cxcmdReleaseHandler die slot => .cxcmdReleaseHandler die slot
  | .cxcmdDropMessage die slot => .cxcmdDropMessage die slot
  | .cxcmdDeschedule die asid lcore thread => .cxcmdDeschedule die asid lcore thread
  | .cxcmdMigrate die asid lcore target => .cxcmdMigrate die asid lcore target
  | .cxcmdClearScarf die target => .cxcmdClearScarf die target
  | .migrationComplete core ok => .migrationComplete core ok
  | .scarfForward core => .scarfForward core
  | .doubleFault sc scause scode stval saddr => .doubleFault sc scause scode stval saddr
  | .dfcauseRead sc => .dfcauseRead sc
  | .watchdog asid => .watchdog asid
  | .monitorSample asid mon value => .monitorSample asid mon value
  | .monitorClr asid mon => .monitorClr asid mon
  | .trccfgWrite asid value => .trccfgWrite asid value
  | .scrubRead die granule => .scrubRead die granule
  | .eccstatClr die => .eccstatClr die
  | .apxmonClr core => .apxmonClr core
  | .dqcfgWrite core value => .dqcfgWrite core value
  | .mbcfgWrite core value => .mbcfgWrite core value
  | .rfcfgWrite core value => .rfcfgWrite core value
  | .ddordWrite asid n value => .ddordWrite asid n value
  | .ddlimWrite asid value => .ddlimWrite asid value
  | .registerWrite addr value => .registerWrite addr value
  | .powerEval die pkgW pkgA dieA dieT => .powerEval die pkgW pkgA dieA dieT
  | .energyUpdate asid coreUj totalUj => .energyUpdate asid coreUj totalUj
  | .powerOn => .powerOn
  | .rstcmd => .rstcmd
  | .ready => .ready
  | .startFailure why => .startFailure why
  | .sessionOpen ifaces => .sessionOpen ifaces
  | .sessionClose session => .sessionClose session
  | .quote session nonce => .quote session nonce
  | .extend session i digest => .extend session i digest
  | .clearFails session => .clearFails session
  | .imageSlotWrite session slot offset bytes => .imageSlotWrite session slot offset bytes
  | .i3cStatus watts temp => .i3cStatus watts temp
  | .i3cTemps t0 t1 t2 t3 => .i3cTemps t0 t1 t2 t3
  | .i3cSetcap watts => .i3cSetcap watts
  | .i3cSetfloor arg => .i3cSetfloor arg
  | .i3cReset arg => .i3cReset arg
  | .i3cBootsel arg => .i3cBootsel arg
  | .i3cUnknownCommand => .i3cUnknownCommand
  | .i3cPrivateRead => .i3cPrivateRead
  | .i3cHdrEntry => .i3cHdrEntry
  | .entdaa addr => .entdaa addr
  | .setdasa addr => .setdasa addr
  | .rstdaa => .rstdaa
  | .enec => .enec
  | .disec => .disec
  | .setmwl len => .setmwl len
  | .setmrl len => .setmrl len
  | .getpid => .getpid
  | .getbcr => .getbcr
  | .getdcr => .getdcr
  | .getstatus => .getstatus
  | .getmwl => .getmwl
  | .getmrl => .getmrl
  | .rstact action => .rstact action
  | .cccUnsupported code => .cccUnsupported code
  | .systemCoreAccess sc write addr size value => .systemCoreAccess sc write addr size value
  | .externalDisciplineRequest session port domain allowance => .externalDisciplineRequest session port domain allowance
  | .i3cHdrExit => .i3cHdrExit
  | .endFrozenLaunch asid => .endFrozenLaunch asid

/-- The step that performs the command with this TOP at the head of its queue on a core (R203). -/
def topEvent (core top : Nat) : Option Event :=
  match top with
  | 0x00 => some (.mmBf16 core)
  | 0x01 => some (.mmF16 core)
  | 0x02 => some (.mmE4m3 core)
  | 0x03 => some (.mmE5m2 core)
  | 0x04 => some (.mmE4m3e5m2 core)
  | 0x05 => some (.mmMx4 core)
  | 0x06 => some (.mmMx6a core)
  | 0x07 => some (.mmMx6b core)
  | 0x08 => some (.mmI8 core)
  | 0x09 => some (.mmT2i8 core)
  | 0x10 => some (.mloadb core)
  | 0x11 => some (.mclr core)
  | 0x12 => some (.mdrain core)
  | 0x13 => some (.mmask core)
  | 0x14 => some (.mredb core)
  | 0x15 => some (.mmbm core)
  | 0x40 => some (.tcwVadd core)
  | 0x41 => some (.tcwVsub core)
  | 0x42 => some (.tcwVmul core)
  | 0x43 => some (.tcwVmax core)
  | 0x44 => some (.tcwVmin core)
  | 0x45 => some (.tcwVabs core)
  | 0x46 => some (.tcwVneg core)
  | 0x47 => some (.tcwVcvt core)
  | 0x48 => some (.tcwVred core)
  | 0x49 => some (.tcwVcmp core)
  | 0x4A => some (.tcwVmov core)
  | 0x4B => some (.tcwVshf core)
  | 0x60 => some (.tcwVexp core)
  | 0x61 => some (.tcwVlog core)
  | 0x62 => some (.tcwVrcp core)
  | 0x63 => some (.tcwVrsq core)
  | 0x64 => some (.tcwVtanh core)
  | 0x65 => some (.tcwVsigm core)
  | 0x68 => some (.tcwVexpA core)
  | 0x69 => some (.tcwVlogA core)
  | 0x6A => some (.tcwVrcpA core)
  | 0x6B => some (.tcwVrsqA core)
  | 0x6C => some (.tcwVtanhA core)
  | 0x6D => some (.tcwVsigmA core)
  | 0x70 => some (.tcwVfma core)
  | 0x71 => some (.tcwVsel core)
  | 0x80 => some (.copy core)
  | 0x81 => some (.copyx core)
  | _ => none

end Sys2Proof.Machine
end

