-- ==== Sys2Proof/Machine/State.lean ====
section
/-! DEFINITION. The state of the SW9 package as plain data, the reasons a step can stop, and the state after reset. -/

namespace Sys2Proof.Machine

/-- Reasons for a fault. No instruction and no step of the SW9 raises one: every cause of R393 is taken as the spec describes it
(a next state), so a run never ends in a fault. -/
inductive Fault where
  /-- Raised by nobody in this model; the type must not be empty. Safe. -/
  | unused
deriving DecidableEq, Repr

/-- Reasons for a refusal. -/
inductive Refusal where
  /-- Raised by the dispatcher for an instruction that has no meaning yet. Safe: nothing is claimed of it. -/
  | notModelled (mnemonic : String)
deriving DecidableEq, Repr

/-- The detail words D0 to D3 of a stopped context (R393, R400). -/
structure Detail where
  d0 : Word := 0
  d1 : Word := 0
  d2 : Word := 0
  d3 : Word := 0
deriving DecidableEq, Repr

/-- The kinds of access that R40 and R42 tell apart. -/
inductive AccKind where
  | load | store | atomic | fetch | engRead | engWrite
deriving DecidableEq, Repr

/-- A snapshot slot (R153, R156, R281). `gen` is none until the snapshot binds. -/
structure Snap where
  gen : Option Nat
  /-- 0 current, 1 fresh, 2 explicit. -/
  mode : Nat
  /-- The generation an explicit or fresh CSNAP waits for. -/
  want : Nat
  dest : Reg
  /-- Address of the CSNAP. -/
  pc : Word
  /-- Opening order: the current snapshot is the open one with the largest. -/
  order : Nat
deriving DecidableEq, Repr

/-- An armed watch of FEMARK (R249). -/
structure Watch where
  reg : Reg
  off : Nat
deriving DecidableEq, Repr

/-- The value of an ended watch on its way to its register: the word's offset, and the cycle of the write that ended the watch (R249). -/
structure WatchFill where
  reg : Nat
  off : Nat
  value : Word
  cycle : Nat
deriving DecidableEq, Repr

/-- An access that a fault hold has settled: the instruction's word, the address as the instruction wrote it, and the address whose translation
is tried again (R44). -/
structure Redo where
  word : BitVec 32
  va : Word
  addr : Nat
deriving DecidableEq, Repr

/-- What a unit of work is (R162, R179, R146, R334). -/
inductive UnitKind where
  | none
  | task
  /-- A handler of channel `chan` on the message at ring offset `hdr`, with the message's age, its sequence number and sender. -/
  | handler (chan hdr len age seq slc : Nat)
  /-- A handler of channel 255 on the refusal held in a slot. -/
  | refusal (slot age seq slc : Nat)
  /-- The formula task of a cell for a generation. -/
  | formula (cell gen : Nat)
  /-- A landing handler on a packet of a copy. -/
  | landing (op pkt : Nat)
deriving DecidableEq, Repr

/-- What holds a thread's issue until an event comes (R41, R123, R257, R414, R35, R95). An instruction that merely waits at issue
under R194 is tested again and needs no entry here. -/
inductive Wait where
  | no
  /-- An answered request has left the thread (R257). -/
  | answer
  /-- A quantum-served request waits for the end of its quantum (R389). -/
  | quantum
  | twait (t : Word)
  | sleep (d : Reg) (bound : Word) (queued : Nat) (fills : Nat)
  /-- A scalar access to space 0x5 (R35). -/
  | remote (req : Nat)
  /-- A translation that is held (R41) or stalled for an entry (R46). -/
  | held
  /-- A PUBL whose exchange is to come (R95). -/
  | publ (buf : Nat)
deriving DecidableEq, Repr

/-- One entry of the in-flight table (R420). -/
structure InFlight where
  addr : Word
  seq : Nat
  hid : Nat
  token : Reg
  cause : Option Cause
  kind : Nat
  late : Bool
  state : Nat
deriving DecidableEq, Repr

/-- A message, a channel request carried like one (R272), or a cause message (R271), on its way. `kind`: 0 message, 1 CHBLK, 2 CHUNBLK,
3 cause message. -/
structure Msg where
  kind : Nat
  chan : Nat
  stid : Nat
  seq : Nat
  slc : Nat
  payload : List Byte
  /-- Sending core, its thread and unit handle, for the answer of a CHBLK or CHUNBLK. -/
  fromCore : Nat
  fromThread : Nat
  fromUid : Nat
  /-- Receiving core. -/
  target : Nat
  /-- Delivery window in a deterministic launch (R184). -/
  window : Nat
  /-- Of a routed DDFULL: the destination that takes the failure value once the message is placed (R271, R443). -/
  dest : Reg := 0
deriving DecidableEq, Repr

/-- A refusal (R181): the reason, the refusing core's LCORE, and the refused message's channel, header words and window. -/
structure RefusalMsg where
  reason : Nat
  slc : Nat
  seq : Nat
  hdr0 : Word
  hdr1 : Word
  window : Nat
deriving DecidableEq, Repr

/-- A value that an elementwise command has read and computed and not yet written, with its flags, and whether a reserved T2 code was read (R293). -/
structure Kept where
  val : Nat
  fx : BitVec 6 := 0
  t2 : Bool := false
deriving DecidableEq, Repr

/-- An engine's access that a fault hold has settled: its address, the address whose translation is tried again, and whether it writes (R44). -/
structure EngRedo where
  va : Word
  addr : Nat
  write : Bool
deriving DecidableEq, Repr

/-- The rest of a DDMASK whose bits go to a destination record: its element writes from number `pos` on are not made (R41, R365). -/
structure MaskJob where
  record : BitVec 512
  bits : List Bool
  pos : Nat
  redo : Option EngRedo
deriving DecidableEq, Repr

/-- A command of an engine queue, or an instruction of a vector queue (R202, R293, R306): the patched word, the copies of its
records, and what was captured with it. -/
structure Cmd where
  /-- Tile opcode (R203); 0x100 for BADDQ (R347). -/
  top : Nat
  word : BitVec 256
  ra : BitVec 512
  rb : BitVec 512
  rc : BitVec 512
  /-- Addend, condition, bitmap or A-scale record. -/
  rx : BitVec 512
  /-- B-scale record. -/
  ry : BitVec 512
  /-- Per-tile scales (R313). -/
  sa : BitVec 32
  sb : BitVec 32
  /-- FCTL as captured (R220). -/
  fctl : Word
  apxctl : Word
  /-- Mask register as captured (R297). -/
  msk : BitVec 16
  /-- Migration permission as captured (R323). -/
  perm : Bool
  uid : Nat
  core : Nat
  asid : Nat
  token : Reg
  seq : Nat
  /-- Elements performed. -/
  pos : Nat
  /-- FCTL bits [15:10] raised so far. -/
  flags : BitVec 6
  t2rsv : Bool
  /-- Block index of BADDQ. -/
  aux : Word
  /-- Generation its space-0x6 reads are bound to, once it is known. -/
  snap : Option Nat
  /-- Opening order of the issuer's snapshot that was current at the issue (R156). -/
  snapOrd : Option Nat
  /-- Task id of the issuer, and its thread on the core. -/
  tid : Nat
  thr : Nat
  /-- Bytes taken from fabric channels for the sources A, B and X, and bits of the last byte of a fabric destination not yet sent (R289). -/
  gotA : List Byte
  gotB : List Byte
  gotX : List Byte
  carry : Nat
  enqCycle : Nat
  /-- Values of the present step that are read and not yet written (R293), and the cause with which the command ends once they are written. -/
  kept : List Kept
  fault : Option (Cause × Detail)
  /-- Held page (R41): the hold id; and the access that was held, which goes on from condition 9 (R44). -/
  hid : Option Nat
  redo : Option EngRedo
  /-- A sampled error of one of its elements exceeded BOUND: its later elements take the exact path (R229). -/
  fb : Bool
  /-- Window of the quantum of its ENQ (R452). -/
  win : Nat
  /-- Address of the record of a vector operation's B, which a SHAPEBAD names (R393). -/
  boff : Word
deriving DecidableEq, Repr

/-- A boundary cause that is due (R392, R396). -/
structure Pending where
  cause : Cause
  det : Detail
  /-- It was not taken at the unit's last stop, so it waits until the unit has run again (R396). -/
  late : Bool := false
  /-- The fault of a stepped unit's command, which is taken at a step boundary (R419). -/
  eng : Bool := false
  /-- Of these, a vector instruction's: it stops the unit also where that is no longer stepped (R296). -/
  vec : Bool := false
  /-- A routed DLMISS whose message could not be placed: it is not routed again (R271). -/
  noRoute : Bool := false
deriving DecidableEq, Repr

/-- What an instruction that waits at issue has met already: a SEND or REPLY without a refusal slot, with the message it read at its issue (R181,
R267), or a JOINW or BARWAIT without a join slot (R261). -/
inductive Stall where
  | no
  | send (m : Msg)
  | join
deriving DecidableEq, Repr

/-- The context of a unit of work: everything that moves with it into a slot and back (R400). -/
structure Ctx where
  /-- The model's handle of the unit. -/
  uid : Nat
  kind : UnitKind
  pc : Word
  /-- Peg words 1 and 2 (R164). -/
  w1 : Word
  w2 : Word
  x : Vector Word 64
  /-- FEBITS (R193). -/
  full : Vector Bool 64
  f : Vector Word 32
  m : Vector (BitVec 16) 16
  /-- v0 to v15 as 4,096 bytes. -/
  v : Tbl Byte
  fctl : Word
  warn : Word
  apxctl : Word
  dlmode : Word
  tmpl : BitVec 16
  perm : Bool
  snaps : Vector (Option Snap) 4
  watches : List Watch
  /-- Values of producers in flight, by register (R193). -/
  producers : List (Nat × Word)
  /-- Values that ended watches are sending to their registers (R249). -/
  watchFills : List WatchFill
  vq : List Cmd
  ops : List InFlight
  opSeq : Nat
  pend : List Pending
  sends : List Msg
  wait : Wait
  stall : Stall
  /-- Elements counted for R228. -/
  apxCount : Nat
  /-- The next instruction is not matched by a breakpoint (R416). -/
  brkPass : Bool
  /-- A held access that is reissued: its instruction goes on from condition 9 of R40 (R44). -/
  redo : Option Redo
  /-- Registers whose LDNB has not returned its value (R101). -/
  ldnbs : List Nat
  /-- Registers whose parity is wrong (R71): file (0 x, 1 f, 2 m, 3 v) and the number of the register, of v the number of its 8 bytes. -/
  badRegs : List (Nat × Nat)
  /-- How many of these, the first, were not taken at the unit's last stop: they wait until it has run again (R396). -/
  badLate : Nat
  /-- A quantum-served request is being served (R391). -/
  served : Bool
  /-- The issue stamp at its last migration; 0: it has not moved. Accesses issued before it come before any new one (R102). -/
  after : Nat
  /-- Fills of x registers so far, for SLEEP (R414). -/
  fills : Nat
  /-- Bytes that a peer has returned for the waiting instruction's read of more than 8 bytes; it goes on with them (R35, R260, R278). -/
  wide : List Byte
  /-- The waiting instruction's DDMASK, once its bits are found (R365). -/
  maskJob : Option MaskJob
  /-- The unit is to be descheduled at its next boundary (R407). -/
  desched : Bool
  enqt : Word
  deqt : Word
  enqLcore : Nat
  stolen : Bool
deriving DecidableEq, Repr

/-- A stop that waits for a free slot (R397). -/
structure Stopped where
  kind : Nat
  cause : Nat
  det : Detail
  /-- Age stamp of the stop. -/
  age : Nat
deriving DecidableEq, Repr

/-- One of the five threads of a core (R162). The context keeps its registers while the thread is idle. -/
structure Thread where
  running : Bool
  ctx : Ctx
  stopped : Option Stopped
  /-- Its context is in a slot, and the thread waits until the record of its stop is in the ring (R397, R398). -/
  noting : Bool
  /-- Vector instructions of units that have ended on the thread, oldest first: they stay in its queue (R219, R293). -/
  past : List Cmd
  retired : Nat
  run : Nat
  search : Nat
  waitSum : Nat
  units : Nat
deriving DecidableEq, Repr

/-- A peg (R164) with what the model keeps beside it: its stamps (R421). -/
structure Peg where
  w : Vector Word 8
  enqt : Word
  enqLcore : Nat
  stolen : Bool
  /-- Its place in the spill area while it is no longer among the newest 64 (R167). -/
  spill : Option Nat := none
  /-- While it lies in the hardware deque: its words that the code can correct, and those that it cannot (R71). -/
  weak : List Nat := []
  bad : List Nat := []
deriving DecidableEq, Repr

/-- What a ready-queue entry holds (R163). -/
inductive Ready where
  | peg (p : Peg)
  | msg (chan hdr len : Nat)
  | refusal (slot : Nat)
  /-- A resumed context (R403). -/
  | ctx (c : Ctx)
deriving DecidableEq, Repr

/-- A ready-queue entry with its age stamp: a smaller stamp is older. -/
structure ReadyEntry where
  age : Nat
  enqt : Word
  item : Ready
deriving DecidableEq, Repr

/-- A join slot (R261, R275). `value` is the wake's value once it has been sent. -/
structure JoinSlot where
  peg : Peg
  dest : Reg
  /-- The record or object as the instruction named it. -/
  va : Word
  barrier : Bool
  phase : Word
  value : Option Word
  window : Nat
deriving DecidableEq, Repr

/-- The requests an ATE performs (R70, R243, R245, R274, R275, R261, R262, R344, R336). Locations are memory keys. -/
inductive AteOp where
  /-- `fn` as in R197, `size` 4 or 8. -/
  | amo (fn size : Nat) (loc : Nat) (opnd : Word) (uid : Nat) (d : Reg)
  | cas (size : Nat) (loc : Nat) (exp new : Word) (uid : Nat) (d : Reg)
  | barriv (loc window : Nat)
  /-- `slot` is the join slot taken on `core`. -/
  | barwait (loc : Nat) (phase : Word) (uid core slot : Nat) (d : Reg)
  | joinw (loc : Nat) (uid core slot : Nat) (d : Reg)
  | jdec (loc : Nat) (va status : Word) (uid window : Nat)
  | bqtake (loc : Nat) (uid : Nat) (d : Reg)
  | bytes (loc n core op window : Nat)
  /-- The decrement of a completion's SIG counter by the scheduling hardware (R388), with the rest of the completion: partition, queue, index,
  QCB and status. -/
  | dec (loc asid qid index qcb : Nat) (status : Word)
  /-- The count of a completion in DONE of an unmapped queue's QCB (R388), with the rest of the completion; `wrapped`: SIG was 0. -/
  | count (loc asid qid index : Nat) (status : Word) (wrapped : Bool)
  /-- A done message: the record's key and address, the status, the task id, the launch and the window (R172). -/
  | done (loc : Nat) (va status : Word) (tid asid window : Nat)
  /-- An ordinary load or store of a thread to a held line, forwarded (R69): `fp` a load into an f register. -/
  | read (loc size : Nat) (signed : Bool) (uid : Nat) (d : Reg) (fp : Bool)
  | write (loc size : Nat) (v : Word) (uid : Nat)
  /-- A timed access to a held line at its time, by its issue number (R115). -/
  | timed (loc order : Nat)
  /-- A read of an engine, of a port, or of a thread beyond one register, at a held line (R69): its turn, for operation `seq` of unit `uid`. -/
  | pass (loc uid seq : Nat)
  /-- A write of the bits of `mask` in `size` bytes of a held line (R69), by operation `seq` of unit `uid`. -/
  | put (loc size value mask uid seq : Nat)
  /-- An access of system core `sc` to a held line (R69). -/
  | sys (loc size : Nat) (store : Bool) (v : Word) (sc : Nat)
deriving DecidableEq, Repr

/-- A request waiting at an ATE's input: its arrival cycle and its rank among requesters (R70). -/
structure AteReq where
  arrival : Nat
  /-- (die, row, column, thread) in one number; 0 for the scheduling hardware, one more for others. -/
  rank : Nat
  op : AteOp
deriving DecidableEq, Repr

/-- A waiter registered at an ATE (R261, R275). -/
structure Waiter where
  loc : Nat
  core : Nat
  slot : Nat
  barrier : Bool
  phase : Word
deriving DecidableEq, Repr

/-- The contributions counted at a record or object of a deterministic launch, by the window in which their instruction retired (R452): arrivals, or
contributions to a record, and bytes; how many of each the phases that are complete have taken; and, of a phase that woke waiters, its number, what had
been taken with it, and the waiters. -/
structure Wins where
  arr : Tbl Nat
  bytes : Tbl Nat
  usedA : Nat
  usedB : Nat
  marks : List (Nat × Nat × Nat × List Waiter)
deriving DecidableEq, Repr

/-- The atomic engine of a bay (R68 to R70). -/
structure Ate where
  input : List AteReq
  /-- Lines in the hot-line store, most recently used first (R69). -/
  hot : List Nat
  waiters : List Waiter
  /-- Dispatcher registrations: counter, partition, hardware slot (R381). -/
  deps : List (Nat × Nat × Nat)
  /-- The contributions counted so far, by record or object (R452). -/
  wins : Tbl Wins
  /-- The first cycle in which it accepts again: at most one request per cycle (R70). -/
  nextAt : Nat
deriving DecidableEq, Repr

/-- A watermark channel (R97, R336). -/
structure Wmark where
  w : Word
  base : Nat
  limit : Nat
  /-- Landed ranges above the watermark. -/
  landed : List (Nat × Nat)
  busy : Bool
deriving DecidableEq, Repr

/-- Source elements of a copy whose page was held when they were to be read (R41): the destination index of the first, how many there are, the hold, and when
it joined its notification. Reading goes on beyond them; a replay reads them. -/
structure Gap where
  first : Nat
  count : Nat
  hid : Option Nat
  stamp : Nat
  /-- The access that was held (R44). -/
  redo : Option EngRedo
deriving DecidableEq, Repr

/-- A packet of a copy (R329): the destination index of its first element, its element count, and its bytes. -/
structure Packet where
  first : Nat
  count : Nat
  bytes : List Byte
  /-- Held page of its writes (R41), and the write that was held (R44). -/
  hid : Option Nat
  redo : Option EngRedo
  /-- When the page joined its notification; a replayed packet keeps its place among the others of its command (R44). -/
  stamp : Option Nat
  /-- Elements (of a landing handler's output: bytes) already written. -/
  pos : Nat
  /-- The landing handler has run: the address its DONE gave, where the bytes are to be written (R335). -/
  landAt : Option Word
  /-- Its writes to a peer that are not acknowledged (R330). -/
  acks : Nat
deriving DecidableEq, Repr

/-- A copy command in flight (R333 to R338). -/
structure CopyOp where
  cmd : Cmd
  /-- Elements read so far. -/
  read : Nat
  /-- When its request reached the streamers (R329). -/
  arrival : Nat
  /-- The unit that holds the elements read but not sent (R329). -/
  unit : Nat
  gaps : List Gap
  packets : List (Nat × Packet)
  nextPkt : Nat
  /-- Bytes whose count waits for the barrier object's translation, and its hold (R337). -/
  barWait : Nat
  barHid : Option Nat
  /-- Key of a barrier object in space 0x4, once translated (R337). -/
  barLoc : Option Nat
  /-- ATE updates sent and not applied. -/
  barOut : Nat
  fault : Option (Cause × Detail)
  /-- Destination index of the source element whose cause ended the reading (R337). -/
  faultAt : Nat
deriving DecidableEq, Repr

/-- A timed access at a home (R116, R117). -/
structure Timed where
  store : Bool
  loc : Nat
  size : Nat
  data : Word
  t : Word
  skew : Nat
  uid : Nat
  tid : Nat
  core : Nat
  thread : Nat
  reg : Reg
  va : Word
  dlmode : Word
  throttle : Bool
  unlocked : Bool
  /-- Home-time of arrival. -/
  arr : Word
  onTime : Bool
  order : Nat
  /-- Number of the STVA's entry in its unit's in-flight table (R420). -/
  op : Nat
  /-- The launch for which a peer sent it (R132); none for a package's own. -/
  peer : Option Nat
deriving DecidableEq, Repr

/-- The timed buffers of a home and the accesses waiting at its input (R122). -/
structure TimedBuf where
  incoming : List Timed
  stores : List Timed
  loads : List Timed
  /-- Accesses at their time, forwarded to the ATE that holds their line (R115). -/
  fwd : List Timed
deriving DecidableEq, Repr

/-- The outcome of an STVA on its way back (R124). -/
structure StvaOutcome where
  acc : Timed
  missed : Bool
deriving DecidableEq, Repr

/-- A mask of the matrix engine (R319). -/
structure MeMask where
  kind : Nat
  moff : Nat
  noff : Nat
  w : Nat
  fill : BitVec 32
  /-- Enabled (n, m) positions of KIND 3, as n + 64 m. -/
  bitmap : List Nat
deriving DecidableEq, Repr

/-- The matrix engine of a core (R305, R319, R395). -/
structure Me where
  /-- acc(m, n) at 64 m + n. -/
  acc : Tbl (BitVec 36)
  /-- 1: INT32 mode. -/
  int32 : Bool
  chain : Bool
  mask : MeMask
  /-- The mask under which a chain that was moved here runs (R325). -/
  guest : MeMask
  fenced : Bool
  /-- A bond lane has failed: the next vertical read finds it (R395). -/
  bondBad : Bool
deriving DecidableEq, Repr

/-- APXMON (R228). -/
structure Apxmon where
  maxErr : Nat
  exc : Bool
  samples : Nat
  bins : Vector Nat 16
deriving DecidableEq, Repr

/-- What MBQ shows in a deterministic launch (R265): messages waiting and parked by channel, free bytes, refusal slots in use. -/
structure MbView where
  wait : Tbl Nat
  park : Tbl Nat
  free : Nat
  slots : Nat
deriving DecidableEq, Repr

/-- The delivery state of a core in a deterministic launch (R184, R185, R390). -/
structure Det where
  quantum : Nat
  count : Nat
  /-- Quanta the core has ended. -/
  ended : Nat
  /-- Windows the receiver has closed. -/
  closed : Nat
  parked : List Msg
  parkedRef : List RefusalMsg
  /-- Ring offsets of messages the next close waits for. -/
  owed : List Nat
  /-- Slots of refusals that came while channel 255 was open. -/
  owedRef : List Nat
  /-- Messages of this core that wait for room in the park region (R185). -/
  waiting : List Msg
  /-- Park bytes counted, by window. -/
  quota : Tbl Nat
  /-- MBQ's view at the last close. -/
  view : MbView
deriving DecidableEq, Repr

/-- A cached translation (R31): page level 1, 2 or 3, its page number and its entry. -/
structure Tlb where
  asid : Nat
  level : Nat
  page : Nat
  frame : Nat
  w : Bool
  x : Bool
deriving DecidableEq, Repr

/-- A non-leaf entry in a die's walk cache (R31): the launch, the level read, the address bits down to that level, and the next table. -/
structure PathEntry where
  asid : Nat
  level : Nat
  pre : Nat
  table : Nat
deriving DecidableEq, Repr

/-- An accepted invalidation that has not completed (R49, R50): its sequence number, scope (1 page, 2 launch, 3 all), launch, first address and
bytes of the page, the dies named, and the last access stamp and the cycle before it was accepted. -/
structure InvCmd where
  seq : Nat
  scope : Nat
  asid : Nat
  va : Nat
  bytes : Nat
  dies : Nat
  stamp : Nat
  cycle : Nat
  /-- Inbound RMA requests accepted before it and not yet applied (R51). -/
  rma : Nat
  /-- Its translations are removed: the system cores' stores before it are performed (R50). -/
  removed : Bool
deriving DecidableEq, Repr

/-- What an access does where it leaves a loopback port (R58): a load (into an f register with `fp`), a store, the turn of operation `seq` of its unit at
a line, the bits of `mask` that operation `seq` writes, or a timed access, which goes on to its home. -/
inductive LoopAct where
  | load (signed : Bool) (dest : Reg) (fp : Bool)
  | store (value : Word)
  | pass (seq : Nat)
  | put (value mask seq : Nat)
  | timed (a : Timed)
deriving DecidableEq, Repr

/-- An access at a core's loopback port, or at a scratchpad that is being streamed to another core. -/
structure LoopReq where
  uid : Nat
  /-- Its rank where the line is held and an ATE performs it (R70). -/
  rank : Nat
  loc : Nat
  size : Nat
  act : LoopAct
deriving DecidableEq, Repr

/-- A turn that an ATE or a loopback port has given to an access of more than one element or of an engine: the line as it stood at the turn, for
operation `seq` of a unit (R58, R69). -/
structure Turn where
  line : Nat
  uid : Nat
  seq : Nat
  bytes : List Byte
deriving DecidableEq, Repr

/-- A request at a core's SFU (R301): one step, from element `pos` on, of operation `seq` of a unit; `stream`: of a vector-stream command. -/
structure SfuReq where
  uid : Nat
  seq : Nat
  pos : Nat
  stream : Bool
  /-- FB as it stood when the request entered the queue (R229). -/
  fb : Bool
deriving DecidableEq, Repr

/-- A Prolin core (R2, R162). -/
structure Core where
  /-- The launch whose core this is. -/
  asid : Option Nat
  lcore : Nat
  /-- The core holds a context (false after it has migrated away). -/
  holds : Bool
  /-- The core now holding the context that left this one (R409). -/
  scarf : Option Nat
  /-- Migration under way to a target; accesses and messages that wait there. -/
  migrating : Option Nat
  /-- The die whose CXCMD started that migration (R402). -/
  migDie : Nat
  maxGtime : Word
  threads : Vector Thread 5
  dlstat : Word
  dlrecs : Word
  dlrect : Word
  dlrech : Word
  dlreca : Word
  apxmon : Apxmon
  slott : Word
  /-- DQCFG.SPILL and BASE. -/
  spill : Nat
  dqBase : Nat
  /-- Newest peg first. -/
  deque : List Peg
  /-- MBCFG. -/
  mbHead : Nat
  mbUsed : Nat
  mbSize : Nat
  mbBase : Nat
  rfBase : Nat
  /-- Task table entries by channel (R173). -/
  chans : Tbl Word
  routeDdfull : Option Nat
  routeDlmiss : Option Nat
  ready : List ReadyEntry
  /-- Placed messages of blocked or unset channels, not in the ready queue (R173). -/
  heldMsgs : List ReadyEntry
  sendSeq : Nat
  /-- Refusal slots in use without a refusal, and refusals by slot (R181). -/
  refOut : Nat
  refusals : Tbl RefusalMsg
  inbound : List Msg
  refIn : List RefusalMsg
  joins : Tbl JoinSlot
  tidCount : Nat
  wmarks : Vector Wmark 8
  mq : List Cmd
  vsq : List Cmd
  /-- The SFU's queue of requests, first in first out (R301). -/
  sfu : List SfuReq
  cq : List Cmd
  copies : Tbl CopyOp
  nextCopy : Nat
  me : Me
  fabric : Vector (List Byte) 8
  /-- The loopback port, oldest first (R58). -/
  loop : List LoopReq
  /-- Scalar accesses that reached the scratchpad while its context is being streamed to another core, oldest first (R25, R408). -/
  arrivals : List LoopReq
  timed : TimedBuf
  outcomes : List StvaOutcome
  det : Det
  stealOk : Nat
  stealFail : Nat
  msgPlaced : Nat
  msgRefused : Nat
  idleSlots : Nat
  startCycle : Nat
  /-- Ready-queue entries so far, for SLEEP (R414). -/
  queued : Nat
  /-- The micro-TLB (R31). -/
  tlb : List Tlb
deriving DecidableEq, Repr

/-- The states of a GTU (R109). -/
inductive GtuState where
  | free | relock | locked | holdover
deriving DecidableEq, Repr

/-- The global time unit of a die (R104 to R110). -/
structure Gtu where
  count : Word
  state : GtuState
  offs : Int
  losses : Nat
  /-- DELAY of the last successful exchange (R106), and the period of 16,000 grandmaster ticks in which the last exchange was made. -/
  delay : Int
  period : Nat
  good : Nat
  bad : Nat
  /-- Adjustment in force, and ticks since it began. -/
  slew : Int
  since : Nat
deriving DecidableEq, Repr

/-- Who is held at a fault-hold entry (R41). -/
inductive Holder where
  | thread (uid : Nat)
  /-- Queue 0 matrix, 1 vector-stream, 2 copy, 3 a thread's vector queue (with its unit). -/
  | engine (core queue uid : Nat)
  /-- A timed access to space 0x5 whose thread has gone on: its request id (R36, R133). -/
  | request (req : Nat)
deriving DecidableEq, Repr

/-- An access held, or stalled for an entry (R41, R46). -/
structure Held where
  hid : Nat
  asid : Nat
  space : Nat
  peer : Nat
  vag : Nat
  /-- The address whose translation failed (R44). -/
  addr : Nat
  reason : Nat
  kind : AccKind
  cause : Cause
  va : Word
  /-- Bytes of the access, where a kill reports them (R393). -/
  size : Nat
  who : Holder
deriving DecidableEq, Repr

/-- An open notification (R42). `written`: its record is in the ring. -/
structure Notif where
  hid : Nat
  asid : Nat
  space : Nat
  peer : Nat
  vag : Nat
  reason : Nat
  fetch : Bool
  kind : AccKind
  cause : Cause
  written : Bool
deriving DecidableEq, Repr

/-- A context slot of a die's stop store (R397, R400). -/
structure Slot where
  ctx : Ctx
  kind : Nat
  cause : Nat
  more : Bool
  det : Detail
  asid : Nat
  lcore : Nat
  core : Nat
  thread : Nat
  /-- A resume in a deterministic launch waits for the end of this quantum of the core that holds LCORE `resumeOn` (R403). -/
  resumeAt : Option Nat
  resumeOn : Nat
deriving DecidableEq, Repr

/-- A stop-ring record (R398) as its 128 bits. -/
structure StopRec where
  kind : Nat
  slot : Nat
  cause : Nat
  asid : Nat
  lcore : Nat
  tid : Nat
  /-- The thread of the LCORE that waits for the record (R398). -/
  thr : Option Nat := none
  /-- The system core whose notice it is: its class is raised at the others (R406). -/
  sc : Option Nat := none
deriving DecidableEq, Repr

/-- A compute die. -/
structure Die where
  gtu : Gtu
  /-- The walk cache (R31). -/
  walks : List PathEntry
  invIssued : Nat
  invDone : Nat
  /-- Commands accepted on this die and not complete, oldest first. -/
  invPend : List InvCmd
  held : List Held
  stalled : List Held
  notifs : List Notif
  nextHid : Nat
  nring : Tbl (BitVec 128)
  nwr : Nat
  nrd : Nat
  fhFull : Bool
  fhErr : Bool
  slots : Tbl Slot
  stopRing : Tbl (BitVec 128)
  stopNext : Nat
  stopWait : List StopRec
  mfail : Bool
  cxFull : Bool
  cxBusy : Bool
  cxErr : Bool
  thrs : Word
  /-- THRS.RAMP: the current-ramp limiter holds back matrix issue (R437). -/
  ramp : Bool
  /-- The core-rail current at the last microsecond, in quarters of an ampere, and whether issue would have raised it faster than RAMPCTL allows (R437). -/
  amps : Nat
  rising : Bool
  floor : Nat
  /-- Microseconds under 90 % of every limit. -/
  under : Nat
  eccstat : Word
  eccaddr : Word
  /-- The cycle in which ECCADDR was filled, and the last granule logged in it (R76). -/
  eccAt : Nat
  eccTop : Nat
  irqrt : Word
  mc : TimedBuf
  /-- Operation-cache blocks given out (R356). -/
  cacheBlocks : Nat
deriving DecidableEq, Repr

/-- A bay: its ATE, its TLB (R31), and the timed buffers of its pool and vault. -/
structure Bay where
  ate : Ate
  tlb : List Tlb
  pool : TimedBuf
  vault : TimedBuf
deriving DecidableEq, Repr

/-- A formula binding (R139): its entry and its distinct precedents; `none` entry for a plain cell. -/
structure Binding where
  entry : Option Word
  prec : List Nat
deriving DecidableEq, Repr

/-- The states of a cell (R138, R161). -/
inductive CellState where
  | idle | written | closed | stale | ready | running | faulted | done
deriving DecidableEq, Repr

/-- An SDIR cell entry (R138). A tag is none for a free buffer. -/
structure Cell where
  etype : Nat
  rank : Nat
  ext : Vector Nat 4
  bufA : Word
  bufB : Word
  tagA : Option Nat
  tagB : Option Nat
  cgen : Nat
  bind : Binding
  /-- Changes waiting for a commit: the generation each is recorded against, and the binding. -/
  waiting : List (Nat × Binding)
  state : CellState
  cnt : Nat
  dist : Nat
  /-- Dependence counter of R145. -/
  counter : Nat
  /-- When a reclaim of its other buffer began to wait (R155). -/
  reclaim : Option Word
  /-- A buffer that is retagged and whose copy waits for the reads that resolved to it under its old tag (R155). -/
  copy : Option Bool
  /-- Task id of its formula task, from the hand-out on. -/
  task : Option Nat
deriving DecidableEq, Repr

/-- An accepted CST that has not completed: it waits for the reclaim of its target's other buffer (R143, R155). -/
structure PendCst where
  cell : Nat
  gen : Nat
  off : Nat
  count : Nat
  srcOff : Nat
  core : Nat
  uid : Nat
deriving DecidableEq, Repr

/-- The sheet directory of a partition (R135 to R160). -/
structure Sdir where
  cells : Tbl Cell
  pgen : Nat
  recalc : Bool
  /-- The recalculating generation has closed (R144). -/
  closedGen : Bool
  waitc : Bool
  /-- Notice sent: the generation and TP (R149). -/
  notice : Option (Nat × Word)
  /-- Dies 0 to 3 and the sill die that have acknowledged. -/
  acks : List Nat
  released : Bool
  shcfg : Word
  shpubt : Word
  /-- Accepted CSTs that have not completed, oldest first. -/
  csts : List PendCst
  /-- Units whose requests wait unaccepted behind a waiting commit, in arrival order (R144). -/
  waitq : List Nat
  /-- Units whose CST waits unaccepted for a publication, in arrival order (R143). -/
  pubq : List Nat
  tidCount : Nat
  /-- ABANDONs that wait for the CSTs of the recalculating generation: unit and destination (R159). -/
  abandonq : List (Nat × Reg)
  /-- Snapshots of units between suspension and resumption, by task id (R156). -/
  parked : List (Nat × Vector (Option Snap) 4)
  /-- Freed buffers into which the engine commands of discarded formula tasks write no more: task id, address, bytes (R160). -/
  lost : List (Nat × Word × Nat)
  /-- Task ids that take GENABANDON when they next run, with its details: suspended formula tasks of a discarded generation, and suspended units
  whose explicit snapshot was waiting for one (R153, R160). -/
  gone : List (Nat × Detail)
deriving DecidableEq, Repr

/-- A hardware queue slot (R376, R379) with the queue it maps. -/
structure Hqs where
  v : Bool
  qcb : Nat
  qid : Nat
  bpri : Nat
  logsz : Nat
  ring : Nat
  head : Nat
  tail : Nat
  done : Nat
  /-- The head waits on a registered DEP counter. -/
  depw : Bool
  /-- The head is ready, since this time (ticks, or quanta in a deterministic launch). -/
  readySince : Option Nat
  /-- Last time it had a ready head, or its mapping (R380). -/
  idleSince : Nat
deriving DecidableEq, Repr

/-- A root in flight: where its completion goes (R388). -/
structure Root where
  /-- Key of the completion record. -/
  loc : Nat
  qid : Nat
  index : Nat
  qcb : Nat
  sig : Word
deriving DecidableEq, Repr

/-- An entry of the hardware task queue (R387). -/
structure TaskEntry where
  age : Nat
  root : Bool
  peg : Peg
deriving DecidableEq, Repr

/-- A queue the firmware knows: its id and QCB address (R374), and when it became pending. -/
structure UserQ where
  qid : Nat
  qcb : Nat
  pendSince : Option Nat
deriving DecidableEq, Repr

/-- The dispatcher and task queue of a partition (R374 to R388). -/
structure Sched where
  schcfg : Word
  slots : Vector Hqs 16
  queues : List UserQ
  roots : List Root
  rootCount : Nat
  taskq : List TaskEntry
  /-- Cores with a pull outstanding, each with the quantum and the cycle of its pull: the oldest first, and of one cycle the least core (R387). -/
  pulls : List (Nat × Nat × Nat)
  /-- Cycle of the last selection. -/
  lastSel : Option Nat
  quanta : Nat
  /-- Host kicks waiting for an end of quantum (R391): queue and tail. -/
  kicks : List (Nat × Nat)
deriving DecidableEq, Repr

/-- A share entry (R39): sizes and bases in units of 64 KiB. -/
structure Share where
  psize : Nat
  pbase : Nat
  vsize : Nat
  vbase : Nat
deriving DecidableEq, Repr

/-- A peer-table entry (R34, R39). -/
structure Peer where
  v : Bool
  pasid : Nat
  ports : Nat
  ep : Word
deriving DecidableEq, Repr

/-- A shadow-table entry (R340). -/
structure Shadow where
  name : Word
  size : Nat
  sel : Bool
deriving DecidableEq, Repr

/-- What a quantum-served request asks (R389): a pull; a cell request with its FN of major 0x49; a BQTAKE of the object at a memory key;
a decision-diagram request with its FN of major 0x51 (32 DDITE) and operands; an access to DDLIM or DDORD with its major. -/
inductive QOp where
  | pull
  | cell (fn : Nat) (a b : Word) (desc : List Word)
  | bqtake (loc : Nat) (a : Word)
  | dd (fn : Nat) (a b c : Word)
  | ctl (major num : Nat) (a : Word)
deriving DecidableEq, Repr

/-- A quantum-served request: the issuing core and thread, its unit, its LCORE, the quantum of issue, its destination. -/
structure QReq where
  core : Nat
  thread : Nat
  uid : Nat
  lcore : Nat
  quantum : Nat
  dest : Reg
  op : QOp
deriving DecidableEq, Repr

/-- The diagram space of a partition (R349 to R353, R370). Nodes and buckets lie in device memory. -/
structure Dds where
  srvdie : Nat
  nodeBase : Nat
  bktBase : Nat
  nn : Nat
  nb : Nat
  ocsh : Nat
  vars : Nat
  alloc : Nat
  limit : Nat
  freeHead : Nat
  /-- Operation-cache hits and misses since DDINIT (R369). -/
  hits : Nat
  misses : Nat
deriving DecidableEq, Repr

/-- A monitor (R423, R424). -/
structure Monitor where
  cfg : Word
  edges : Vector Word 4
  min : Nat
  max : Nat
  count : Nat
  bins : Vector Nat 16
  /-- The samples of the present cycle, each with its bin: a CLR of that cycle comes before them (R424). -/
  now : List (Nat × Nat)
deriving DecidableEq, Repr

/-- The debug block of a partition (R415 to R426). -/
structure Debug where
  bpCtl : Vector Word 8
  bpAddr : Vector Word 8
  step : Word
  trccfg : Word
  trcnext : Nat
  rplctl : Word
  rplbase : Word
  rpllen : Word
  rpldiv : Word
  rplexp : Word
  rplobs : Word
  /-- Entries of the recording written or compared so far. -/
  rplpos : Nat
  /-- Comparison has ended after a mismatch with ONDIV = 1 (R426). -/
  rplfree : Bool
  mons : Vector Monitor 4
deriving DecidableEq, Repr

/-- What the Dreith service fixes at launch (R372 and the rules it names). -/
structure Launch where
  /-- Enabled bents as die * 288 + bent index; reserve bents are in `mask` only (R23, R408). -/
  mask : List Nat
  ptbase : Nat
  shares : Tbl Share
  peers : Tbl Peer
  shadows : Tbl Shadow
  privileged : Bool
  deterministic : Bool
  gang : Bool
  widest : Nat
  fctl0 : Word
  warn0 : Word
  apxctl0 : Word
  dlmode0 : Word
  tmpl0 : BitVec 16
  ftmpl : BitVec 16
  idBase : Nat
  /-- Core number of each LCORE, by LCORE. -/
  lcores : Tbl Nat
  qwin : Word
  parkSize : Nat
deriving DecidableEq, Repr

/-- A HALT that has retired: quantum, GTIME, LCORE and status (R413). -/
structure HaltRec where
  quantum : Nat
  time : Word
  /-- The cycle in which it retired. -/
  cycle : Nat
  lcore : Nat
  status : Word
deriving DecidableEq, Repr

/-- A partition with its launch (R372). -/
structure Partition where
  launch : Launch
  warnSum : Word
  halts : List HaltRec
  stopping : Bool
  frozen : Bool
  wdcfg : Word
  /-- Cycle of the last progress the watchdog saw. -/
  wdLast : Nat
  enk : Word
  enkCore : Word
  enkTime : Word
  sdir : Sdir
  sched : Sched
  dbg : Debug
  /-- Task ids of suspended units for which a DLMISS waits (R129). -/
  missed : List Nat
  /-- The causes that wait for suspended units, by task id: of vector instructions that went on without their unit (R296), and those that a unit had not taken
  when it was suspended. -/
  faulted : List (Nat × Cause × Detail)
  /-- Elements that units which have ended had counted for R228, while their .A commands go on. -/
  apxPast : Tbl Nat
  ddords : Tbl Word
  qreqs : List QReq
deriving DecidableEq, Repr

/-- A launch request the Dreith service carries out (R372): the launch, the bents of the partition and reserve bents, gateway ports, SLOTT,
and the user queues with their QCBs. -/
structure LaunchReq where
  asid : Nat
  bents : List Nat
  reserve : List Nat
  gateways : List Nat
  launch : Launch
  slott : Word
  queues : List (Nat × Nat)
  /-- The 64 bytes of a DDINIT descriptor, as a number; 0 where the request asks for no diagram space (R370). -/
  diagram : Nat
  /-- Ranges of device memory to clear: first address, bytes (R55). -/
  clear : List (Nat × Nat)
  /-- RPLCTL, RPLBASE and RPLLEN as written before the launch starts (R425). -/
  rplctl : Word
  rplbase : Word
  rpllen : Word
  /-- Digest of the code of a privileged launch, which the service measures (R433). -/
  code : List Byte := []
deriving DecidableEq, Repr

/-- The grandmaster as an ordinary clock of IEEE 1588-2019 at its port (R112): the best foreign master heard, as its data set in the order of comparison
and its identity; the last Sync with its sequence number, its receipt and, once known, its origin time; the delay request that is out with its departure;
the path delay and the last measured offset. Times are in ticks. -/
structure Ptp where
  best : Option (List Nat × Nat)
  syncSeq : Option Nat
  syncIn : Int
  syncOut : Option Int
  reqSeq : Nat
  reqOut : Option Int
  delay : Option Int
  offset : Option Int
  /-- An offset was measured in this interval, and one that exceeded the bound then published (R114). -/
  measured : Bool
  exceeded : Bool
deriving DecidableEq, Repr

/-- A remote request outstanding at a peer (R35, R36). -/
structure RemoteReq where
  id : Nat
  asid : Nat
  uid : Nat
  core : Nat
  thread : Nat
  /-- The port by which it left (R67). -/
  port : Nat
  write : Bool
  fp : Bool
  va : Word
  size : Nat
  signed : Bool
  dest : Reg
  value : Word
  timed : Option Timed
  /-- The copy of the core, and its packet, whose element access this is, and the bits of the bytes that a write changes (R329, R330). -/
  copy : Option (Nat × Nat)
  mask : Word
  /-- It failed at the peer or in transport and is held at the requesting die (R36). -/
  held : Bool
deriving DecidableEq, Repr

/-- What a timed inbound access carries (R124, R132): its time, the requester's BOUND, and the throttle bit of the issuer's die. -/
structure RmaTime where
  t : Word
  bound : Nat
  throttle : Bool
deriving DecidableEq, Repr

/-- An inbound RMA access of `size` bytes (R103, R427); `data` are the bytes of a write. `sent`: its writes are on their way to lines that an ATE holds. -/
structure RmaReq where
  asid : Nat
  va : Word
  write : Bool
  size : Nat
  data : List Byte
  timed : Option RmaTime
  sent : Bool := false
deriving DecidableEq, Repr

/-- What the device has sent to the host (R388, R413, R428, R433, R429). -/
inductive HostOut where
  | completion (asid qid index : Nat) (status : Word) (sigWrapped : Bool)
  | launchEnd (asid : Nat) (status warn : Word)
  | openReply (status session : Nat) (ifaces : List (Nat × Option Nat)) (isafeat : Word) (certificate : List Byte)
  | quote (bytes signature : List Byte)
  | notSupported (req : Nat)
  /-- The bytes of an inbound read, or of a peer's LDNB, then with the unlocked bit (R103, R132). -/
  | rmaRead (asid : Nat) (va : Word) (data : List Byte) (unlocked : Bool)
  /-- The acknowledgement of an inbound write (R35). -/
  | rmaWritten (asid : Nat) (va : Word)
  | rmaFail (asid : Nat) (va : Word) (reason : Nat)
  /-- The outcome of a peer's STVA: its arrival time, and whether it was missed, with the unlocked and the throttle bit (R124, R132). -/
  | rmaOutcome (asid : Nat) (va arr : Word) (missed unlocked throttle : Bool)
  /-- The answer to a request through an interface that is absent in its session: status 2 (R428). -/
  | refused (session status : Nat)
  /-- BOOTWHY, as a session has asked (R432). -/
  | bootwhy (session : Nat) (value : Word)
deriving DecidableEq, Repr

/-- A session (R428): its id and the version agreed for each interface. -/
structure Session where
  id : Nat
  ifaces : List (Nat × Option Nat)
deriving DecidableEq, Repr

/-- What the host asks of the service (R377, R428, R432, R436, R437): to start a launch, to kick a queue, to write words of mappings and of peer and shadow tables,
to write a register of the power block, to read BOOTWHY, a full reset, to write a register of a debug block. -/
inductive HostAsk where
  | launch (r : LaunchReq)
  | kick (asid qid tail : Nat)
  | memory (words : List (Word × Word))
  | power (addr value : Word)
  | bootwhy
  | reset
  | debug (addr value : Word)
deriving DecidableEq, Repr

/-- A request of the host in a session. -/
structure HostReq where
  session : Nat
  ask : HostAsk
deriving DecidableEq, Repr

/-- The I3C target port (R429). -/
structure I3c where
  dynAddr : Option Nat
  response : List Byte
  /-- Bytes of the last private read or CCC read. -/
  out : List Byte
  nacked : Bool
  ibiOn : Bool
  /-- Kept events and events raised, oldest first. -/
  kept : List Nat
  raised : List Nat
  mwl : Nat
  mrl : Nat
  rstact : Nat
  hdr : Bool
deriving DecidableEq, Repr

/-- A RISC-V system core (R8, R399, R406): its registers as RV64GC and the RISC-V privileged architecture name them (log 84, PRESUMED), and what the rest of the
package sees of it. `mode` is 0 user, 1 supervisor, 3 machine. -/
structure SysCore where
  x : Vector Word 32
  f : Vector Word 32
  fcsr : Word
  pc : Word
  mode : Nat
  mstatus : Word
  medeleg : Word
  mideleg : Word
  mie : Word
  mtvec : Word
  mscratch : Word
  mepc : Word
  mcause : Word
  mtval : Word
  stvec : Word
  sscratch : Word
  sepc : Word
  stval : Word
  satp : Word
  /-- Pending platform interrupts, which sip shows: class and die. -/
  pending : List (Nat × Nat)
  /-- The enable bits, and the number of the last interrupt taken (R399). -/
  sie : Word
  scause : Word
  frozen : Bool
  oint : Bool
  ocode : Nat
  scode : Nat
  dfaddr : Word
  dfsaddr : Word
  halted : Bool
  /-- Entered the ROM's escalation handler. -/
  escalated : Bool
  /-- Value its last load returned. -/
  loaded : Word
deriving DecidableEq, Repr

/-- The sill die and the package (R8, R104 to R114, R428 to R438). -/
structure Pkg where
  /-- Bents of the part that are disabled, as die * 288 + bent index (R4). -/
  harvested : List Nat
  gmCount : Word
  gmSlew : Int
  gmSince : Nat
  epoch : Word
  ext : Bool
  extPort : Nat
  extDomain : Nat
  extAllow : Nat
  ptp : Ptp
  skewb : Nat
  skewxValid : Bool
  skewxBound : Nat
  rampctl : Word
  pwrcap : Word
  starts : Nat
  lastf : Nat
  fails : Nat
  fallbk : Bool
  img : Bool
  rsrc : Nat
  minimal : Bool
  readyWritten : Bool
  /-- The package had reached PWRCAP at the last evaluation (R429, R436). -/
  atCap : Bool
  /-- The slot the last start ran first, and whether that start failed. -/
  lastFirst : Bool
  lastFailed : Bool
  bootsel : Bool
  meas : Vector (List Byte) 8
  imageA : List Byte
  imageB : List Byte
  sessions : List Session
  nextSession : Nat
  i3c : I3c
  sysCores : Vector SysCore 8
  remotes : List RemoteReq
  nextRemote : Nat
  rmaIn : List RmaReq
  launchReqs : List LaunchReq
  /-- Requests of the host that the service has not looked at, oldest first (R428). -/
  hostReqs : List HostReq
  hostOut : List HostOut
  /-- The resumes of deterministic launches, by the page of their recording: quantum and LCORE, oldest first (R403). -/
  resumes : Tbl (List (Nat × Nat))
deriving DecidableEq, Repr

/-- The state of the package. -/
structure State where
  /-- Bytes by memory key, in canonical form: keys rising, no byte that an unlisted key reads as. -/
  mem : List Host.Cell
  /-- Granules that hold an uncorrectable error (8-byte words of SRAM, 64-byte bursts of HBM), and correctable ones (R71). -/
  bad : List Nat
  weak : List Nat
  cores : Tbl Core
  bays : Tbl Bay
  dies : Vector Die 4
  parts : Tbl Partition
  /-- Diagram spaces by ASID (R349); DDINIT may name a partition that no launch uses (R370). -/
  spaces : Tbl Dds
  pkg : Pkg
  /-- Turns that have been given and are not used yet (R58, R69). -/
  turns : List Turn
  cycle : Nat
  /-- The model's own: steps that are due, oldest first. -/
  agenda : List Event
  /-- The model's own: the core and thread that issue next when no step is due. -/
  curCore : Nat
  curThread : Fin 5
  /-- The model's own: next unit handle, next age stamp, next count of a free value. -/
  nextUid : Nat
  nextAge : Nat
  freshCount : Nat
deriving DecidableEq, Repr

/-- Registers that no unit has used: zero, full, m all ones, control registers at their Reset values (R216, R206, R227, R125; log 1). -/
def Ctx.reset : Ctx where
  uid := 0
  kind := .none
  pc := 0
  w1 := 0
  w2 := 0
  x := Vector.replicate 64 0
  full := Vector.replicate 64 true
  f := Vector.replicate 32 0
  m := Vector.replicate 16 0xFFFF
  v := []
  fctl := 0
  warn := 0
  apxctl := 0x0000000400000800
  dlmode := 0
  tmpl := 0
  perm := false
  snaps := Vector.replicate 4 none
  watches := []
  producers := []
  watchFills := []
  vq := []
  ops := []
  opSeq := 0
  pend := []
  sends := []
  wait := .no
  stall := .no
  apxCount := 0
  brkPass := false
  redo := none
  ldnbs := []
  badRegs := []
  badLate := 0
  served := false
  after := 0
  fills := 0
  wide := []
  maskJob := none
  desched := false
  enqt := 0
  deqt := 0
  enqLcore := 0
  stolen := false

/-- An idle thread after reset. -/
def Thread.reset : Thread where
  running := false
  ctx := Ctx.reset
  stopped := none
  noting := false
  past := []
  retired := 0
  run := 0
  search := 0
  waitSum := 0
  units := 0

/-- Empty timed buffers. -/
def TimedBuf.reset : TimedBuf where
  incoming := []
  stores := []
  loads := []
  fwd := []

/-- The mask at the start of a launch: KIND 0 (R305). -/
def MeMask.reset : MeMask where
  kind := 0
  moff := 0
  noff := 0
  w := 0
  fill := 0
  bitmap := []

/-- The matrix engine at the start of a launch (R305). -/
def Me.reset : Me where
  acc := []
  int32 := false
  chain := false
  mask := MeMask.reset
  guest := MeMask.reset
  fenced := false
  bondBad := false

/-- APXMON cleared (R227, R228). -/
def Apxmon.reset : Apxmon where
  maxErr := 0
  exc := false
  samples := 0
  bins := Vector.replicate 16 0

/-- A watermark channel nothing has used (log 1). -/
def Wmark.reset : Wmark where
  w := 0
  base := 0
  limit := 0
  landed := []
  busy := false

/-- No quantum has ended and no window has closed; MBQ's view of that time is zero (log 86, DESIGN CHOICE). -/
def Det.reset : Det where
  quantum := 0
  count := 0
  ended := 0
  closed := 0
  parked := []
  parkedRef := []
  owed := []
  owedRef := []
  waiting := []
  quota := []
  view := { wait := [], park := [], free := 0, slots := 0 }

/-- A core that no launch holds, every register at its Reset value (R127, R128, R167, R173, R176, R182, R183). -/
def Core.reset : Core where
  asid := none
  lcore := 0
  holds := false
  scarf := none
  migrating := none
  migDie := 0
  maxGtime := 0
  threads := Vector.replicate 5 Thread.reset
  dlstat := 0
  dlrecs := 0
  dlrect := 0
  dlrech := 0
  dlreca := 0
  apxmon := Apxmon.reset
  slott := 0xE4E4E4E4
  spill := 0
  dqBase := 0
  deque := []
  mbHead := 0
  mbUsed := 0
  mbSize := 0
  mbBase := 0
  rfBase := 0
  chans := []
  routeDdfull := none
  routeDlmiss := none
  ready := []
  heldMsgs := []
  sendSeq := 0
  refOut := 0
  refusals := []
  inbound := []
  refIn := []
  joins := []
  tidCount := 0
  wmarks := Vector.replicate 8 Wmark.reset
  mq := []
  vsq := []
  sfu := []
  cq := []
  copies := []
  nextCopy := 0
  me := Me.reset
  fabric := Vector.replicate 8 []
  loop := []
  arrivals := []
  timed := TimedBuf.reset
  outcomes := []
  det := Det.reset
  stealOk := 0
  stealFail := 0
  msgPlaced := 0
  msgRefused := 0
  idleSlots := 0
  startCycle := 0
  queued := 0
  tlb := []

/-- A bay with nothing waiting. -/
def Bay.reset : Bay where
  ate := { input := [], hot := [], waiters := [], deps := [], wins := [], nextAt := 0 }
  tlb := []
  pool := TimedBuf.reset
  vault := TimedBuf.reset

/-- A GTU after a full reset: FREE, count 0 (R105, R109). -/
def Gtu.reset : Gtu where
  count := 0
  state := .free
  offs := 0
  losses := 0
  delay := 0
  period := 0
  good := 0
  bad := 0
  slew := 0
  since := 0

/-- A compute die after a full reset (R39, R46, R49, R75, R398, R402, R435, R436). -/
def Die.reset : Die where
  gtu := Gtu.reset
  walks := []
  invIssued := 0
  invDone := 0
  invPend := []
  held := []
  stalled := []
  notifs := []
  nextHid := 0
  nring := []
  nwr := 0
  nrd := 0
  fhFull := false
  fhErr := false
  slots := []
  stopRing := []
  stopNext := 0
  stopWait := []
  mfail := false
  cxFull := false
  cxBusy := false
  cxErr := false
  thrs := 0
  ramp := false
  amps := 0
  rising := false
  floor := 0
  under := 0
  eccstat := 0
  eccaddr := 0
  eccAt := 0
  eccTop := 0
  irqrt := 0
  mc := TimedBuf.reset
  cacheBlocks := 0

/-- The sheet directory of a launch that has just started (R142, R152). -/
def Sdir.reset : Sdir where
  cells := []
  pgen := 0
  recalc := false
  closedGen := false
  waitc := false
  notice := none
  acks := []
  released := false
  shcfg := 0x0000001000001000
  shpubt := 0
  csts := []
  waitq := []
  pubq := []
  tidCount := 0
  abandonq := []
  parked := []
  lost := []
  gone := []

/-- A hardware queue slot with no queue (R376). -/
def Hqs.reset : Hqs where
  v := false
  qcb := 0
  qid := 0
  bpri := 0
  logsz := 0
  ring := 0
  head := 0
  tail := 0
  done := 0
  depw := false
  readySince := none
  idleSince := 0

/-- The dispatcher of a partition at launch: AGEP 0x4000, RLIM 0x10, NSLOT 0x10 (R376). -/
def Sched.reset : Sched where
  schcfg := 0x0000400000100010
  slots := Vector.replicate 16 Hqs.reset
  queues := []
  roots := []
  rootCount := 0
  taskq := []
  pulls := []
  lastSel := none
  quanta := 0
  kicks := []

/-- A monitor at its Reset values (R423, R424). -/
def Monitor.reset : Monitor where
  cfg := 0
  edges := Vector.replicate 4 0
  min := 0xFFFF
  max := 0
  count := 0
  bins := Vector.replicate 16 0
  now := []

/-- The debug block at launch (R415). -/
def Debug.reset : Debug where
  bpCtl := Vector.replicate 8 0
  bpAddr := Vector.replicate 8 0
  step := 0
  trccfg := 0
  trcnext := 0
  rplctl := 0
  rplbase := 0
  rpllen := 0
  rpldiv := 0
  rplexp := 0
  rplobs := 0
  rplpos := 0
  rplfree := false
  mons := Vector.replicate 4 Monitor.reset

/-- A launch that names nothing: the Reset column's defaults (R200, R216, R227, R184). -/
def Launch.reset : Launch where
  mask := []
  ptbase := 0
  shares := []
  peers := []
  shadows := []
  privileged := false
  deterministic := false
  gang := false
  widest := 3
  fctl0 := 0
  warn0 := 0
  apxctl0 := 0x0000000400000800
  dlmode0 := 0
  tmpl0 := 0
  ftmpl := 0
  idBase := 0
  lcores := []
  qwin := 0x0000000100001000
  parkSize := 0

/-- A partition at the start of a launch. -/
def Partition.start (l : Launch) : Partition where
  launch := l
  warnSum := 0
  halts := []
  stopping := false
  frozen := false
  wdcfg := 0
  wdLast := 0
  enk := 0
  enkCore := 0
  enkTime := 0
  sdir := Sdir.reset
  sched := Sched.reset
  dbg := Debug.reset
  missed := []
  faulted := []
  apxPast := []
  ddords := []
  qreqs := []

/-- A system core after reset (R399, R406). -/
def SysCore.reset : SysCore where
  x := Vector.replicate 32 0
  f := Vector.replicate 32 0
  fcsr := 0
  pc := 0
  mode := 3
  mstatus := 0
  medeleg := 0
  mideleg := 0
  mie := 0
  mtvec := 0
  mscratch := 0
  mepc := 0
  mcause := 0
  mtval := 0
  stvec := 0
  sscratch := 0
  sepc := 0
  stval := 0
  satp := 0
  pending := []
  sie := 0
  scause := 0
  frozen := false
  oint := false
  ocode := 0
  scode := 0
  dfaddr := 0
  dfsaddr := 0
  halted := false
  escalated := false
  loaded := 0

/-- The I3C port after reset (R429; lengths and reset action by log 1). -/
def I3c.reset : I3c where
  dynAddr := none
  response := []
  out := []
  nacked := false
  ibiOn := true
  kept := []
  raised := []
  mwl := 0
  mrl := 0
  rstact := 0
  hdr := false

/-- An ordinary clock that has heard nothing. -/
def Ptp.reset : Ptp where
  best := none
  syncSeq := none
  syncIn := 0
  syncOut := none
  reqSeq := 0
  reqOut := none
  delay := none
  offset := none
  measured := false
  exceeded := false

/-- The sill die after a full reset at power-on (R105, R108, R432, R433, R436, R437; kept fields by log 1). -/
def Pkg.reset : Pkg where
  harvested := []
  gmCount := 0
  gmSlew := 0
  gmSince := 0
  epoch := 0
  ext := false
  extPort := 0
  extDomain := 0
  extAllow := 0
  ptp := Ptp.reset
  skewb := 32
  skewxValid := false
  skewxBound := 0
  rampctl := 0x00000000000100FA
  pwrcap := 2000
  starts := 0
  lastf := 0
  fails := 0
  fallbk := false
  img := false
  rsrc := 0
  minimal := false
  readyWritten := false
  atCap := false
  lastFirst := false
  lastFailed := false
  bootsel := false
  meas := Vector.replicate 8 (List.replicate 32 0)
  imageA := []
  imageB := []
  sessions := []
  nextSession := 0
  i3c := I3c.reset
  sysCores := Vector.replicate 8 SysCore.reset
  remotes := []
  nextRemote := 0
  rmaIn := []
  launchReqs := []
  hostReqs := []
  hostOut := []
  resumes := []

/-- The package right after the full reset of power-on (R430): every register at its Reset value, no launch, nothing listed in memory.
Handles and stamps start at 1 and 0 (log 5). -/
def State.reset : State where
  mem := []
  bad := []
  weak := []
  cores := []
  bays := []
  dies := Vector.replicate 4 Die.reset
  parts := []
  spaces := []
  pkg := Pkg.reset
  turns := []
  cycle := 0
  agenda := []
  curCore := 0
  curThread := 0
  nextUid := 1
  nextAge := 0
  freshCount := 0

end Sys2Proof.Machine
end

