-- ==== Sys2Proof/Machine/Units.lean ====
section
/-! DEFINITION. Where things stand: mesh coordinates and bents, and the accessors through which every meaning reads and writes the
cores, threads, contexts, dies, bays and partitions of the state. -/

namespace Sys2Proof.Machine

/-- Core number of the compute core at (die, row, column) (R2). Numeric order is the order (die, row, column) of R70 and R168. -/
def coreAt (die row col : Nat) : Nat := die * 1152 + row * 32 + col

/-- Is the core one of a gateway bent (R8)? -/
def isGateway (c : Nat) : Bool := 4608 ≤ c

/-- Die of a core; a gateway core, which lies on the sill die, uses the structures of compute die 0 (log 18). -/
def coreDie (c : Nat) : Nat := if isGateway c then 0 else c / 1152

/-- Mesh row of a compute core. -/
def coreRow (c : Nat) : Nat := c % 1152 / 32

/-- Mesh column of a compute core. -/
def coreCol (c : Nat) : Nat := c % 32

/-- Bay of a core on its die (R3). -/
def coreBay (c : Nat) : Nat := 8 * (coreRow c / 4) + coreCol c / 4

/-- Bent within the bay (R3); a gateway bent is numbered after the compute bents. -/
def coreBentInBay (c : Nat) : Nat := 2 * (coreRow c / 2 % 2) + coreCol c / 2 % 2

/-- Core within its bent (R3). -/
def coreInBent (c : Nat) : Nat := if isGateway c then (c - 4608) % 4 else 2 * (coreRow c % 2) + coreCol c % 2

/-- Bent index on the die, 4 * bay + bent within bay (R23). -/
def coreBent (c : Nat) : Nat := 4 * coreBay c + coreBentInBay c

/-- Core number of core i of the bent that holds core c. -/
def bentCore (c i : Nat) : Nat :=
  if isGateway c then c - (c - 4608) % 4 + i % 4
  else coreAt (coreDie c) (coreRow c / 2 * 2 + i / 2 % 2) (coreCol c / 2 * 2 + i % 2)

/-- Core number of core i of bent b (4 * bay + bent within bay) of a die (R3). -/
def coreOfBent (die b i : Nat) : Nat :=
  let bay := b / 4
  coreAt die (bay / 8 * 4 + b % 4 / 2 * 2 + i / 2) (bay % 8 * 4 + b % 2 * 2 + i % 2)

/-- The coordinate word of R235; all ones for a gateway core. -/
def coordWord (c : Nat) : Word :=
  if isGateway c then 0xFFFFFFFFFFFFFFFF#64 else pack [(16, 2, coreDie c), (8, 6, coreRow c), (0, 5, coreCol c)]

/-- A bay by one number: die * 72 + bay. -/
def bayId (die bay : Nat) : Nat := die * 72 + bay

/-- Is core c within the domain (0 bent, 1 bay, 2 die, 3 package) of core t (R79, R169)? -/
def sameDomain (dom t c : Nat) : Bool :=
  if isGateway t || isGateway c then
    if dom = 3 then true else isGateway t && isGateway c && (dom != 0 || t / 4 == c / 4)
  else match dom with
    | 0 => coreDie t == coreDie c && coreBent t == coreBent c
    | 1 => coreDie t == coreDie c && coreBay t == coreBay c
    | 2 => coreDie t == coreDie c
    | _ => true

def Core.thr (k : Core) (t : Nat) : Thread := vget k.threads t Thread.reset

def Core.setThr (k : Core) (t : Nat) (th : Thread) : Core := { k with threads := vset k.threads t th }

def Core.modCtx (k : Core) (t : Nat) (f : Ctx → Ctx) : Core :=
  let th := k.thr t
  k.setThr t { th with ctx := f th.ctx }

def State.core (s : State) (c : Nat) : Core := tgetD s.cores c Core.reset

def State.setCore (s : State) (c : Nat) (k : Core) : State := { s with cores := tput s.cores c k }

def State.modCore (s : State) (c : Nat) (f : Core → Core) : State := s.setCore c (f (s.core c))

def State.thr (s : State) (c t : Nat) : Thread := (s.core c).thr t

def State.modThr (s : State) (c t : Nat) (f : Thread → Thread) : State := s.modCore c fun k => k.setThr t (f (k.thr t))

def State.ctx (s : State) (c t : Nat) : Ctx := (s.thr c t).ctx

def State.modCtx (s : State) (c t : Nat) (f : Ctx → Ctx) : State := s.modCore c fun k => k.modCtx t f

/-- The context whose instruction issues. -/
def State.cur (s : State) : Ctx := s.ctx s.curCore s.curThread.val

def State.modCur (s : State) (f : Ctx → Ctx) : State := s.modCtx s.curCore s.curThread.val f

def State.curK (s : State) : Core := s.core s.curCore

def State.modCurK (s : State) (f : Core → Core) : State := s.modCore s.curCore f

def State.die (s : State) (d : Nat) : Die := vget s.dies d Die.reset

def State.modDie (s : State) (d : Nat) (f : Die → Die) : State := { s with dies := vset s.dies d (f (s.die d)) }

def State.bay (s : State) (b : Nat) : Bay := tgetD s.bays b Bay.reset

def State.modBay (s : State) (b : Nat) (f : Bay → Bay) : State := { s with bays := tput s.bays b (f (s.bay b)) }

/-- The partition of an ASID; one that is not running reads as a partition that names nothing. -/
def State.part (s : State) (a : Nat) : Partition := tgetD s.parts a (Partition.start Launch.reset)

def State.modPart (s : State) (a : Nat) (f : Partition → Partition) : State :=
  if (tget s.parts a).isSome then { s with parts := tput s.parts a (f (s.part a)) } else s

/-- Applies f to a cell's entry. -/
def State.modCell (s : State) (asid id : Nat) (f : Cell → Cell) : State :=
  s.modPart asid fun p => { p with sdir := { p.sdir with cells := tmod p.sdir.cells id f } }

/-- Applies f to the sheet directory of a partition. -/
def State.modSdir (s : State) (asid : Nat) (f : Sdir → Sdir) : State := s.modPart asid fun p => { p with sdir := f p.sdir }

/-- Applies f to the dispatcher of a partition. -/
def State.modSched (s : State) (asid : Nat) (f : Sched → Sched) : State := s.modPart asid fun p => { p with sched := f p.sched }

def State.modPkg (s : State) (f : Pkg → Pkg) : State := { s with pkg := f s.pkg }

def State.running (s : State) (a : Nat) : Bool := (tget s.parts a).isSome

/-- The ASID of a core's launch; 4096 names none. -/
def Core.asidN (k : Core) : Nat := k.asid.getD 4096

def State.launchOf (s : State) (c : Nat) : Launch := (s.part (s.core c).asidN).launch

/-- A core of the launch by its LCORE, following migration (R198). -/
def State.lcoreCore (s : State) (asid l : Nat) : Option Nat := tget (s.part asid).launch.lcores l

/-- x[r], x0 reading as zero (R190). -/
def Ctx.xr (c : Ctx) (r : Reg) : Word := if r = 0 then 0 else vget c.x r.toNat 0

/-- Writes x[r]; a write to x0 is discarded (R190). -/
def Ctx.setX (c : Ctx) (r : Reg) (v : Word) : Ctx := if r = 0 then c else { c with x := vset c.x r.toNat v }

/-- Is x[r] full? x0 always is (R190). -/
def Ctx.isFull (c : Ctx) (r : Reg) : Bool := r = 0 || vget c.full r.toNat true

def Ctx.markEmpty (c : Ctx) (r : Reg) : Ctx := if r = 0 then c else { c with full := vset c.full r.toNat false }

def Ctx.markFull (c : Ctx) (r : Reg) : Ctx := { c with full := vset c.full r.toNat true }

def Ctx.fr (c : Ctx) (r : Reg) : Word := vget c.f r.toNat 0

def Ctx.setF (c : Ctx) (r : Reg) (v : Word) : Ctx := { c with f := vset c.f r.toNat v }

def Ctx.mr (c : Ctx) (r : Reg) : BitVec 16 := vget c.m r.toNat 0

def Ctx.setM (c : Ctx) (r : Reg) (v : BitVec 16) : Ctx := { c with m := vset c.m r.toNat v }

/-- Task id, bits [47:0] of peg word 1 (R164, R198). -/
def Ctx.tid (c : Ctx) : Nat := wfield c.w1 0 48

/-- Are x1 to x5 full (R165)? -/
def Ctx.lowFull (c : Ctx) : Bool := [1, 2, 3, 4, 5].all fun i => vget c.full i true

/-- Is every x register full? -/
def Ctx.allFull (c : Ctx) : Bool := (upTo 64).all fun i => vget c.full i true

/-- Is the unit a handler (R179)? -/
def Ctx.isHandler (c : Ctx) : Bool :=
  match c.kind with
  | .handler _ _ _ _ _ _ => true
  | .refusal _ _ _ _ => true
  | _ => false

/-- The core that now holds a core's context, through its scarf (R25). -/
def State.holderOf (s : State) (c : Nat) : Nat := if (s.core c).holds then c else (s.core c).scarf.getD c

/-- The core that now holds the LCORE whose unit a slot keeps (R25, R403). -/
def State.slotCore (s : State) (sl : Slot) : Nat := (s.lcoreCore sl.asid sl.lcore).getD sl.core

/-- Applies f to every core of a launch. -/
def State.mapCores (s : State) (asid : Nat) (f : Nat → Core → Core) : State :=
  { s with cores := tmap s.cores fun i k => if k.asid = some asid then f i k else k }

/-- Applies f to every slot that holds a context of a launch. -/
def State.mapSlots (s : State) (asid : Nat) (f : Slot → Slot) : State :=
  { s with dies := s.dies.map fun (d : Die) => { d with slots := tmap d.slots fun _ sl => if sl.asid = asid then f sl else sl } }

/-- Appends due steps. -/
def State.post (s : State) (es : List Event) : State := { s with agenda := s.agenda ++ es }

/-- Adds to what the device has sent to the host. -/
def State.send (s : State) (o : HostOut) : State := s.modPkg fun p => { p with hostOut := p.hostOut ++ [o] }

/-- A request of a session through an interface: one absent there is answered with status 2 (R428); without a session there is no request. -/
def State.request (s : State) (session iface : Nat) (f : State → State) : State :=
  match s.pkg.sessions.find? fun x => x.id == session with
  | none => s
  | some x => if x.ifaces.any fun i => i.1 == iface && i.2.isSome then f s else s.send (.refused session 2)

/-- Does a monitor take a sample of source `src` (R423)? `place` is the LCORE for sources 0, 1 and 3, and the die for 2 and 4 to 6. -/
def Monitor.counts (m : Monitor) (src place : Nat) : Bool :=
  wfield m.cfg 63 1 == 1 && wfield m.cfg 59 4 == src &&
    (src == 7 || place == (if src == 0 || src == 1 || src == 3 then wfield m.cfg 32 16 else wfield m.cfg 54 2))

/-- A source gives a sample, which the monitors of a partition that watch it count (R424). -/
def State.sampled (s : State) (asid src place value : Nat) : State :=
  s.post (((upTo 4).filter fun n => (vget (s.part asid).dbg.mons n Monitor.reset).counts src place).map fun n => .monitorSample asid n value)

/-- A latency at a core is a sample (R423); how many cycles it is is not modelled (log 82). -/
def State.sampledAt (s : State) (c src : Nat) : State :=
  s.sampled (s.core c).asidN src (s.core c).lcore (Config.latency (Nat.pair s.freshCount src))

/-- A fresh age stamp, and the state without it (R163, R175). -/
def State.newAge (s : State) : Nat × State := (s.nextAge, { s with nextAge := s.nextAge + 1 })

/-- A fresh unit handle. -/
def State.newUid (s : State) : Nat × State := (s.nextUid, { s with nextUid := s.nextUid + 1 })

/-- A fresh count for a free value. -/
def State.newFree (s : State) : Nat × State := (s.freshCount, { s with freshCount := s.freshCount + 1 })

/-- GTIME as a core's thread reads it: the count of its die's GTU (R104). A gateway core reads the grandmaster. -/
def State.gtime (s : State) (c : Nat) : Word := if isGateway c then s.pkg.gmCount else (s.die (coreDie c)).gtu.count

/-- Is the core's die locked (R109)? A gateway core runs on the grandmaster's own time. -/
def State.locked (s : State) (c : Nat) : Bool := isGateway c || (s.die (coreDie c)).gtu.state = .locked

/-- Has a core stopped issuing because its launch ends (R413)? Its own HALT stops it at once. Another core's stops it at the next cycle, so that every HALT
of one cycle retires; in a deterministic launch at the end of the HALT's quantum, so that the status follows from the instruction streams (log 71,
DEDUCED). -/
def State.halted (s : State) (c : Nat) : Bool :=
  let k := s.core c
  let p := s.part k.asidN
  p.stopping && (p.halts.isEmpty || p.halts.any fun h =>
    h.lcore == k.lcore || (if p.launch.deterministic then decide (h.quantum < k.det.quantum) else decide (h.cycle < s.cycle)))

/-- Cores of a launch that hold its LCOREs. -/
def State.launchCores (s : State) (asid : Nat) : List Nat := ((s.part asid).launch.lcores).map (·.2)

/-- Every (core, thread) of the package whose thread the predicate accepts, ascending. -/
def State.threadsWhere (s : State) (p : Nat → Nat → Thread → Bool) : List (Nat × Nat) :=
  s.cores.flatMap fun (c, k) => (upTo 5).filterMap fun t => if p c t (k.thr t) then some (c, t) else none

/-- The thread that runs the unit with a handle. -/
def State.findUnit (s : State) (uid : Nat) : Option (Nat × Nat) :=
  (s.threadsWhere fun _ _ th => (th.running || th.stopped.isSome) && th.ctx.uid == uid).head?

/-- Applies f to the context of a unit wherever it lies: on a thread, in a slot, or in a ready queue (R196). -/
def State.modUnit (s : State) (uid : Nat) (f : Ctx → Ctx) : State :=
  let g := fun (c : Ctx) => if c.uid = uid then f c else c
  { s with
    cores := s.cores.map fun (i, k) =>
      (i, { k with
        threads := k.threads.map fun th => if th.running || th.stopped.isSome then { th with ctx := g th.ctx } else th
        ready := k.ready.map fun e =>
          match e.item with
          | .ctx c => { e with item := .ctx (g c) }
          | _ => e })
    dies := s.dies.map fun d => { d with slots := d.slots.map fun (i, sl) => (i, { sl with ctx := g sl.ctx }) } }

/-- The context of a unit, wherever it lies. -/
def State.unitCtx (s : State) (uid : Nat) : Option Ctx :=
  match s.findUnit uid with
  | some (c, t) => some (s.ctx c t)
  | none =>
    match (s.dies.toList.flatMap fun d => d.slots.map fun x => x.2.ctx).find? fun c => c.uid == uid with
    | some c => some c
    | none =>
      (s.cores.flatMap fun (_, k) => k.ready.filterMap fun e => match e.item with | .ctx c => some c | _ => none).find? fun c => c.uid == uid

/-- Every context of a launch: on threads, in ready queues and in slots. -/
def State.launchCtxs (s : State) (asid : Nat) : List Ctx :=
  (s.cores.flatMap fun p =>
    if p.2.asid = some asid then
      (p.2.threads.toList.filterMap fun th => if th.running || th.stopped.isSome then some th.ctx else none) ++
      (p.2.ready.filterMap fun e => match e.item with | .ctx x => some x | _ => none)
    else []) ++
  (s.dies.toList.flatMap fun (d : Die) => d.slots.filterMap fun e => if e.2.asid = asid then some e.2.ctx else none)

/-- The handle of the unit that runs a task now, or whose context is kept (R129). -/
def State.taskUid (s : State) (asid uid tid : Nat) : Option Nat :=
  if (s.unitCtx uid).isSome then some uid else ((s.launchCtxs asid).find? fun x => x.tid == tid).map fun x => x.uid

/-- Is the unit's context in a slot? -/
def State.inSlot (s : State) (uid : Nat) : Bool := s.dies.toList.any fun d => d.slots.any fun x => x.2.ctx.uid == uid

end Sys2Proof.Machine
end

