-- ==== Sys2Proof/Machine/Window.lean ====
section
/-! DEFINITION. The layout of the system window (R38, R39): the control registers with their access rules (R198), and which addresses name a
register. -/

namespace Sys2Proof.Machine

/-- Unprivileged access of a control register (R198). -/
inductive CtlAcc where
  | rw | ro | none
deriving DecidableEq, Repr

/-- The registers of R198; `none` for an unassigned number. -/
def ctlAcc (n : Nat) : Option CtlAcc :=
  if n ≤ 0x003 then some .ro
  else if 0x010 ≤ n ∧ n ≤ 0x012 then some .rw
  else if n = 0x013 then some .ro
  else if 0x020 ≤ n ∧ n ≤ 0x023 then some .ro
  else if 0x024 ≤ n ∧ n ≤ 0x026 then some .rw
  else if 0x027 ≤ n ∧ n ≤ 0x029 then some .ro
  else if n = 0x030 ∨ n = 0x032 then some .ro
  else if n = 0x031 ∨ n = 0x033 then some .none
  else if n = 0x040 ∨ n = 0x041 then some .ro
  else if 0x042 ≤ n ∧ n ≤ 0x044 then some .rw
  else if n = 0x050 then some .rw
  else if 0x0C0 ≤ n ∧ n ≤ 0x0C7 then some .ro
  else if 0x400 ≤ n ∧ n ≤ 0x7FF then some .rw
  else none

/-- Is the control register held per thread (R198)? -/
def ctlPerThread (n : Nat) : Bool := n = 0 || n = 0x010 || n = 0x011 || n = 0x012 || n = 0x024

/-- The (core, thread, register) that an address of region 0x0 names (R39). -/
def region0 (o : Nat) : Option (Nat × Nat × Nat) :=
  let row := fieldOf o 26 6
  let t := fieldOf o 16 3
  let n := fieldOf o 3 13
  if fieldOf o 34 10 ≠ 0 ∨ fieldOf o 19 2 ≠ 0 ∨ 36 ≤ row ∨ 5 ≤ t ∨ (ctlAcc n).isNone ∨ (t ≠ 0 ∧ !ctlPerThread n) then none
  else some (coreAt (fieldOf o 32 2) row (fieldOf o 21 5), t, n)

/-- Ranks the bents in ascending (die, bent index) order (R372). -/
def sortedBents (l : List Nat) : List Nat := sortLex (fun b => [b]) l

/-- The four cores of a bent named as die * 288 + bent index. -/
def coresOfBent (b : Nat) : List Nat := (upTo 4).map fun i => coreOfBent (b / 288) (b % 288) i

/-- The four cores of the gateway bent of a port (R8). -/
def coresOfPort (p : Nat) : List Nat := (upTo 4).map fun i => Config.gatewayBase + 4 * p + i

/-- The cores of a launch in the order of their LCOREs (R372). -/
def LaunchReq.cores (r : LaunchReq) : List Nat := (sortedBents r.bents).flatMap coresOfBent ++ (sortLex (fun p => [p]) r.gateways).flatMap coresOfPort

/-- The cores of its reserve bents (R408). -/
def LaunchReq.spares (r : LaunchReq) : List Nat := (sortedBents r.reserve).flatMap coresOfBent

/-- Offsets of a context window that its map names (R400). -/
def slotNamed (o : Nat) : Bool :=
  decide (o < 0x078) || (decide (0x080 ≤ o) && decide (o < 0x0C0)) || (decide (0x100 ≤ o) && decide (o < 0x420)) || decide (0x800 ≤ o)

/-- Offsets of the debug block that its map names (R415, R421, R423, R425). -/
def debugNamed (o : Nat) : Bool :=
  (decide (0x1000 ≤ o) && decide (o < 0x1088)) || (decide (0x1100 ≤ o) && decide (o < 0x1110)) || (decide (0x1200 ≤ o) && decide (o < 0x1230)) ||
  (decide (0x1400 ≤ o) && decide (o < 0x1800) && (decide (o % 0x100 < 0x30) || (decide (0x40 ≤ o % 0x100) && decide (o % 0x100 < 0xC0))))

/-- Offsets of the per-launch translation block that its map names. -/
def launchNamed (o : Nat) : Bool :=
  decide (o < 8) || (decide (0x100 ≤ o) && decide (o < 0x200) && decide ((o - 0x100) % 0x40 < 0x28)) ||
  (decide (0x1000 ≤ o) && decide (o < 0x2000) && decide ((o - 0x1000) % 0x400 < 0x240)) || (decide (0x2000 ≤ o) && decide (o < 0x4000))

/-- Offsets of the sill-die block that its map names. -/
def sillNamed (o : Nat) : Bool :=
  decide (o < 0x018) || (decide (0x030 ≤ o) && decide (o < 0x038)) || (decide (0x040 ≤ o) && decide (o < 0x080)) ||
  (decide (0x100 ≤ o) && decide (o < 0x140)) || (decide (0x200 ≤ o) && decide (o < 0x300) && decide (o % 32 < 24))

/-- Does an address of the system window outside region 0x3 lie in a register that a layout names (R39)? -/
def winNamed (va : Nat) : Bool :=
  let hi := fieldOf va 32 12
  let o := fieldOf va 0 32
  match fieldOf va 44 4 with
  | 0 => (region0 (fieldOf va 0 44)).isSome
  | 1 => decide (hi < 4) && ((decide (o < 0x2000000) && slotNamed (o % 0x2000)) || (decide (0x4000000 ≤ o) && decide (o < 0x4004010)))
  | 2 => fieldOf va 40 4 == 0 && decide (fieldOf va 0 28 < 0x8000018)
  | 4 =>
    if fieldOf va 43 1 = 0 then decide (hi < 4) && (decide (o < 0x28) || (decide (0x1000 ≤ o) && decide (o < 0x3000)))
    else fieldOf va 40 3 == 0 && launchNamed (fieldOf va 0 28)
  | 5 => (decide (hi < 5) && decide (o < 0x20)) || (hi == 4 && decide (0x100 ≤ o) && decide (o < 0x108))
  | 6 =>
    let p := fieldOf va 0 20
    (hi == 0 && (decide (p < 0x10) || (decide (0x100 ≤ p) && decide (p < 0x180)) || debugNamed p || (decide (0x80000 ≤ p) && decide (p < 0x88000)))) ||
    (hi == 1 && sillNamed o)
  | _ => false

end Sys2Proof.Machine
end

