-- ==== Sys2Proof/Machine/Mem.lean ====
section
/-! DEFINITION. Memory: the keys under which storage is listed, byte access in little-endian order (R77), the soft-error log of R72 to
R76, what every write sets off (R249, R381), and the checks and translation of R27 to R40. -/

namespace Sys2Proof.Machine

/-- Key of a byte of a core's scratchpad: the space-0x1 address (R20); the gateway scratchpads, which have none (R18), lie above. -/
def scratchKey (c off : Nat) : Nat :=
  if isGateway c then 0x1000000400000000 + (c - 4608) * 0x200000 + off
  else 0x1000000000000000 + coreDie c * 0x100000000 + coreRow c * 0x4000000 + coreCol c * 0x200000 + off

/-- Key of a byte of a bay pool at physical offset p (R60). -/
def poolKey (die bay p : Nat) : Nat := 0x2000000000000000 + die * 0x100000000 + bay * 0x2000000 + p

/-- Key of a byte of a bay's vault die: B-windows below 4 MiB, the general vault above (R22). -/
def vaultKey (die bay p : Nat) : Nat := 0x3000000000000000 + die * 0x100000000 + bay * 0x2000000 + p

/-- Key of a byte of device memory: its region-0x3 address (R39). -/
def hbmKey (pa : Nat) : Nat := 0x7000300000000000 + pa

/-- The space a key lies in: 1 scratchpad, 2 pool, 3 vault, 7 device memory. -/
def keySpace (k : Nat) : Nat := k / 0x1000000000000000

/-- The core whose scratchpad holds a key. -/
def keyCore (k : Nat) : Option Nat :=
  if keySpace k = 1 then
    let r := k - 0x1000000000000000
    if 0x400000000 ≤ r then some (4608 + (r - 0x400000000) / 0x200000)
    else some (coreAt (r / 0x100000000) (r % 0x100000000 / 0x4000000) (r % 0x4000000 / 0x200000))
  else none

/-- Offset within a scratchpad. -/
def keyOff (k : Nat) : Nat := k % 0x20000

/-- The stack that holds a device physical address (R65). -/
def stackOf (pa : Nat) : Nat :=
  if pa < 0x4000000000 then fieldOf pa 12 3
  else 2 * fieldOf (pa - 0x4000000000) 35 2 + fieldOf (pa - 0x4000000000) 12 1

/-- The die beside which a key is stored. A gateway scratchpad counts to die 0 (log 18). -/
def keyDie (k : Nat) : Nat :=
  if keySpace k = 7 then stackOf (k - 0x7000300000000000) / 2 else min 3 (k % 0x1000000000000000 / 0x100000000 % 4)

/-- The bay (die * 72 + bay) of the home ATE of a key (R68). -/
def homeBay (k : Nat) : Nat :=
  if keySpace k = 7 then bayId (keyDie k) ((k - 0x7000300000000000) / 4096 % 72)
  else if keySpace k = 1 then
    match keyCore k with
    | some c => bayId (coreDie c) (coreBay c)
    | none => 0
  else bayId (keyDie k) (k % 0x100000000 / 0x2000000)

/-- The 8-byte words that the range of n bytes at a key touches. -/
def wordsIn (k n : Nat) : List Nat := (upTo ((k + n - 1) / 8 - k / 8 + 1)).map fun i => (k / 8 + i) * 8

/-- The canonical form of the memory list: keys strictly rising, no entry equal to what an unlisted key reads as. -/
def Memory.wf (m : List Host.Cell) : Bool := memWfFrom Config.emptyByte 0 m

def State.byteAt (s : State) (k : Nat) : Byte := memGet Config.emptyByte s.mem k

/-- n bytes from a key on. -/
def State.bytesAt (s : State) (k n : Nat) : List Byte := (upTo n).map fun i => s.byteAt (k + i)

/-- First keys of the 64-byte lines that [k, k + n) touches. -/
def linesOf (k n : Nat) : List Nat := (upTo ((k % 64 + n + 63) / 64)).map fun i => (k / 64 + i) * 64

/-- n bytes, little-endian (R77). -/
def State.readLe (s : State) (k n : Nat) : Nat := leNat (s.bytesAt k n)

/-- Writes bytes without any further effect. -/
def memPutBytes (m : Tbl Byte) (k : Nat) : List Byte → Tbl Byte
  | [] => m
  | b :: r => memPutBytes (memPut Config.emptyByte m k b) (k + 1) r

def State.pokeBytes (s : State) (k : Nat) (bs : List Byte) : State := { s with mem := memPutBytes s.mem k bs }

/-- Is the 64-byte line of a key in the hot-line store of its home ATE (R69)? -/
def State.hotLine (s : State) (k : Nat) : Bool := (s.bay (homeBay k)).ate.hot.contains (k / 64)

/-- Size of the error-correction granule of a key, and its first key (R71): while an ATE holds a line of HBM, that of its store, a word of 8 bytes. -/
def State.granuleSize (s : State) (k : Nat) : Nat := if keySpace k = 7 && !s.hotLine k then 64 else 8
def State.granuleOf (s : State) (k : Nat) : Nat := k - k % s.granuleSize k

/-- The granules that the range of n bytes at a key touches. -/
def State.granulesOf (s : State) (k n : Nat) : List Nat :=
  if keySpace k = 7 then (linesOf k n).flatMap fun l => if s.hotLine l then wordsIn (max k l) (min (k + n) (l + 64) - max k l) else [l]
  else wordsIn k n

/-- The first granule with an uncorrectable error that [k, k + n) touches (R73). -/
def State.badIn (s : State) (k n : Nat) : Option Nat :=
  if s.bad.isEmpty then none else (s.granulesOf k n).find? fun g => s.bad.contains g

/-- A granule with an uncorrectable error that a write of [k, k + n) would cover only in part (R73). -/
def State.badPartly (s : State) (k n : Nat) : Option Nat :=
  if s.bad.isEmpty then none
  else (s.granulesOf k n).find? fun g => s.bad.contains g && !(decide (k ≤ g) && decide (g + s.granuleSize g ≤ k + n))

/-- Is the line marked held at its home: in the hot-line store of its ATE, or with a dependence counter for which the head of a queue waits (R69, R381)?
Every access that reaches it by any path is then performed at the ATE. -/
def State.lineHeld (s : State) (k : Nat) : Bool := s.hotLine k || (s.bay (homeBay k)).ate.deps.any fun d => d.1 / 64 == k / 64

/-- Does a key lie in the message ring of the core whose scratchpad holds it (R176)? -/
def State.inRing (s : State) (k : Nat) : Bool :=
  match keyCore k with
  | some c => decide ((s.core c).mbBase ≤ keyOff k) && decide (keyOff k < (s.core c).mbBase + (s.core c).mbSize)
  | none => false

/-- The level code of ECCSTAT.LVL (R75): a granule that an ATE holds, or that lies in a mailbox ring, is of level 4 whatever its home. -/
def State.eccLevel (s : State) (k : Nat) : Nat :=
  if s.hotLine k || s.inRing k then 4 else match keySpace k with | 1 => 0 | 2 => 1 | 3 => 2 | _ => 3

/-- Raises a platform interrupt of a class for a die at a system core (R399). -/
def State.irqAt (s : State) (sc cls die : Nat) : State :=
  let c := vget s.pkg.sysCores sc SysCore.reset
  if c.pending.contains (cls, die) then s
  else s.modPkg fun p => { p with sysCores := vset p.sysCores sc { c with pending := c.pending ++ [(cls, die)] } }

/-- Raises a platform interrupt of a class for a die at the system core its routing register names (R399, R435): three bits for each
class from 16 on, bits [3k+2:3k]. -/
def State.raiseIrq (s : State) (die cls : Nat) : State := s.irqAt (wfield (s.die die).irqrt (3 * (cls - 16)) 3) cls die

/-- The log after an uncorrectable event of a granule of level `lvl` in cycle `now` (R75, R76). The events of one cycle stand in ascending order
of their granules: the least fills ECCADDR, and SCRUB tells of the greatest, the last. -/
def Die.logEcc (e : Die) (g lvl now : Nat) (scrub : Bool) : Die :=
  let st := wput e.eccstat 48 16 (satN 16 (wfield e.eccstat 48 16 + 1))
  if wfield st 0 1 = 1 then
    let same := e.eccAt = now
    let first := same ∧ g < e.eccaddr.toNat
    let st := if same ∧ g < e.eccTop then st else wput st 4 1 (b2n scrub)
    { e with
      eccstat := wput (if first then wput st 5 3 lvl else st) 3 1 1
      eccaddr := if first then BitVec.ofNat 64 g else e.eccaddr
      eccTop := if same then max g e.eccTop else g
      eccAt := if same then now else e.eccAt }
  else
    { e with eccstat := wput (wput (wput st 0 1 1) 5 3 lvl) 4 1 (b2n scrub), eccaddr := BitVec.ofNat 64 g, eccAt := now, eccTop := g }

/-- Logs an uncorrectable event of a granule (R73, R75, R76). -/
def State.logUncorrectable (s : State) (g : Nat) (scrub : Bool) : State :=
  let d := keyDie g
  (s.modDie d fun e => e.logEcc g (s.eccLevel g) s.cycle scrub).raiseIrq d 18

/-- Logs every uncorrectable granule that an access to [k, k + n) meets (R73, R76). -/
def State.logRange (s : State) (k n : Nat) : State :=
  if s.bad.isEmpty then s
  else ((s.granulesOf k n).filter fun g => s.bad.contains g).foldl (fun s g => s.logUncorrectable g false) s

/-- An uncorrectable error that an access of n bytes met is logged (R73); D0 of the cause is the first granule. -/
def State.noteEcc (s : State) (c : Cause) (d : Detail) (n : Nat := 1) : State := if c = .eccunc then s.logRange d.d0.toNat n else s

/-- Corrects the weak granules that an access to [k, k + n) reads, and counts them (R72). -/
def State.correct (s : State) (k n : Nat) : State :=
  if s.weak.isEmpty then s
  else
    let hit := (s.granulesOf k n).filter fun g => s.weak.contains g
    hit.foldl (fun s g =>
      let s := s.modDie (keyDie g) fun e => { e with eccstat := wput e.eccstat 16 32 (satN 32 (wfield e.eccstat 16 32 + 1)) }
      { s with weak := s.weak.filter (· ≠ g) }) s

/-- A read of n bytes at a key by hardware that no cause can reach: weak granules are corrected and failed ones logged, and the bytes are taken as they stand
(R72, R73; log 88). -/
def State.hwRead (s : State) (k n : Nat) : State := (s.logRange k n).correct k n

/-- The lines of the hot-line store of an ATE become `hot` (R69, R71): a line of HBM that enters it is read as a burst, corrected, a failed burst leaving eight
failed words; one that leaves it is read from the store and written back as a burst, which is a failed one where a word of it is. -/
def State.setHot (s : State) (bay : Nat) (hot : List Nat) : State :=
  let old := (s.bay bay).ate.hot
  let ls := fun (l : List Nat) (than : List Nat) => (l.filter fun i => keySpace (64 * i) == 7 && !than.contains i).map (64 * ·)
  let enter := ls hot old
  let leave := ls old hot
  let swap := fun (s : State) => s.modBay bay fun b => { b with ate := { b.ate with hot := hot } }
  if s.bad.isEmpty && s.weak.isEmpty then swap s
  else
    let s := swap ((enter ++ leave).foldl (fun s l => s.correct l 64) s)
    let failed := leave.filter fun l => s.bad.any fun g => g / 64 == l / 64
    { s with bad := ((s.bad.filter fun g => !leave.contains (g / 64 * 64)).flatMap fun g => if enter.contains g then wordsIn g 64 else [g]) ++ failed }

/-- A write covering a failed granule whole replaces its code (R73). -/
def State.repair (s : State) (k n : Nat) : State :=
  if s.bad.isEmpty && s.weak.isEmpty then s
  else
    let whole := fun g => decide (k ≤ g) && decide (g + s.granuleSize g ≤ k + n)
    { s with bad := s.bad.filter fun g => !whole g, weak := s.weak.filter fun g => !whole g }

/-- Contexts whose unit lives on a core: on its threads, in its ready queue or in a slot of a die. -/
def State.ctxsOf (s : State) (c : Nat) : List Ctx :=
  ((s.threadsWhere fun i _ th => i == c && (th.running || th.stopped.isSome)).map fun p => s.ctx p.1 p.2) ++
  ((s.core c).ready.filterMap fun e => match e.item with | .ctx x => some x | _ => none) ++
  (s.dies.toList.flatMap fun (d : Die) => (d.slots.filter fun p => s.slotCore p.2 == c).map fun p => p.2.ctx)

/-- A watch of the context that a write of n bytes at a scratchpad offset ends. -/
def Ctx.watchHits (x : Ctx) (off n : Nat) : List Watch := x.watches.filter fun w => overlap w.off 8 off n

/-- Does a write of n bytes at a scratchpad offset in cycle `now` reach the word of a watch that ended in that cycle? -/
def WatchFill.meets (w : WatchFill) (off n now : Nat) : Bool := w.cycle == now && overlap w.off 8 off n

/-- The context after such a write: the watches end and their registers are on their way with the word's value; a watch that ended in this cycle takes the
merged word (R249). -/
def Ctx.fireWatches (x : Ctx) (off n now : Nat) (word : Nat → Word) : Ctx :=
  { x with
    watches := x.watches.filter fun w => !overlap w.off 8 off n
    watchFills := (x.watchFills.map fun w => if w.meets off n now then { w with value := word w.off } else w) ++
      (x.watchHits off n).map fun w => { reg := w.reg.toNat, off := w.off, value := word w.off, cycle := now } }

/-- The first write to a watched word ends its watch and sends the word's value to the register, with what else is written to the word in that cycle
(R249). -/
def State.fireWatches (s : State) (k n : Nat) : State :=
  match keyCore k with
  | none => s
  | some c =>
    let word := fun off => BitVec.ofNat 64 (s.readLe (scratchKey c off) 8)
    let off := keyOff k
    ((s.ctxsOf c).filter fun x => !(x.watchHits off n).isEmpty || x.watchFills.any fun w => w.meets off n s.cycle).foldl (fun s x =>
      s.modUnit x.uid fun y => y.fireWatches off n s.cycle word) s

/-- A slot's head becomes ready now (R381, R382). -/
def State.headReady (s : State) (asid slot : Nat) : State :=
  s.modPart asid fun p =>
    let now := if p.launch.deterministic then p.sched.quanta else s.pkg.gmCount.toNat
    let h := vget p.sched.slots slot Hqs.reset
    { p with sched := { p.sched with slots := vset p.sched.slots slot { h with depw := false, readySince := some now } } }

/-- The registrations whose counter a write of [k, k + n) left 0. -/
def State.zeroDeps (s : State) (k n : Nat) : List (Nat × Nat × Nat) :=
  s.bays.flatMap fun b => b.2.ate.deps.filter fun d => overlap d.1 8 k n && s.readLe d.1 8 == 0

/-- A write that leaves a registered dependence counter 0 readies the queue head, once (R381). -/
def State.readyDeps (s : State) (k n : Nat) : State :=
  (s.zeroDeps k n).foldl (fun s d =>
    (s.modBay (homeBay d.1) fun b => { b with ate := { b.ate with deps := b.ate.deps.filter fun e => e ≠ d } }).headReady d.2.1 d.2.2) s

/-- What a write of [k, k + n) sets off. -/
def State.afterWrite (s : State) (k n : Nat) : State := ((s.repair k n).fireWatches k n).readyDeps k n

/-- Writes bytes at a key, with what a write sets off. -/
def State.writeBytes (s : State) (k : Nat) (bs : List Byte) : State :=
  if bs.isEmpty then s else (s.pokeBytes k bs).afterWrite k bs.length

/-- Writes the low n bytes of v, little-endian. -/
def State.writeLe (s : State) (k n v : Nat) : State := s.writeBytes k (leBytes n v)

/-- The listed bytes of [k, k + n). -/
def State.listed (s : State) (k n : Nat) : List Host.Cell := s.mem.filter fun c => decide (k ≤ c.1) && decide (c.1 < k + n)

/-- Writes zeros to [k, k + n); a zero byte is not listed. -/
def State.zeroRange (s : State) (k n : Nat) : State :=
  if n = 0 then s
  else State.afterWrite { s with mem := s.mem.filter fun c => !(decide (k ≤ c.1) && decide (c.1 < k + n)) } k n

/-- Copies the n bytes at one key to another; the ranges do not meet. -/
def State.copyRange (s : State) (src dst n : Nat) : State :=
  if n = 0 then s
  else
    let cleared := s.mem.filter fun c => !(decide (dst ≤ c.1) && decide (c.1 < dst + n))
    State.afterWrite { s with mem := (s.listed src n).foldl (fun m c => memPut Config.emptyByte m (dst + (c.1 - src)) c.2) cleared } dst n

/-- What an access reaches: a byte key; a register of the system window; a peer's memory; element data of a cell. -/
inductive Hit where
  | mem (key : Nat)
  | window (va : Nat)
  | remote (peer pva : Nat)
  | cell (id off : Nat)
deriving DecidableEq, Repr

/-- Why an access is not made at once: a cause; a translation held under R41, with the address that failed, its reason and the cause of a kill;
a wait for a core that is being migrated (R25). -/
inductive Miss where
  | cause (c : Cause) (d : Detail)
  | held (space peer addr reason : Nat) (c : Cause)
  | busy
  /-- A wait for the turn at the line of a key that an ATE holds, or, with `own`, at the core's loopback port (R58, R69). -/
  | turn (key : Nat) (own : Bool)
deriving DecidableEq, Repr

/-- The cause of a killed access with a walk reason (R29, R36). -/
def reasonCause (reason : Nat) (fetch : Bool) : Cause :=
  if fetch then .fetchfault
  else match reason with | 4 => .prot | 5 => .fetchfault | 7 => .access | _ => .xlate

/-- A walk's result (R29): a frame's first physical address with its level and rights, a reason, or a failed read of an entry (R73). -/
inductive Walk where
  | page (level frame : Nat) (w x : Bool)
  | fail (reason : Nat)
  | ecc (granule : Nat)
deriving DecidableEq, Repr

/-- Lowest virtual-address bit that indexes a level, and the index width (R27). -/
def levelShift : Nat → Nat × Nat
  | 0 => (39, 9)
  | 1 => (30, 9)
  | 2 => (21, 9)
  | _ => (16, 5)

/-- What a walk comes to: its result, the keys of the entries it read, and the non-leaf entries it passed. -/
structure Trans where
  res : Walk
  read : List Nat
  path : List PathEntry
deriving DecidableEq, Repr

/-- The next table that the die's walk cache holds for a level, where it is used: R31 and R32 leave that open. -/
def State.cachedTable (s : State) (die asid level pre : Nat) : Option Nat :=
  match (s.die die).walks.find? fun e => e.asid == asid && e.level == level && e.pre == pre with
  | some e => if Config.useCached (Nat.pair s.freshCount (Nat.pair (level + 2) pre)) then some e.table else none
  | none => none

/-- The walk from a level with `fuel` levels left (R27 to R29). A table or frame at or above the end of device memory, a reserved bit,
and a misaligned table or frame are judged in the order of R29's table. Each hit in the walk cache skips one table read (R31). -/
def walkFrom (s : State) (die asid va : Nat) : Nat → Nat → Nat → Trans
  | 0, _, _ => { res := .fail 1, read := [], path := [] }
  | fuel + 1, level, base =>
    let (sh, n) := levelShift level
    match s.cachedTable die asid level (va >>> sh) with
    | some table => walkFrom s die asid va fuel (level + 1) table
    | none =>
      let k := hbmKey (base + 8 * fieldOf va sh n)
      let one := fun (r : Walk) => ({ res := r, read := [k], path := [] } : Trans)
      match s.badIn k 8 with
      | some g => one (.ecc g)
      | none =>
        let e := s.readLe k 8
        let lf := fieldOf e 1 1 = 1
        let addr := fieldOf e 8 40 * 256
        if fieldOf e 0 1 = 0 then one (.fail 0)
        else if fieldOf e 48 16 ≠ 0 ∨ fieldOf e 4 4 ≠ 0 then one (.fail 1)
        else if lf && level == 0 || !lf && level == 3 then one (.fail 1)
        else if !lf && (if level == 2 then addr % 256 != 0 else addr % 4096 != 0) then one (.fail 1)
        else if lf && addr % 2 ^ sh != 0 then one (.fail 2)
        else if 0x6000000000 ≤ addr then one (.fail 3)
        else if lf then one (.page level addr (fieldOf e 2 1 = 1) (fieldOf e 3 1 = 1))
        else
          let t := walkFrom s die asid va fuel (level + 1) addr
          { t with read := k :: t.read, path := { asid := asid, level := level, pre := va >>> sh, table := addr } :: t.path }

/-- The walk of a launch's tables for a 48-bit virtual address by the walkers of a die. A level-0 table past device memory ends it at once. -/
def walk (s : State) (die asid va : Nat) : Trans :=
  let base := (s.part asid).launch.ptbase
  if 0x6000000000 ≤ base then { res := .fail 3, read := [], path := [] } else walkFrom s die asid va 4 0 base

/-- Number of the bay whose TLB serves a core (R31); a gateway bent's is numbered after the bays of the dies (log 62). -/
def tlbBay (c : Nat) : Nat := if isGateway c then 288 + (c - 4608) / 4 else bayId (coreDie c) (coreBay c)

/-- Does a cached translation map the address (R31)? -/
def Tlb.maps (e : Tlb) (asid va : Nat) : Bool := e.asid == asid && e.page == va >>> (levelShift e.level).1

/-- A cached translation as the result of a walk that reads nothing. -/
def Tlb.trans (e : Tlb) : Trans := { res := .page e.level e.frame e.w e.x, read := [], path := [] }

/-- The first cached translation of a list that maps the address, where it is used: R31 and R32 leave that open. -/
def State.tlbHit (s : State) (l : List Tlb) (at_ asid va : Nat) : Option Trans :=
  match l.find? fun e => e.maps asid va with
  | some e => if Config.useCached (Nat.pair s.freshCount (Nat.pair at_ (va / 65536))) then some e.trans else none
  | none => none

/-- The translation that an access of a core gets: from its micro-TLB, from the TLB of its bay, or by a walk (R31). -/
def State.lookup (s : State) (c asid va : Nat) : Trans :=
  match s.tlbHit (s.core c).tlb 0 asid va with
  | some t => t
  | none =>
    match s.tlbHit (s.bay (tlbBay c)).tlb 1 asid va with
    | some t => t
    | none => walk s (coreDie c) asid va

/-- Is the access a write for R28 and R37? -/
def AccKind.writes : AccKind → Bool
  | .store => true
  | .atomic => true
  | .engWrite => true
  | _ => false

/-- Who makes an access (R38, R40). -/
structure Agent where
  core : Nat
  asid : Nat
  privileged : Bool
  /-- An access of system software or of the scheduling hardware, which has no private alias and no partition. -/
  system : Bool := false
deriving DecidableEq, Repr

def State.agent (s : State) (c : Nat) : Agent :=
  { core := c, asid := (s.core c).asidN, privileged := (s.launchOf c).privileged }

/-- An access of the scheduling hardware, which passes no privilege or alias check of a core. -/
def systemAgent (asid : Nat) : Agent := { core := 0, asid := asid, privileged := false, system := true }

/-- The translation that an agent gets. One that is no core has no TLB, and its walks are made beside die 0 (log 62). -/
def State.transOf (s : State) (a : Agent) (va : Nat) : Trans := if a.system then walk s 0 a.asid va else s.lookup a.core a.asid va

/-- Physical address of a translated access, or why it is held (R29). -/
def State.translate (s : State) (a : Agent) (kind : AccKind) (va : Nat) : Except Miss Nat :=
  let fetch := kind = .fetch
  let held := fun r => Except.error (Miss.held 4 0 va r (reasonCause r fetch))
  match (s.transOf a va).res with
  | .fail r => held r
  | .ecc g => .error (.cause .eccunc { d0 := BitVec.ofNat 64 g })
  | .page level frame w x =>
    if kind.writes && !w then held 4
    else if fetch && !x then held 5
    else .ok (frame + va % 2 ^ (levelShift level).1)

/-- A list with one more element, but for one that is already there; a full one gives up the n-th. -/
def cacheInto {α : Type} (cap n : Nat) (same : α → Bool) (e : α) (l : List α) : List α :=
  if l.any same then l else if l.length < cap then l ++ [e] else dropAt l (n % max 1 l.length) ++ [e]

/-- The entries that a walk read are corrected where they are weak (R72). -/
def State.correctWalk (s : State) (t : Trans) : State := t.read.foldl (fun s k => s.correct k 8) s

/-- The weak entries that the walks beside die 0 read for an access of n bytes by an agent that is no core are corrected (R72). -/
def State.walkedAt (s : State) (asid va n : Nat) : State :=
  if s.weak.isEmpty then s
  else (upTo ((va % 65536 + n + 65535) / 65536)).foldl (fun s i => s.correctWalk (walk s 0 asid ((va / 65536 + i) * 65536 % 2 ^ 48))) s

/-- The same for an address of any space; only those of space 0x4 are walked. -/
def State.walked (s : State) (asid : Nat) (va : Word) (n : Nat) : State := if wfield va 60 4 = 4 then s.walkedAt asid (wfield va 0 48) n else s

/-- What a walk leaves: corrected entries, and the non-leaf ones cached beside the walkers (R31, R32). -/
def State.noteWalk (s : State) (die : Nat) (t : Trans) : State :=
  let s := s.correctWalk t
  if t.path.isEmpty then s
  else
    let n := Config.tlbVictim (Nat.pair s.freshCount 2)
    s.modDie die fun d =>
      { d with walks := t.path.foldl (fun l e => cacheInto 256 n (fun f => f.asid == e.asid && f.level == e.level && f.pre == e.pre) e l) d.walks }

/-- Caches the valid translation of an address that a core uses (R31, R32). A result with reasons 0 to 3 is never cached. -/
def State.cacheWalk (s : State) (c asid va : Nat) : State :=
  let t := s.lookup c asid va
  let s := s.noteWalk (coreDie c) t
  match t.res with
  | .page level frame w x =>
    let e : Tlb := { asid := asid, level := level, page := va >>> (levelShift level).1, frame := frame, w := w, x := x }
    let put := fun cap at_ l => cacheInto cap (Config.tlbVictim (Nat.pair s.freshCount at_)) (fun f => f.maps asid va) e l
    (s.modCore c fun k => { k with tlb := put 32 0 k.tlb }).modBay (tlbBay c) fun b => { b with tlb := put 1024 1 b.tlb }
  | _ => s

/-- The core that now serves a scratchpad (R25, R410): itself, the core its scarf names, a wait while it streams, or none. -/
def State.scratchHolder (s : State) (c : Nat) : Except Miss Nat :=
  let k := s.core c
  match (if k.holds then some c else k.scarf) with
  | some t => if (s.core t).migrating.isSome then .error .busy else .ok t
  | none => .error (.cause .migrate {})

/-- Is the scratchpad that holds a key being streamed to another core (R25)? -/
def State.streaming (s : State) (k : Nat) : Bool := (keyCore k).any fun c => (s.core c).migrating.isSome

/-- Alignment cause of condition 5. -/
def alignCause : AccKind → Cause
  | .load => .ldalign
  | .fetch => .ldalign
  | .engRead => .ldalign
  | .atomic => .atomalign
  | _ => .stalign

/-- The checks of R40, conditions 1 to 9, on an access of `size` bytes whose natural alignment is `align` (R17 to R39). A cell that
passes condition 8 is resolved later through its snapshot (R154). The key is the one the address names: areas of shadowed buffers are
told apart by `State.check`. A register of the system window that is reached by anything but an aligned load or store of 8 bytes takes ACCESS, a
misaligned one too, for which R40 alone would give condition 5 (log 63, DEDUCED). -/
def State.checkNamed (s : State) (a : Agent) (kind : AccKind) (align size : Nat) (va : Word) : Except Miss Hit :=
  let v := va.toNat
  let sp := fieldOf v 60 4
  let cz := fun (c : Cause) => (Except.error (Miss.cause c { d0 := va, d1 := BitVec.ofNat 64 size }) : Except Miss Hit)
  let acc := cz .access
  let pb := (Except.error (Miss.cause .partbound { d0 := va }) : Except Miss Hit)
  let die := fieldOf v 32 2
  let l := (s.part a.asid).launch
  let inMask := fun c => l.mask.contains (coreDie c * 288 + coreBent c)
  if 8 ≤ sp then acc
  else if sp = 7 ∧ !a.privileged then .error (.cause .priv { d0 := va })
  else if kind = .fetch ∧ v % 4 ≠ 0 then .error (.cause .fetchalign { d0 := va })
  else if kind = .fetch ∧ sp ≠ 4 then .error (.cause .fetchfault { d0 := va })
  else if sp = 7 ∧ fieldOf v 48 12 = 0 ∧ (align ≠ 8 ∨ size ≠ 8 ∨ v % 8 ≠ 0 ∨ kind = .atomic) ∧ ((upTo ((v % 8 + size + 7) / 8)).any fun i => winNamed (v / 8 * 8 + 8 * i)) then acc
  else if v % align ≠ 0 then cz (alignCause kind)
  else match sp with
    | 0 =>
      if fieldOf v 17 43 ≠ 0 ∨ kind = .atomic ∨ a.system then acc
      else if 0x20000 < v + size then acc
      else .ok (.mem (scratchKey a.core v))
    | 1 =>
      let row := fieldOf v 26 6
      if fieldOf v 34 26 ≠ 0 ∨ fieldOf v 17 4 ≠ 0 ∨ 36 ≤ row then acc
      else
        let c := coreAt die row (fieldOf v 21 5)
        if !inMask c then pb
        else if 0x20000 < fieldOf v 0 17 + size then acc
        else match s.scratchHolder c with
          | .ok h => .ok (.mem (scratchKey h (fieldOf v 0 17)))
          | .error (.cause c _) => .error (.cause c { d0 := va })
          | .error m => .error m
    | 2 =>
      let bay := fieldOf v 25 7
      let off := fieldOf v 0 22
      let sh := tgetD l.shares (bayId die bay) { psize := 0, pbase := 0, vsize := 0, vbase := 0 }
      if fieldOf v 34 26 ≠ 0 ∨ fieldOf v 22 3 ≠ 0 ∨ 72 ≤ bay then acc
      else if sh.psize * 65536 < off + size then pb
      else .ok (.mem (poolKey die bay (sh.pbase * 65536 + off)))
    | 3 =>
      let bay := fieldOf v 25 7
      let off := fieldOf v 0 24
      let sh := tgetD l.shares (bayId die bay) { psize := 0, pbase := 0, vsize := 0, vbase := 0 }
      if fieldOf v 34 26 ≠ 0 ∨ fieldOf v 24 1 ≠ 0 ∨ 72 ≤ bay then acc
      else if off < 0x400000 then
        if !l.mask.contains (die * 288 + 4 * bay + off / 0x100000) then pb
        else .ok (.mem (vaultKey die bay off))
      else if sh.vsize * 65536 < off - 0x400000 + size then pb
      else .ok (.mem (vaultKey die bay (0x400000 + sh.vbase * 65536 + (off - 0x400000))))
    | 4 =>
      if fieldOf v 48 12 ≠ 0 then acc
      else match s.translate a kind (fieldOf v 0 48) with
        | .ok pa => .ok (.mem (hbmKey pa))
        | .error m => .error m
    | 5 =>
      let peer := fieldOf v 48 8
      if fieldOf v 56 4 ≠ 0 ∨ kind = .atomic then acc
      else if (tget l.peers peer).any (·.v) then .ok (.remote peer (fieldOf v 0 48))
      else acc
    | 6 =>
      if fieldOf v 52 8 ≠ 0 then acc
      else if kind.writes then .error (.cause .prot { d0 := va })
      else
        let id := fieldOf v 32 20
        match tget (s.part a.asid).sdir.cells id with
        | none => .error (.cause .cellbad { d0 := BitVec.ofNat 64 id })
        | some _ => .ok (.cell id (fieldOf v 0 32))
    | _ =>
      if fieldOf v 48 12 ≠ 0 ∨ 7 ≤ fieldOf v 44 4 then acc
      else if fieldOf v 44 4 = 3 then
        if fieldOf v 40 4 ≠ 0 ∨ 0x6000000000 < fieldOf v 0 40 + size then acc
        else .ok (.mem (hbmKey (fieldOf v 0 40)))
      else .ok (.window v)

/-- Key of a shadowed buffer's first byte and the size of one of its areas (R340); a buffer of a migrated scratchpad has moved with it. -/
def State.shadowBase (s : State) (asid : Nat) (e : Shadow) : Nat × Nat :=
  let v := e.name.toNat
  let die := fieldOf v 32 2
  let bay := fieldOf v 25 7
  let sh := tgetD (s.part asid).launch.shares (bayId die bay) { psize := 0, pbase := 0, vsize := 0, vbase := 0 }
  (match fieldOf v 60 4 with
    | 1 => scratchKey (s.holderOf (coreAt die (fieldOf v 26 6) (fieldOf v 21 5))) (fieldOf v 0 17)
    | 2 => poolKey die bay (sh.pbase * 65536 + fieldOf v 0 22)
    | _ => vaultKey die bay (0x400000 + sh.vbase * 65536 + (fieldOf v 0 24 - 0x400000)), e.size)

/-- The key an access to a range reaches: in area 0 of a shadowed buffer the visible area, or the shadow for the engine writes that go
there; none where it names area 1 (R340). -/
def State.area (s : State) (asid k n : Nat) (shadow : Bool) : Option Nat :=
  (s.part asid).launch.shadows.foldl (fun (r : Option Nat) (e : Nat × Shadow) =>
    let (b, size) := s.shadowBase asid e.2
    if overlap k n (b + size) size then none
    else if overlap k n b size then r.map fun k => if e.2.sel != shadow then k + size else k
    else r) (some k)

/-- The checks of R40 on an access; in a shadowed buffer it reaches the visible area, or the shadow, and area 1 takes ACCESS (R340). -/
def State.checkTo (s : State) (shadow : Bool) (a : Agent) (kind : AccKind) (align size : Nat) (va : Word) : Except Miss Hit :=
  match s.checkNamed a kind align size va with
  | .ok (.mem k) =>
    match s.area a.asid k size shadow with
    | some k => .ok (.mem k)
    | none => .error (.cause .access { d0 := va, d1 := BitVec.ofNat 64 size })
  | r => r

/-- The checks of R40 on an access other than an engine write to a shadow. -/
def State.check (s : State) (a : Agent) (kind : AccKind) (align size : Nat) (va : Word) : Except Miss Hit :=
  s.checkTo false a kind align size va

end Sys2Proof.Machine
end

