-- ==== Sys2Proof/Machine/Ops.lean ====
section
/-! DEFINITION. The named operations that every meaning goes through: the empty-source test and the results of an instruction (R194,
R195, R257), stopping a unit and resuming it (R392 to R404), holding an access (R41, R42), and starting and ending units. -/

namespace Sys2Proof.Machine

/-! ## Stop ring and notices -/

/-- The 128 bits of a stop notice record, its V bit set (R398). -/
def StopRec.bits (r : StopRec) : BitVec 128 :=
  BitVec.ofNat 128 (packNat [(127, 1, 1), (124, 3, r.kind), (112, 12, r.slot), (102, 6, r.cause), (90, 12, r.asid), (48, 16, r.lcore), (0, 48, r.tid)])

/-- The interrupt class of a record (R399). -/
def StopRec.cls (r : StopRec) : Nat :=
  if r.kind ≠ 5 then 16
  else if r.cause = Cause.eccunc.code ∨ r.cause = Cause.bwinbad.code ∨ r.cause = Cause.double.code ∨ r.cause = Cause.machinechk.code then 18
  else if r.cause = Cause.timelost.code ∨ r.cause = Cause.skewexc.code then 19
  else 21

/-- The thread that waited for a record becomes idle (R397). -/
def State.noted (s : State) (r : StopRec) : State :=
  match r.thr, s.lcoreCore r.asid r.lcore with
  | some t, some c => s.modThr c t fun th => { th with noting := false }
  | _, _ => s

/-- Raises the interrupt class of a record: at the system core that its routing register names, or, of a system core's own notice, at every other one (R399,
R406). -/
def State.raiseRec (s : State) (die : Nat) (r : StopRec) : State :=
  match r.sc with
  | none => s.raiseIrq die r.cls
  | some sc => ((upTo 8).filter (· ≠ sc)).foldl (fun s i => s.irqAt i r.cls die) s

/-- Writes a record at the ring's turn and raises its interrupt class (R398, R399). -/
def State.writeRec (s : State) (die : Nat) (r : StopRec) : State :=
  ((s.modDie die fun d => { d with stopRing := tput d.stopRing d.stopNext r.bits, stopNext := (d.stopNext + 1) % 1024 }).raiseRec die r).noted r

/-- Is the ring entry whose turn it is still new? -/
def Die.ringBlocked (d : Die) : Bool := (tgetD d.stopRing d.stopNext 0).getLsbD 127

/-- Sends a record to the die's stop ring, behind the records that wait (R398). -/
def State.pushRec (s : State) (die : Nat) (r : StopRec) : State :=
  if (s.die die).stopWait.isEmpty && !(s.die die).ringBlocked then s.writeRec die r
  else s.modDie die fun d => { d with stopWait := d.stopWait ++ [r] }

/-- A notice (KIND 5) of a cause against a task id of a launch, zero for a die event (R392, R398). -/
def State.notice (s : State) (die : Nat) (c : Cause) (asid lcore tid : Nat) : State :=
  s.pushRec die { kind := 5, slot := 0, cause := c.code, asid := asid, lcore := lcore, tid := tid }

/-- A notice against a unit of a core. -/
def State.noticeOf (s : State) (core : Nat) (c : Cause) (tid : Nat) : State :=
  s.notice (coreDie core) c (s.core core).asidN (s.core core).lcore tid

/-! ## The deque -/

/-- The hardware reads an entry (R71 to R73, R167): one in the spill area has the words that lie there; of one in the deque itself, weak words are corrected and
counted, and failed ones logged, at the core's first scratchpad address (log 88). -/
def State.fetchPeg (s : State) (c : Nat) (p : Peg) : Peg × State :=
  match p.spill with
  | none =>
    if p.weak.isEmpty && p.bad.isEmpty then (p, s)
    else
      let s := s.modDie (coreDie c) fun e =>
        { p.bad.foldl (fun e _ => e.logEcc (scratchKey c 0) 4 s.cycle false) e with
          eccstat := wput (p.bad.foldl (fun e _ => e.logEcc (scratchKey c 0) 4 s.cycle false) e).eccstat 16 32 (satN 32 (wfield e.eccstat 16 32 + p.weak.length)) }
      ({ p with weak := [], bad := [] }, if p.bad.isEmpty then s else s.raiseIrq (coreDie c) 18)
  | some i =>
    let k := scratchKey c ((s.core c).dqBase + 64 * i)
    ({ p with w := Vector.ofFn fun (j : Fin 8) => BitVec.ofNat 64 (s.readLe (k + 8 * j.val) 8), spill := none }, s.hwRead k 64)

/-- The same of several. -/
def State.fetchPegs (s : State) (c : Nat) : List Peg → List Peg × State
  | [] => ([], s)
  | p :: r =>
    let (p, s) := s.fetchPeg c p
    let (r, s) := s.fetchPegs c r
    (p :: r, s)

/-- Entries past the newest 64 that have no place yet get the lowest free ones of the spill area, and their words are written there (R167; which
place an entry takes is the model's choice, log 65). -/
def State.spillPegs (s : State) (c : Nat) : List Nat → List Peg → State × List Peg
  | _, [] => (s, [])
  | used, p :: r =>
    match p.spill with
    | some _ => let (s, r) := s.spillPegs c used r; (s, p :: r)
    | none =>
      let i := ((upTo (used.length + 1)).find? fun i => !used.contains i).getD 0
      let (p, s) := s.fetchPeg c p
      let s := s.writeBytes (scratchKey c ((s.core c).dqBase + 64 * i)) (p.w.toList.flatMap fun w => leBytes 8 w.toNat)
      let (s, r) := s.spillPegs c (i :: used) r
      (s, { p with spill := some i } :: r)

/-- After a change of a deque: its newest 64 entries lie in hardware, the older ones in the spill area (R167). -/
def State.settleDeque (s : State) (c : Nat) : State :=
  let l := (s.core c).deque
  if l.length ≤ 64 && l.all fun p => p.spill.isNone then s
  else
    let (back, s) := s.fetchPegs c ((l.take 64).filter fun p => p.spill.isSome)
    let top := (l.take 64).foldl (fun (a : List Peg × List Peg) p => if p.spill.isNone then (a.1 ++ [p], a.2) else (a.1 ++ a.2.take 1, a.2.drop 1)) ([], back)
    let (s, old) := s.spillPegs c ((l.drop 64).filterMap fun p => p.spill) (l.drop 64)
    s.modCore c fun k => { k with deque := top.1 ++ old }

/-! ## Trace records and accounting -/

/-- Writes the 64-byte trace record of a unit at its end, where traced (R421). -/
def State.traceEnd (s : State) (c t code : Nat) : State :=
  let x := s.ctx c t
  let asid := (s.core c).asidN
  let g := (s.part asid).dbg
  if wfield x.w1 57 1 = 0 ∨ wfield g.trccfg 63 1 = 0 then s
  else
    let logn := let n := wfield g.trccfg 58 5; if 4 ≤ n ∧ n ≤ 24 then n else 4
    let at_ := wfield g.trccfg 12 36 * 4096 + 64 * (g.trcnext % 2 ^ logn)
    let words := [x.tid + code * 2 ^ 48, x.enqt.toNat, x.deqt.toNat, (s.gtime c).toNat,
      (s.core c).lcore * 2 ^ 48 + x.enqLcore % 65536 * 2 ^ 32 + b2n x.stolen, 0, 0, 0]
    let s := s.writeBytes (hbmKey at_) (words.flatMap (leBytes 8))
    s.modPart asid fun p => { p with dbg := { p.dbg with trcnext := (p.dbg.trcnext + 1) % 2 ^ 32 } }

/-- The thread goes idle (R163). -/
def State.goIdle (s : State) (c t : Nat) : State :=
  s.modThr c t fun th => { th with running := false, ctx := { th.ctx with wait := .no } }

/-- ORs the sticky warnings of an ended unit into the launch's summary (R200, R206). -/
def State.sumWarn (s : State) (asid : Nat) (x : Ctx) : State :=
  s.modPart asid fun p => { p with warnSum := p.warnSum ||| (x.warn &&& 7) }

/-! ## Stopping a unit -/

/-- The priority of a channel in a core's task table (R173). -/
def Core.chanPri (k : Core) (chan : Nat) : Nat := wfield (tgetD k.chans chan 0) 59 3

/-- V = 1 (R173). -/
def Core.chanV (k : Core) (chan : Nat) : Bool := wfield (tgetD k.chans chan 0) 63 1 == 1

/-- V = 1 and BLK = 0: are messages of the channel dispatched (R173)? -/
def Core.chanOpen (k : Core) (chan : Nat) : Bool := k.chanV chan && wfield (tgetD k.chans chan 0) 62 1 == 0

/-- The channel of a message or refusal entry. -/
def Ready.chan? : Ready → Option Nat
  | .msg chan _ _ => some chan
  | .refusal _ => some 255
  | _ => none

/-- After a change of a channel's V or BLK: its waiting messages enter the ready queue with their original ages, or leave it (R173,
R269). -/
def Core.resort (k : Core) (chan : Nat) : Core :=
  let mine := fun (e : ReadyEntry) => e.item.chan? == some chan
  if k.chanOpen chan then
    let come := k.heldMsgs.filter mine
    { k with ready := k.ready ++ come, heldMsgs := k.heldMsgs.filter fun e => !mine e, queued := k.queued + come.length }
  else { k with heldMsgs := k.heldMsgs ++ k.ready.filter mine, ready := k.ready.filter fun e => !mine e }

/-- Marks the block of a channel (R404). -/
def Core.setBlk (k : Core) (chan : Nat) (b : Bool) : Core :=
  { k with chans := tput k.chans chan (wput (tgetD k.chans chan 0) 62 1 (b2n b)) }

/-- A message of the channel that a window close waits for waits no more: it will not be dispatched (R184). -/
def Core.disown (k : Core) (chan : Nat) : Core :=
  let mine := k.heldMsgs.filterMap fun e => match e.item with | .msg c hdr _ => if c = chan then some hdr else none | _ => none
  { k with det := { k.det with owed := k.det.owed.filter fun h => !mine.contains h } }

/-- A handler's message or refusal goes back to the head of its channel, which is blocked: its other messages leave the ready queue (R173, R180,
R404). In a deterministic launch the aborted handler counts as finished, and the messages of the blocked channel keep no close waiting. -/
def State.abortHandler (s : State) (c : Nat) (x : Ctx) : State :=
  match x.kind with
  | .handler chan hdr len age _ _ =>
    s.modCore c fun k =>
      let k : Core := { k with heldMsgs := { age := age, enqt := x.enqt, item := .msg chan hdr len } :: k.heldMsgs }
      ((k.setBlk chan true).resort chan).disown chan
  | .refusal slot age _ _ =>
    s.modCore c fun k =>
      let k : Core := { k with heldMsgs := { age := age, enqt := x.enqt, item := .refusal slot } :: k.heldMsgs }
      (k.setBlk 255 true).resort 255
  | _ => s

/-- Detail words of an aborted handler: the message id, the channel and the header's offset (R404). A refusal has no record in the ring: the id
of the refused message and the number of the refusal's slot stand in their places (log 64, DESIGN CHOICE). -/
def Ctx.abortDetail (x : Ctx) (d : Detail) : Detail :=
  match x.kind with
  | .handler chan hdr _ _ seq slc => { d with d0 := pack [(32, 32, seq), (0, 32, slc)], d1 := pack [(32, 17, hdr), (0, 8, chan)] }
  | .refusal slot _ seq slc => { d with d0 := pack [(32, 32, seq), (0, 32, slc)], d1 := pack [(32, 17, slot), (0, 8, 255)] }
  | _ => d

/-- The kind of slot a stop fills: a stopped handler is aborted (1), a stopped formula task is parked (2), R392, R397. -/
def Ctx.stopKind (x : Ctx) (kind : Nat) : Nat :=
  if kind ≠ 0 then kind
  else if x.isHandler then 1
  else match x.kind with | .formula _ _ => 2 | _ => 0

/-- A wait whose request has left the thread: the saved context goes on waiting for it (R258, R391, R35). Any other waiting instruction is
withdrawn and issues afresh. -/
def Wait.kept : Wait → Bool
  | .answer => true
  | .quantum => true
  | .remote _ => true
  | .publ _ => true
  | _ => false

/-- A unit that leaves its thread gives up its place among the cell requests that wait unaccepted (R144, R258). -/
def State.leaveQueue (s : State) (asid : Nat) (x : Ctx) : State :=
  if x.wait.kept then s else s.modSdir asid fun d => { d with waitq := d.waitq.filter (· ≠ x.uid), pubq := d.pubq.filter (· ≠ x.uid) }

/-- Removes a held access from its notification; a notification left empty closes (R47). -/
def Die.withdraw (d : Die) (p : Held → Bool) : Die :=
  let held := d.held.filter fun h => !p h
  { d with held := held, stalled := d.stalled.filter fun h => !p h, notifs := d.notifs.filter fun n => held.any fun h => h.hid == n.hid }

/-- Is the held access one of a unit's own: of its thread, or of its vector queue (R47)? -/
def Held.ofUnit (h : Held) (uid : Nat) : Bool :=
  match h.who with
  | .thread u => u == uid
  | .engine _ q u => q == 3 && u == uid
  | .request _ => false

/-- A thread that leaves its instruction gives up the turns that it has (R69). -/
def State.dropTurnsOf (s : State) (uid : Nat) : State :=
  if s.turns.isEmpty then s else { s with turns := s.turns.filter fun t => !(t.uid == uid && t.seq == 2 ^ 64) }

/-- What a stop does to its unit, wherever it is kept (R47, R180, R301, R396, R397): the trace record; instructions that have not left the thread
and held accesses are withdrawn; SFU requests that are not issued are withdrawn; the causes not taken wait until the unit has run again; an aborted
handler gives its message back, and a formula task's cell is FAULTED (R158). -/
def State.stopUnit (s : State) (c t : Nat) (st : Stopped) : State :=
  let x := s.ctx c t
  let asid := (s.core c).asidN
  let s := s.traceEnd c t (if st.kind = 1 then 5 else 4)
  let s := s.modCtx c t fun x =>
    { x with
      vq := x.vq.map fun (q : Cmd) => { q with hid := none, redo := none }
      wait := if x.wait.kept then x.wait else .no
      redo := none, stall := .no
      wide := if x.wait.kept then x.wide else [], maskJob := if x.wait.kept then x.maskJob else none
      pend := x.pend.map fun (p : Pending) => { p with late := true }, badLate := x.badRegs.length
      sends := if st.kind = 1 then [] else x.sends, watches := if st.kind = 1 then [] else x.watches }
  let s := s.modCore c fun k => { k with sfu := k.sfu.filter fun (r : SfuReq) => r.stream || r.uid != x.uid }
  let s := ((s.modDie (coreDie c) fun d => d.withdraw fun h => h.ofUnit x.uid).leaveQueue asid x).dropTurnsOf x.uid
  let s := if st.kind = 1 then (s.sumWarn asid x).abortHandler c x else s
  match x.kind, st.kind with
  | .formula cell _, 2 => s.modCell asid cell fun e => if e.task = some x.tid then { e with state := .faulted } else e
  | _, _ => s

/-- Writes the context of a stopped unit into slot i of the core's die with its notice, and leaves the thread idle once the record is in the ring
(R397, R398). -/
def State.fillSlot (s : State) (c t i : Nat) (st : Stopped) : State :=
  let x := s.ctx c t
  let k := s.core c
  let asid := k.asidN
  let die := coreDie c
  let det := if st.kind = 1 then x.abortDetail st.det else st.det
  let slot : Slot := { ctx := x, kind := st.kind, cause := st.cause, more := false, det := det, asid := asid, lcore := k.lcore, core := c, thread := t, resumeAt := none, resumeOn := k.lcore }
  let s := (s.modDie die fun d => { d with slots := tput d.slots i slot }).modThr c t fun th => { th with stopped := none, noting := true }
  let s := s.goIdle c t
  let s := s.pushRec die { kind := st.kind, slot := i, cause := st.cause, asid := asid, lcore := k.lcore, tid := x.tid, thr := some t }
  if st.cause = Cause.machinechk.code ∧ st.kind ≤ 2 then s.raiseIrq die 18 else s

/-- The number of a thread's queue of ended units' vector instructions among the queues of a core (`Port.holder`). -/
def pastQueue (t : Nat) : Nat := 4 + t

/-- The context with its vector instructions on a core (R296). -/
def Ctx.onCore (x : Ctx) (core : Nat) : Ctx := { x with vq := x.vq.map fun (q : Cmd) => { q with core := core } }

/-- Has a unit .A commands that go on without it: in its own vector queue, or in the vector-stream queue of any core (R228)? -/
def State.apxOut (s : State) (x : Ctx) : Bool :=
  (x.vq ++ s.cores.flatMap fun p => p.2.vsq).any fun q => q.uid == x.uid && isApx q.top

/-- The vector instructions that a unit leaves behind stay in the queue of thread t of core c, with their held pages (R219, R293), and the elements its .A
commands have counted stay known while those go on (R228). -/
def State.leaveVectors (s : State) (c t : Nat) (x : Ctx) : State :=
  let asid := (s.core c).asidN
  let s := if s.apxOut x then s.modPart asid fun p => { p with apxPast := tput p.apxPast x.uid x.apxCount } else s
  if x.vq.isEmpty then s
  else
    (s.modThr c t fun th => { th with past := th.past ++ x.vq, ctx := { th.ctx with vq := if th.ctx.uid = x.uid then [] else th.ctx.vq } }).modDie (coreDie c) fun d =>
      { d with held := d.held.map fun (h : Held) => if h.who = .engine c 3 x.uid then { h with who := .engine c (pastQueue t) x.uid } else h }

/-- The cell and generation of a formula task. -/
def UnitKind.formula? : UnitKind → Option (Nat × Nat)
  | .formula c g => Option.some (c, g)
  | _ => Option.none

/-- Is the unit a formula task that ABANDON has discarded: its cell no longer names it (R160)? -/
def State.dropped (s : State) (asid : Nat) (x : Ctx) : Bool :=
  match x.kind with
  | .formula cell _ => !(tget (s.part asid).sdir.cells cell).any fun e => e.task == some x.tid
  | _ => false

/-- The stop of a discarded formula task: nothing of it is kept (R160). Its record is of KIND 2 with GENABANDON and names the lowest free slot, which stays free
(log 67, DESIGN CHOICE); its warnings join the launch's summary (R200). -/
def State.dropUnit (s : State) (c t : Nat) (st : Stopped) : State :=
  let x := s.ctx c t
  let k := s.core c
  let s := ((s.stopUnit c t { st with kind := 2 }).sumWarn k.asidN x).leaveVectors c t x
  let s := s.modThr c t fun th =>
    { th with noting := true, ctx := { th.ctx with watches := [], snaps := Vector.replicate 4 none, ops := [], pend := [], sends := [], kind := .none, wait := .no } }
  (s.goIdle c t).pushRec (coreDie c)
    { kind := 2, slot := (tfree (s.die (coreDie c)).slots 4096).getD 0, cause := Cause.genabandon.code, asid := k.asidN, lcore := k.lcore, tid := x.tid, thr := some t }

/-- The detail words of a stop: ILLOP and RSVFLD name the word at the program counter in D0 (R393). -/
def State.stopDetail (s : State) (c : Nat) (x : Ctx) (cause : Option Cause) (det : Detail) : Detail :=
  if (cause = some .illop ∨ cause = some .rsvfld) ∧ det = {} then
    match s.check (s.agent c) .fetch 1 4 x.pc with
    | .ok (.mem k) => { d0 := BitVec.ofNat 64 (s.readLe k 4) }
    | _ => det
  else det

/-- TAKING A STOP: the one operation by which a cause stops a unit (R392, R397). The program counter stays where the instruction is, so
the slot's PC is the instruction's address for a precise cause and the boundary for the others. With no free slot the thread
stays stopped on its core and FULLSEEN is set. A landing handler has no slot: its cause is left for its copy command (R335). Of a discarded formula task nothing
is kept, whatever stops it (R160). -/
def State.takeStop (s : State) (c t kind : Nat) (cause : Option Cause) (det : Detail) : State :=
  if t = 4 then s.modThr c t fun th => { th with running := false, ctx := { th.ctx with pend := (cause.toList.map fun e => { cause := e, det := det }) } }
  else
    let x := s.ctx c t
    let st : Stopped := { kind := x.stopKind kind, cause := (cause.map Cause.code).getD 0, det := s.stopDetail c x cause det, age := s.nextAge }
    if s.dropped (s.core c).asidN x then s.dropUnit c t st else
    let s := s.stopUnit c t st
    match tfree (s.die (coreDie c)).slots 4096 with
    | some i => s.fillSlot c t i st
    | none =>
      let s := { s with nextAge := s.nextAge + 1 }
      (s.modThr c t fun th => { th with running := false, stopped := some st }).modDie (coreDie c) fun d => { d with cxFull := true }

/-- A stop of the issuing unit by a precise cause of its instruction. -/
def State.trap (s : State) (c : Cause) (d : Detail := {}) : State := s.takeStop s.curCore s.curThread.val 0 (some c) d

/-- A boundary cause against a unit: it stays pending until the unit's next boundary; in a slot it sets MORE (R392, R396). -/
def State.pendCause (s : State) (uid : Nat) (c : Cause) (d : Detail := {}) (noRoute : Bool := false) : State :=
  if s.inSlot uid then
    { s with dies := s.dies.map fun e => { e with slots := e.slots.map fun (i, sl) => (i, if sl.ctx.uid = uid then { sl with more := true } else sl) } }
  else s.modUnit uid fun x => { x with pend := x.pend ++ [{ cause := c, det := d, noRoute := noRoute }] }

/-- A boundary cause against a unit that may have ended as a suspension: the unit that runs its task now takes it, or else the next one that does (log 94,
DEDUCED). -/
def State.pendTask (s : State) (asid uid tid : Nat) (c : Cause) (d : Detail) : State :=
  match s.taskUid asid uid tid with
  | some u => s.pendCause u c d
  | none => s.modPart asid fun p => { p with faulted := p.faulted ++ [(tid, c, d)] }

/-- The cause of a stepped unit's command, or with `vec` of its vector instruction: it waits for the unit's step boundary and is taken in place of STEP (R419). -/
def State.pendEng (s : State) (uid : Nat) (c : Cause) (d : Detail) (vec : Bool) : State :=
  s.modUnit uid fun x => { x with pend := x.pend ++ [{ cause := c, det := d, eng := true, vec := vec }] }

/-! ## Resuming a unit: the return from a stop -/

/-- RESUMING: the context of a slot enters the ready queue of a core with the age of the resume, and the slot is free (R403). The unit
goes on at PC with the window's state, its vector instructions on the core it now is on (R296); operations that have ended leave the in-flight table
(R420); a parked formula task's cell runs again (R158). The core issues nothing until its clock has passed
the times that the unit's core had read (R105). -/
def State.resumeTo (s : State) (die slot core : Nat) : State :=
  match tget (s.die die).slots slot with
  | none => s
  | some sl =>
    let x := { sl.ctx with
      brkPass := true, desched := false, enqt := s.gtime core, enqLcore := sl.lcore, stolen := false
      ops := sl.ctx.ops.filter fun (o : InFlight) => o.state < 2
      vq := sl.ctx.vq.map fun (q : Cmd) => { q with core := core } }
    let s := s.modDie die fun d => { d with slots := tdel d.slots slot }
    let s := match sl.ctx.kind, sl.kind with
      | .formula cell _, 2 => s.modCell sl.asid cell fun e => if e.task = some x.tid then { e with state := .running } else e
      | _, _ => s
    let (age, s) := s.newAge
    let entry : ReadyEntry := { age := age, enqt := s.gtime core, item := .ctx x }
    let seen := (s.core (s.slotCore sl)).maxGtime
    s.modCore core fun k =>
      { k with ready := k.ready ++ [entry], maxGtime := if k.maxGtime.toNat < seen.toNat then seen else k.maxGtime }

/-! ## Holding an access -/

/-- The notification record's 128 bits (R42). -/
def notifBits (die : Nat) (n : Notif) (count : Nat) : BitVec 128 :=
  let kind := match n.kind with | .load => 0 | .store => 1 | .atomic => 2 | .fetch => 3 | .engRead => 4 | .engWrite => 5
  BitVec.ofNat 128 (packNat [(112, 16, n.hid), (98, 6, n.cause.code), (96, 2, die), (93, 3, kind), (64, 13, count), (60, 4, n.space),
    (56, 4, n.reason), (48, 8, n.peer), (16, 32, n.vag), (0, 12, n.asid)])

/-- A hold id not in use by an open notification of the die (R42). -/
def Die.freshHid (d : Die) : Nat :=
  ((upTo (d.notifs.length + 1)).map fun i => (d.nextHid + i) % 65536).find? (fun h => !d.notifs.any fun n => n.hid == h) |>.getD d.nextHid

/-- Hold id of an access that stalls for an entry (R46). -/
def noEntry : Nat := 65536

/-- Gives a held access an entry: it joins an open notification of its group or opens one, whose record then waits for the ring (R41, R42). A notification
of reason 6 keeps the cause that the peer reported for its first entry (log 44). -/
def State.parkEntry (s : State) (die : Nat) (h : Held) : Nat × State :=
  let d := s.die die
  match d.notifs.find? fun n => n.asid == h.asid && n.space == h.space && n.peer == h.peer && n.vag == h.vag && n.reason == h.reason && (n.fetch == (h.kind = .fetch)) with
  | some n => (n.hid, s.modDie die fun d => { d with held := d.held ++ [{ h with hid := n.hid }] })
  | none =>
    let hid := d.freshHid
    let n : Notif := { hid := hid, asid := h.asid, space := h.space, peer := h.peer, vag := h.vag, reason := h.reason, fetch := h.kind = .fetch, kind := h.kind, cause := h.cause, written := false }
    (hid, s.modDie die fun d => { d with held := d.held ++ [{ h with hid := hid }], notifs := d.notifs ++ [n], nextHid := (hid + 1) % 65536 })

/-- Parks an access in the die's fault-hold queue (R41). With all 4,096 entries in use, or others stalled for one already, it stalls instead and FULLSEEN is
set: stalled accesses are served by age (R46). `addr` is the address whose translation failed. -/
def State.parkSized (s : State) (die asid : Nat) (kind : AccKind) (va space peer addr reason size : Nat) (cause : Cause) (who : Holder) : Nat × State :=
  let s := if space = 4 then s.noteWalk die (walk s die asid addr) else s
  let h : Held :=
    { hid := 0, asid := asid, space := space, peer := peer, vag := addr / 65536, addr := addr, reason := reason, kind := kind, cause := cause
      va := BitVec.ofNat 64 va, size := size, who := who }
  if 4096 ≤ (s.die die).held.length ∨ !(s.die die).stalled.isEmpty then (noEntry, s.modDie die fun d => { d with stalled := d.stalled ++ [h], fhFull := true })
  else s.parkEntry die h

/-- Parks an access whose size no cause of its kill reports. -/
def State.park (s : State) (die asid : Nat) (kind : AccKind) (va space peer addr reason : Nat) (cause : Cause) (who : Holder) : Nat × State :=
  s.parkSized die asid kind va space peer addr reason 0 cause who

/-- The instruction word at the issuing thread's program counter. -/
def State.curWord (s : State) : Option (BitVec 32) :=
  match s.check (s.agent s.curCore) .fetch 1 4 s.cur.pc with
  | .ok (.mem k) => some (BitVec.ofNat 32 (s.readLe k 4))
  | _ => none

/-- Holds the issuing thread at its instruction until system software settles the notification (R41). What a fetch had passed stays passed: the
instruction goes on from condition 9 when its access is reissued (R44). -/
def State.holdCur (s : State) (kind : AccKind) (va : Word) (space peer addr reason : Nat) (cause : Cause) : State :=
  let x := s.cur
  let die := coreDie s.curCore
  let word := match x.redo with | some r => some r.word | none => s.curWord
  let redo := if kind = .fetch then none else word.map fun w => ({ word := w, va := va, addr := addr } : Redo)
  let (_, s) := s.park die s.curK.asidN kind va.toNat space peer addr reason cause (.thread x.uid)
  s.modCur fun c => { c with wait := .held, redo := redo }

/-! ## Results of an instruction -/

/-- What an instruction did: it retired and goes on at pc + 4; it transferred control; it stopped with a cause; or it holds issue and the
state says what it waits for. -/
inductive Res where
  | retire (s : State)
  | jump (target : Word) (s : State)
  | trap (c : Cause) (d : Detail) (s : State)
  | stay (s : State)
deriving DecidableEq, Repr

/-- A core ends its quantum and begins the next with a count of 0 (R390). -/
def State.endCoreQuantum (s : State) (c : Nat) : State :=
  s.modCore c fun k => { k with det := { k.det with ended := k.det.ended + 1, quantum := k.det.quantum + 1, count := 0 } }

/-- Counts a retired instruction of thread 0 in a deterministic launch; the quantum ends at QWIN.Q of them (R390). -/
def State.countQuantum (s : State) (c t : Nat) : State :=
  if (s.launchOf c).deterministic && t == 0 then
    let n := (s.core c).det.count + 1
    let s := s.modCore c fun k => { k with det := { k.det with count := n } }
    if wfield (s.launchOf c).qwin 0 32 ≤ n then s.endCoreQuantum c else s
  else s

/-- Is the unit single-stepped (R418)? -/
def State.stepped (s : State) (asid tid : Nat) : Bool :=
  let g := (s.part asid).dbg.step
  wfield g 63 1 == 1 && wfield g 0 48 == tid

/-- The pending causes of a unit that has retired an instruction: a STEP where it is stepped (R418); where it is not, no engine's cause waits for one
(R419), and a vector instruction's stops the unit by itself (R296). -/
def Ctx.pendStep (x : Ctx) (on : Bool) : List Pending :=
  if !on then (x.pend.filter fun p => !p.eng || p.vec).map fun (p : Pending) => { p with eng := false }
  else if x.pend.any fun p => p.cause == .step then x.pend
  else x.pend ++ [{ cause := .step, det := {} }]

/-- A stepped unit stops at the boundary after the instruction it retired (R418). -/
def State.stepPend (s : State) (c t : Nat) : State :=
  s.modCtx c t fun x => { x with pend := x.pendStep (s.stepped (s.core c).asidN x.tid) }

/-- The context after an instruction has retired: causes that waited for the unit to run may be taken now (R396). -/
def Ctx.retired (x : Ctx) (pc : Word) : Ctx :=
  { x with
    pc := pc, brkPass := false, wait := .no, served := false, redo := none, stall := .no
    pend := x.pend.map fun (p : Pending) => { p with late := false }, badLate := 0 }

/-- The stops that may be taken at the unit's boundary now (R396): the pending causes that do not wait for the unit to run, an engine's only in place of
a STEP (R419), and the registers whose parity is wrong (R71; they are found at the next boundary, log 70). -/
def Ctx.stopsDue (x : Ctx) : List Pending :=
  let now := x.pend.filter fun p => !p.late
  (now.filter fun p => !p.eng || now.any fun q => q.cause == .step) ++
  (x.badRegs.drop x.badLate).map fun r => { cause := .machinechk, det := { d0 := pack [(6, 2, r.1), (0, 6, if r.1 = 3 then r.2 / 32 else r.2)] } }

/-- Is a stop due at the unit's boundary: a cause, or a deschedule (R396, R407)? -/
def Ctx.stopDue (x : Ctx) : Bool := !x.stopsDue.isEmpty || x.desched

/-- Rank of a stop in the order of R396: what an answer reported to a context that was not running and the faults of its vector queue, then
MACHINECHK, then DLMISS and GENABANDON, then STEP, which an engine's cause replaces. -/
def pendRank (p : Pending) : Nat :=
  if p.eng then 3
  else match p.cause with
    | .machinechk => 1
    | .dlmiss => 2
    | .genabandon => 2
    | .replaydiv => 2
    | .step => 4
    | _ => 0

/-- The context once a stop has been taken: it is no longer due; an engine's cause takes the STEP with it. -/
def Ctx.took (x : Ctx) (p : Pending) : Ctx :=
  if p.cause = .machinechk ∧ !x.pend.contains p then { x with badRegs := x.badRegs.take x.badLate ++ x.badRegs.drop (x.badLate + 1) }
  else
    let rest := x.pend.erase p
    { x with pend := if p.eng then rest.filter fun q => q.cause ≠ .step else rest }

/-- An instruction of a thread retires and the thread goes on at `pc` (R187, R390, R418, R423). -/
def State.retireAt (s : State) (c t : Nat) (pc : Word) : State :=
  let s := s.modThr c t fun th =>
    { th with retired := satN 64 (th.retired + 1), ctx := th.ctx.retired pc }
  if t = 4 then s
  else ((s.modPart (s.core c).asidN fun p => { p with wdLast := s.cycle }).countQuantum c t).stepPend c t

/-- The issuing thread's instruction retires; it goes on at pc + 4 (R187). -/
def State.retire (s : State) : State := s.retireAt s.curCore s.curThread.val (s.cur.pc + 4)

/-- The next state of a result. -/
def Res.next : Res → State
  | .retire s => s.retire
  | .jump pc s => s.retireAt s.curCore s.curThread.val pc
  | .trap c d s => s.trap c d
  | .stay s => s

def Res.out (r : Res) : Host.Outcome State Fault Refusal := .next r.next

/-- The first source whose mode bit is 1 and that is empty (R194 step 1). -/
def Ctx.emptyMarked (x : Ctx) : List (Reg × Bool) → Option Reg
  | [] => none
  | (r, m) :: rest => if m && !x.isFull r then some r else x.emptyMarked rest

/-- Are all sources and the destination full (R194 step 2, R195)? -/
def Ctx.ready (x : Ctx) (srcs : List (Reg × Bool)) (dest : Option Reg) : Bool :=
  srcs.all (fun p => x.isFull p.1) && dest.all fun r => x.isFull r

/-- ISSUE: the tests every instruction makes on its x sources and destination (R194, R195), then its own body. -/
def issue (srcs : List (Reg × Bool)) (dest : Option Reg) (body : State → Res) (s : State) : Host.Outcome State Fault Refusal :=
  match s.cur.emptyMarked srcs with
  | some r => .next (s.trap .emptyrd { d0 := BitVec.ofNat 64 r.toNat })
  | none => if s.cur.ready srcs dest then (body s).out else .next s

/-- Writes x[d] and retires. -/
def setRetire (d : Reg) (v : Word) (s : State) : Res := .retire (s.modCur fun x => x.setX d v)

/-- The register is empty from issue until its producer's value is written (R193): the value is on its way and the fill is due. -/
def State.produce (s : State) (d : Reg) (v : Word) : State :=
  if d = 0 then s
  else s.modCur fun x => { x.markEmpty d with producers := x.producers ++ [(d.toNat, v)] }

/-- Marks x[d] of the issuing thread empty for a producer whose value comes later. -/
def State.empty (s : State) (d : Reg) : State := s.modCur fun x => x.markEmpty d

/-- A value for a register of a unit is on its way (R193, R196). -/
def State.deliver (s : State) (uid : Nat) (d : Reg) (v : Word) : State :=
  if d = 0 then s
  else s.modUnit uid fun x => { x with producers := x.producers ++ [(d.toNat, v)] }

/-! ## Answered instructions -/

/-- An answered instruction whose request has left: issue is held until the answer (R257). -/
def State.awaitAnswer (s : State) : State := s.modCur fun x => { x with wait := .answer }

/-- The unit that a home answers: on its thread it retires past the instruction; in a slot or a ready queue its saved context resumes
after the instruction (R257, R258). -/
def State.answer (s : State) (uid : Nat) (f : Ctx → Ctx) : State :=
  match s.findUnit uid with
  | some (c, t) => (s.modCtx c t f).retireAt c t ((s.ctx c t).pc + 4)
  | none => s.modUnit uid fun x => let y := f x; { y with pc := y.pc + 4, wait := .no }

/-- A home reports a cause: the unit stops precisely at the instruction; in a slot the cause is delivered there, and in a ready queue it is taken
where the unit goes on, at the instruction (R257, R258). -/
def State.answerCause (s : State) (uid : Nat) (c : Cause) (d : Detail) : State :=
  match s.findUnit uid with
  | some (i, t) => (s.modCtx i t fun x => { x with wait := .no }).takeStop i t 0 (some c) d
  | none =>
    if s.inSlot uid then
      { s with dies := s.dies.map fun e => { e with slots := e.slots.map fun (i, sl) =>
          (i, if sl.ctx.uid = uid then { sl with kind := sl.ctx.stopKind 0, cause := c.code, det := d, ctx := { sl.ctx with wait := .no } } else sl) } }
    else s.modUnit uid fun x => { x with wait := .no, pend := { cause := c, det := d } :: x.pend }

/-- What a home or an engine answers: it is done, with a value for an x or an m register or with none; or a cause. -/
inductive Ans where
  | done (s : State)
  | x (v : Word) (s : State)
  | m (r : Reg) (v : BitVec 16) (s : State)
  | cause (c : Cause) (d : Detail) (s : State)
deriving DecidableEq, Repr

/-- The answer at issue: the instruction completes or stops now. -/
def Ans.now (d : Reg) : Ans → Res
  | .done s => .retire s
  | .x v s => setRetire d v s
  | .m r v s => .retire (s.modCur fun x => x.setM r v)
  | .cause c det s => .trap c det s

/-- The answer delivered to a unit later: its destination, where it has one, is full (R257, R258). -/
def Ans.deliver (uid : Nat) (d : Reg) : Ans → State
  | .done s => s.answer uid fun x => x.markFull d
  | .x v s => s.answer uid fun x => (x.setX d v).markFull d
  | .m r v s => s.answer uid fun x => x.setM r v
  | .cause c det s => (s.modUnit uid fun x => x.markFull d).answerCause uid c det

/-! ## Requests at the ATEs -/

/-- The location a request acts on. -/
def AteOp.loc : AteOp → Nat
  | .amo _ _ l _ _ _ => l
  | .cas _ l _ _ _ _ => l
  | .barriv l _ => l
  | .barwait l _ _ _ _ _ => l
  | .joinw l _ _ _ _ => l
  | .jdec l _ _ _ _ => l
  | .bqtake l _ _ => l
  | .bytes l _ _ _ _ => l
  | .dec l _ _ _ _ _ => l
  | .count l _ _ _ _ _ => l
  | .done l _ _ _ _ _ => l
  | .read l _ _ _ _ _ => l
  | .write l _ _ _ => l
  | .timed l _ => l
  | .pass l _ _ => l
  | .put l _ _ _ _ _ => l
  | .sys l _ _ _ _ => l

/-- Rank of a requester: (die, row, column, thread) in one number; the scheduling hardware, 0, ranks first (R70). Threads 0 to 3, the landing thread 4,
the core's engines 5. -/
def ateRank (core thread : Nat) : Nat := core * 8 + thread + 1

/-- Rank of a requester without coordinates, after every core: system cores (0), streamers (1), the SDIR (2), ports (3), R69. -/
def ateRankOther (cls n : Nat) : Nat := 40000 + cls * 1000 + n

/-- A request reaches the input of its home ATE. -/
def State.ateSend (s : State) (rank : Nat) (op : AteOp) : State :=
  s.modBay (homeBay op.loc) fun b => { b with ate := { b.ate with input := b.ate.input ++ [{ arrival := s.cycle, rank := rank, op := op }] } }

/-! ## Turns at a held line and at a loopback port (R58, R69) -/

/-- The operation number of what a thread itself reads or writes beyond one register; commands have smaller ones. -/
def threadSeq : Nat := 2 ^ 64

/-- The line of a key as the turn of operation `seq` of a unit found it. -/
def State.turnOf (s : State) (uid seq k : Nat) : Option (List Byte) :=
  (s.turns.find? fun t => t.line == k / 64 && t.uid == uid && t.seq == seq).map (·.bytes)

/-- A byte as operation `seq` of a unit reads it: as it stood at the operation's turn, or as it is. -/
def State.seenByte (s : State) (uid seq k : Nat) : Byte :=
  match s.turnOf uid seq k with
  | some bs => nth 0 bs (k % 64)
  | none => s.byteAt k

/-- n bytes, little-endian, as an operation reads them. -/
def State.seen (s : State) (uid seq k n : Nat) : Nat := leNat ((upTo n).map fun i => s.seenByte uid seq (k + i))

/-- Must a read wait for its turn: at a held line (R69), or, of an engine's or thread's `own` coordinates, at the loopback port (R58)? -/
def State.turnWait (s : State) (uid seq k : Nat) (own : Bool) : Bool := (own || s.lineHeld k) && (s.turnOf uid seq k).isNone

/-- A turn is given: the line as it stands now is for the operation. A thread that has left its instruction needs it no more. -/
def State.takeTurn (s : State) (k uid seq : Nat) : State :=
  if seq = threadSeq ∧ uid ≠ 0 ∧ (s.findUnit uid).isNone then s
  else { s with turns := s.turns ++ [{ line := k / 64, uid := uid, seq := seq, bytes := s.bytesAt (k / 64 * 64) 64 }] }

/-- The turns of an operation have been used. -/
def State.dropTurns (s : State) (uid seq : Nat) : State :=
  if s.turns.isEmpty then s else { s with turns := s.turns.filter fun t => !(t.uid == uid && t.seq == seq) }

/-- Has an operation asked for its turn at the line of a key? -/
def State.asked (s : State) (uid seq k : Nat) : Bool :=
  ((s.bay (homeBay k)).ate.input.any fun r => match r.op with | .pass l u q => l / 64 == k / 64 && u == uid && q == seq | _ => false) ||
  s.cores.any fun p => p.2.loop.any fun r => match r.act with | .pass q => r.loc / 64 == k / 64 && r.uid == uid && q == seq | _ => false

/-- Is the loopback port full (R58)? -/
def Core.loopFull (k : Core) : Bool := decide (16 ≤ k.loop.length)

/-- An access joins the loopback port of a core, behind those already there (R58). -/
def State.loopPush (s : State) (c : Nat) (r : LoopReq) : State := s.modCore c fun k => { k with loop := k.loop ++ [r] }

/-- An operation asks for its turn, once: at the ATE, or at the loopback port of core `own`, where that has room. -/
def State.askTurn (s : State) (rank uid seq k : Nat) (own : Option Nat) : State :=
  if s.asked uid seq k then s
  else match own with
    | some c => if (s.core c).loopFull then s else s.loopPush c { uid := uid, rank := rank, loc := k, size := 64, act := .pass seq }
    | none => s.ateSend rank (.pass k uid seq)

/-- The bits of a mask in n bytes at a key are written. -/
def State.putMasked (s : State) (k n value mask : Nat) : State :=
  let old := s.readLe k n
  s.writeLe k n (old - (old &&& mask) + (value &&& mask))

/-- A write of operation `seq` of a unit that leaves for the ATE that holds its line, or by the loopback port of core `own` (R58, R69). -/
def State.sendPut (s : State) (rank uid seq k n value mask : Nat) (own : Option Nat) : State :=
  match own with
  | some c => s.loopPush c { uid := uid, rank := rank, loc := k, size := n, act := .put value mask seq }
  | none => s.ateSend rank (.put k n value mask uid seq)

/-- What a miss of R40 does to the issuing instruction: it stops, is held, or waits; for a turn it asks. -/
def Miss.res (m : Miss) (kind : AccKind) (va : Word) (s : State) : Res :=
  match m with
  | .cause c d => .trap c d (s.noteEcc c d)
  | .held space peer addr reason c => .stay (s.holdCur kind va space peer addr reason c)
  | .busy => .stay s
  | .turn k own => .stay (s.askTurn (ateRank s.curCore s.curThread.val) s.cur.uid threadSeq k (if own then some s.curCore else none))

/-- Is a write of an operation on its way to its line? -/
def State.putsOut (s : State) (uid seq : Nat) : Bool :=
  (s.bays.any fun p => p.2.ate.input.any fun r => match r.op with | .put _ _ _ _ u q => u == uid && q == seq | _ => false) ||
  s.cores.any fun p => p.2.loop.any fun r => match r.act with | .put _ _ q => r.uid == uid && q == seq | _ => false

/-- The value a load of n bytes gives (R239). -/
def loadValue (signed : Bool) (n v : Nat) : Word := if signed then sext v (8 * n) else BitVec.ofNat 64 v

/-- A load's value goes to its unit. -/
def State.giveLoad (s : State) (signed : Bool) (uid : Nat) (d : Reg) (fp : Bool) (k n : Nat) : State :=
  let v := s.readLe k n
  let s := s.correct k n
  if fp then s.answer uid fun x => x.setF d (BitVec.ofNat 64 v) else s.deliver uid d (loadValue signed n v)

/-- An access leaves a loopback port and meets the banks (R58), or goes on to the ATE that holds its line (R69). -/
def State.loopServe (s : State) (r : LoopReq) : State :=
  match r.act with
  | .timed a => s.modCore ((keyCore r.loc).getD 0) fun k => { k with timed := { k.timed with incoming := k.timed.incoming ++ [a] } }
  | .load signed d fp => if s.lineHeld r.loc then s.ateSend r.rank (.read r.loc r.size signed r.uid d fp) else s.giveLoad signed r.uid d fp r.loc r.size
  | .store v => if s.lineHeld r.loc then s.ateSend r.rank (.write r.loc r.size v r.uid) else s.writeLe r.loc r.size v.toNat
  | .pass seq => if s.lineHeld r.loc then s.ateSend r.rank (.pass r.loc r.uid seq) else s.takeTurn r.loc r.uid seq
  | .put v m seq => if s.lineHeld r.loc then s.ateSend r.rank (.put r.loc r.size v m r.uid seq) else s.putMasked r.loc r.size v m

/-- The oldest accesses of a core's loopback port drain, up to eight in a cycle. -/
def State.loopDrain (s : State) (c : Nat) : State :=
  let l := (s.core c).loop
  (l.take 8).foldl State.loopServe (s.modCore c fun k => { k with loop := l.drop 8 })

/-! ## Accesses on their way -/

/-- Every timed buffer of the package. -/
def State.timedBufs (s : State) : List TimedBuf :=
  (s.cores.map fun p => p.2.timed) ++ (s.bays.flatMap fun p => [p.2.pool, p.2.vault]) ++ s.dies.toList.map fun (d : Die) => d.mc

/-- The timed accesses in the loopback ports. -/
def State.loopTimed (s : State) : List Timed :=
  s.cores.flatMap fun p => p.2.loop.filterMap fun r => match r.act with | .timed a => some a | _ => none

/-- The LDNBs and STVAs of a unit that are not performed. -/
def State.timedOut (s : State) (uid : Nat) (store : Bool) : List Timed :=
  (s.loopTimed.filter fun a => a.store == store && a.uid == uid) ++
  (s.timedBufs.flatMap fun b => (b.incoming ++ b.stores ++ b.loads ++ b.fwd).filter fun a => a.store == store && a.uid == uid && a.peer.isNone) ++
  s.pkg.remotes.filterMap fun r => if r.uid == uid && r.write == store then r.timed else none

/-- Has the unit an LDNB whose value has not returned (R101)? -/
def State.ldnbOut (s : State) (uid : Nat) : Bool := !(s.timedOut uid false).isEmpty || (s.unitCtx uid).any fun x => !x.ldnbs.isEmpty

/-- Has the task an STVA whose outcome has not returned (R129)? It may have been suspended since, and run under another handle. -/
def State.outcomesDue (s : State) (asid tid : Nat) : Bool :=
  let mine := fun (a : Timed) => a.store && a.peer.isNone && a.tid == tid && (s.core (s.holderOf a.core)).asid == some asid
  s.loopTimed.any mine || (s.timedBufs.any fun b => (b.incoming ++ b.stores ++ b.loads ++ b.fwd).any mine) || (s.pkg.remotes.any fun r => r.timed.any mine) ||
  s.cores.any fun p => p.2.asid == some asid && p.2.outcomes.any fun o => o.acc.tid == tid

/-- Has the unit an STVA that has not reached its home (R101)? -/
def State.stvaOut (s : State) (uid : Nat) : Bool :=
  (s.loopTimed.any fun a => a.store && a.uid == uid) || (s.timedBufs.any fun b => b.incoming.any fun a => a.store && a.uid == uid && a.peer.isNone) ||
  s.pkg.remotes.any fun r => r.timed.isSome && r.write && r.uid == uid

/-- The unit whose scalar atomic a request is; 0 for any other request. -/
def AteOp.amoUid : AteOp → Nat
  | .amo _ _ _ _ u _ => u
  | .cas _ _ _ _ u _ => u
  | .bqtake _ u _ => u
  | _ => 0

/-- Has the unit an atomic that its home has not performed? -/
def State.amoOut (s : State) (uid : Nat) : Bool := uid != 0 && s.bays.any fun p => p.2.ate.input.any fun r => r.op.amoUid == uid

/-- The unit whose ordinary load or store an ATE has been forwarded, and whether it is a store (R69). -/
def AteOp.plainUid : AteOp → Option (Nat × Bool)
  | .read _ _ _ u _ _ => some (u, false)
  | .write _ _ _ u => some (u, true)
  | .put _ _ _ _ u q => if q = threadSeq then some (u, true) else none
  | _ => none

/-- The same of an access at a loopback port. -/
def LoopReq.plainUid (r : LoopReq) : Option (Nat × Bool) :=
  match r.act with
  | .load _ _ _ => some (r.uid, false)
  | .store _ => some (r.uid, true)
  | .put _ _ q => if q = threadSeq then some (r.uid, true) else none
  | _ => none

/-- Has the unit a load, or a store, that has left it by the loopback port, for an ATE or for a peer, and is not performed (R35, R58, R69)? -/
def State.plainOut (s : State) (uid : Nat) (store : Bool) : Bool :=
  (s.bays.any fun p => p.2.ate.input.any fun r => r.op.plainUid == some (uid, store)) ||
  (s.cores.any fun p => (p.2.loop ++ p.2.arrivals).any fun r => r.plainUid == some (uid, store)) ||
  s.pkg.remotes.any fun r => r.copy.isNone && r.timed.isNone && r.uid == uid && r.write == store

/-- Has the unit a load that is not performed? -/
def State.loadsOut (s : State) (uid : Nat) : Bool := s.ldnbOut uid || s.plainOut uid false || s.amoOut uid

/-- Has the unit a store that is not performed, or an STVA that has not reached its home? -/
def State.storesOut (s : State) (uid : Nat) : Bool := s.stvaOut uid || s.plainOut uid true || s.amoOut uid

/-- Has the unit an access on its way, a load or a store, that touches bytes [k, k + n) (R80, R82)? Of timed accesses, the loads: a timed store acts at its
own time (R101). -/
def State.meetsOut (s : State) (uid k n : Nat) : Bool :=
  ((s.timedOut uid false).any fun a => overlap a.loc a.size k n) ||
  (s.cores.any fun p => (p.2.loop ++ p.2.arrivals).any fun r => r.plainUid.any (·.1 == uid) && overlap r.loc r.size k n) ||
  s.bays.any fun p => p.2.ate.input.any fun r =>
    match r.op with
    | .read l m _ u _ _ => u == uid && overlap l m k n
    | .write l m _ u => u == uid && overlap l m k n
    | .put l m _ _ u q => u == uid && q == threadSeq && overlap l m k n
    | _ => false

/-- Has the unit a remote access on its way, other than a timed store (R120), that touches bytes [va, va + n) of space 0x5? -/
def State.meetsRemote (s : State) (uid : Nat) (va : Word) (n : Nat) : Bool :=
  s.pkg.remotes.any fun r => r.uid == uid && r.copy.isNone && !(r.timed.isSome && r.write) && overlap r.va.toNat r.size va.toNat n

/-- Must a scalar access of a unit wait for its earlier ones? Every access waits for an earlier one of the same bytes and for an atomic, and a store
for every earlier load (R80, R82). -/
def State.mustFollow (s : State) (uid : Nat) (st : Bool) (va : Word) (n : Nat) (h : Hit) : Bool :=
  s.amoOut uid || (st && s.loadsOut uid) ||
  match h with
  | .mem k => s.meetsOut uid k n
  | .remote _ _ => s.meetsRemote uid va n
  | _ => false

/-- Has the unit moved with its core and an access outstanding that it issued before (R102)? A timed store has been performed, for this order as for a fence's,
once it is at its home (R101; log 81, DEDUCED). -/
def State.moveWait (s : State) (x : Ctx) : Bool :=
  x.after != 0 && (s.plainOut x.uid false || s.plainOut x.uid true || s.amoOut x.uid ||
    ((s.timedOut x.uid false).any fun a => decide (a.order < x.after)) ||
    (s.stvaOut x.uid && (s.timedOut x.uid true).any fun a => decide (a.order < x.after)))

/-- Are accesses of the unit outstanding that a release must follow (R87, R89, R100)? -/
def State.accessesOut (s : State) (uid : Nat) : Bool := s.loadsOut uid || s.storesOut uid

/-! ## In-flight operations -/

/-- A new entry of the issuing unit's in-flight table (R420); answers its operation number. -/
def State.addOp (s : State) (addr : Word) (kind : Nat) (token : Reg) : Nat × State :=
  let x := s.cur
  let o : InFlight := { addr := addr, seq := x.opSeq, hid := 0, token := token, cause := none, kind := kind, late := false, state := 0 }
  (x.opSeq, s.modCur fun x => { x with ops := x.ops ++ [o], opSeq := x.opSeq + 1 })

/-- An entry's new state, in a context. It stays in the table until the context is next resumed (R420). -/
def Ctx.setOp (x : Ctx) (slot : Bool) (seq st : Nat) (cause : Option Cause) : Ctx :=
  { x with ops := x.ops.map fun (o : InFlight) =>
      if o.seq = seq ∧ o.state < 2 then { o with state := st, cause := cause, late := st == 3 && slot } else o }

/-- The hold id of an entry's held page. -/
def Ctx.holdOp (x : Ctx) (seq hid : Nat) : Ctx :=
  { x with ops := x.ops.map fun (o : InFlight) => if o.seq = seq then { o with hid := hid } else o }

/-- Sets the state of a unit's operation; a fault that reaches a context in a slot sets MORE (R396). -/
def State.setOp (s : State) (uid seq st : Nat) (cause : Option Cause) : State :=
  let inS := s.inSlot uid
  let s := s.modUnit uid fun x => x.setOp inS seq st cause
  if inS && st == 3 then
    { s with dies := s.dies.map fun (d : Die) => { d with slots := tmap d.slots fun _ (sl : Slot) => if sl.ctx.uid = uid then { sl with more := true } else sl } }
  else s

/-- Has the unit an operation of these kinds that has not completed? -/
def Ctx.busyOps (x : Ctx) (kinds : List Nat) : Bool := x.ops.any fun o => kinds.contains o.kind && decide (o.state < 2)

end Sys2Proof.Machine
end

