-- ==== Sys2Proof/Machine/Flags.lean ====
section
/-! DEFINITION. The sticky flags: FCTL's flags and trap enables (R216, R219), the warnings of R206 and the combinations of R207, and
the combining of status words (R170). -/

namespace Sys2Proof.Machine

/-- Exceptions in the order of FCTL bits [15:10] from bit 10: inexact, underflow, overflow, divide by zero, invalid, saturated (R216). -/
structure Fx where
  nx : Bool := false
  uf : Bool := false
  of : Bool := false
  dz : Bool := false
  nv : Bool := false
  sat : Bool := false
deriving DecidableEq, Repr

/-- The union of two sets of exceptions. -/
def Fx.or (a b : Fx) : Fx :=
  { nx := a.nx || b.nx, uf := a.uf || b.uf, of := a.of || b.of, dz := a.dz || b.dz, nv := a.nv || b.nv, sat := a.sat || b.sat }

/-- Bit i is the exception of FCTL bit 10 + i. -/
def Fx.bits (a : Fx) : BitVec 6 :=
  BitVec.ofNat 6 (b2n a.nx + 2 * b2n a.uf + 4 * b2n a.of + 8 * b2n a.dz + 16 * b2n a.nv + 32 * b2n a.sat)

/-- The cause of the exception at FCTL bit 10 + i, whose trap enable is bit 24 + i (R219). -/
def fxCause : Nat → Cause
  | 0 => .fpinx
  | 1 => .fpunf
  | 2 => .fpovf
  | 3 => .fpdz
  | 4 => .fpinv
  | _ => .fpsat

/-- Among the raised exceptions whose trap is enabled, the cause with the lowest code (R219). -/
def enabledCause (fctl : Word) (flags : BitVec 6) : Option Cause :=
  argMin Cause.code (((upTo 6).filter fun i => flags.getLsbD i && fctl.getLsbD (24 + i)).map fxCause)

/-- FCTL with exceptions accrued into its sticky flags (R219). -/
def accrue (fctl : Word) (flags : BitVec 6) : Word := fctl ||| (flags.zeroExtend 64 <<< 10)

/-- WARN after an illegal combination with a code was met: MIX := 1 and MIXID := the code (R207). -/
def mixWarn (warn : Word) (code : Nat) : Word := wput (wput warn 0 1 1) 16 8 code

/-- MIXTRAP (R207): the combination is recorded in WARN, and nothing is performed. -/
def State.mixTrap (s : State) (code : Nat) : State := (s.modCur fun x => { x with warn := mixWarn x.warn code }).trap .mixtrap { d0 := BitVec.ofNat 64 code }

/-- The check of R205 step 5: where the combination is met, TE = 1 traps with MIXTRAP and TE = 0 sets WARN and goes on (R207). -/
def mixCheck (bad : Bool) (code : Nat) (go : State → Host.Outcome State Fault Refusal) (s : State) : Host.Outcome State Fault Refusal :=
  if !bad then go s
  else if wfield s.cur.warn 63 1 = 1 then .next (s.mixTrap code)
  else go (s.modCur fun x => { x with warn := mixWarn x.warn code })

/-- Combine of R170: the larger SEV, the union of FLAGS, the saturating sum of COUNT. -/
def combine (a b : Word) : Word :=
  pack [(56, 8, max (wfield a 56 8) (wfield b 56 8)), (32, 24, wfield a 32 24 ||| wfield b 32 24), (0, 32, satN 32 (wfield a 0 32 + wfield b 0 32))]

end Sys2Proof.Machine
end

