-- ==== Sys2Proof/Machine/Float.lean ====
section
/-! DEFINITION. Number formats and exact arithmetic (R209 to R218): values as exact dyadic numbers, one rounding function, conversion to
any format, and the arithmetic that scalar, vector, matrix and atomic operations share. -/

namespace Sys2Proof.Machine

/-- How a format encodes what is not finite (R210). -/
inductive NonFinite where
  /-- Infinities and NaNs in the exponent of all ones. -/
  | ieee
  /-- E4M3: no infinity, the NaNs 0x7F and 0xFF. -/
  | nanOnly
  /-- Every encoding is finite. -/
  | none
deriving DecidableEq, Repr

/-- A binary floating-point format: e exponent bits, m fraction bits, bias b (R209, R210). -/
structure Fmt where
  e : Nat
  m : Nat
  b : Nat
  nf : NonFinite
deriving DecidableEq, Repr

def fp64 : Fmt := { e := 11, m := 52, b := 1023, nf := .ieee }
def fp32 : Fmt := { e := 8, m := 23, b := 127, nf := .ieee }
def fp16 : Fmt := { e := 5, m := 10, b := 15, nf := .ieee }
def bf16 : Fmt := { e := 8, m := 7, b := 127, nf := .ieee }
def e4m3 : Fmt := { e := 4, m := 3, b := 7, nf := .nanOnly }
def e5m2 : Fmt := { e := 5, m := 2, b := 15, nf := .ieee }
def e2m3 : Fmt := { e := 2, m := 3, b := 1, nf := .none }
def e3m2 : Fmt := { e := 3, m := 2, b := 3, nf := .none }
def e2m1 : Fmt := { e := 2, m := 1, b := 1, nf := .none }
def fa36 : Fmt := { e := 8, m := 27, b := 127, nf := .ieee }

/-- The sign bit's place. -/
def Fmt.signBit (f : Fmt) : Nat := 2 ^ (f.e + f.m)

/-- A value: NaN, an infinity, or (-1)^neg * m * 2^e with m = 0 for the zeros. -/
inductive Fv where
  | nan
  | inf (neg : Bool)
  | fin (neg : Bool) (m : Nat) (e : Int)
deriving DecidableEq, Repr

/-- The exponent of the smallest subnormal. -/
def Fmt.qmin (f : Fmt) : Int := 1 - (f.b : Int) - f.m

/-- The value of an encoding; with `daz` a subnormal reads as a zero of its sign (R209, R211, R216). -/
def Fmt.read (f : Fmt) (daz : Bool) (bits : Nat) : Fv :=
  let neg := fieldOf bits (f.e + f.m) 1 = 1
  let ex := fieldOf bits f.m f.e
  let fr := fieldOf bits 0 f.m
  if f.nf = .ieee ∧ ex = 2 ^ f.e - 1 then (if fr = 0 then .inf neg else .nan)
  else if f.nf = .nanOnly ∧ ex = 2 ^ f.e - 1 ∧ fr = 2 ^ f.m - 1 then .nan
  else if ex = 0 then .fin neg (if daz then 0 else fr) f.qmin
  else .fin neg (2 ^ f.m + fr) ((ex : Int) - f.b - f.m)

/-- The canonical NaN (R211, R213). -/
def Fmt.cnan (f : Fmt) : Nat :=
  match f.nf with
  | .nanOnly => 2 ^ (f.e + f.m) - 1
  | _ => (2 ^ f.e - 1) * 2 ^ f.m + 2 ^ (f.m - 1)

/-- The magnitude code of the largest finite value (R210). -/
def Fmt.maxCode (f : Fmt) : Nat :=
  match f.nf with
  | .ieee => (2 ^ f.e - 1) * 2 ^ f.m - 1
  | .nanOnly => 2 ^ (f.e + f.m) - 2
  | .none => 2 ^ (f.e + f.m) - 1

/-- The magnitude code of infinity. -/
def Fmt.infCode (f : Fmt) : Nat := (2 ^ f.e - 1) * 2 ^ f.m

/-- A magnitude code with a sign. -/
def Fmt.signed (f : Fmt) (neg : Bool) (code : Nat) : Nat := if neg then f.signBit + code else code

/-- Does rounding mode rm (R216) round a magnitude up: `cmp` compares the discarded part with one half (0 none, 1 less, 2 equal, 3 more)? -/
def roundUpBy (rm : Nat) (neg odd : Bool) (cmp : Nat) : Bool :=
  match rm with
  | 0 => cmp == 3 || (cmp == 2 && odd)
  | 1 => false
  | 2 => cmp != 0 && neg
  | 3 => cmp != 0 && !neg
  | _ => cmp == 3 || cmp == 2

/-- (m * 2^e, plus something below one unit of 2^e where `sticky`) rounded to a multiple of 2^q: the multiple, and whether it is inexact. -/
def roundAt (rm : Nat) (neg : Bool) (m : Nat) (e : Int) (sticky : Bool) (q : Int) : Nat × Bool :=
  if q ≤ e then
    let hi := m * 2 ^ (e - q).toNat
    (if sticky && roundUpBy rm neg (hi % 2 == 1) 1 then hi + 1 else hi, sticky)
  else
    let sh := (q - e).toNat
    let hi := m / 2 ^ sh
    let rem := m % 2 ^ sh
    let half := 2 ^ (sh - 1)
    let cmp := if rem = 0 ∧ !sticky then 0 else if rem < half then 1 else if rem = half ∧ !sticky then 2 else 3
    (if roundUpBy rm neg (hi % 2 == 1) cmp then hi + 1 else hi, cmp != 0)

/-- The floor of log2 of m * 2^e, m nonzero. -/
def expo (m : Nat) (e : Int) : Int := (Nat.log2 m : Int) + e

/-- The result that IEEE 754-2019 gives for an overflow in mode rm (R218). -/
def Fmt.overflow (f : Fmt) (rm : Nat) (neg : Bool) : Nat :=
  let toInf := match rm with | 0 => true | 1 => false | 2 => neg | 3 => !neg | _ => true
  f.signed neg (if toInf then f.infCode else f.maxCode)

/-- The overflow of Convert: saturation, E4M3's NaN, or the IEEE result (R218). -/
def Fmt.tooBig (f : Fmt) (rm : Nat) (sat neg : Bool) : Nat × Fx :=
  let small := f.e + f.m < 8
  if f.nf = .none ∨ (sat ∧ small) then (f.signed neg f.maxCode, { of := true, nx := true, sat := true })
  else if f.nf = .nanOnly then (f.signed neg (f.signBit - 1), { of := true, nx := true })
  else (f.overflow rm neg, { of := true, nx := true })

/-- Convert of R218 for a finite value m * 2^e (`sticky`: and something below one unit of 2^e). -/
def Fmt.encodeFin (f : Fmt) (rm : Nat) (sat ftz neg : Bool) (m : Nat) (e : Int) (sticky : Bool) : Nat × Fx :=
  if m = 0 ∧ !sticky then (f.signed neg 0, {})
  else
    let ex := expo m e
    let qn := ex - f.m
    let r := roundAt rm neg m e sticky (max qn f.qmin)
    let wide := roundAt rm neg m e sticky qn
    let tiny := decide (expo wide.1 qn < 1 - (f.b : Int))
    let code := if r.1 < 2 ^ f.m then r.1 else ((max qn f.qmin) + f.b + f.m).toNat * 2 ^ f.m + (r.1 - 2 ^ f.m)
    if ftz && (tiny || (r.1 < 2 ^ f.m && r.1 != 0)) then (f.signed neg 0, { uf := true, nx := true })
    else if f.maxCode < code then f.tooBig rm sat neg
    else (f.signed neg code, { nx := r.2, uf := tiny && r.2 })

/-- Convert of R218 to a floating-point format. -/
def Fmt.encode (f : Fmt) (rm : Nat) (sat ftz : Bool) (v : Fv) (sticky : Bool := false) : Nat × Fx :=
  match v with
  | .nan => if f.nf = .none then (0, { nv := true }) else (f.cnan, {})
  | .inf neg =>
    let small := f.e + f.m < 8
    if f.nf = .ieee ∧ !(sat ∧ small) then (f.signed neg f.infCode, {})
    else if f.nf = .nanOnly ∧ !sat then (f.signed neg (f.signBit - 1), { of := true })
    else (f.signed neg f.maxCode, { of := true, sat := true })
  | .fin neg m e => f.encodeFin rm sat ftz neg m e sticky

/-- RoundToInteger, clamped to [lo, hi] (R218, R255): the integer and the flags. -/
def toInteger (rm : Nat) (lo hi : Int) (v : Fv) : Int × Fx :=
  match v with
  | .nan => (0, { nv := true })
  | .inf neg => (if neg then lo else hi, { nv := true })
  | .fin neg m e =>
    let r := roundAt rm neg m e false 0
    let y : Int := if neg then -(r.1 : Int) else r.1
    if y < lo then (lo, { nv := true }) else if hi < y then (hi, { nv := true }) else (y, { nx := r.2 })

/-- An exact result on its way to rounding: a value, a sticky part below it, and the flags of the operation itself. -/
structure Exact where
  v : Fv
  sticky : Bool := false
  fx : Fx := {}
deriving DecidableEq, Repr

/-- An invalid operation. -/
def Exact.invalid : Exact := { v := .nan, fx := { nv := true } }

/-- m * 2^e as an integer multiple of 2^q, q at most e. -/
def alignTo (m : Nat) (e q : Int) : Int := (m * 2 ^ (e - q).toNat : Nat)

/-- The exact sum; a zero sum of nonzero or unlike terms is -0 only under RDN (R217). -/
def Fv.add (rm : Nat) (a b : Fv) : Exact :=
  match a, b with
  | .nan, _ => { v := .nan }
  | _, .nan => { v := .nan }
  | .inf n, .inf k => if n = k then { v := .inf n } else Exact.invalid
  | .inf n, _ => { v := .inf n }
  | _, .inf n => { v := .inf n }
  | .fin n m e, .fin k o p =>
    if m = 0 ∧ o = 0 then { v := .fin (if n = k then n else decide (rm = 2)) 0 0 }
    else
      let q := min e p
      let s := (if n then -(alignTo m e q) else alignTo m e q) + (if k then -(alignTo o p q) else alignTo o p q)
      if s = 0 then { v := .fin (decide (rm = 2)) 0 0 } else { v := .fin (decide (s < 0)) s.natAbs q }

/-- The value with its sign changed. -/
def Fv.neg : Fv → Fv
  | .nan => .nan
  | .inf n => .inf !n
  | .fin n m e => .fin (!n) m e

/-- The exact product. -/
def Fv.mul (a b : Fv) : Exact :=
  match a, b with
  | .nan, _ => { v := .nan }
  | _, .nan => { v := .nan }
  | .inf n, .inf k => { v := .inf (n != k) }
  | .inf n, .fin k m _ => if m = 0 then Exact.invalid else { v := .inf (n != k) }
  | .fin k m _, .inf n => if m = 0 then Exact.invalid else { v := .inf (n != k) }
  | .fin n m e, .fin k o p => { v := .fin (n != k) (m * o) (e + p) }

/-- The quotient to well beyond any precision, with a sticky part. -/
def Fv.div (a b : Fv) : Exact :=
  match a, b with
  | .nan, _ => { v := .nan }
  | _, .nan => { v := .nan }
  | .inf _, .inf _ => Exact.invalid
  | .inf n, .fin k _ _ => { v := .inf (n != k) }
  | .fin n _ _, .inf k => { v := .fin (n != k) 0 0 }
  | .fin n m e, .fin k o p =>
    if o = 0 then (if m = 0 then Exact.invalid else { v := .inf (n != k), fx := { dz := true } })
    else if m = 0 then { v := .fin (n != k) 0 0 }
    else
      let sh := 130 + Nat.log2 o
      { v := .fin (n != k) (m * 2 ^ sh / o) (e - p - sh), sticky := decide (m * 2 ^ sh % o ≠ 0) }

/-- The integer square root, bit by bit from bit i - 1 down. -/
def isqrtFrom : Nat → Nat → Nat → Nat
  | 0, _, r => r
  | i + 1, n, r => isqrtFrom i n (if (r + 2 ^ i) * (r + 2 ^ i) ≤ n then r + 2 ^ i else r)

/-- The largest r with r * r at most n. -/
def isqrt (n : Nat) : Nat := isqrtFrom (Nat.log2 n / 2 + 1) n 0

/-- The square root. -/
def Fv.sqrt (a : Fv) : Exact :=
  match a with
  | .nan => { v := .nan }
  | .inf n => if n then Exact.invalid else { v := .inf false }
  | .fin n m e =>
    if m = 0 then { v := .fin n 0 0 }
    else if n then Exact.invalid
    else
      let sh : Nat := if (e - 140) % 2 = 0 then 140 else 141
      let big := m * 2 ^ sh
      { v := .fin false (isqrt big) ((e - sh) / 2), sticky := decide (isqrt big * isqrt big ≠ big) }

/-- a * b + c, formed exactly: 0 times infinity is invalid even with a NaN addend (R256). -/
def Fv.fma (rm : Nat) (a b c : Fv) : Exact :=
  let p := a.mul b
  if p.fx.nv then p else p.v.add rm c

/-- The rounding of an exact result into a format under FCTL (R217). -/
def Exact.round (f : Fmt) (fctl : Word) (x : Exact) : Nat × Fx :=
  let r := f.encode (wfield fctl 0 3) false (wfield fctl 4 1 == 1) x.v x.sticky
  (r.1, x.fx.or r.2)

/-- Order of two values, neither NaN, -0 below +0 when `signed`: is a less than b? -/
def Fv.lt (signed : Bool) (a b : Fv) : Bool :=
  match a, b with
  | .nan, _ => false
  | _, .nan => false
  | .inf n, .inf k => n && !k
  | .inf n, _ => n
  | _, .inf k => !k
  | .fin n m e, .fin k o p =>
    if m = 0 ∧ o = 0 then signed && n && !k
    else
      let q := min e p
      let x := if n then -(alignTo m e q) else alignTo m e q
      let y := if k then -(alignTo o p q) else alignTo o p q
      decide (x < y)

/-- Equality of two values, -0 equal to +0. -/
def Fv.eq (a b : Fv) : Bool :=
  match a, b with
  | .nan, _ => false
  | _, .nan => false
  | a, b => !Fv.lt false a b && !Fv.lt false b a

/-- FMIN and FMAX (R254): NaN yields to the other operand, -0 lies below +0. -/
def Fv.pick (larger : Bool) (a b : Fv) : Fv :=
  match a, b with
  | .nan, b => b
  | a, .nan => a
  | a, b => if larger then (if Fv.lt true a b then b else a) else (if Fv.lt true b a then b else a)

/-- The bits of an operand that an operation returns unchanged: its value in the format, a NaN as the canonical NaN. -/
def Fmt.bitsOf (f : Fmt) (v : Fv) : Nat := (f.encode 0 false false v).1

/-- FAddAtomic (R244): the exact sum rounded once to nearest even, subnormals kept, no flags. -/
def fAddAtomic (f : Fmt) (a b : Nat) : Nat := f.bitsOf ((f.read false a).add 0 (f.read false b)).v

/-- AddFA36 (R225). -/
def addFa36 (a b : Nat) : Nat := fAddAtomic fa36 a b

end Sys2Proof.Machine
end

