-- ==== Sys2Proof/Machine/Home.lean ====
section
/-! DEFINITION. The homes of timed accesses: their timed buffers (R115, R122), and how they perform what is due (R116 to R118, R124). -/

namespace Sys2Proof.Machine

/-! ## Homes -/

/-- The home of a memory key as one number (R115): a core's scratchpad is the core; a pool 10000 + 2 * bay, a vault one more; the memory
controllers of a die 20000 + die. -/
def homeOf (k : Nat) : Nat :=
  match keySpace k with
  | 1 => (keyCore k).getD 0
  | 2 => 10000 + 2 * homeBay k
  | 3 => 10001 + 2 * homeBay k
  | _ => 20000 + keyDie k

/-- A core that lies on the home's die, by whose clock home-time runs. -/
def homeCore (h : Nat) : Nat := if h < 10000 then h else if h < 20000 then coreAt ((h - 10000) / 2 / 72) 0 0 else coreAt (h - 20000) 0 0

/-- Home-time (R115). -/
def State.homeTime (s : State) (h : Nat) : Word := s.gtime (homeCore h)

/-- Entries of each part of the home's timed buffer (R122). -/
def homeCap (h : Nat) : Nat := if h < 10000 then 32 else if h < 20000 then 64 else 512

def State.timedBuf (s : State) (h : Nat) : TimedBuf :=
  if h < 10000 then (s.core h).timed
  else if h < 20000 then (if h % 2 = 0 then (s.bay ((h - 10000) / 2)).pool else (s.bay ((h - 10000) / 2)).vault)
  else (s.die (h - 20000)).mc

def State.modTimed (s : State) (h : Nat) (f : TimedBuf → TimedBuf) : State :=
  if h < 10000 then s.modCore h fun k => { k with timed := f k.timed }
  else if h < 20000 then
    s.modBay ((h - 10000) / 2) fun b => if h % 2 = 0 then { b with pool := f b.pool } else { b with vault := f b.vault }
  else s.modDie (h - 20000) fun d => { d with mc := f d.mc }

/-- Does THRS show a nonzero step (R124, R435)? -/
def State.throttled (s : State) (c : Nat) : Bool := !isGateway c && wfield (s.die (coreDie c)).thrs 0 3 != 0

/-! ## Performing an access -/

/-- The outcome of an STVA leaves for the core that now holds the issuer's context, or for the peer that sent it (R124, R127, R132). -/
def State.sendOutcome (s : State) (a : Timed) : State :=
  let missed := !a.onTime || a.unlocked
  match a.peer with
  | some asid => s.send (.rmaOutcome asid a.va a.arr missed a.unlocked a.throttle)
  | none => s.modCore (s.holderOf a.core) fun k => { k with outcomes := k.outcomes ++ [{ acc := a, missed := missed }] }

/-- Counts a timed access performed with the unlocked bit (R127, R131). -/
def Core.countUnlocked (k : Core) (u : Bool) : Core :=
  if u then { k with dlstat := wput k.dlstat 48 16 (satN 16 (wfield k.dlstat 48 16 + 1)) } else k

/-- A timed access that meets an uncorrectable error only at its home, after its thread has gone on: it is not performed (R73). The unit stops at its
next boundary, no outcome leaves, and an empty register is full again; a peer is told. -/
def State.timedEcc (s : State) (a : Timed) (g : Nat) : State :=
  let s := s.logRange a.loc a.size
  match a.peer with
  | some asid => s.send (.rmaFail asid a.va 8)
  | none =>
    let s := if a.store then s.setOp a.uid a.op 3 (some .eccunc)
      else s.modUnit a.uid fun x => { x.markFull a.reg with ldnbs := x.ldnbs.erase a.reg.toNat }
    s.pendCause a.uid .eccunc { d0 := BitVec.ofNat 64 g }

/-- An STVA is applied (R116): its bytes are written, and its outcome leaves. -/
def State.applyStva (s : State) (a : Timed) : State :=
  match s.badPartly a.loc a.size with
  | some g => s.timedEcc a g
  | none => (s.writeLe a.loc a.size (wfield a.data 0 (8 * a.size))).sendOutcome a

/-- An LDNB is performed (R117): its value is on its way. -/
def State.performLdnb (s : State) (a : Timed) : State :=
  match s.badIn a.loc a.size with
  | some g => s.timedEcc a g
  | none =>
    let v := sext (s.readLe a.loc a.size) (8 * a.size)
    let s := s.correct a.loc a.size
    match a.peer with
    | some asid => s.send (.rmaRead asid a.va (leBytes a.size v.toNat) a.unlocked)
    | none => (s.modCore (s.holderOf a.core) fun k => k.countUnlocked a.unlocked).deliver a.uid a.reg v

/-- A timed access is performed at its home; one on a die that is not locked has the unlocked bit (R131). -/
def State.performTimed (s : State) (h : Nat) (a : Timed) : State :=
  let a := { a with unlocked := a.unlocked || !s.locked (homeCore h) }
  if a.store then s.applyStva a else s.performLdnb a

/-- Rank of a timed access at an ATE: its issuer's; a peer's comes by a port (R69, R70). -/
def Timed.rank (a : Timed) : Nat := if a.peer.isSome then ateRankOther 3 0 else ateRank a.core a.thread

/-- A timed access whose time has come: it is performed, at the ATE where that holds its line (R115). -/
def State.applyTimed (s : State) (h : Nat) (a : Timed) : State :=
  if s.lineHeld a.loc then (s.modTimed h fun b => { b with fwd := b.fwd ++ [a] }).ateSend a.rank (.timed a.loc a.order)
  else s.performTimed h a

/-- A forwarded timed access has its turn at the ATE. -/
def State.timedTurn (s : State) (loc order : Nat) : State :=
  let h := homeOf loc
  match (s.timedBuf h).fwd.find? fun a => a.order == order with
  | some a => (s.modTimed h fun b => { b with fwd := b.fwd.filter fun a => a.order != order }).performTimed h a
  | none => s

/-- Is the access due at the home's time (R116, R117)? -/
def State.timedDue (s : State) (h : Nat) (a : Timed) : Bool := decide (a.t.toNat + a.skew ≤ (s.homeTime h).toNat)

/-- The home tick at which an access is performed (R116, R117): the first at or after T + SKEWB at which it is present. -/
def Timed.tick (a : Timed) : Nat := max (a.t.toNat + a.skew) a.arr.toNat

/-- The order of R118: in one tick the stores first, by ascending T, then writer key, then program order, and then the loads. `ticks`: more than one tick has
passed, each at its own; a forward step of the count and a move process what is due at the one tick to which they lead (R131, R133; log 76). -/
def State.timedOrder (s : State) (ticks : Bool) (a : Timed) : List Nat := [if ticks then a.tick else 0, b2n (!a.store), a.t.toNat, if a.peer.isSome then 65536 else (s.core a.core).lcore, a.thread, a.order]

/-- A home acts at the home ticks it has reached (R118): the due accesses in order. -/
def State.runHome (s : State) (h : Nat) (ticks : Bool) : State :=
  let b := s.timedBuf h
  let due := sortLex (s.timedOrder ticks) ((b.stores ++ b.loads).filter (s.timedDue h))
  let s' := s.modTimed h fun b => { b with stores := b.stores.filter fun a => !s.timedDue h a, loads := b.loads.filter fun a => !s.timedDue h a }
  due.foldl (fun s a => s.applyTimed h a) s'

end Sys2Proof.Machine
end

