-- ==== Sys2Proof/Machine/Sheet.lean ====
section
/-! DEFINITION. The sheet directory: cell storage and its tags (R136, R137, R143), snapshots and what they read (R150 to R156), the
stale set and its counters (R144 to R148), publication (R149) and ABANDON (R159). -/

namespace Sys2Proof.Machine

/-- Bits of an element type code; none for an unused code (R136). -/
def etypeBits : Nat → Option Nat
  | 0x0 => some 32
  | 0x1 => some 16
  | 0x2 => some 16
  | 0x3 => some 8
  | 0x4 => some 8
  | 0x5 => some 6
  | 0x6 => some 6
  | 0x7 => some 4
  | 0x8 => some 8
  | 0x9 => some 32
  | 0xA => some 2
  | 0xB => some 64
  | _ => none

/-- Number of elements. -/
def Cell.count (c : Cell) : Nat := (upTo 4).foldl (fun n i => n * vget c.ext i 1) 1

/-- Byte size, ceil(N * w / 8) (R137). -/
def Cell.bytes (c : Cell) : Nat := ceilDiv (c.count * (etypeBits c.etype).getD 0) 8

/-- Bytes a buffer spans (R137). -/
def Cell.span (c : Cell) : Nat := roundUp c.bytes 64

/-- The open generation (R142). -/
def Sdir.openGen (d : Sdir) : Nat := if d.recalc then d.pgen + 2 else d.pgen + 1

/-- The buffers as (is it B?, address, tag). -/
def Cell.bufs (c : Cell) : List (Bool × Word × Option Nat) := [(false, c.bufA, c.tagA), (true, c.bufB, c.tagB)]

/-- The buffer with the largest tag at most g (R154). -/
def Cell.bufFor (c : Cell) (g : Nat) : Option (Bool × Word × Nat) :=
  ((c.bufs.filterMap fun b => match b.2.2 with | some t => if t ≤ g then some (b.1, b.2.1, t) else none | none => none).foldl
    (fun best b => match best with | some x => if x.2.2 < b.2.2 then some b else best | none => some b) none)

/-- The buffer tagged g. -/
def Cell.bufTagged (c : Cell) (g : Nat) : Option (Bool × Word) :=
  if c.tagA = some g then some (false, c.bufA) else if c.tagB = some g then some (true, c.bufB) else none

/-- Sets a buffer's tag. -/
def Cell.setTag (c : Cell) (b : Bool) (t : Option Nat) : Cell := if b then { c with tagB := t } else { c with tagA := t }

/-- The buffer's address. -/
def Cell.bufAddr (c : Cell) (b : Bool) : Word := if b then c.bufB else c.bufA

/-- Cells of the recalculating generation's stale set that have not reached DONE. -/
def Cell.unfinished (c : Cell) : Bool :=
  match c.state with
  | .stale => true
  | .ready => true
  | .running => true
  | .faulted => true
  | _ => false

/-! ## Binding -/

/-- The generation a current-mode binding takes now, or none while it waits (R150, R151): by the die's own clock where it is locked,
else by the grandmaster's count. -/
def State.bindCurrent (s : State) (c : Nat) : Option Nat :=
  let d := (s.part (s.core c).asidN).sdir
  match d.notice with
  | none => some d.pgen
  | some (k, tp) =>
    let own := !isGateway c && s.locked c
    let clock := (if own then s.gtime c else s.pkg.gmCount).toNat
    let skew := if own then s.pkg.skewb else s.pkg.skewb / 2
    if k ≤ d.pgen then some d.pgen
    else if clock + skew < tp.toNat then some (k - 1)
    else if d.released ∧ tp.toNat ≤ clock then some k
    else none

/-- The current snapshot: the most recently opened one still open (R156). -/
def Ctx.curSnap (x : Ctx) : Option Snap :=
  (x.snaps.toList.filterMap id).foldl (fun best n => match best with | some b => if b.order < n.order then some n else best | none => some n) none

/-- The generation a read through the current snapshot uses, or none while it waits for a binding (R156). -/
def State.readGen (s : State) (c : Nat) (x : Ctx) : Option Nat :=
  match x.curSnap with
  | some n => n.gen
  | none => s.bindCurrent c

/-- Does a read of n bytes at `off` of the cell through generation g reach a buffer? R37's size check, then the snapshot's causes in the
order of R154 and R147. -/
def State.cellRead (s : State) (asid id off n g : Nat) : Except (Cause × Detail) Word :=
  let d := (s.part asid).sdir
  let det : Detail := { d0 := BitVec.ofNat 64 id }
  match tget d.cells id with
  | none => .error (.cellbad, det)
  | some c =>
    if c.bytes < off + n then .error (.cellshape, det)
    else if g < c.cgen then .error (.cellbad, det)
    else match c.bufFor g with
      | none => .error (.snapold, det)
      | some b =>
        if d.recalc && g == d.pgen + 1 && c.unfinished then .error (.formula, det)
        else .ok (b.2.1 + BitVec.ofNat 64 off)

/-- Resolves a hit in cell space through a snapshot: the buffer's location takes the checks of a load. `g` is the bound generation, or
none while the binder waits. -/
def State.resolveCell (s : State) (a : Agent) (kind : AccKind) (n : Nat) (g : Option Nat) (h : Hit) : Except Miss Hit :=
  match h with
  | .cell id off =>
    match tget (s.part a.asid).sdir.cells id with
    | none => .error (.cause .cellbad { d0 := BitVec.ofNat 64 id })
    | some c =>
      if c.bytes < off + n then .error (.cause .cellshape { d0 := BitVec.ofNat 64 id })
      else match g with
        | none => .error .busy
        | some g =>
          match s.cellRead a.asid id off n g with
          | .error (c, d) => .error (.cause c d)
          | .ok va => s.check a kind 1 n va
  | h => .ok h

/-! ## SDIR access to buffers -/

/-- An SDIR access of n bytes at a buffer address, as (key, length) pieces of at most 64 KiB, or the cause R29 gives with its details (R137), or ECCUNC
for a granule that it reads or writes in part and that has failed (R73). -/
def State.sdirPieces (s : State) (asid : Nat) (write : Bool) : Nat → Word → Nat → Except (Cause × Detail) (List (Nat × Nat))
  | 0, _, _ => .ok []
  | fuel + 1, va, n =>
    if n = 0 then .ok []
    else
      let piece := min n (65536 - va.toNat % 65536)
      match s.check (systemAgent asid) (if write then .engWrite else .engRead) 1 piece va with
      | .ok (.mem k) =>
        match (if write then s.badPartly k piece else s.badIn k piece) with
        | some g => .error (.eccunc, { d0 := BitVec.ofNat 64 g })
        | none =>
          match s.sdirPieces asid write fuel (va + BitVec.ofNat 64 piece) (n - piece) with
          | .ok r => .ok ((k, piece) :: r)
          | .error c => .error c
      | .ok _ => .error (.access, { d0 := va })
      | .error (.cause c d) => .error (c, d)
      | .error (.held _ _ _ reason c) => .error (c, { d0 := va, d1 := BitVec.ofNat 64 reason })
      | .error .busy | .error (.turn _ _) => .error (.access, { d0 := va })

/-- Pieces of a whole range. -/
def State.sdirRange (s : State) (asid : Nat) (write : Bool) (va : Word) (n : Nat) : Except (Cause × Detail) (List (Nat × Nat)) :=
  s.sdirPieces asid write (n / 65536 + 2) va n

/-- Zero-fills a buffer. -/
def State.sdirZero (s : State) (asid : Nat) (va : Word) (n : Nat) : Except (Cause × Detail) State :=
  match s.sdirRange asid true va n with
  | .error c => .error c
  | .ok ps => .ok (ps.foldl (fun s p => s.zeroRange p.1 p.2) (s.walked asid va n))

/-- Copies the whole of one buffer to another; both start on a 64-byte boundary, so the pieces are taken byte range by byte range. -/
def copyPieces (s : State) : Nat → List (Nat × Nat) → List (Nat × Nat) → State
  | 0, _, _ => s
  | fuel + 1, (k, n) :: r, (j, m) :: q =>
    let l := min n m
    copyPieces (s.copyRange k j l) fuel (if l = n then r else (k + l, n - l) :: r) (if l = m then q else (j + l, m - l) :: q)
  | _ + 1, _, _ => s

def State.sdirCopy (s : State) (asid : Nat) (src dst : Word) (n : Nat) : Except (Cause × Detail) State :=
  match s.sdirRange asid false src n, s.sdirRange asid true dst n with
  | .ok a, .ok b => .ok (copyPieces (a.foldl (fun s p => s.correct p.1 p.2) ((s.walked asid src n).walked asid dst n)) (2 * (n / 65536) + 6) a b)
  | .error c, _ => .error c
  | _, .error c => .error c

/-- Writes bytes to a buffer address. -/
def State.sdirWrite (s : State) (asid : Nat) (va : Word) (bs : List Byte) : Except (Cause × Detail) State :=
  match s.sdirRange asid true va bs.length with
  | .error c => .error c
  | .ok ps => .ok (ps.foldl (fun (p : State × List Byte) q => (p.1.writeBytes q.1 (p.2.take q.2), p.2.drop q.2)) (s.walked asid va bs.length, bs)).1

/-! ## Open snapshots -/

/-- The contexts of a launch, each with the core where it lies: on the threads, in the ready queues, in slots. -/
def State.placed (s : State) (asid : Nat) : List (Nat × Ctx) :=
  (s.cores.flatMap fun p =>
    if p.2.asid = some asid then
      (p.2.threads.toList.filterMap fun th => if th.running || th.stopped.isSome then some (p.1, th.ctx) else none) ++
      (p.2.ready.filterMap fun e => match e.item with | .ctx x => some (p.1, x) | _ => none)
    else []) ++
  (s.dies.toList.flatMap fun (d : Die) => d.slots.filterMap fun e => if e.2.asid = asid then some (s.slotCore e.2, e.2.ctx) else none)

/-- The snapshots of every task of a partition, those that wait for suspended units among them, and the generations that vector instructions and
engine commands hold (R155, R156). -/
def State.openGens (s : State) (asid : Nat) : List Nat :=
  let gens := fun (v : Vector (Option Snap) 4) => (v.toList.filterMap id).filterMap fun (n : Snap) => n.gen
  ((s.placed asid).flatMap fun p => gens p.2.snaps ++ p.2.vq.filterMap fun (q : Cmd) => q.snap) ++
  (s.cores.flatMap fun (_, k) =>
    if k.asid = some asid then ((k.mq ++ k.vsq ++ k.cq ++ k.threads.toList.flatMap fun th => th.past).filterMap fun q => q.snap) ++ k.copies.filterMap fun e => e.2.cmd.snap else []) ++
  (s.part asid).sdir.parked.flatMap fun p => gens p.2

/-- Must a reclaim of a cell's buffer wait: does an open snapshot of PGEN - 1 resolve to it (R155)? -/
def State.reclaimBlocked (s : State) (asid : Nat) (c : Cell) (oth : Bool) : Bool :=
  let g := (s.part asid).sdir.pgen - 1
  1 ≤ (s.part asid).sdir.pgen && (s.openGens asid).contains g && (match c.bufFor g with | some b => b.1 == oth | none => false)

/-- The outcome of preparing a cell's buffer for generation k (R143, R155): its address; a wait for a publication; a wait for snapshots,
with the state that notes when it began; a cause. -/
inductive Prep where
  | ready (buf : Word) (s : State)
  | publication
  | reclaim (s : State)
  | cause (c : Cause) (d : Detail)
deriving DecidableEq, Repr

/-- The address of the buffer that will hold a cell's value for generation k: the one tagged k, else the one that does not hold the inherited value
(R143). -/
def Cell.target (c : Cell) (k : Nat) : Word :=
  match c.bufTagged k with
  | some b => b.2
  | none => c.bufAddr ((c.bufFor (k - 1)).any fun b => !b.1)

/-- Does an address whose translation is tried again lie in n bytes of device memory from a buffer's address on (R44)? -/
def inBuffer (buf : Word) (n addr : Nat) : Bool := wfield buf 60 4 == 4 && decide (wfield buf 0 48 ≤ addr % 2 ^ 48) && decide (addr % 2 ^ 48 < wfield buf 0 48 + n)

/-- The held access of an instruction that reads cell space: an access to space 0x6, or the read of a CLD (R188, R282). -/
def Redo.readsCell (r : Redo) : Bool := wfield r.va 60 4 == 6 || (fieldOf r.word.toNat 0 7 == 0x49 && fieldOf r.word.toNat 27 5 == 5)

/-- Has a command a read of cell space held? -/
def EngRedo.readsCell (r : EngRedo) : Bool := !r.write && wfield r.va 60 4 == 6

/-- Is a read that resolved to a buffer not yet performed: one that is held, or one that waits at an ATE (R155)? -/
def State.readsOn (s : State) (asid : Nat) (buf : Word) (n : Nat) : Bool :=
  let held := fun (r : Option EngRedo) => r.any fun r => r.readsCell && inBuffer buf n r.addr
  let keys := ((upTo (n / 65536 + 1)).filterMap fun i =>
    match s.check (systemAgent asid) .engRead 1 1 (buf + BitVec.ofNat 64 (65536 * i)) with
    | .ok (.mem k) => some k
    | _ => none)
  ((s.placed asid).any fun p => (p.2.redo.any fun r => r.readsCell && inBuffer buf n r.addr) || p.2.vq.any fun q => held q.redo) ||
  (s.cores.any fun p => p.2.asid == some asid &&
    (((p.2.mq ++ p.2.vsq ++ p.2.cq ++ p.2.threads.toList.flatMap fun th => th.past).any fun q => held q.redo) ||
      p.2.copies.any fun o => o.2.gaps.any fun g => held g.redo)) ||
  s.bays.any fun p => p.2.ate.input.any fun r =>
    match r.op with
    | .read l m _ _ _ _ => keys.any fun k => overlap l m k (min n 65536)
    | .pass l _ _ => keys.any fun k => overlap l 64 k (min n 65536)
    | _ => false

/-- The last step of a reclaim: once every read that resolved to the buffer under its old tag has been performed, the value of the other is copied into it
(R143, R155). -/
def State.copyIn (s : State) (asid id : Nat) (c : Cell) (oth : Bool) : Prep :=
  if s.readsOn asid (c.bufAddr oth) c.span then .reclaim s
  else match s.sdirCopy asid (c.bufAddr !oth) (c.bufAddr oth) c.bytes with
    | .ok s => .ready (c.bufAddr oth) (s.modCell asid id fun c => { c with copy := none })
    | .error (e, det) => .cause e det

/-- Selects and prepares the buffer of cell id for generation k, as R143 and R155 give. -/
def State.prepare (s : State) (asid id k : Nat) : Prep :=
  let d := (s.part asid).sdir
  let det : Detail := { d0 := BitVec.ofNat 64 id }
  match tget d.cells id with
  | none => .cause .cellbad det
  | some c =>
    match c.bufTagged k with
    | some b => if c.copy = some b.1 then s.copyIn asid id c b.1 else .ready b.2 s
    | none =>
      match c.bufFor (k - 1) with
      | none => .cause .snapold det
      | some cur =>
        if d.pgen < cur.2.2 then .publication
        else
          let oth := !cur.1
          let began := c.reclaim.getD s.pkg.gmCount
          let snapwait := wfield d.shcfg 16 32
          if s.reclaimBlocked asid c oth && decide (s.pkg.gmCount.toNat < began.toNat + snapwait) then
            .reclaim (s.modCell asid id fun c => { c with reclaim := some began })
          else
            (s.modCell asid id fun c => { (c.setTag oth (some k)) with reclaim := none, copy := some oth }).copyIn asid id c oth

/-- Does preparing a cell's buffer come to anything now: it is ready, it meets a cause, or its reclaim goes a step further (R155)? -/
def State.prepMoves (s : State) (asid id k : Nat) : Bool :=
  match s.prepare asid id k with
  | .publication => false
  | .reclaim t => tget (t.part asid).sdir.cells id != tget (s.part asid).sdir.cells id
  | _ => true

/-- The key that each byte at a private-alias range of a core's scratchpad reaches, inside its area of a shadowed buffer (R340). -/
def State.aliasAreas (s : State) (c off n : Nat) : List (Option Nat) :=
  let keys := (upTo n).map fun i => scratchKey c off + i
  if (s.launchOf c).shadows.isEmpty then keys.map some else keys.map fun k => s.area (s.core c).asidN k 1 false

/-- Keys of the bytes at a private-alias range of a core's scratchpad that lies inside it. A byte named in area 1 of a shadowed buffer takes ACCESS (R340). -/
def State.aliasKeys (s : State) (c off n : Nat) : Except (Cause × Detail) (List Nat) :=
  let keys := s.aliasAreas c off n
  if keys.all Option.isSome then
    match (if s.bad.isEmpty then none else keys.findSome? fun o => s.badIn (o.getD 0) 1) with
    | some g => .error (.eccunc, { d0 := BitVec.ofNat 64 g })
    | none => .ok (keys.map fun o => o.getD 0)
  else .error (.access, { d0 := BitVec.ofNat 64 off, d1 := BitVec.ofNat 64 n })

/-- The granules that such a read meets are corrected or logged (R72, R73). -/
def State.aliasNote (s : State) (c off n : Nat) : State :=
  if s.bad.isEmpty && s.weak.isEmpty then s else (((s.aliasAreas c off n).filterMap fun o => o.map s.granuleOf).eraseDups).foldl (fun s g => s.hwRead g 1) s

/-- The bytes themselves. -/
def State.aliasBytes (s : State) (c off n : Nat) : Except (Cause × Detail) (List Byte) := (s.aliasKeys c off n).map fun l => l.map s.byteAt

/-! ## Accepted CSTs -/

/-- Performs an accepted CST whose buffer is ready: its source is read now (R280), and a cell that was IDLE is WRITTEN (R161). -/
def State.cstWrite (s : State) (asid : Nat) (p : PendCst) (buf : Word) : Ans :=
  let c := s.holderOf p.core
  match s.aliasBytes c p.srcOff p.count with
  | .error (e, d) => .cause e d (if e = .eccunc then s.aliasNote c p.srcOff p.count else s)
  | .ok bs =>
    let s := s.aliasNote c p.srcOff p.count
    match s.sdirWrite asid (buf + BitVec.ofNat 64 p.off) bs with
    | .ok s => .done (s.modCell asid p.cell fun c => if c.state = .idle then { c with state := .written } else c)
    | .error (c, d) => .cause c d (s.noteEcc c d)

/-- An accepted CST that waited comes to its end: it is written, or stops with a cause and leaves its cell as it found it. -/
def State.finishCst (s : State) (asid : Nat) (p : PendCst) (buf : Word) (prep : State) : State :=
  let drop := fun (s : State) => s.modSdir asid fun d => { d with csts := d.csts.erase p }
  match (drop prep).cstWrite asid p buf with
  | .cause c d t => ({ drop s with dies := t.dies, pkg := t.pkg }).answerCause p.uid c d
  | r => r.deliver p.uid 0

/-- Tries every accepted CST that waits for a reclaim, oldest first (R155). -/
def State.progressCsts (s : State) (asid : Nat) : State :=
  (s.part asid).sdir.csts.foldl (fun s p =>
    match s.prepare asid p.cell p.gen with
    | .ready buf s' => s.finishCst asid p buf s'
    | .reclaim s => s
    | .publication => s
    | .cause c d => ((s.modSdir asid fun d => { d with csts := d.csts.erase p }).noteEcc c d).answerCause p.uid c d) s

/-! ## Closing a generation -/

/-- Distinct members in the order given. -/
def distinct : List Nat → List Nat
  | [] => []
  | a :: r => if r.contains a then distinct r else a :: distinct r

/-- Applies the binding changes recorded against k: the last one accepted takes effect (R139). Answers the cells that a change bound. -/
def applyBindings (cells : Tbl Cell) (k : Nat) : Tbl Cell × List Nat :=
  (cells.map fun (i, c) =>
      (i, match (c.waiting.filter fun w => w.1 = k).getLast? with
        | some w => { c with bind := w.2, waiting := c.waiting.filter fun w => w.1 ≠ k }
        | none => c),
    cells.filterMap fun (i, c) =>
      match (c.waiting.filter fun w => w.1 = k).getLast? with
      | some w => if w.2.entry.isSome then some i else none
      | none => none)

/-- One pass of the closure of R145: the formula cells that lie in the set or read a member of it. -/
def staleStep (cells : Tbl Cell) (set : List Nat) : List Nat :=
  cells.filterMap fun (i, c) =>
    if c.bind.entry.isSome && (set.contains i || c.bind.prec.any fun p => set.contains p) then some i else none

/-- The stale set: the closure over any chain of formula bindings (R145). -/
def staleSet (cells : Tbl Cell) (changed : List Nat) : List Nat :=
  (upTo (cells.length + 1)).foldl (fun st _ => staleStep cells (changed ++ st)) []

/-- DIST of each member: 0 where no member reads it, else 1 plus the largest DIST of its readers (R145). -/
def distances (cells : Tbl Cell) (st : List Nat) : Tbl Nat :=
  (upTo st.length).foldl (fun t _ =>
    st.map fun i =>
      (i, (cells.filterMap fun (j, c) => if st.contains j && c.bind.prec.contains i then some (1 + tgetD t j 0) else none).foldl max 0))
    (st.map fun i => (i, 0))

/-- A cell when generation k closes: a member of the stale set gets its counters, a written cell outside it is CLOSED (R145, R161). -/
def Cell.atClose (c : Cell) (k i : Nat) (st : List Nat) (dist : Tbl Nat) : Cell :=
  if st.contains i then
    let cnt := (c.bind.prec.filter fun p => st.contains p).length
    { c with cnt := cnt, dist := tgetD dist i 0, counter := cnt, state := if cnt = 0 then .ready else .stale }
  else
    let c : Cell := { c with cnt := 0, dist := 0 }
    if (c.bufTagged k).isSome && c.state == .written && (c.bufTagged (k + 1)).isNone then { c with state := .closed } else c

/-- The directory when its recalculating generation closes (R144, R145). -/
def Sdir.close (d : Sdir) : Sdir :=
  let k := d.pgen + 1
  let (cells, bound) := applyBindings d.cells k
  let written := cells.filterMap fun e => if (e.2.bufTagged k).isSome then some e.1 else none
  let st := staleSet cells (written ++ bound)
  { d with closedGen := true, cells := tmap cells fun i c => c.atClose k i st (distances cells st) }

/-- Closes the recalculating generation: its binding changes apply, and every changed cell gets its state and counters. -/
def State.closeGen (s : State) (asid : Nat) : State := s.modSdir asid fun d => d.close

/-- With every member of the stale set DONE, the SDIR chooses TP and sends the notice (R149). -/
def State.tryNotice (s : State) (asid : Nat) : State :=
  let d := (s.part asid).sdir
  if d.recalc && d.closedGen && d.notice.isNone && !(d.cells.any fun e => e.2.unfinished) then
    let lead := max (wfield d.shcfg 0 16) (4 * s.pkg.skewb)
    s.modSdir asid fun d => { d with notice := some (d.pgen + 1, s.pkg.gmCount + BitVec.ofNat 64 lead), acks := [], released := false }
  else s

/-- A commit accepted while no generation recalculates: the open generation becomes the recalculating one (R144). -/
def Sdir.beginCommit (d : Sdir) : Sdir := { d with recalc := true, closedGen := false, notice := none, acks := [], released := false }

/-- The directory after the formula task of a cell is done (R148): the counters of the cells that read it go down, and one that reaches 0 makes its
cell READY. -/
def Sdir.taskDone (d : Sdir) (cell : Nat) : Sdir :=
  { d with cells := tmap d.cells fun i (c : Cell) =>
      if i = cell then { c with state := .done }
      else if c.state = .stale ∧ c.bind.prec.contains cell then
        { c with counter := c.counter - 1, state := if c.counter ≤ 1 then .ready else .stale }
      else c }

/-- A cell at the publication of the recalculating generation (R149, R161). -/
def Cell.published (c : Cell) : Cell :=
  match c.state with
  | .closed => { c with state := .idle }
  | .done => { c with state := .idle, task := none }
  | _ => c

/-- A waiting snapshot of a suspended unit at the publication of k: it binds where it waited for k or for the current generation (R153,
R156). -/
def Snap.published (n : Snap) (k : Nat) : Snap :=
  if n.gen.isSome then n else if n.mode = 0 then { n with gen := some k } else if n.want ≤ k then { n with gen := some n.want } else n

/-- The directory at the publication of generation k at TP: PGEN and SHPUBT are set, and a waiting commit begins (R149). -/
def Sdir.published (d : Sdir) (k : Nat) (tp : Word) : Sdir :=
  let e : Sdir := { d with
    pgen := k, shpubt := tp, recalc := false, closedGen := false, notice := none, acks := [], released := false
    cells := tmap d.cells fun _ c => c.published
    waitq := d.pubq ++ d.waitq, pubq := []
    parked := d.parked.map fun p => (p.1, p.2.map fun o => o.map fun n => n.published k) }
  if d.waitc then { e.beginCommit with waitc := false } else e

/-- The publication of the noticed generation (R149). -/
def State.publish (s : State) (asid : Nat) : State :=
  (s.modSdir asid fun d => match d.notice with | none => d | some (k, tp) => d.published k tp).progressCsts asid

/-! ## ABANDON -/

/-- A cell after ABANDON of generation k (R159 steps 1 to 3). A cell that was WRITTEN in k alone, in a generation committed and not yet closed, has lost
what was written and is IDLE: R159 and R161 name no state for it (log 67, DESIGN CHOICE). -/
def Cell.abandon (c : Cell) (k : Nat) : Cell :=
  let free := fun (t : Option Nat) => if t = some k then none else if t = some (k + 1) then some k else t
  let kept := c.state == .written && ((c.bufTagged (k + 1)).isSome || (c.bufTagged k).isNone)
  { c with
    tagA := free c.tagA, tagB := free c.tagB, cgen := if c.cgen = k + 1 then k else c.cgen
    waiting := c.waiting.map fun w => if w.1 = k + 1 then (k, w.2) else w
    counter := 0, reclaim := none, task := none
    copy := c.copy.filter fun b => (if b then c.tagB else c.tagA) != some k
    state := if c.cgen = k + 1 ∨ c.cgen = k ∨ kept then .written else .idle }

/-- Is the unit a formula task of generation k? -/
def Ctx.isFormulaOf (x : Ctx) (k : Nat) : Bool :=
  match x.kind with
  | .formula _ g => g == k
  | _ => false

/-- The formula tasks of generation k in slots: die, number and slot. R159 frees the slots of parked tasks (KIND 2) and names no descheduled task (KIND 3) and
none stopped at an ECALL (KIND 4): they are freed alike, with a record of KIND 2 (log 67, DESIGN CHOICE). -/
def State.parkedTasks (s : State) (asid k : Nat) : List (Nat × Nat × Slot) :=
  (upTo 4).flatMap fun d => (s.die d).slots.filterMap fun (i, sl) => if sl.asid = asid ∧ sl.ctx.isFormulaOf k then some (d, i, sl) else none

/-- A waiting snapshot after generation k is discarded with no commit waiting (R153, R159). -/
def Snap.abandoned (n : Snap) (k : Nat) : Bool := n.gen.isNone && n.mode == 2 && decide (k ≤ n.want)

/-- The snapshots of a task after generation k is discarded with no commit waiting: a fresh CSNAP binds in current mode, and the slot of an explicit one
that waited on k or later is freed (R153, R281). -/
def rebind (v : Vector (Option Snap) 4) (k pgen : Nat) : Vector (Option Snap) 4 :=
  v.map fun o =>
    match o with
    | some n => if n.abandoned k then none else if n.gen.isNone && n.mode == 1 then some { n with mode := 0, want := pgen } else some n
    | none => none

/-- The context after generation k is discarded with no commit waiting: an explicit CSNAP that waited on k or later takes GENABANDON at the boundary, and
its register is filled with 0 (R153, R281). -/
def Ctx.abandonSnaps (x : Ctx) (k pgen : Nat) : Ctx :=
  let gone := (x.snaps.toList.filterMap id).filter fun n => n.abandoned k
  { x with
    snaps := rebind x.snaps k pgen
    producers := x.producers ++ gone.map fun n => (n.dest.toNat, 0)
    ops := x.ops.map fun o => if gone.any fun n => o.kind == 6 && o.addr == n.pc && o.state ≠ 3 then { o with state := 3, cause := some .genabandon } else o }

/-- The details of the GENABANDON of a waiting explicit CSNAP (R281). -/
def Snap.abandonDetail (n : Snap) : Detail := { d0 := BitVec.ofNat 64 n.want, d1 := n.pc }

/-- Step 1 of R159 on parked tasks of k: they leave their slots, each with a record that names its LCORE, and their warnings join the launch's summary
(R200). -/
def State.dropParked (s : State) (asid k : Nat) : State :=
  (s.parkedTasks asid k).foldl (fun s p =>
    let s := s.sumWarn asid p.2.2.ctx
    (s.modDie p.1 fun d => { d with slots := tdel d.slots p.2.1 }).pushRec p.1
      { kind := 2, slot := p.2.1, cause := Cause.genabandon.code, asid := asid, lcore := p.2.2.lcore, tid := p.2.2.ctx.tid }) s

/-- Step 1 of R159 on trapped tasks of k for which no slot was free yet: they leave their threads. Their records name slot 0 (log 67). -/
def State.dropStopped (s : State) (asid k : Nat) : State :=
  (s.threadsWhere fun c _ th => (s.core c).asid == some asid && th.stopped.isSome && th.ctx.isFormulaOf k).foldl (fun s p =>
    let x := s.ctx p.1 p.2
    let s := (s.sumWarn asid x).modThr p.1 p.2 fun th => { th with running := false, stopped := none }
    (s.goIdle p.1 p.2).pushRec (coreDie p.1)
      { kind := 2, slot := 0, cause := Cause.genabandon.code, asid := asid, lcore := (s.core p.1).lcore, tid := x.tid }) s

/-- Task id of a peg. -/
def Peg.tid (p : Peg) : Nat := wfield (vget p.w 1 0) 0 48

/-- Task ids of the formula tasks of the recalculating generation (R146). -/
def Sdir.tasks (d : Sdir) : List Nat := d.cells.filterMap fun e => e.2.task

/-- The context of a formula task of k that runs, or that a resume has made ready: it stops at its next boundary with GENABANDON (R160). -/
def Ctx.dropFormula (x : Ctx) (k : Nat) : Ctx :=
  if x.isFormulaOf k then { x with pend := [{ cause := .genabandon, det := { d0 := BitVec.ofNat 64 k } }] } else x

/-- R160 on one core: a running or resumed task of k stops at its next boundary. -/
def Core.dropFormulas (c : Core) (k : Nat) : Core :=
  { c with
    ready := c.ready.map fun e => match e.item with | .ctx x => { e with item := .ctx (x.dropFormula k) } | _ => e
    threads := c.threads.map fun (th : Thread) => if th.running then { th with ctx := th.ctx.dropFormula k } else th }

/-- The buffers of the formula tasks of k, freed under commands of theirs that are still in flight (R160). -/
def Sdir.lostBufs (d : Sdir) (k : Nat) : List (Nat × Word × Nat) :=
  d.cells.filterMap fun e =>
    match e.2.task, e.2.bufTagged k with
    | some t, some b => some (t, b.2, e.2.span)
    | _, _ => none

/-- R159 and R160 on tasks of generation k: parked and running ones, and suspended ones, which stop when they next run; so do those whose peg lies in a ready
queue or a deque. A task handed out and not yet taken by a core, which R160 does not name, leaves the task queue with no stop and no record (log 67, DESIGN
CHOICE). -/
def State.dropTasks (s : State) (asid k : Nat) : State :=
  let tids := (s.part asid).sdir.tasks
  let here := (((s.placed asid).map fun p => p.2.tid) ++ (s.part asid).sched.taskq.map fun e => e.peg.tid).filter tids.contains
  let s := s.modSdir asid fun d =>
    { d with
      lost := d.lost ++ d.lostBufs k, parked := d.parked.filter fun p => !tids.contains p.1
      gone := d.gone ++ (tids.filter fun t => !here.contains t).map fun t => (t, { d0 := BitVec.ofNat 64 k }) }
  let s := ((s.dropParked asid k).dropStopped asid k).mapCores asid fun _ c => c.dropFormulas k
  s.modSched asid fun q => { q with taskq := q.taskq.filter fun e => !tids.contains e.peg.tid }

/-- The directory after steps 1, 2 and 4 of R159; the bindings of a generation not yet closed apply as closing would have. -/
def Sdir.abandoned (d : Sdir) (k : Nat) : Sdir :=
  let cells := if d.closedGen then d.cells else (applyBindings d.cells k).1
  let e : Sdir := { d with
    recalc := false, closedGen := false, notice := none, waitc := false
    cells := tmap cells fun _ c => c.abandon k
    csts := (d.csts.filter fun p => p.gen ≠ k).map fun (p : PendCst) => if p.gen = k + 1 then { p with gen := k } else p
    waitq := d.pubq ++ d.waitq, pubq := [] }
  if d.waitc then e.beginCommit else e

/-- Step 3 of R159 on a cell created in k: buffer A is zero-filled again and tagged k. -/
def State.recreate (s : State) (asid k id : Nat) : State :=
  match tget (s.part asid).sdir.cells id with
  | none => s
  | some c =>
    let s := s.modCell asid id fun c => { c with tagA := some k }
    match s.sdirZero asid c.bufA c.span with
    | .ok s => s
    | .error _ => s

/-- A waiting snapshot of current mode of a suspended unit binds to PGEN (R150, R153). -/
def Snap.current (n : Snap) (pgen : Nat) : Snap := if n.gen.isNone ∧ n.mode = 0 then { n with gen := some pgen } else n

/-- The waiting explicit snapshots that the discard of k ends. -/
def goneSnaps (v : Vector (Option Snap) 4) (k : Nat) : List Snap := (v.toList.filterMap id).filter fun n => n.abandoned k

/-- R153 on waiting snapshots when no commit was waiting: of running and resumed units, of those in slots, whose MORE is set (R396), and of suspended
ones, which stop when they next run. -/
def State.abandonSnaps (s : State) (asid k pgen : Nat) : State :=
  let hit := (s.placed asid).flatMap fun p => (goneSnaps p.2.snaps k).map fun n => (p.2.uid, n)
  let s := (s.placed asid).foldl (fun s p => s.modUnit p.2.uid fun x => x.abandonSnaps k pgen) s
  let s := hit.foldl (fun s h => s.pendCause h.1 .genabandon h.2.abandonDetail) s
  s.modSdir asid fun d =>
    { d with
      gone := d.gone ++ d.parked.flatMap fun p => (goneSnaps p.2 k).map fun n => (p.1, n.abandonDetail)
      parked := d.parked.map fun p => (p.1, (rebind p.2 k pgen).map fun o => o.map fun n => n.current pgen) }

/-- The cells created in the recalculating generation. -/
def Sdir.created (d : Sdir) : List Nat := d.cells.filterMap fun e => if e.2.cgen = d.pgen + 1 then some e.1 else none

/-- The cause that stops an ABANDON before it changes anything: a buffer that step 3 of R159 zero-fills does not translate (R137). -/
def State.abandonFault (s : State) (asid : Nat) : Option (Cause × Detail) :=
  (s.part asid).sdir.created.findSome? fun i =>
    (tget (s.part asid).sdir.cells i).bind fun c => match s.sdirRange asid true c.bufA c.span with | .error e => some e | .ok _ => none

/-- Discards the recalculating generation k of a partition, whose notice has not been sent and whose CSTs have completed (R159, R160). A formula task's own CST
that waits for a reclaim is lost with its buffer. -/
def State.abandon (s : State) (asid : Nat) : State :=
  let d := (s.part asid).sdir
  let k := d.pgen + 1
  let created := d.created
  let waiting := (d.csts.filter fun p => p.gen == k).map (·.uid)
  let s := waiting.foldl (fun s u => s.modUnit u fun x => { x with wait := .no }) (s.dropTasks asid k)
  let s := s.modSdir asid fun d => d.abandoned k
  let s := created.foldl (fun s i => s.recreate asid k i) s
  let s := if d.waitc then s else s.abandonSnaps asid k d.pgen
  s.progressCsts asid

end Sys2Proof.Machine
end

