-- ==== Sys2Proof/Machine/Work.lean ====
section
/-! DEFINITION. Units of work: pegs and the ready queue (R163, R164), starting a task or a handler (R165, R179, R182), and ending a unit
(R200, R264). -/

namespace Sys2Proof.Machine

/-- The core's next task id (R166); none when its counter is spent. -/
def State.freshTid (s : State) (c : Nat) : Option Nat × State :=
  let k := s.core c
  if 2 ^ 32 ≤ k.tidCount then (none, s)
  else (some ((s.launchOf c).idBase + k.lcore * 2 ^ 32 + k.tidCount), s.modCore c fun k => { k with tidCount := k.tidCount + 1 })

/-- A peg's priority and steal domain (R164). -/
def Peg.pri (p : Peg) : Nat := wfield (vget p.w 1 0) 48 4
def Peg.sdom (p : Peg) : Nat := wfield (vget p.w 1 0) 52 4
def Peg.pin (p : Peg) : Bool := wfield (vget p.w 1 0) 56 1 == 1

/-- Urgency of a ready-queue entry (R163). R163 names none for a resumed context: it has the PRI of its peg's word 1, which of a handler is the low part
of its template (log 66, DESIGN CHOICE). -/
def Core.urgency (k : Core) : Ready → Nat
  | .peg p => p.pri
  | .ctx x => wfield x.w1 48 4
  | .msg chan _ _ => 2 * k.chanPri chan + 1
  | .refusal _ => 2 * k.chanPri 255 + 1

/-- The most urgent entry of the ready queue, the oldest among equals (R163). -/
def Core.firstReady (k : Core) : Option ReadyEntry :=
  k.ready.foldl (fun best e =>
    match best with
    | none => some e
    | some b => if k.urgency b.item < k.urgency e.item || (k.urgency b.item == k.urgency e.item && decide (e.age < b.age)) then some e else best) none

/-- An entry joins a core's ready queue with a fresh age. -/
def State.readyItem (s : State) (c : Nat) (enqt : Word) (item : Ready) : State :=
  let (age, s) := s.newAge
  s.modCore c fun k => { k with ready := k.ready ++ [{ age := age, enqt := enqt, item := item }], queued := k.queued + 1 }

/-- The registers a unit of work starts with (R165, R200, R323). -/
def Ctx.start (l : Launch) (uid : Nat) (kind : UnitKind) (pc w1 w2 : Word) (args : List Word) (tmpl : BitVec 16) : Ctx :=
  { Ctx.reset with
    uid := uid, kind := kind, pc := pc, w1 := w1, w2 := w2
    x := (upTo 5).foldl (fun v i => vset v (i + 1) (nth 0 args i)) Ctx.reset.x
    fctl := l.fctl0, warn := l.warn0, apxctl := l.apxctl0, dlmode := l.dlmode0, tmpl := tmpl }

/-- A task thread takes a unit: the context is placed on it and stamped (R421, R422). -/
def State.place (s : State) (c t : Nat) (x : Ctx) : State :=
  let now := s.gtime c
  (s.sampled (s.core c).asidN 2 (coreDie c) ((now - x.enqt).toNat / 16)).modThr c t fun th =>
    { th with
      running := true, stopped := none, ctx := { x with deqt := now }
      waitSum := satN 64 (th.waitSum + (now - x.enqt).toNat), units := satN 64 (th.units + 1) }

/-- The snapshots that wait for a suspended unit (R156), and the directory without them. -/
def State.unpark (s : State) (asid tid : Nat) : Vector (Option Snap) 4 × State :=
  match (s.part asid).sdir.parked.find? fun p => p.1 == tid with
  | some p => (p.2, s.modSdir asid fun d => { d with parked := d.parked.filter fun q => q.1 ≠ tid })
  | none => (Vector.replicate 4 none, s)

/-- The cell and generation of which a task id is the formula task (R146). -/
def State.formulaOf (s : State) (asid tid : Nat) : Option (Nat × Nat) :=
  let d := (s.part asid).sdir
  (d.cells.find? fun e => e.2.task == some tid).map fun e => (e.1, d.pgen + 1)

/-- Is a task id that of a formula task which ABANDON has discarded and whose peg comes to be run (R160)? -/
def State.goneFormula (s : State) (asid tid : Nat) : Bool :=
  let p := s.part asid
  (p.sdir.gone.any fun g => g.1 == tid) && decide ((tid - p.launch.idBase) / 2 ^ 32 = 0xFFFE)

/-- A GENABANDON that waits for a suspended unit is pending once it runs again (R153, R160). -/
def State.takeGone (s : State) (asid c t : Nat) : State :=
  let tid := (s.ctx c t).tid
  match (s.part asid).sdir.gone.filter fun g => g.1 == tid with
  | [] => s
  | l => (s.modSdir asid fun d => { d with gone := d.gone.filter fun g => g.1 ≠ tid }).modCtx c t fun x =>
      { x with pend := x.pend ++ l.map fun g => { cause := .genabandon, det := g.2 } }

/-- A DLMISS that waits for a suspended unit is pending once it runs again (R129). -/
def State.takeMissed (s : State) (asid c t : Nat) : State :=
  let tid := (s.ctx c t).tid
  if (s.part asid).missed.contains tid then
    (s.modPart asid fun p => { p with missed := p.missed.filter (· ≠ tid) }).modCtx c t fun x => { x with pend := x.pend ++ [{ cause := .dlmiss, det := {} }] }
  else s

/-- The causes that wait for a suspended unit are pending once it runs again (R296). -/
def State.takeFaulted (s : State) (asid c t : Nat) : State :=
  let tid := (s.ctx c t).tid
  match (s.part asid).faulted.filter fun f => f.1 == tid with
  | [] => s
  | l => (s.modPart asid fun p => { p with faulted := p.faulted.filter fun f => f.1 ≠ tid }).modCtx c t fun x =>
      { x with pend := x.pend ++ l.map fun f => { cause := f.2.1, det := f.2.2 } }

/-- A thread starts the task of a peg (R164, R165). A reserved bit of word 1 stops it at once with RSVFLD. -/
def State.startTask (s : State) (c t : Nat) (p : Peg) : State :=
  let asid := (s.core c).asidN
  let w1 := vget p.w 1 0
  let (uid, s) := s.newUid
  let (snaps, s) := s.unpark asid p.tid
  let kind := match s.formulaOf asid p.tid with
    | some (cell, gen) => UnitKind.formula cell gen
    | none => if s.goneFormula asid p.tid then .formula 0 0 else .task
  let x := Ctx.start (s.launchOf c) uid kind (vget p.w 0 0) w1 (vget p.w 2 0) (p.w.toList.drop 3) (BitVec.ofNat 16 (wfield w1 48 16))
  let s := (s.place c t { x with snaps := snaps, enqt := p.enqt, enqLcore := p.enqLcore, stolen := p.stolen }).takeGone asid c t
  let s := (s.takeMissed asid c t).takeFaulted asid c t
  if wfield w1 58 6 ≠ 0 ∨ 4 ≤ p.sdom then s.takeStop c t 0 (some .rsvfld) { d0 := w1 } else s

/-- A thread starts a handler (R179): a fresh task id, no parent, the launch's default template. With the core's counter spent it starts
with task id 0 and stops at once with DEQOVF (R166). -/
def State.startHandler (s : State) (c t chan : Nat) (kind : UnitKind) (args : List Word) (enqt : Word) : State :=
  let l := s.launchOf c
  let (tid, s) := s.freshTid c
  let (uid, s) := s.newUid
  let w1 := pack [(48, 16, l.tmpl0.toNat), (0, 48, tid.getD 0)]
  let x := Ctx.start l uid kind (BitVec.ofNat 64 (wfield (tgetD (s.core c).chans chan 0) 0 48 + 0x4000000000000000)) w1 0 args l.tmpl0
  let s := s.place c t { x with enqt := enqt, enqLcore := (s.core c).lcore }
  if tid.isNone then s.takeStop c t 0 (some .deqovf) {} else s

/-- The four words of a refusal (R181). -/
def RefusalMsg.words (r : RefusalMsg) : List Word :=
  [pack [(56, 8, 255), (52, 4, 2), (48, 4, 1), (0, 48, r.reason)], pack [(32, 32, r.seq), (0, 32, r.slc)], r.hdr0, r.hdr1]

/-- A resumed context takes a thread. A formula task whose hand-out failed has its buffer prepared first, as at a hand-out (R146, R158): it is left in
the ready queue where that must wait, and parked again where it fails. -/
def State.takeCtx (s : State) (c t : Nat) (e : ReadyEntry) (x : Ctx) : State :=
  let asid := (s.core c).asidN
  let x := { x with vq := x.vq.map fun (q : Cmd) => { q with thr := t } }
  let out := fun (s : State) => (s.modCore c fun k => { k with ready := k.ready.filter fun r => r.age ≠ e.age }).place c t x
  match x.kind with
  | .formula cell gen =>
    if (tget (s.part asid).sdir.cells cell).any fun d => d.task == some x.tid then
      match s.prepare asid cell gen with
      | .ready _ s => out s
      | .reclaim s => s
      | .publication => s
      | .cause k d => (out s).takeStop c t 0 (some k) d
    else out s
  | _ => out s

/-- A thread takes a ready-queue entry (R163): a peg, a resumed context, a message or a refusal. -/
def State.takeReady (s : State) (c t : Nat) (e : ReadyEntry) : State :=
  let all := s
  let s := s.modCore c fun k => { k with ready := k.ready.filter fun r => r.age ≠ e.age }
  match e.item with
  | .peg p => s.startTask c t p
  | .ctx x => all.takeCtx c t e x
  | .msg chan hdr len =>
    let h0 := s.readLe (scratchKey c hdr) 8
    let h1 := s.readLe (scratchKey c (hdr + 8)) 8
    (s.hwRead (scratchKey c hdr) 16).startHandler c t chan (.handler chan hdr len e.age (fieldOf h1 32 32) (fieldOf h1 0 32))
      [BitVec.ofNat 64 hdr, BitVec.ofNat 64 len, BitVec.ofNat 64 chan, BitVec.ofNat 64 (fieldOf h0 0 48), BitVec.ofNat 64 (fieldOf h1 0 32)] e.enqt
  | .refusal slot =>
    match tget (s.core c).refusals slot with
    | none => s
    | some r =>
      let place := ((s.core c).rfBase + 32 * t) % 0x20000
      let s := s.writeBytes (scratchKey c place) (r.words.flatMap fun w => leBytes 8 w.toNat)
      s.startHandler c t 255 (.refusal slot e.age (wfield r.hdr1 32 32) (wfield r.hdr1 0 32))
        [BitVec.ofNat 64 place, 32, 255, BitVec.ofNat 64 r.reason, BitVec.ofNat 64 r.slc] e.enqt

/-- Does a unit of the core lie stopped in a slot, which keeps thread 0 of a deterministic launch quantum-blocked (R403)? -/
def State.stoppedUnit (s : State) (c : Nat) : Bool :=
  s.dies.toList.any fun (d : Die) => d.slots.any fun e => s.slotCore e.2 == c && e.2.kind != 1 && (s.core c).asid == some e.2.asid

/-- Is the thread idle and its core able to take a unit (R163)? In a deterministic launch only thread 0 takes one (R373). -/
def State.mayTake (s : State) (c t : Nat) : Bool :=
  let k := s.core c
  let th := k.thr t
  let p := s.part k.asidN
  t < 4 && !(p.launch.deterministic && (t != 0 || s.stoppedUnit c)) && k.asid.isSome && !th.running && th.stopped.isNone && !th.noting && k.holds && k.migrating.isNone && !p.frozen && !s.halted c

/-- Withdraws the core's pull (R387). -/
def State.dropPull (s : State) (c : Nat) : State :=
  s.modSched (s.core c).asidN fun q => { q with pulls := q.pulls.filter fun p => p.1 ≠ c }

/-- The core's pull joins the queue of pulls, once, in order of arrival; ties go to the least (die, row, column) (R387). -/
def State.addPull (s : State) (c : Nat) : State :=
  let k := s.core c
  s.modSched k.asidN fun q => if q.pulls.any fun p => p.1 == c then q else { q with pulls := sortLex (fun p => [p.2.2, p.1]) (q.pulls ++ [(c, k.det.quantum, s.cycle)]) }

/-- The newest peg leaves the deque of a core and starts on thread t. -/
def State.popPeg (s : State) (c t : Nat) (p : Peg) : State :=
  let (p, s) := s.fetchPeg c p
  (((s.modCore c fun k => { k with deque := k.deque.drop 1 }).settleDeque c).startTask c t p).dropPull c

/-- An idle thread takes its next unit: the more urgent of the ready queue's first entry and the deque's newest peg, the ready queue's
where they are equal (R163). With neither, in a deterministic launch it pulls; otherwise a steal comes first (R387). -/
def State.takeWork (s : State) (c t : Nat) : State :=
  if !s.mayTake c t then s
  else
    let k := s.core c
    match k.firstReady, k.deque with
    | some e, [] => (s.takeReady c t e).dropPull c
    | some e, p :: _ =>
      if k.urgency e.item < p.pri then s.popPeg c t p
      else (s.takeReady c t e).dropPull c
    | none, p :: _ => s.popPeg c t p
    | none, [] => if (s.launchOf c).deterministic then s.addPull c else s

/-- May a thief on core t take the peg from core c (R169)? -/
def Peg.stealable (p : Peg) (c t : Nat) : Bool := !p.pin && sameDomain p.sdom c t

/-- The oldest peg of a deque (its last) that the thief may take, and the deque without it. -/
def takeOldest (ok : Peg → Bool) : List Peg → Option (Peg × List Peg)
  | [] => none
  | p :: r =>
    match takeOldest ok r with
    | some (q, r') => some (q, p :: r')
    | none => if ok p then some (p, r) else none

/-- One steal attempt of an idle thread at a victim's deque (R168, R169, R422). A failure makes the core pull (R387). -/
def State.stealFrom (s : State) (c t v : Nat) : State :=
  let l := s.launchOf c
  if !s.mayTake c t || l.deterministic || !(s.core c).ready.isEmpty || !(s.core c).deque.isEmpty then s
  else if v = c ∨ (s.core v).asid ≠ (s.core c).asid then s.addPull c
  else match takeOldest (fun p => p.stealable v c) (s.core v).deque with
    | none => (s.modCore c fun k => { k with stealFail := satN 64 (k.stealFail + 1) }).addPull c
    | some (p, rest) =>
      let (p, s) := s.fetchPeg v p
      let s := (s.modCore v fun k => { k with deque := rest }).settleDeque v
      let s := s.modCore c fun k => { k with stealOk := satN 64 (k.stealOk + 1) }
      (s.startTask c t { p with stolen := true }).dropPull c

/-! ## Ends of units -/

/-- The peg a suspension forms (R264): word 0 is pc + 4. -/
def State.suspendPeg (s : State) (c : Nat) (x : Ctx) : Peg :=
  { w := #v[x.pc + 4, x.w1, x.w2, x.xr 1, x.xr 2, x.xr 3, x.xr 4, x.xr 5], enqt := s.gtime c, enqLcore := (s.core c).lcore, stolen := false }

/-- The unit of a thread ends (R200, R249, R421): trace record, warning summary, watches cancelled; the thread is idle. -/
def State.endUnit (s : State) (c t code : Nat) : State :=
  let x := s.ctx c t
  let s := ((s.traceEnd c t code).sumWarn (s.core c).asidN x).leaveVectors c t x
  (s.modCtx c t fun x => { x with watches := [], snaps := Vector.replicate 4 none, ops := [], pend := [], sends := [], kind := .none }).goIdle c t

/-- The snapshots of a unit that ends as a suspension wait under its task id (R156); one that has not bound has no register to fill any more
(R165). -/
def State.parkSnaps (s : State) (asid : Nat) (x : Ctx) : State :=
  let snaps := x.snaps.map fun o => o.map fun (n : Snap) => if n.gen.isNone then { n with dest := 0 } else n
  if x.snaps.toList.any Option.isSome then s.modSdir asid fun d => { d with parked := d.parked ++ [(x.tid, snaps)] } else s

/-- The causes that a unit which ends as a suspension has not taken wait for its task (R129, R160, R296). -/
def State.keepPend (s : State) (asid : Nat) (x : Ctx) : State :=
  let miss := x.pend.any fun p => p.cause == .dlmiss
  let gone := x.pend.filter fun p => p.cause == .genabandon
  let s := if miss then s.modPart asid fun p => { p with missed := if p.missed.contains x.tid then p.missed else p.missed ++ [x.tid] } else s
  let s := if gone.isEmpty then s else s.modSdir asid fun d => { d with gone := d.gone ++ gone.map fun p => (x.tid, p.det) }
  let rest := x.pend.filter fun p => !p.eng && p.cause != .dlmiss && p.cause != .genabandon && p.cause != .step && p.cause != .replaydiv
  if rest.isEmpty then s else s.modPart asid fun p => { p with faulted := p.faulted ++ rest.map fun (c : Pending) => (x.tid, c.cause, c.det) }

/-- The unit of a thread ends as a suspension. -/
def State.suspendUnit (s : State) (c t code : Nat) : State :=
  ((s.parkSnaps (s.core c).asidN (s.ctx c t)).keepPend (s.core c).asidN (s.ctx c t)).endUnit c t code

/-- Has a task an engine command or vector instruction that has not completed, enqueued by any of its units (R148)? -/
def State.taskBusy (s : State) (asid tid : Nat) : Bool :=
  s.cores.any fun p => p.2.asid == some asid &&
    (p.2.mq ++ p.2.vsq ++ p.2.cq ++ (p.2.copies.map fun o => o.2.cmd) ++ p.2.threads.toList.flatMap fun th => th.past ++ th.ctx.vq).any fun q => q.tid == tid

/-- Must a unit's end still wait for its producers or its engine commands (R263)? -/
def Ctx.unsettled (x : Ctx) : Bool := !x.allFull || x.busyOps [1, 2, 3, 4] || !x.vq.isEmpty

end Sys2Proof.Machine
end

