-- ==== Sys2Proof/Machine/Ate.lean ====
section
/-! DEFINITION. The atomic engines: which request an ATE accepts (R68 to R70), and what each request does to its line (R98, R172, R243 to
R245, R261, R274, R275, R344). -/

namespace Sys2Proof.Machine

/-- The waiter of a record, or the waiters of an object (R261, R275). -/
def Ate.waitersAt (a : Ate) (loc : Nat) (barrier : Bool) : List Waiter := a.waiters.filter fun w => w.loc == loc && w.barrier == barrier

/-- Fields of a barrier object (R273). -/
def State.barPhase (s : State) (k : Nat) : Nat := s.readLe (k + 24) 8
def State.barBytes (s : State) (k : Nat) : Nat := s.readLe (k + 16) 8 % 2 ^ 48
def State.barExpB (s : State) (k : Nat) : Nat := s.readLe (k + 8) 8 % 2 ^ 48
def State.barArr (s : State) (k : Nat) : Nat := s.readLe (k + 4) 4
def State.barExpA (s : State) (k : Nat) : Nat := s.readLe k 4

/-- Would the request register a waiter (R261, R275)? -/
def State.registers (s : State) (a : Ate) : AteOp → Bool
  | .joinw l _ _ _ _ => s.readLe l 8 != 0 && (a.waitersAt l false).isEmpty
  | .barwait l ph _ _ _ _ => decide (s.barPhase l ≤ ph.toNat) && decide ((a.waitersAt l true).length < 16)
  | _ => false

/-- Selection order of R70. -/
def AteReq.measure (r : AteReq) : Nat := r.arrival * 2 ^ 20 + r.rank

/-- A registration that finds the table full waits, and requests to other lines pass it (R261). -/
def State.ateBlocked (s : State) (a : Ate) (r : AteReq) : Bool := decide (256 ≤ a.waiters.length) && s.registers a r.op

/-- The request an ATE accepts next, of those that were at its input when the cycle began: the oldest arrival, ties by the least rank; one in a cycle (R70).
A line of a scratchpad that is being streamed is served after the move, at the target's bay (R408). -/
def State.atePick (s : State) (b : Nat) : Option AteReq :=
  let a := (s.bay b).ate
  if s.cycle < a.nextAt then none
  else
    let stuck := a.input.filter fun r => s.ateBlocked a r
    argMin AteReq.measure (a.input.filter fun r =>
      decide (r.arrival < s.cycle) && !s.streaming r.op.loc && !s.ateBlocked a r &&
        !stuck.any fun q => q.op.loc / 64 == r.op.loc / 64 && decide (q.measure < r.measure))

/-- The hot-line store once a line has been used: most recently used first (R69). -/
def Ate.touched (a : Ate) (loc : Nat) : List Nat := (loc / 64 :: a.hot.filter (· ≠ loc / 64)).take 64

/-- The new value of an atomic (R243); w is 32 or 64. -/
def amoNew (fn w old opnd : Nat) : Nat :=
  match fn with
  | 0 => (old + opnd) % 2 ^ w
  | 1 => old &&& opnd
  | 2 => old ||| opnd
  | 3 => old ^^^ opnd
  | 4 => if toSigned w opnd < toSigned w old then opnd else old
  | 5 => if toSigned w old < toSigned w opnd then opnd else old
  | 6 => opnd
  | _ => fAddAtomic (if w = 32 then fp32 else fp64) old opnd

/-! ## Windows of completions (R452) -/

/-- Nothing counted yet. -/
def Wins.none : Wins := { arr := [], bytes := [], usedA := 0, usedB := 0, marks := [] }

/-- All that has been counted. -/
def countAll (t : Tbl Nat) : Nat := (t.map (·.2)).sum

/-- The first window by which `n` have been counted, those of earlier windows first; the last one where fewer have been. -/
def windowBy : Tbl Nat → Nat → Nat
  | [], _ => 0
  | [e], _ => e.1
  | e :: rest, n => if n ≤ e.2 then e.1 else windowBy rest (n - e.2)

/-- One more contribution, of a window. -/
def Wins.add (t : Wins) (arr bytes window : Nat) : Wins :=
  let up := fun (l : Tbl Nat) (n : Nat) => if n = 0 then l else tput l window (tgetD l window 0 + n)
  { t with arr := up t.arr arr, bytes := up t.bytes bytes }

/-- The window of the completion at which so many had been taken: the latest window of those, where contributions of earlier windows are taken first. It
depends on no order of arrival (R452). -/
def Wins.window (t : Wins) (usedA usedB : Nat) : Nat :=
  max (if usedA = 0 then 0 else windowBy t.arr usedA) (if usedB = 0 then 0 else windowBy t.bytes usedB)

/-- The contributions of an object whose counts are now `arr` and `bytes`: anew where software has written the counts. -/
def Wins.agree (t : Wins) (arr bytes : Nat) : Wins :=
  if countAll t.arr = t.usedA + arr ∧ countAll t.bytes = t.usedB + bytes then t else Wins.none.add arr bytes 0

def State.winsAt (s : State) (loc : Nat) : Wins := tgetD (s.bay (homeBay loc)).ate.wins loc Wins.none

def State.setWins (s : State) (loc : Nat) (t : Wins) : State :=
  s.modBay (homeBay loc) fun b => { b with ate := { b.ate with wins := tput b.ate.wins loc t } }

/-- The wake of a waiter: the value goes to the join slot of its core (R261, R275). -/
def State.sendWake (s : State) (value : Word) (window : Nat) (w : Waiter) : State :=
  s.modCore (s.holderOf w.core) fun k => { k with joins := tmod k.joins w.slot fun j => { j with value := some value, window := window } }

/-- Has a wake that was sent with a phase not been made ready yet? -/
def State.wakePending (s : State) (phase : Nat) (w : Waiter) : Bool :=
  match tget (s.core (s.holderOf w.core)).joins w.slot with
  | some j => j.barrier && j.value == some (BitVec.ofNat 64 phase)
  | none => false

/-- A contribution that comes after a phase was complete, of an earlier window than one taken with it, takes that one's place: the wakes of the phase that
are not ready yet have the window that this gives (R452). -/
def State.settleWins (s : State) (loc : Nat) (t : Wins) : State :=
  let marks := (t.marks.map fun (p, a, b, l) => (p, a, b, l.filter (s.wakePending p))).filter fun e => !e.2.2.2.isEmpty
  let s := s.setWins loc { t with marks := marks }
  marks.foldl (fun s (p, a, b, l) => l.foldl (State.sendWake · (BitVec.ofNat 64 p) (t.window a b) ·) s) s

/-- The waiters at a location that a predicate names are forgotten. -/
def State.forget (s : State) (loc : Nat) (hit : List Waiter) : State :=
  s.modBay (homeBay loc) fun b => { b with ate := { b.ate with waiters := b.ate.waiters.filter fun w => !hit.contains w } }

/-- Step 3 of a completion: the host is told (R388). -/
def State.sendCompletion (s : State) (asid qid index : Nat) (status : Word) (wrapped : Bool) : State :=
  s.send (.completion asid qid index status wrapped)

/-- DONE counts one more in the slot that maps a QCB; none where no slot does (R388). -/
def State.countInSlot (s : State) (asid qcb : Nat) : Option State :=
  ((upTo 16).find? fun i => let h := vget (s.part asid).sched.slots i Hqs.reset; h.v && h.qcb == qcb).map fun i =>
    s.modSched asid fun q =>
      let h := vget q.slots i Hqs.reset
      { q with slots := vset q.slots i { h with done := (h.done + 1) % 2 ^ 32 } }

/-- Step 2 of a completion: DONE of its queue counts one more, in the queue's slot, or in its QCB by an atomic at the home ATE; step 3 follows
(R388). -/
def State.countDone (s : State) (asid qid index qcb : Nat) (status : Word) (wrapped : Bool) : State :=
  match s.countInSlot asid qcb with
  | some s => s.sendCompletion asid qid index status wrapped
  | none => s.ateSend 0 (.count (hbmKey (qcb + 20)) asid qid index status wrapped)

/-- A completion begins (R388): the decrement of SIG goes to its home ATE, ahead of every core's request of its cycle (R70), and the rest follows it. With no
counter, or with one that the checks of R40 refuse, the next step is made at once. -/
def State.complete (s : State) (asid : Nat) (r : Root) (status : Word) : State :=
  match (if r.sig = 0 then none else some (s.check (systemAgent asid) .atomic 8 8 r.sig)) with
  | some (.ok (.mem k)) => (s.walked asid r.sig 8).ateSend 0 (.dec k asid r.qid r.index r.qcb status)
  | _ => s.countDone asid r.qid r.index r.qcb status false

/-- The root in flight whose completion record lies at a key. -/
def State.rootAt (s : State) (loc : Nat) : Option (Nat × Root) :=
  (s.parts.flatMap fun p => p.2.sched.roots.map fun r => (p.1, r)).find? fun e => e.2.loc == loc

/-- The completion of the root whose record just reached 0, once (R388). -/
def State.rootDone (s : State) (loc : Nat) (status : Word) : State :=
  match s.rootAt loc with
  | none => s
  | some (asid, r) => (s.modSched asid fun q => { q with roots := q.roots.filter fun e => e.loc ≠ loc }).complete asid r status

/-- One contribution to a join record (R172): none when the count is 0. -/
def State.contribute (s : State) (loc : Nat) (status : Word) (window : Nat) : Option State :=
  let count := s.readLe loc 8
  if count = 0 then none
  else
    let st := combine (BitVec.ofNat 64 (s.readLe (loc + 8) 8)) status
    let s := (s.writeLe (loc + 8) 8 st.toNat).writeLe loc 8 (count - 1)
    let t := (s.winsAt loc).add 1 0 window
    some (if count = 1 then
      let hit := (s.bay (homeBay loc)).ate.waitersAt loc false
      let s := hit.foldl (State.sendWake · st (t.window (countAll t.arr) 0) ·) (s.forget loc hit)
      (s.rootDone loc st).modBay (homeBay loc) fun b => { b with ate := { b.ate with wins := tdel b.ate.wins loc } }
    else s.setWins loc t)

/-- Adds arrivals and bytes to a barrier object and then tests it: an advance of one phase, with the expected counts subtracted (R98,
R273). The counts saturate. -/
def State.barUpdate (s : State) (k arr bytes window : Nat) : State :=
  let a := satN 32 (s.barArr k + arr)
  let b := satN 48 (s.barBytes k + bytes)
  let t := ((s.winsAt k).agree (s.barArr k) (s.barBytes k)).add arr bytes window
  if s.barExpA k ≤ a ∧ s.barExpB k ≤ b then
    let a' := a - s.barExpA k
    let b' := b - s.barExpB k
    let ph := (s.barPhase k + 1) % 2 ^ 64
    let hi := s.readLe (k + 16) 8 / 2 ^ 48 * 2 ^ 48
    let s := ((s.writeLe (k + 4) 4 a').writeLe (k + 16) 8 (hi + b')).writeLe (k + 24) 8 ph
    let hit := ((s.bay (homeBay k)).ate.waitersAt k true).filter fun w => decide (w.phase.toNat < ph)
    let used := { t with usedA := t.usedA + s.barExpA k, usedB := t.usedB + s.barExpB k }
    let s := hit.foldl (State.sendWake · (BitVec.ofNat 64 ph) (used.window used.usedA used.usedB) ·) (s.forget k hit)
    s.settleWins k { used with marks := used.marks ++ [(ph, used.usedA, used.usedB, hit)] }
  else ((s.writeLe (k + 4) 4 a).writeLe (k + 16) 8 (s.readLe (k + 16) 8 / 2 ^ 48 * 2 ^ 48 + b)).settleWins k t

/-- Releases a join slot. -/
def State.freeJoin (s : State) (core slot : Nat) : State := s.modCore core fun k => { k with joins := tdel k.joins slot }

/-- A unit that is not running ends as a suspension, wherever its context is kept: in a slot, which is free again, or in a ready queue (R258, R261). Its
snapshots wait under its task id, and its warnings join the summary (R156, R200). -/
def State.suspendSaved (s : State) (uid : Nat) : State :=
  let slots := (s.dies.toList.flatMap fun (d : Die) => d.slots.map fun e => (e.2.asid, s.slotCore e.2, e.2.ctx)).filter fun p => p.2.2.uid == uid
  let queued := (s.cores.flatMap fun (c, k) => k.ready.filterMap fun e => match e.item with | .ctx x => some (k.asidN, c, x) | _ => none).filter fun p => p.2.2.uid == uid
  let s := (slots ++ queued).foldl (fun s p => (((s.parkSnaps p.1 p.2.2).keepPend p.1 p.2.2).sumWarn p.1 p.2.2).leaveVectors p.2.1 0 p.2.2) s
  { s with
    dies := s.dies.map fun (d : Die) => { d with slots := d.slots.filter fun e => e.2.ctx.uid ≠ uid }
    cores := s.cores.map fun (c, k) =>
      (c, { k with ready := k.ready.filter fun e => match e.item with | .ctx x => x.uid != uid | _ => true }) }

/-- A JOINW or BARWAIT whose waiter is registered: the unit ends as a suspension, its peg in the join slot (R261). One that was stopped at it, and waits on
its thread for a slot, ends too. -/
def State.joinSuspend (s : State) (uid : Nat) : State :=
  match s.findUnit uid with
  | some (c, t) => (s.suspendUnit c t 3).modThr c t fun th => { th with stopped := none }
  | none => s.suspendSaved uid

/-- Registers a waiter and ends its unit. -/
def State.register (s : State) (w : Waiter) (uid : Nat) : State :=
  (s.modBay (homeBay w.loc) fun b => { b with ate := { b.ate with waiters := b.ate.waiters ++ [w] } }).joinSuspend uid

/-- A cause for a JOINW or BARWAIT: the join slot is free again and the unit stops. D0 is the address that the instruction named (R393). -/
def State.joinCause (s : State) (core slot uid : Nat) (c : Cause) : State :=
  let va := ((tget (s.core core).joins slot).map (·.va)).getD 0
  (s.freeJoin core slot).answerCause uid c { d0 := va }

/-- The block queue's object (R344): word 0 is NEXT and word 1 LIMIT; the answer is NEXT, or all ones at the limit. -/
def State.takeBlock (s : State) (k : Nat) : Word × State :=
  let next := s.readLe k 8
  if next < s.readLe (k + 8) 8 then (BitVec.ofNat 64 next, s.writeLe k 8 ((next + 1) % 2 ^ 64)) else (0xFFFFFFFFFFFFFFFF, s)

/-- An atomic addition by the scheduling hardware (R388). On an uncorrectable granule it is not performed (R73). -/
def State.hwAdd (s : State) (k n v : Nat) : State :=
  match s.badIn k n with
  | some _ => s.logRange k n
  | none => (s.correct k n).writeLe k n (amoNew 0 (8 * n) (s.readLe k n) v)

/-- A done message at its record (R172): a count of 0 is reported as a die event against the task's id, and so is an uncorrectable error, with which the
contribution is not made (R73; log 75, DEDUCED). The record goes to the stop ring of the die at which the record lies and shows LCORE 0: R172 names neither
(log 75, DESIGN CHOICE). -/
def State.doneAt (s : State) (k : Nat) (status : Word) (tid asid window : Nat) : State :=
  match s.badIn k 16 with
  | some _ => (s.logRange k 16).notice (keyDie k) .eccunc asid 0 tid
  | none =>
    let s := s.correct k 16
    match s.contribute k status window with
    | some s => s
    | none => s.notice (keyDie k) .joinbad asid 0 tid

/-- What a request does at its turn. -/
def State.atePerform (s : State) (op : AteOp) : State :=
  match op with
  | .amo fn size k opnd uid d =>
    let w := 8 * size
    let old := s.readLe k size
    let s := s.writeLe k size (amoNew fn w old (wfield opnd 0 w))
    s.deliver uid d (if fn = 7 then BitVec.ofNat 64 old else sext old w)
  | .cas size k exp new uid d =>
    let w := 8 * size
    let old := s.readLe k size
    let s := if old = wfield exp 0 w then s.writeLe k size (wfield new 0 w) else s
    s.deliver uid d (sext old w)
  | .barriv k w => s.barUpdate k 1 0 w
  | .bytes k n core cop w =>
    let s := s.barUpdate k 0 n w
    s.modCore (s.holderOf core) fun c => { c with copies := tmod c.copies cop fun (o : CopyOp) => { o with barOut := o.barOut - 1 } }
  | .barwait k ph uid core slot d =>
    let a := (s.bay (homeBay k)).ate
    if ph.toNat < s.barPhase k then
      (s.freeJoin core slot).answer uid fun x => x.setX d (BitVec.ofNat 64 (s.barPhase k))
    else if 16 ≤ (a.waitersAt k true).length then s.joinCause core slot uid .barbad
    else s.register { loc := k, core := core, slot := slot, barrier := true, phase := ph } uid
  | .joinw k uid core slot d =>
    let a := (s.bay (homeBay k)).ate
    if s.readLe k 8 = 0 then (s.freeJoin core slot).answer uid fun x => x.setX d (BitVec.ofNat 64 (s.readLe (k + 8) 8))
    else if !(a.waitersAt k false).isEmpty || (s.rootAt k).isSome then s.joinCause core slot uid .joinbad
    else s.register { loc := k, core := core, slot := slot, barrier := false, phase := 0 } uid
  | .jdec k va status uid w =>
    match s.contribute k status w with
    | some s => s.answer uid id
    | none => s.answerCause uid .joinbad { d0 := va }
  | .bqtake k uid d =>
    let (v, s) := s.takeBlock k
    s.deliver uid d v
  | .dec k asid qid index qcb status =>
    let zero := decide (s.readLe k 8 = 0)
    (s.hwAdd k 8 (2 ^ 64 - 1)).countDone asid qid index qcb status zero
  | .count k asid qid index status wrapped =>
    -- The queue may have been mapped since: its slot holds DONE then.
    (((upTo 16).findSome? fun i => let h := vget (s.part asid).sched.slots i Hqs.reset
        if h.v && hbmKey (h.qcb + 20) == k then s.countInSlot asid h.qcb else none).getD (s.hwAdd k 4 1)).sendCompletion asid qid index status wrapped
  | .done k _ status tid asid w => s.doneAt k status tid asid w
  | .read k n signed uid d fp => s.giveLoad signed uid d fp k n
  | .write k n v _ => s.writeLe k n v.toNat
  | .timed k order => s.timedTurn k order
  | .pass k uid seq => s.takeTurn k uid seq
  | .put k n v m _ _ => s.putMasked k n v m
  | .sys k n store v sc =>
    if store then s.writeLe k n v.toNat
    else
      let v := BitVec.ofNat 64 (s.readLe k n)
      (s.correct k n).modPkg fun p => { p with sysCores := vset p.sysCores sc { (vget p.sysCores sc SysCore.reset) with loaded := v } }

/-- The ATE of a bay takes a request from its input; it takes none other in this cycle (R70). -/
def State.ateTake (s : State) (bay : Nat) (r : AteReq) : State :=
  (s.modBay bay fun b => { b with ate := { b.ate with input := b.ate.input.erase r, nextAt := s.cycle + 1 } }).setHot bay ((s.bay bay).ate.touched r.op.loc)

/-- Is the request a done message? -/
def AteOp.isDone : AteOp → Bool
  | .done _ _ _ _ _ _ => true
  | _ => false

/-- An ATE accepts the request whose turn it is and performs it on its line, where that is the kind of request named. -/
def State.ateTurn (s : State) (bay : Nat) (done : Bool) : State :=
  match s.atePick bay with
  | none => s
  | some r => if r.op.isDone == done then (s.ateTake bay r).atePerform r.op else s

/-- An ATE accepts one request and performs it on its line (R70). A done message is another row's (R172). -/
def execAteAccept (bay : Nat) (s : State) : Host.Outcome State Fault Refusal := .next (s.ateTurn bay false)

/-- A done message reaches its record, in its turn at the record's ATE (R70, R172). -/
def execDoneMessage (bay : Nat) (s : State) : Host.Outcome State Fault Refusal := .next (s.ateTurn bay true)

/-- The steps that are due at ATEs. -/
def State.dueAtes (s : State) : List Event :=
  s.bays.filterMap fun p => (s.atePick p.1).map fun r => if r.op.isDone then .doneMessage p.1 else .ateAccept p.1

end Sys2Proof.Machine
end

