-- ==== Sys2Proof/Machine/Operands.lean ====
section
/-! DEFINITION. The operand forms of R188, R189 and R231: immediates, effective addresses and branch targets. -/

namespace Sys2Proof.Machine

/-- The signed immediate of F-I. -/
def immI (imm : BitVec 12) : Word := imm.signExtend 64

/-- The signed byte offset of F-S. -/
def immS (imm : BitVec 11) : Word := imm.signExtend 64

/-- The byte distance of F-B: 4 times the signed word offset. -/
def offB (imm : BitVec 11) : Word := imm.signExtend 64 * 4

/-- The byte distance of JAL: 4 times the signed IMM19. -/
def offJ (imm : BitVec 19) : Word := imm.signExtend 64 * 4

/-- The upper immediate of LUI and AUIPC: IMM19 times 2^12. -/
def immU (imm : BitVec 19) : Word := imm.signExtend 64 * 4096

/-- Effective address of a load, x[A] + imm (R239). -/
def eaI (x : Ctx) (a : Reg) (imm : BitVec 12) : Word := x.xr a + immI imm

/-- Effective address of a store (R239). -/
def eaS (x : Ctx) (a : Reg) (imm : BitVec 11) : Word := x.xr a + immS imm

/-- A two-source instruction whose result is written before any later read. -/
def opRR (f : Word → Word → Word) (d a b : Reg) (ma mb : Bool) (s : State) : Host.Outcome State Fault Refusal :=
  issue [(a, ma), (b, mb)] (some d) (fun s => setRetire d (f (s.cur.xr a) (s.cur.xr b)) s) s

/-- A one-source instruction whose result is written before any later read. -/
def opR (f : Word → Word) (d a : Reg) (ma : Bool) (s : State) : Host.Outcome State Fault Refusal :=
  issue [(a, ma)] (some d) (fun s => setRetire d (f (s.cur.xr a)) s) s

/-- A conditional branch (R238). -/
def branch (p : Word → Word → Bool) (a b : Reg) (imm : BitVec 11) (ma mb : Bool) (s : State) : Host.Outcome State Fault Refusal :=
  issue [(a, ma), (b, mb)] none (fun s => if p (s.cur.xr a) (s.cur.xr b) then .jump (s.cur.pc + offB imm) s else .retire s) s

end Sys2Proof.Machine
end

