-- ==== Sys2Proof/Machine/CtlReg.lean ====
section
/-! DEFINITION. Control registers: their numbers and access rules (R198, R199), what each reads as, and the field-by-field write of R251. -/

namespace Sys2Proof.Machine

/-- The checks of R199 on an access by an instruction. -/
def ctlCheck (privileged write : Bool) (n : Nat) : Option Cause :=
  match ctlAcc n with
  | none => some .illop
  | some .none => if privileged then none else some .priv
  | some .ro => if write && !privileged then some .priv else none
  | some .rw => none

/-- APXMON in the view of HSEL (R228). -/
def Apxmon.view (a : Apxmon) (hsel : Nat) : Word :=
  if hsel = 0 then pack [(48, 16, a.maxErr), (32, 1, b2n a.exc), (0, 32, satN 32 a.samples)]
  else if hsel ≤ 4 then pack ((upTo 4).map fun i => (16 * i, 16, satN 16 (vget a.bins (4 * (hsel - 1) + i) 0)))
  else 0

/-- TSTAT of a GTU (R110). -/
def Gtu.tstat (g : Gtu) (ext : Bool) : Word :=
  let st := match g.state with | .free => 0 | .relock => 1 | .locked => 2 | .holdover => 3
  pack [(48, 16, satN 16 g.losses), (16, 16, ofSigned 16 (max (-0x7FFF) (min 0x7FFF g.offs))), (3, 1, b2n ext), (0, 3, st)]

/-- SKEWX (R114). -/
def Pkg.skewx (p : Pkg) : Word := pack [(63, 1, b2n p.skewxValid), (0, 32, p.skewxBound)]

/-- BOOTWHY (R432). -/
def Pkg.bootwhy (p : Pkg) : Word :=
  pack [(40, 8, satN 8 p.starts), (20, 4, p.lastf), (18, 2, p.fails), (17, 1, b2n p.fallbk), (16, 1, b2n p.img), (4, 4, p.rsrc), (0, 1, b2n p.minimal)]

/-- DQCFG (R167). -/
def Core.dqcfg (k : Core) : Word := pack [(48, 16, k.deque.length), (17, 16, k.spill), (0, 17, k.dqBase)]

/-- MBCFG (R176); the ring size is held in bytes. -/
def Core.mbcfg (k : Core) : Word := pack [(47, 17, k.mbHead), (30, 17, k.mbUsed), (17, 9, k.mbSize / 256), (0, 17, k.mbBase)]

/-- DDORDn (R352): a partition's register, or the identity order where nothing is written. -/
def Partition.ddord (p : Partition) (i : Nat) : Word :=
  tgetD p.ddords i (pack ((upTo 4).map fun j => (16 * j, 12, 4 * i + j)))

/-- DDLIM (R353). -/
def State.ddlim (s : State) (asid : Nat) : Word := match tget s.spaces asid with | some d => BitVec.ofNat 64 d.limit | none => 0

/-- BENTID (R198). -/
def bentid (c : Nat) : Word :=
  if isGateway c then (Config.gatewayBentid c).zeroExtend 64 else pack [(10, 2, coreDie c), (0, 10, coreBent c)]

/-- The value of control register n as thread t of core c reads it. -/
def State.ctlGet (s : State) (c t n : Nat) : Word :=
  let k := s.core c
  let x := s.ctx c t
  let p := s.part k.asidN
  let d := s.die (coreDie c)
  if 0x0C0 ≤ n ∧ n ≤ 0x0C7 then (vget k.wmarks (n - 0x0C0) Wmark.reset).w
  else if 0x400 ≤ n then p.ddord (n - 0x400)
  else match n with
    | 0x000 => BitVec.ofNat 64 x.tid
    | 0x001 => BitVec.ofNat 64 (k.lcore % 65536)
    | 0x002 => bentid c
    | 0x003 => Config.isafeat
    | 0x010 => x.fctl
    | 0x011 => x.warn
    | 0x012 => x.apxctl
    | 0x013 => k.apxmon.view (wfield x.apxctl 16 4)
    | 0x020 => s.gtime c
    | 0x021 => BitVec.ofNat 64 s.pkg.skewb
    | 0x022 => s.pkg.skewx
    | 0x023 => if isGateway c then { Gtu.reset with state := .locked }.tstat s.pkg.ext else d.gtu.tstat s.pkg.ext
    | 0x024 => x.dlmode
    | 0x025 => k.dlstat
    | 0x026 => k.dlrecs
    | 0x027 => k.dlrect
    | 0x028 => k.dlrech
    | 0x029 => k.dlreca
    | 0x030 => wput d.thrs 12 1 (b2n d.ramp)
    | 0x031 => s.pkg.rampctl
    | 0x032 => p.enk
    | 0x033 => s.pkg.bootwhy
    | 0x040 => k.slott
    | 0x041 => p.launch.qwin
    | 0x042 => k.dqcfg
    | 0x043 => k.mbcfg
    | 0x044 => BitVec.ofNat 64 k.rfBase
    | 0x050 => s.ddlim k.asidN
    | _ => 0

/-- CTLWR, CTLSET, CTLCLR (R251). -/
inductive CtlOp where
  | write | set | clear
deriving DecidableEq, Repr

/-- The value of a register's RW fields (mask `rw`) and W1C bits (mask `w1c`) after an operation; other bits keep the old value. -/
def CtlOp.apply (op : CtlOp) (rw w1c old v : Word) : Word :=
  match op with
  | .write => (old &&& ~~~rw &&& ~~~(w1c &&& v)) ||| (v &&& rw)
  | .set => old ||| (v &&& rw)
  | .clear => old &&& ~~~(v &&& (rw ||| w1c))

/-- Bits a WO field acts on (R251): none for a CTLCLR. -/
def CtlOp.acts (op : CtlOp) (v : Word) : Word := if op = .clear then 0 else v

/-- What a write of a register comes to: done; refused with a cause and nothing changed; to be tried again. -/
inductive CtlPut where
  | done (s : State)
  | cause (c : Cause)
  | wait
deriving DecidableEq, Repr

/-- FCTL after a write: an RM of 5 to 7 leaves RM unchanged (R216). -/
def fctlPut (op : CtlOp) (old v : Word) : Word :=
  let w := op.apply 0x3F00FC3F 0 old v
  if 5 ≤ wfield w 0 3 then wput w 0 3 (wfield old 0 3) else w

/-- DQCFG (R167): RSVFLD for a value the map refuses; a wait while it would shrink SPILL below the entries spilled. -/
def State.dqcfgPut (s : State) (c : Nat) (w : Word) : CtlPut :=
  let spill := wfield w 17 16
  let base := wfield w 0 17
  if 2048 < spill ∨ base % 64 ≠ 0 ∨ 0x20000 < base + 64 * spill then .cause .rsvfld
  else if spill < (s.core c).deque.length - 64 then .wait
  else
    let (l, s) := s.fetchPegs c (s.core c).deque
    .done ((s.modCore c fun k => { k with spill := spill, dqBase := base, deque := l }).settleDeque c)

/-- MBCFG (R176). -/
def State.mbcfgPut (s : State) (c : Nat) (w : Word) : CtlPut :=
  let size := wfield w 17 9
  let base := wfield w 0 17
  if (s.core c).mbUsed ≠ 0 ∨ 256 < size ∨ base % 256 ≠ 0 ∨ 0x20000 < base + 256 * size then .cause .rsvfld
  else .done (s.modCore c fun k => { k with mbSize := 256 * size, mbBase := base, mbHead := base, mbUsed := 0 })

/-- RFCFG (R182). -/
def State.rfcfgPut (s : State) (c : Nat) (w : Word) : CtlPut :=
  let base := wfield w 0 17
  if base % 128 ≠ 0 then .cause .rsvfld else .done (s.modCore c fun k => { k with rfBase := base })

/-- DDLIM (R353). -/
def State.ddlimPut (s : State) (asid : Nat) (op : CtlOp) (v : Word) : State :=
  { s with spaces := tmod s.spaces asid fun (d : Dds) =>
      { d with limit := min (op.apply 0x7FFFFFFF 0 (BitVec.ofNat 64 d.limit) v).toNat (2 ^ d.nn - 1) } }

/-- DDORDn (R352). -/
def State.ddordPut (s : State) (asid i : Nat) (op : CtlOp) (v : Word) : CtlPut :=
  if op ≠ .clear ∧ v &&& 0xF000F000F000F000 ≠ 0 then .cause .rsvfld
  else if (tget s.spaces asid).any fun d => d.alloc ≠ 0 then .cause .ddorder
  else .done (s.modPart asid fun p => { p with ddords := tput p.ddords i (op.apply 0x0FFF0FFF0FFF0FFF 0 (p.ddord i) v) })

/-- A write of control register n of thread t of core c. `system` is a store through region 0x0, which may write SLOTT (R39). -/
def State.ctlPut (s : State) (system : Bool) (c t n : Nat) (op : CtlOp) (v : Word) : CtlPut :=
  let k := s.core c
  let asid := k.asidN
  let rwCtx := fun (f : Ctx → Ctx) => CtlPut.done (s.modCtx c t f)
  let rwCore := fun (f : Core → Core) => CtlPut.done (s.modCore c f)
  if 0x400 ≤ n then s.ddordPut asid (n - 0x400) op v
  else match n with
    | 0x010 => rwCtx fun x => { x with fctl := fctlPut op x.fctl v }
    | 0x011 => rwCtx fun x => { x with warn := op.apply 0x8000000000000000 0x7 x.warn v }
    | 0x012 =>
      let s := s.modCtx c t fun x => { x with apxctl := op.apply 0x0000FFFF000F1F03 0 x.apxctl v }
      .done (if (op.acts v).getLsbD 2 then s.modCore c fun k => { k with apxmon := Apxmon.reset } else s)
    | 0x024 => rwCtx fun x => { x with dlmode := op.apply 0xB 0 x.dlmode v }
    | 0x025 => rwCore fun k => { k with dlstat := op.apply 0xFFFFFFFFFFFFFFFF 0 k.dlstat v }
    | 0x026 => rwCore fun k => { k with dlrecs := op.apply 0 0xC000000000000000 k.dlrecs v }
    | 0x031 => .done (s.modPkg fun p => { p with rampctl := op.apply 0x103FF 0 p.rampctl v })
    | 0x040 => if system then rwCore fun k => { k with slott := op.apply 0x1FFFFFFFF 0 k.slott v } else .done s
    | 0x042 => s.dqcfgPut c (op.apply 0x1FFFFFFFF 0 k.dqcfg v)
    | 0x043 => s.mbcfgPut c (op.apply 0x3FFFFFF 0 k.mbcfg v)
    | 0x044 => s.rfcfgPut c (op.apply 0x1FFFF 0 (BitVec.ofNat 64 k.rfBase) v)
    | 0x050 => .done (s.ddlimPut asid op v)
    | _ => .done s

/-- Is the register performed by the serving DDE, so that its access is a quantum-served request (R353, R389)? -/
def ctlOfDde (n : Nat) : Bool := n = 0x050 || 0x400 ≤ n

/-- The core's largest GTIME read so far (R105). -/
def State.noteGtime (s : State) (c n : Nat) : State :=
  if n = 0x020 then s.modCore c fun k => { k with maxGtime := if k.maxGtime.toNat < (s.gtime c).toNat then s.gtime c else k.maxGtime } else s

/-- A request of the issuing instruction to a home. -/
def State.curReq (s : State) (d : Reg) (op : QOp) : QReq :=
  { core := s.curCore, thread := s.curThread.val, uid := s.cur.uid, lcore := s.curK.lcore, quantum := s.curK.det.quantum, dest := d, op := op }

/-- A request kept by its home. -/
def State.keepReq (s : State) (asid : Nat) (r : QReq) : State := s.modPart asid fun p => { p with qreqs := p.qreqs ++ [r] }

/-- In a deterministic launch the issuing instruction's request leaves and is served at the end of its quantum (R389). A register access has
its major: 0x3D read, 0x3E write, 0x3F set, 0x40 clear. -/
def State.sendQ (s : State) (d : Reg) (op : QOp) : State :=
  (s.keepReq s.curK.asidN (s.curReq d op)).modCur fun x => { x with wait := .quantum }

/-- CTLRD (R251, R252). -/
def ctlRead (d : Reg) (n : Nat) (s : State) : Host.Outcome State Fault Refusal :=
  match ctlCheck (s.launchOf s.curCore).privileged false n with
  | some c => .next (s.trap c)
  | none =>
    issue [] (some d) (fun s =>
      if ctlOfDde n && (s.launchOf s.curCore).deterministic then .stay (s.sendQ d (.ctl 0x3D n 0))
      else setRetire d (s.ctlGet s.curCore s.curThread.val n) (s.noteGtime s.curCore n)) s

/-- The major opcode of a write (R251). -/
def CtlOp.major : CtlOp → Nat
  | .write => 0x3E
  | .set => 0x3F
  | .clear => 0x40

/-- CTLWR, CTLSET and CTLCLR: x[D] receives the old value (R251). -/
def ctlWrite (op : CtlOp) (d a : Reg) (n : Nat) (ma : Bool) (s : State) : Host.Outcome State Fault Refusal :=
  match ctlCheck (s.launchOf s.curCore).privileged true n with
  | some c => .next (s.trap c)
  | none =>
    issue [(a, ma)] (some d) (fun s =>
      let v := s.cur.xr a
      if ctlOfDde n && (s.launchOf s.curCore).deterministic then .stay (s.sendQ d (.ctl op.major n v))
      else
        let old := s.ctlGet s.curCore s.curThread.val n
        match s.ctlPut false s.curCore s.curThread.val n op v with
        | .done s => setRetire d old (s.noteGtime s.curCore n)
        | .cause c => .trap c {} s
        | .wait => .stay s) s

def execCtlrd (d : Reg) (imm : BitVec 12) (s : State) : Host.Outcome State Fault Refusal := ctlRead d imm.toNat s
def execCtlwr (d a : Reg) (imm : BitVec 12) (ma : Bool) (s : State) : Host.Outcome State Fault Refusal := ctlWrite .write d a imm.toNat ma s
def execCtlset (d a : Reg) (imm : BitVec 12) (ma : Bool) (s : State) : Host.Outcome State Fault Refusal := ctlWrite .set d a imm.toNat ma s
def execCtlclr (d a : Reg) (imm : BitVec 12) (ma : Bool) (s : State) : Host.Outcome State Fault Refusal := ctlWrite .clear d a imm.toNat ma s

end Sys2Proof.Machine
end

