-- ==== Sys2Proof/Machine/Advance.lean ====
section
/-! DEFINITION. The passing of time and the issue slots: which thread issues next (R183), the clocks of the dies and of the grandmaster
(R104, R107), and the tick counters of R422. -/

namespace Sys2Proof.Machine

/-- Can the thread issue: it runs a unit, nothing holds its issue, and its core and launch are not stopped (R183, R408, R411, R413); the core's clock
has passed every time its context has read (R105). A thread whose fetch is held takes a stop that is due at its boundary (R47, R396). In a
deterministic launch no core runs on past the launch's end of quantum (R390 allows it to; log 22). -/
def State.issuable (s : State) (c t : Nat) : Bool :=
  let k := s.core c
  let th := k.thr t
  let p := s.part k.asidN
  th.running && (th.ctx.wait == .no || (th.ctx.wait == .held && th.ctx.redo.isNone && th.ctx.stopDue)) && th.stopped.isNone && k.holds && k.migrating.isNone &&
    !p.frozen && !s.halted c && !(p.launch.deterministic && decide (p.sched.quanta < k.det.quantum)) &&
    (k.maxGtime == 0 || decide (k.maxGtime.toNat < (s.gtime c).toNat))

/-- The thread of a core that issues in cycle n: the slot's owner, or with DONATE the first ready one after it (R183). -/
def State.slotThread (s : State) (c n : Nat) : Option Nat :=
  let st := (s.core c).slott
  let owner := wfield st (2 * (n % 16)) 2
  if s.issuable c owner then some owner
  else if wfield st 32 1 = 1 then ([1, 2, 3].map fun i => (owner + i) % 4).find? fun t => s.issuable c t
  else none

/-- With DONATE, the thread that issues in a slot after thread t, whose instruction only waited: the next ready one in the order of R183. -/
def State.donee (s : State) (c t n : Nat) : Option Nat :=
  let st := (s.core c).slott
  let owner := wfield st (2 * (n % 16)) 2
  if wfield st 32 1 = 1 then (([1, 2, 3].filter fun i => decide ((t + 4 - owner) % 4 < i)).map fun i => (owner + i) % 4).find? fun t => s.issuable c t else none

/-- Part of an adjustment of `slew` ticks, spread over 16,000 ticks, that has been applied after n ticks (R107). -/
def slewPart (slew : Int) (n : Nat) : Int := slew * (min n 16000 : Nat) / 16000

/-- A count after d further ticks under its adjustment; it never moves back (R107). -/
def advanceCount (count : Word) (slew : Int) (since d : Nat) : Word :=
  count + BitVec.ofInt 64 (max 0 ((d : Int) + slewPart slew (since + d) - slewPart slew since))

/-- Tick counters of a thread over d ticks (R422). -/
def Thread.accrue (th : Thread) (d : Nat) : Thread :=
  if th.running || th.stopped.isSome || th.noting then { th with run := satN 64 (th.run + d) } else { th with search := satN 64 (th.search + d) }

/-- The watchdog's period does not run while a context of the launch lies in a slot (R411). -/
def Partition.pauseWatchdog (p : Partition) (slotted : Bool) : Partition := if slotted then { p with wdLast := p.wdLast + 1 } else p

/-- One cycle passes: 40/3 ticks (R104) on every clock, and the counters of R422 and R423 follow. -/
def State.tickCycle (s : State) : State :=
  let d := Config.ticksAt (s.cycle + 1) - Config.ticksAt s.cycle
  { s with
    cycle := s.cycle + 1
    parts := tmap s.parts fun a p => p.pauseWatchdog (s.dies.toList.any fun (d : Die) => d.slots.any fun e => e.2.asid == a)
    dies := s.dies.map fun e => { e with gtu := { e.gtu with count := advanceCount e.gtu.count e.gtu.slew e.gtu.since d, since := e.gtu.since + d } }
    pkg := { s.pkg with gmCount := advanceCount s.pkg.gmCount s.pkg.gmSlew s.pkg.gmSince d, gmSince := s.pkg.gmSince + d }
    cores := s.cores.map fun (c, k) =>
      (c, if k.asid.isNone then k else
        { k with
          threads := (k.threads.map fun th => th.accrue d) }) }

/-- Has a core work for its matrix or vector engine? -/
def Core.engineWork (k : Core) : Bool := !k.mq.isEmpty || !k.vsq.isEmpty || k.threads.any fun th => !th.past.isEmpty || !th.ctx.vq.isEmpty

/-- The current-ramp limiter of each die withholds issue in the new cycle or releases it (R437). While the current that a die's work asks for is beyond what RATE
allows it withholds matrix and vector issue at free times (log 28, DESIGN CHOICE). -/
def State.setRamps (s : State) : State :=
  let busy := s.cores.filter fun p => p.2.engineWork
  if busy.isEmpty && s.dies.all fun (d : Die) => !d.ramp then s
  else (upTo 4).foldl (fun s i => s.modDie i fun d => { d with ramp := d.rising && (busy.any fun p => coreDie p.1 == i) && Config.rampHolds (Nat.pair s.cycle i) }) s

/-- The cores issue in the order of their LCOREs within a cycle, so that stores of one cycle stand in the order of R91; cores of different launches by
their numbers. -/
def State.issueKey (s : State) (c : Nat) : Nat := (s.core c).lcore * 8192 + c

/-- The loopback ports of the cores with keys above `lo`, up to `hi`, drain (R58), in the order of the keys. -/
def State.drainLoops (s : State) (lo hi : Option Nat) : State :=
  ((sortLex (fun (p : Nat × Core) => [s.issueKey p.1]) (s.cores.filter fun p => !p.2.loop.isEmpty)).filter fun p =>
    lo.all (fun k => decide (k < s.issueKey p.1)) && hi.all (fun k => decide (s.issueKey p.1 ≤ k))).foldl (fun s p => s.loopDrain p.1) s

/-- The first core after one with key `lo` that has a thread to issue in cycle n, and that thread. -/
def State.nextIssuer (s : State) (lo : Option Nat) (n : Nat) : Option (Nat × Nat) :=
  (argMin (fun p => s.issueKey p.1) (s.cores.filter fun p => lo.all (fun k => decide (k < s.issueKey p.1)) && (s.slotThread p.1 n).isSome)).bind fun p =>
    (s.slotThread p.1 n).map fun t => (p.1, t)

/-- Makes a thread the one that issues next. -/
def State.setCur (s : State) (c t : Nat) : State := { s with curCore := c, curThread := Fin.ofNat 5 t }

/-- Past every core: nothing issues in this cycle. -/
def noCore : Nat := 4672

/-- The slots of the cores between two keys idle in this cycle (R183, R422). -/
def State.passIdle (s : State) (lo hi : Option Nat) : State :=
  { s with
    cores := s.cores.map fun (c, k) =>
      let key := s.issueKey c
      (c, if k.asid.isSome && lo.all (fun l => decide (l < key)) && hi.all (fun h => decide (key < h)) then { k with idleSlots := satN 64 (k.idleSlots + 1) } else k) }

/-- The next core of the cycle after one with key `lo` issues, if any is left; the loopback ports up to its own have drained. -/
def State.seek (s : State) (lo : Option Nat) : Option State :=
  (s.nextIssuer lo s.cycle).map fun p => ((s.passIdle lo (some (s.issueKey p.1))).drainLoops lo (some (s.issueKey p.1))).setCur p.1 p.2

/-- Did the issuing thread's instruction only wait between two states: it neither retired nor left the thread (R194)? -/
def State.waited (s s' : State) : Bool :=
  let c := s.curCore
  let t := s.curThread.val
  let a := s.thr c t
  let b := s'.thr c t
  s.issuable c t && b.running && b.stopped.isNone && b.ctx.wait == .no && a.retired == b.retired && a.ctx.uid == b.ctx.uid && a.ctx.pc == b.ctx.pc

end Sys2Proof.Machine
end

