-- ==== Sys2Proof/Machine/Mailbox.lean ====
section
/-! DEFINITION. The mailbox of a core: placing messages in its ring (R177), consuming them (R178), refusals and their slots (R181), channel
blocks (R272), and cause messages (R271). -/

namespace Sys2Proof.Machine

/-! ## The ring -/

/-- The two header words of a message (R174). -/
def Msg.header (m : Msg) : List Word :=
  [pack [(56, 8, m.chan), (48, 4, (m.payload.length + 16) / 16 - 1), (0, 48, m.stid)], pack [(32, 32, m.seq), (0, 32, m.slc)]]

/-- The bytes a message writes to the ring. -/
def Msg.bytes (m : Msg) : List Byte := m.header.flatMap (fun w => leBytes 8 w.toNat) ++ m.payload

/-- A message's length in bytes. -/
def Msg.len (m : Msg) : Nat := m.payload.length + 16

/-- The ring's tail (R176). -/
def Core.mbTail (k : Core) : Nat := k.mbBase + (k.mbHead - k.mbBase + k.mbUsed) % k.mbSize

/-- A pad record (R174, R177): KIND 1 and the pad's length; its other fields have no architected value (log 20). -/
def padBytes (free len : Nat) : List Byte :=
  leBytes 8 (wput (wput (Config.padField free) 52 4 1) 0 48 len).toNat ++ leBytes 8 (Config.padField (free + 1)).toNat

/-- Places a message of bytes `bs` in the ring of a core (R177): its offset; none where it does not fit. -/
def State.ringWrite (s : State) (c : Nat) (bs : List Byte) : Option (Nat × State) :=
  let k := s.core c
  let n := bs.length
  let t := k.mbTail
  let e := k.mbBase + k.mbSize
  let f := k.mbSize - k.mbUsed
  if k.mbSize = 0 then none
  else if t + n ≤ e ∧ n ≤ f then
    some (t, (s.writeBytes (scratchKey c t) bs).modCore c fun k => { k with mbUsed := k.mbUsed + n })
  else if e < t + n ∧ e - t + n ≤ f then
    let s := (s.writeBytes (scratchKey c t) (padBytes s.freshCount (e - t))).writeBytes (scratchKey c k.mbBase) bs
    some (k.mbBase, { s with freshCount := s.freshCount + 2 }.modCore c fun k => { k with mbUsed := k.mbUsed + (e - t) + n })
  else none

/-- HEAD advances over every consumed record and pad at the head (R178). -/
def State.ringAdvance (s : State) (c : Nat) : Nat → State
  | 0 => s
  | fuel + 1 =>
    let k := s.core c
    if k.mbUsed = 0 then s
    else
      let w := s.readLe (scratchKey c k.mbHead) 8
      let n := if fieldOf w 52 4 = 1 then fieldOf w 0 48 else 16 * (fieldOf w 48 4 + 1)
      if fieldOf w 52 4 ≠ 1 ∧ fieldOf w 52 4 ≠ 3 then s
      else
        let n := min n k.mbUsed
        ((s.hwRead (scratchKey c k.mbHead) 8).modCore c fun k =>
          { k with mbUsed := k.mbUsed - n, mbHead := k.mbBase + (k.mbHead - k.mbBase + n) % max 1 k.mbSize }).ringAdvance c fuel

/-- A message is consumed: its header becomes KIND 3 (R178). -/
def State.consumeMsg (s : State) (c hdr : Nat) : State :=
  let w := s.readLe (scratchKey c hdr) 8
  let s := (s.hwRead (scratchKey c hdr) 8).writeLe (scratchKey c hdr) 8 (wput (BitVec.ofNat 64 w) 52 4 3).toNat
  (s.modCore c fun k => { k with det := { k.det with owed := k.det.owed.filter (· ≠ hdr) } }).ringAdvance c 8192

/-- A message or refusal entry joins the ready queue, or waits where its channel is not open (R173). `hold` keeps it waiting whatever the
channel. -/
def State.queueItem (s : State) (c chan : Nat) (item : Ready) : State :=
  if (s.core c).chanOpen chan then s.readyItem c (s.gtime c) item
  else
    let (age, s) := s.newAge
    s.modCore c fun k => { k with heldMsgs := k.heldMsgs ++ [{ age := age, enqt := s.gtime c, item := item }] }

/-! ## Refusal slots -/

/-- Refusal slots of a core in use (R181). -/
def Core.refSlots (k : Core) : Nat := k.refOut + k.refusals.length

/-- The sender core's slot for a message is released (R181). -/
def State.releaseSlot (s : State) (asid slc : Nat) : State :=
  match s.lcoreCore asid slc with
  | some c => s.modCore c fun k => { k with refOut := k.refOut - 1 }
  | none => s

/-- The refusal of a message by the core with LCORE `by_` (R181), bound for the sender core. -/
def Msg.refusal (m : Msg) (reason by_ window : Nat) : RefusalMsg :=
  { reason := reason, slc := by_, seq := m.seq, hdr0 := nth 0 m.header 0, hdr1 := nth 0 m.header 1, window := window }

/-- A refusal leaves for the sender core. -/
def State.sendRefusal (s : State) (asid slc : Nat) (r : RefusalMsg) : State :=
  match s.lcoreCore asid slc with
  | some c => s.modCore c fun k => { k with refIn := k.refIn ++ [r] }
  | none => s

/-- The reason a core refuses a message for before it tries its ring (R181, in the order 2, 1). -/
def Core.refuses (k : Core) (chan : Nat) : Option Nat := if k.mbSize = 0 then some 2 else if !k.chanV chan then some 1 else none

/-- A message that cannot be placed: refused; a cause message is delivered unrouted instead, a DDFULL at its instruction and a DLMISS at the next
boundary (R271, R443). -/
def State.refuseMsg (s : State) (c : Nat) (m : Msg) (reason window : Nat) : State :=
  let k := s.core c
  if m.kind = 3 then
    let cause := if leNat (m.payload.take 8) = Cause.ddfull.code then Cause.ddfull else .dlmiss
    if (s.unitCtx m.fromUid).isNone then s.noticeOf c cause m.stid
    else if cause = .ddfull then s.answerCause m.fromUid .ddfull {} else s.pendCause m.fromUid .dlmiss {} true
  else
    (s.modCore c fun k => { k with msgRefused := satN 64 (k.msgRefused + 1) }).sendRefusal k.asidN m.slc (m.refusal reason k.lcore window)

/-- A message that arrives at a core is placed or refused (R177, R181). A placed message of an open channel is owed in a deterministic
launch (R184). -/
def State.acceptMsg (s : State) (c : Nat) (m : Msg) (window : Nat) : State :=
  let k := s.core c
  match k.refuses m.chan with
  | some r => s.refuseMsg c m r window
  | none =>
    match s.ringWrite c m.bytes with
    | none => s.refuseMsg c m 0 window
    | some (off, s) =>
      let s := s.modCore c fun k => { k with msgPlaced := satN 64 (k.msgPlaced + 1) }
      let s := if m.kind = 3 then s else s.releaseSlot k.asidN m.slc
      let s := if (s.launchOf c).deterministic && k.chanOpen m.chan then
        s.modCore c fun k => { k with det := { k.det with owed := k.det.owed ++ [off] } } else s
      s.queueItem c m.chan (.msg m.chan off m.len)

/-- A refusal reaches the sender core: it takes its slot and waits for channel 255, or becomes a notice (R181). -/
def State.acceptRefusal (s : State) (c : Nat) (r : RefusalMsg) : State :=
  let s := s.modCore c fun k => { k with refOut := k.refOut - 1 }
  let k := s.core c
  if !k.chanV 255 then s.noticeOf c .sendovf (wfield r.hdr0 0 48)
  else match tfree k.refusals 256 with
    | some i =>
      let owed := fun (d : Det) => { d with owedRef := if k.chanOpen 255 then i :: d.owedRef.filter (· ≠ i) else d.owedRef.filter (· ≠ i) }
      (s.modCore c fun k => { k with refusals := tput k.refusals i r, det := owed k.det }).queueItem c 255 (.refusal i)
    | none => s

/-- A channel opens between two closes of a deterministic launch: the messages that the next close waits for, and the refusals that came while it was open,
may be dispatched; the others stay until the next close (R173, R184). -/
def Core.resortOwed (k : Core) (chan : Nat) : Core :=
  if !k.chanOpen chan then k.resort chan
  else
    let mine := fun (e : ReadyEntry) => match e.item with
      | .msg c hdr _ => c == chan && k.det.owed.contains hdr
      | .refusal i => chan == 255 && k.det.owedRef.contains i
      | _ => false
    let come := k.heldMsgs.filter mine
    { k with ready := k.ready ++ come, heldMsgs := k.heldMsgs.filter fun e => !mine e, queued := k.queued + come.length }

/-- What a change of a channel's entry does to the messages that wait on it (R173, R184, R269). -/
def State.resortChan (s : State) (c chan : Nat) : State :=
  let det := (s.launchOf c).deterministic
  s.modCore c fun k => if det then k.resortOwed chan else k.resort chan

/-- CHBLK or CHUNBLK applied at a core (R272). -/
def State.applyBlk (s : State) (c chan : Nat) (b : Bool) : State := (s.modCore c fun k => k.setBlk chan b).resortChan c chan

/-! ## Sending -/

/-- Does a message take room in the park region (R185)? The requests that are carried like messages do not. -/
def Msg.parks (m : Msg) : Bool := m.kind == 0 || m.kind == 3

/-- Bytes of the park region in use (R185): of messages that are parked, or on their way to be. -/
def State.parkedBytes (s : State) (asid : Nat) : Nat :=
  s.cores.foldl (fun n p =>
    if p.2.asid = some asid then (p.2.det.parked ++ p.2.inbound).foldl (fun n m => if m.parks then n + m.len else n) n else n) 0

/-- A message of a deterministic launch finds no room in the park region, or one of its core before it has found none (R185). -/
def State.parkFull (s : State) (c : Nat) (m : Msg) : Bool :=
  let k := s.core c
  (s.launchOf c).deterministic && m.parks && (!k.det.waiting.isEmpty || decide ((s.launchOf c).parkSize < s.parkedBytes k.asidN + m.len))

/-- A message is on its way to its target, or waits at its sender for room in the park region (R185). -/
def State.depart (s : State) (c : Nat) (m : Msg) : State :=
  if s.parkFull c m then s.modCore c fun k => { k with det := { k.det with waiting := k.det.waiting ++ [m] } }
  else s.modCore m.target fun k => { k with inbound := k.inbound ++ [m] }

/-- A message leaves a core (R175, R266): its SEQ, and the refusal slot it holds. -/
def State.leave (s : State) (c : Nat) (m : Msg) (slot : Bool) : State :=
  let k := s.core c
  let m := { m with seq := k.sendSeq }
  (s.modCore c fun k => { k with sendSeq := (k.sendSeq + 1) % 2 ^ 32, refOut := if slot then k.refOut + 1 else k.refOut }).depart c m

/-- Room has been released: the messages that wait for it leave, the cores in ascending order, each core's in the order in which they were sent (R185
names no order of the cores: log 87, DESIGN CHOICE). -/
def State.releasePark (s : State) (asid : Nat) : State :=
  (s.launchCores asid).foldl (fun s c =>
    let ws := (s.core c).det.waiting
    if ws.isEmpty then s else ws.foldl (fun s m => s.depart c m) (s.modCore c fun k => { k with det := { k.det with waiting := [] } })) s

/-- Each sender's park quota for a window (R185). -/
def Launch.quota (l : Launch) : Nat := l.parkSize / max 1 l.lcores.length / 16 * 16

/-- Would a message of n bytes bring its core's count for a window past the quota (R185)? -/
def State.overQuota (s : State) (c window n : Nat) : Bool :=
  (s.launchOf c).deterministic && decide ((s.launchOf c).quota < tgetD (s.core c).det.quota window 0 + n)

/-- A message counts against its core's quota for its window (R185). -/
def State.countQuota (s : State) (c : Nat) (m : Msg) : State :=
  if (s.launchOf c).deterministic then
    s.modCore c fun k => { k with det := { k.det with quota := tput k.det.quota m.window (tgetD k.det.quota m.window 0 + m.len) } }
  else s

/-- The window of a core's current quantum (R184). -/
def State.curWindow (s : State) (c : Nat) : Nat := (s.core c).det.quantum / max 1 (wfield (s.launchOf c).qwin 32 8)

/-- A cause of a unit on thread t of core c is routed as a message to the core's own ring (R271): none where no route names an open channel
or the message cannot be placed. In a deterministic launch it is parked with the window like any message (R185): one past the quota of its core cannot be
placed (log 87, DEDUCED). `dest` is the destination of a DDFULL's instruction. -/
def State.routeCause (s : State) (c t : Nat) (cause : Cause) (addr : Word) (dest : Reg := 0) : Option State :=
  let k := s.core c
  let x := s.ctx c t
  match (if cause = .ddfull then k.routeDdfull else k.routeDlmiss) with
  | none => none
  | some chan =>
    if !k.chanV chan then none
    else
      let m : Msg :=
        { kind := 3, chan := chan, stid := x.tid, seq := k.sendSeq, slc := k.lcore
          payload := leBytes 8 cause.code ++ leBytes 8 addr.toNat
          fromCore := c, fromThread := t, fromUid := x.uid, target := c, window := s.curWindow c, dest := dest }
      if (s.launchOf c).deterministic then
        (if s.overQuota c m.window m.len then none else some ((s.countQuota c m).leave c m false))
      else if (k.refuses chan).isSome ∨ (s.ringWrite c m.bytes).isNone then none
      else some ((s.modCore c fun k => { k with sendSeq := (k.sendSeq + 1) % 2 ^ 32 }).acceptMsg c m 0)

end Sys2Proof.Machine
end

