-- ==== Sys2Proof/Machine/Fetch.lean ====
section
/-! DEFINITION. The fetch of the issuing thread's instruction (R40, R187, R205), the stops that fall due at its boundary in the order of
R396, and fetch breakpoints (R416). -/

namespace Sys2Proof.Machine

/-- Takes the stop that is due at the boundary of a thread's unit, if any: the pending causes in R396's order, then a deschedule request (R407). The
causes not taken stay pending until the unit has run again. A DLMISS may be routed to the unit's channel here (R129, R271). -/
def State.boundaryOf (s : State) (c t : Nat) : Option State :=
  let x := s.ctx c t
  match argMin pendRank x.stopsDue with
  | some p =>
    let s := s.modCtx c t fun x => x.took p
    match (if p.cause = .dlmiss ∧ !p.noRoute then s.routeCause c t .dlmiss x.pc else none) with
    | some s => some s
    | none => some (s.takeStop c t 0 (some p.cause) p.det)
  | none => if x.desched then some ((s.modCtx c t fun x => { x with desched := false }).takeStop c t 3 none {}) else none

/-- The stop at the issuing unit's boundary. An access that goes on after a hold has passed its boundary (R44). -/
def State.boundary (s : State) : Option State := if s.cur.redo.isSome then none else s.boundaryOf s.curCore s.curThread.val

/-- What the fetch of the issuing thread gives: nothing issues; the state after a stop or a hold; or the word, and the state after the reads. -/
inductive Fetched where
  | idle
  | stop (s : State)
  | word (w : BitVec 32) (s : State)
deriving DecidableEq, Repr

/-- The state after a fetch that read its word at a key: weak table entries and data are corrected (R72). -/
def State.fetched (s : State) (k : Nat) : State :=
  (s.correctWalk (s.transOf (s.agent s.curCore) (wfield s.cur.pc 0 48))).correct k 4

/-- A fetch that gives no word: a stop due at the boundary comes before it (R396); a fetch that is held goes on being held. -/
def State.fetchStop (s : State) (f : State → State) : Fetched :=
  match s.boundary with
  | some s' => .stop s'
  | none => if s.cur.wait = .held then .idle else .stop (f s)

/-- The fetch: conditions 1 to 9 of R40, and R73 for the data. Conditions 3 and 4 come before the stops of the boundary, and every other one
after them (R396). An access that goes on after a hold keeps its instruction's word (R44). -/
def State.fetch (s : State) : Fetched :=
  let pc := s.cur.pc
  if !s.issuable s.curCore s.curThread.val then .idle
  else match s.cur.redo with
    | some r => .word r.word s
    | none =>
      match s.check (s.agent s.curCore) .fetch 1 4 pc with
      | .error (.cause c d) => if c = .fetchalign ∨ c = .fetchfault then .stop (s.trap c d) else s.fetchStop fun s => (s.noteEcc c d).trap c d
      | .error (.held sp peer addr reason c) => s.fetchStop fun s => s.holdCur .fetch pc sp peer addr reason c
      | .error .busy | .error (.turn _ _) => s.fetchStop id
      | .ok (.mem k) =>
        match s.badIn k 4 with
        | some g => s.fetchStop fun s => (s.logRange k 4).trap .eccunc { d0 := BitVec.ofNat 64 g }
        | none => if s.cur.wait = .held then s.fetchStop id else .word (BitVec.ofNat 32 (s.readLe k 4)) (s.fetched k)
      | .ok _ => .stop (s.trap .fetchfault { d0 := pc })

/-- Does an armed unit of the debug block match the unit, with a kind and an address predicate (R416)? -/
def State.bpMatch (s : State) (kind : Nat → Bool) (addr : Word → Bool) : Bool :=
  let g := (s.part s.curK.asidN).dbg
  let x := s.cur
  s.curThread.val < 4 && !x.brkPass && (upTo 8).any fun n =>
    let ctl := vget g.bpCtl n 0
    wfield ctl 63 1 == 1 && kind (wfield ctl 61 2) && (wfield ctl 0 48 == x.tid || wfield ctl 0 48 == 2 ^ 48 - 1) && addr (vget g.bpAddr n 0)

/-- A fetch breakpoint on the instruction at the program counter. -/
def State.bpFetch (s : State) : Bool := s.cur.redo.isNone && s.bpMatch (· == 0) (· == s.cur.pc)

/-- A data breakpoint on a scalar access of n bytes: `ld` and `st` say which kinds of access it is (R416). -/
def State.bpData (s : State) (ld st : Bool) (ea : Word) (n : Nat) : Bool :=
  s.bpMatch (fun k => (k == 1 && ld) || (k == 2 && st) || (k == 3 && (ld || st))) fun a => decide ((a - ea).toNat < n)

end Sys2Proof.Machine
end

