-- ==== Sys2Proof/Machine/Shape.lean ====
section
/-! DEFINITION. Shape records (R286 to R292): their fields, the checks of R291, and where an element lies. -/

namespace Sys2Proof.Machine

/-- A shape record (R286). -/
structure Shape where
  etype : Nat
  loc : Nat
  ver : Nat
  vreg : Nat
  opx : Nat
  /-- A reserved field is not zero. -/
  rsv : Bool
  ext : Vector Nat 4
  sd : Vector Int 4
  base : Word
deriving DecidableEq, Repr

/-- The record in 64 bytes. -/
def Shape.of (r : BitVec 512) : Shape :=
  let v := r.toNat
  { etype := fieldOf v 256 4, loc := fieldOf v 268 2, ver := fieldOf v 264 4, vreg := fieldOf v 272 6, opx := fieldOf v 304 16
    rsv := fieldOf v 320 192 != 0 || fieldOf v 278 26 != 0 || fieldOf v 270 2 != 0 || fieldOf v 260 4 != 0
    ext := Vector.ofFn fun i => fieldOf v (64 + 16 * i.val) 16 + 1
    sd := Vector.ofFn fun i => toSigned 32 (fieldOf v (128 + 32 * i.val) 32)
    base := BitVec.ofNat 64 v }

/-- BIT1 (R286). -/
def etBit1 : Nat := 0xC

/-- Width of an element type in bits: the codes of R136 and BIT1; 0 for a reserved code. -/
def elemBits (et : Nat) : Nat := if et = etBit1 then 1 else (etypeBits et).getD 0

def Shape.w (r : Shape) : Nat := elemBits r.etype

def Shape.e (r : Shape) (i : Nat) : Nat := vget r.ext i 1

def Shape.s (r : Shape) (i : Nat) : Int := vget r.sd i 0

/-- Number of elements. -/
def Shape.count (r : Shape) : Nat := r.e 0 * r.e 1 * r.e 2 * r.e 3

/-- Bytes of the packed stream of a LOC 1 or LOC 2 record. -/
def Shape.stream (r : Shape) : Nat := ceilDiv (r.count * r.w) 8

/-- G of a v-register specifier (R192). -/
def Shape.gang (r : Shape) : Nat := if r.loc = 1 then r.vreg / 16 else 0

/-- The index of the n-th element in iteration order. -/
def Shape.index (r : Shape) (n : Nat) : List Nat :=
  [n % r.e 0, n / r.e 0 % r.e 1, n / (r.e 0 * r.e 1) % r.e 2, n / (r.e 0 * r.e 1 * r.e 2)]

/-- The index of a source element after broadcast: 0 in a dimension of extent 1 (R291). -/
def Shape.bcast (r : Shape) (idx : List Nat) : List Nat := (upTo 4).map fun i => if r.e i = 1 then 0 else nth 0 idx i

/-- The linear number of an index. -/
def Shape.linear (r : Shape) (idx : List Nat) : Nat := nth 0 idx 0 + r.e 0 * (nth 0 idx 1 + r.e 1 * (nth 0 idx 2 + r.e 2 * nth 0 idx 3))

/-- Where an element of a LOC 0 record lies (R287): its first byte, its first bit in it, and the bytes it touches. -/
def Shape.elem (r : Shape) (idx : List Nat) : Word × Nat × Nat :=
  let line := r.base.toNat + ((nth 0 idx 1 : Nat) : Int) * r.s 1 + ((nth 0 idx 2 : Nat) : Int) * r.s 2 + ((nth 0 idx 3 : Nat) : Int) * r.s 3
  if 8 ≤ r.w then
    (BitVec.ofInt 64 (line + ((nth 0 idx 0 : Nat) : Int) * (if r.s 0 = 0 then ((r.w / 8 : Nat) : Int) else r.s 0)), 0, r.w / 8)
  else
    let bit := nth 0 idx 0 * r.w
    (BitVec.ofInt 64 (line + (bit / 8 : Nat)), bit % 8, (bit % 8 + r.w + 7) / 8)

/-- The alignment an element access needs (R40). -/
def Shape.align (r : Shape) : Nat := if 8 ≤ r.w then r.w / 8 else 1

/-- The footprint of a LOC 0 operand from its lowest to its highest byte (R294, R95): its first byte's address and its length. -/
def Shape.footprint (r : Shape) : Int × Nat :=
  let row : Int := if 8 ≤ r.w then (if r.s 0 = 0 then ((r.w / 8 : Nat) : Int) else r.s 0) else 0
  let ds := [row, r.s 1, r.s 2, r.s 3]
  let spans := (upTo 4).map fun i => ((r.e i : Int) - 1) * nth 0 ds i
  let lo := spans.foldl (fun a d => a + min 0 d) (r.base.toNat : Int)
  let hi := spans.foldl (fun a d => a + max 0 d) (r.base.toNat : Int)
  let last : Nat := if 8 ≤ r.w then r.w / 8 else ceilDiv (r.e 0 * r.w) 8
  (lo, (hi - lo).toNat + last)

/-- Do the operand's footprint in space 0x0 and the bytes [off, off + n) meet (R294)? -/
def Shape.meets (r : Shape) (off n : Nat) : Bool :=
  r.loc == 0 && wfield r.base 60 4 == 0 &&
    (let f := r.footprint
     decide (f.1 < (off + n : Int)) && decide ((off : Int) < f.1 + f.2))

/-! ## Reduction descriptors -/

/-- A reduction descriptor (R345). -/
structure Baddq where
  rsv : Bool
  /-- Elements per block, minus 1. -/
  n : Nat
  shd : Bool
  outen : Bool
  clr : Bool
  osc : Bool
  isc : Bool
  otype : Nat
  itype : Nat
  oscl : Word
  out : Word
  iscl : Word
  inp : Word
  acc : Nat
deriving DecidableEq, Repr

/-- The descriptor in 64 bytes. -/
def Baddq.of (r : BitVec 512) : Baddq :=
  let v := r.toNat
  let b := fun i => fieldOf v i 1 == 1
  let w := fun i => BitVec.ofNat 64 (fieldOf v i 64)
  { rsv := fieldOf v 352 160 != 0 || fieldOf v 333 7 != 0 || fieldOf v 17 47 != 0
    n := fieldOf v 340 12, shd := b 332, outen := b 331, clr := b 330, osc := b 329, isc := b 328
    otype := fieldOf v 324 4, itype := fieldOf v 320 4, oscl := w 256, out := w 192, iscl := w 128, inp := w 64, acc := fieldOf v 0 17 }

/-- First byte and length of the block's elements of a type from element e0 of a packed stream at a base (R215, R345). -/
def blockRange (base : Word) (et e0 n : Nat) : Word × Nat :=
  let w := elemBits et
  let lo := e0 * w / 8
  (base + BitVec.ofNat 64 lo, ((e0 + n) * w + w + 7) / 8 - lo)

/-- First byte and length of its scales. -/
def scaleRange (base : Word) (e0 n : Nat) : Word × Nat := (base + BitVec.ofNat 64 (e0 / 32), (e0 + n) / 32 - e0 / 32 + 1)

/-- e0 := x[B] * N (R345). -/
def Baddq.e0 (d : Baddq) (x : Word) : Nat := (x * BitVec.ofNat 64 d.n).toNat

/-- The ranges a reduction writes outside ACC. -/
def Baddq.outs (d : Baddq) (e0 : Nat) : List (Word × Nat) :=
  if d.outen then blockRange d.out d.otype e0 d.n :: (if d.osc then [scaleRange d.oscl e0 d.n] else []) else []

/-- The ranges of a reduction (R347): each with whether it is written. -/
def Baddq.ranges (d : Baddq) (e0 : Nat) : List (Word × Nat × Bool) :=
  let inr := blockRange d.inp d.itype e0 d.n
  let scr := if d.isc then [scaleRange d.iscl e0 d.n] else []
  (BitVec.ofNat 64 d.acc, 8 * (d.n + 1), true) :: ((inr :: scr).map fun p => (p.1, p.2, false)) ++ ((d.outs e0).map fun p => (p.1, p.2, true))

/-- The TOP under which a BADDQ stands in its vector queue. -/
def baddqTop : Nat := 0x100

/-! ## Checks -/

/-- Step 2 of R291. -/
def Shape.reserved (r : Shape) : Bool := r.ver != 1 || r.rsv

/-- Step 3 of R291 but for the role's types and OPX: LOC, ETYPE, SD0, the rules of R288 and R289, a fabric destination's LCORE. -/
def Shape.badLoc (r : Shape) (dest : Bool) (lcore : Nat → Bool) : Bool :=
  r.loc == 3 || r.w == 0 || (decide (r.w < 8) && r.s 0 != 0) || (r.loc != 1 && r.vreg != 0) ||
  (r.loc != 0 && ((upTo 4).any fun i => r.s i != 0)) ||
  (r.loc == 1 && (r.base != 0 || decide ((16 - r.vreg % 16) * 256 < r.stream))) ||
  (r.loc == 2 && (wfield r.base 19 45 != 0 || (if dest then !lcore (wfield r.base 0 16) else wfield r.base 0 16 != 0)))

/-- Do a source's extents agree with the destination's (R291)? -/
def Shape.agrees (r d : Shape) : Bool := (upTo 4).all fun i => r.e i == d.e i || r.e i == 1

/-- The arithmetic types (R292). -/
def isArith (et : Nat) : Bool := et = 0xB || et = 0 || et = 1 || et = 2 || et = 9 || et = 8

/-- The special functions' types (R292). -/
def isSfuType (et : Nat) : Bool := et = 0 || et = 1 || et = 2

/-- What an operation asks of its records: the types of the sources and the destination, the destination's OPX, and whether the extents
agree (R291, R292). -/
structure Role where
  types : List Nat → Nat → Bool
  opx : Nat → Bool
  extents : List Shape → Shape → Bool

/-- The roles of R292 by TOP (R203). -/
def roleOf (top : Nat) : Role :=
  let same := fun (ok : Nat → Bool) (ss : List Nat) (d : Nat) => ss.all fun t => ok t && t == d
  let agree := fun (ss : List Shape) (d : Shape) => ss.all fun r => r.agrees d
  if top = 0x49 then { types := fun ss d => d == etBit1 && (match ss with | [a, b] => isArith a && a == b | _ => false), opx := fun o => decide (o < 4), extents := agree }
  else if top = 0x48 then
    { types := same isArith, opx := fun o => decide (o < 3)
      extents := fun ss d => d.e 0 == 1 && ss.all fun r => [1, 2, 3].all fun i => r.e i == d.e i }
  else if top = 0x47 then { types := fun _ d => decide (d ≤ 0xB), opx := (· == 0), extents := agree }
  else if top = 0x4A then { types := same fun _ => true, opx := (· == 0), extents := agree }
  else if top = 0x71 then
    { types := fun ss d => (ss.take 2).all (· == d) && (ss.drop 2).all (· == etBit1), opx := (· == 0), extents := agree }
  else if top = 0x4B then
    { types := fun ss d => match ss with | [a, b] => a == d && b == 9 | _ => false, opx := (· == 0)
      extents := fun ss d =>
        match ss with
        | [a, b] => b.agrees d && [1, 2, 3].all fun i => a.e i == d.e i || a.e i == 1
        | _ => false }
  else if 0x60 ≤ top ∧ top < 0x70 then { types := same isSfuType, opx := (· == 0), extents := agree }
  else { types := same isArith, opx := (· == 0), extents := agree }

/-- Steps 2 to 5 of R291 on records in the order D, A, B, C: the first condition that holds, with the record it holds for. -/
def shapeCheck (role : Role) (gang : Bool) (lcore : Nat → Bool) (d : Nat × Shape) (srcs : List (Nat × Shape)) : Option (Cause × Detail) :=
  let at_ := fun (p : Nat × Shape) => ({ d0 := BitVec.ofNat 64 p.1 } : Detail)
  match (d :: srcs).find? fun p => p.2.reserved with
  | some _ => some (.rsvfld, {})
  | none =>
    match (if d.2.badLoc true lcore then some d else srcs.find? fun p => p.2.badLoc false lcore || p.2.opx != 0) with
    | some p => some (.shapebad, at_ p)
    | none =>
      if !role.types (srcs.map fun p => p.2.etype) d.2.etype || !role.opx d.2.opx || !role.extents (srcs.map (·.2)) d.2 then some (.shapebad, at_ d)
      else if !gang && (d :: srcs).any fun p => p.2.gang != 0 then some (.gangbad, {})
      else none

end Sys2Proof.Machine
end

