-- ==== Sys2Proof/Machine/Access.lean ====
section
/-! DEFINITION. A scalar access of a thread: the checks of R40, the cell's buffer (R156), data breakpoints (R416), the watermark stall
(R97), and uncorrectable errors (R73). -/

namespace Sys2Proof.Machine

/-- An address as the storage it names: the private alias and the global name of a scratchpad become the place of the core that now holds it, so that
two names of a byte are one place, after a migration too (R20, R25). -/
def State.placeOf (s : State) (c : Nat) (va : Word) : Nat :=
  if wfield va 60 4 = 0 then scratchKey c va.toNat
  else if wfield va 60 4 = 1 then scratchKey (s.holderOf (coreAt (wfield va 32 2) (wfield va 26 6) (wfield va 21 5))) (wfield va 0 17)
  else va.toNat

/-- Must an access of n bytes by core c wait for one of its watermarks (R97)? The copy that channel `own` belongs to does not wait for it. -/
def State.wmBlocked (s : State) (c : Nat) (own : Option Nat) (va : Word) (n : Nat) : Bool :=
  (upTo 8).any fun i =>
    let w := vget (s.core c).wmarks i Wmark.reset
    own != some i && w.busy && decide (w.w.toNat < w.limit) &&
      (let lo := max w.base w.w.toNat
       overlap (s.placeOf c va) n (s.placeOf c (BitVec.ofNat 64 lo)) (w.limit - lo))

/-- Must an access of n bytes through space 0x0 wait for a vector instruction of its thread (R294): a load for one that writes its bytes, a store
for one that reads or writes them? -/
def Cmd.blocksAlias (q : Cmd) (write : Bool) (va : Word) (n : Nat) : Bool :=
  if q.top = baddqTop then
    let d := Baddq.of q.ra
    (d.ranges (d.e0 q.aux)).any fun r => (write || r.2.2) && wfield r.1 60 4 == 0 && overlap r.1.toNat r.2.1 va.toNat n
  else
    let touches := fun (r : BitVec 512) => (Shape.of r).ver != 0 && (Shape.of r).meets va.toNat n
    touches q.rc || (write && (touches q.ra || touches q.rb || touches q.rx))

/-- The vector instructions in a thread's queue, those that ended units left there among them (R293). -/
def Thread.vectors (th : Thread) : List Cmd := th.past ++ th.ctx.vq

/-- Must the issuing thread's access wait for what it issued before a migration (R102), for a watermark (R97) or for its vector queue (R294)? -/
def State.interlocked (s : State) (write : Bool) (va : Word) (n : Nat) : Bool :=
  s.moveWait s.cur || s.wmBlocked s.curCore none va n ||
  (wfield va 60 4 == 0 && (s.thr s.curCore s.curThread.val).vectors.any fun q => q.blocksAlias write va n)

/-- What the issuing thread's access reaches: a cell read resolves through the current snapshot (R156). -/
def State.reachNew (s : State) (kind : AccKind) (align n : Nat) (va : Word) : Except Miss Hit :=
  match s.check (s.agent s.curCore) kind align n va with
  | .ok h => s.resolveCell (s.agent s.curCore) kind n (s.readGen s.curCore s.cur) h
  | .error m => .error m

/-- What an access reaches. One that goes on after a hold starts again from condition 9: its translation is tried again, and nothing before it (R44). -/
def State.reach (s : State) (kind : AccKind) (align n : Nat) (va : Word) : Except Miss Hit :=
  match s.cur.redo with
  | some r =>
    if r.va = va ∧ (wfield va 60 4 = 4 ∨ wfield va 60 4 = 6) then
      match s.translate (s.agent s.curCore) kind r.addr with
      | .ok pa => .ok (.mem (hbmKey pa))
      | .error m => .error m
    else if r.va = va ∧ wfield va 60 4 = 5 then .ok (.remote (wfield va 48 8) (wfield va 0 48))
    else s.reachNew kind align n va
  | none => s.reachNew kind align n va

/-- The translation that an access used may now be cached (R32). -/
def State.touchTlb (s : State) (c : Nat) (va : Word) : State :=
  if wfield va 60 4 = 4 then s.cacheWalk c (s.core c).asidN (wfield va 0 48) else s

/-- Does an address name a core's own coordinates in space 0x1 (R58)? -/
def ownAt (c : Nat) (va : Word) : Bool := wfield va 60 4 == 1 && !isGateway c && coreAt (wfield va 32 2) (wfield va 26 6) (wfield va 21 5) == c

/-- Does it name those of the issuing core? -/
def State.ownName (s : State) (va : Word) : Bool := ownAt s.curCore va

/-- An uncorrectable error met by the issuing instruction's access to [k, k + n) (R73). -/
def State.eccTrap (s : State) (g k n : Nat) : Res := .trap .eccunc { d0 := BitVec.ofNat 64 g } (s.logRange k n)

/-- Key of the byte that a scalar access names in a scratchpad that is being streamed to another core. -/
def State.streamKey (s : State) (va : Word) : Option Nat :=
  let k := scratchKey (s.holderOf (coreAt (wfield va 32 2) (wfield va 26 6) (wfield va 21 5))) (wfield va 0 17)
  if wfield va 60 4 = 1 ∧ s.streaming k then some k else none

/-- What a scalar access reaches: one to a scratchpad that is being streamed goes there and waits (R25, R408). -/
def State.reachScalar (s : State) (kind : AccKind) (align n : Nat) (va : Word) : Except Miss Hit :=
  match s.reach kind align n va with
  | .error .busy => (match s.streamKey va with | some k => .ok (.mem k) | none => .error .busy)
  | r => r

/-- A scalar access that reaches memory, a register of the system window or a peer, in its place behind the unit's earlier accesses (R80, R82). -/
def scalarAccess (kind : AccKind) (ld st : Bool) (align n : Nat) (va : Word) (go : Hit → State → Res) (s : State) : Res :=
  match s.reachScalar kind align n va with
  | .error m => m.res kind va s
  | .ok h =>
    if s.bpData ld st va n then .trap .bkpt {} s
    else if s.interlocked kind.writes va n || s.mustFollow s.cur.uid st va n h then .stay s
    else go h (s.touchTlb s.curCore va)

/-- The port of a peer's group by which an access leaves (R67): a hash of PEER and of bits [47:16] of the address picks it. -/
def State.portOf (s : State) (asid : Nat) (va : Word) : Nat :=
  let peer := wfield va 48 8
  let ports := ((tget (s.part asid).launch.peers peer).map (·.ports)).getD 0
  let group := (upTo 16).filter fun p => fieldOf ports p 1 == 1
  nth 0 group (Config.portHash peer (wfield va 16 32) % max 1 group.length)

/-- A scalar access to space 0x5 leaves for the peer (R35, R67). -/
def State.postRemote (s : State) (r : RemoteReq) : State :=
  let c := s.curCore
  let asid := s.curK.asidN
  let q : RemoteReq := { r with id := s.pkg.nextRemote, asid := asid, uid := s.cur.uid, core := c, thread := s.curThread.val, port := s.portOf asid r.va }
  s.modPkg fun p => { p with remotes := p.remotes ++ [q], nextRemote := p.nextRemote + 1 }

/-- The thread waits for the answer of the access that has just left (R35). -/
def State.sendRemote (s : State) (r : RemoteReq) : State := (s.postRemote r).modCur fun x => { x with wait := .remote s.pkg.nextRemote }

/-- A remote request with the fields of a load or a store. -/
def remoteReq (write fp signed : Bool) (va : Word) (n : Nat) (dest : Reg) (value : Word) : RemoteReq :=
  { id := 0, asid := 0, uid := 0, core := 0, thread := 0, port := 0, write := write, fp := fp, va := va, size := n, signed := signed, dest := dest,
    value := value, timed := none, copy := none, mask := 0xFFFFFFFFFFFFFFFF, held := false }

/-- A store of a line or less beyond one register at a key by the issuing thread: by the loopback port (R58), forwarded to the ATE that holds the line
(R69), or now. -/
def State.wideStore (s : State) (va : Word) (k : Nat) (bs : List Byte) : State :=
  let rank := ateRank s.curCore s.curThread.val
  let own := if s.ownName va then some s.curCore else none
  if own.isSome || s.lineHeld k then s.sendPut rank s.cur.uid threadSeq k bs.length (leNat bs) (2 ^ (8 * bs.length) - 1) own else s.writeBytes k bs

/-- What piece i of a wide read reaches, 16 bytes that cross no page; one that goes on after a hold starts again from condition 9 (R44). -/
def State.widePiece (s : State) (va : Word) (i : Nat) : Except Miss Hit :=
  match s.cur.redo with
  | some r => (s.translate (s.agent s.curCore) .load (r.addr + 16 * i)).map fun pa => .mem (hbmKey pa)
  | none => s.reachNew .load 16 16 (va + BitVec.ofNat 64 (16 * i))

/-- The keys of the first pieces of a wide read, in order, or the miss of the first that has one, with its number. -/
def State.wideKeys (s : State) (va : Word) : Nat → Except (Miss × Nat) (List Nat)
  | 0 => .ok []
  | i + 1 =>
    match s.wideKeys va i with
    | .error m => .error m
    | .ok l =>
      match s.widePiece va i with
      | .ok (.mem k) => .ok (l ++ [k])
      | .ok _ => .ok l
      | .error m => .error (m, i)

/-- A wide read is held at piece i: it goes on from the address that its first byte has in the space of the translation. -/
def holdWide (m : Miss) (va : Word) (i : Nat) (s : State) : Res :=
  match m.res .load va s with
  | .stay s => .stay (if i = 0 then s else s.modCur fun x => { x with redo := x.redo.map fun r => { r with addr := r.addr - 16 * i } })
  | r => r

/-- What the whole of a wide read reaches; one that goes on after a hold has passed its checks, and asks a peer again (R36, R44). -/
def State.wideReach (s : State) (align n : Nat) (va : Word) : Except Miss Hit :=
  if s.cur.redo.isSome then .ok (if wfield va 60 4 = 5 then .remote (wfield va 48 8) (wfield va 0 48) else .mem 0) else s.reachNew .load align n va

/-- A read of n bytes, a multiple of 16, as one load aligned to `align`, by an instruction that then goes on with them (R260, R278). Each page it touches
is translated. A read of a peer's memory holds the thread until its bytes return; the instruction then issues again and takes them. -/
def wideLoad (align n : Nat) (va : Word) (go : List Byte → State → Res) (s : State) : Res :=
  if !s.cur.wide.isEmpty then go s.cur.wide (s.modCur fun x => { x with wide := [] })
  else
    match s.wideReach align n va with
    | .error m => m.res .load va s
    | .ok (.window _) => go (List.replicate n 0) s
    | .ok (.remote p q) => if s.mustFollow s.cur.uid false va n (.remote p q) then .stay s else .stay (s.sendRemote (remoteReq false false false va n 0 0))
    | .ok _ =>
      match s.wideKeys va (n / 16) with
      | .error (m, i) => holdWide m va i s
      | .ok ks =>
        let own := s.ownName va
        if s.interlocked false va n || s.amoOut s.cur.uid || ks.any fun k => s.meetsOut s.cur.uid k 16 then .stay s
        else match ks.find? fun k => s.turnWait s.cur.uid threadSeq k own with
          | some k => (Miss.turn k own).res .load va s
          | none =>
            let s := s.touchTlb s.curCore va
            match ks.findSome? fun k => s.badIn k 16 with
            | some g => .trap .eccunc { d0 := BitVec.ofNat 64 g } (ks.foldl (fun s k => s.logRange k 16) s)
            | none =>
              go (ks.flatMap fun k => (upTo 16).map fun i => s.seenByte s.cur.uid threadSeq (k + i))
                ((ks.foldl (fun s k => s.correct k 16) s).dropTurns s.cur.uid threadSeq)

end Sys2Proof.Machine
end

