-- ==== Sys2Proof/Machine/SysWin.lean ====
section
/-! DEFINITION. The registers of the system window (R38, R39): what each 8-byte word reads as, and what a store to it does. Region 0x3 is
device memory and is not here. -/

namespace Sys2Proof.Machine

/-! ## Reading -/

/-- A snapshot's handle (R281); an open snapshot that has not bound has none. -/
def Snap.handle (slot : Nat) (o : Option Snap) : Word :=
  match o with
  | some n => match n.gen with | some g => pack [(63, 1, 1), (48, 2, slot), (0, 48, g)] | none => 0
  | none => 0

/-- The 128 bits of an in-flight entry (R420). -/
def InFlight.bits (o : InFlight) : Nat :=
  packNat [(64, 64, o.addr.toNat), (48, 16, o.seq), (32, 16, o.hid), (26, 6, o.token.toNat), (20, 6, if o.state = 3 then (o.cause.map Cause.code).getD 0 else 0),
    (5, 3, o.kind), (4, 1, b2n o.late), (0, 2, o.state)]

/-- Word w of the in-flight table (R420). -/
def Ctx.opWord (x : Ctx) (w : Nat) : Word :=
  let live := (x.ops.filter fun o => o.state < 2).length
  if w = 0 then pack [(48, 16, satN 16 live), (0, 1, b2n (decide (127 < live)))]
  else match x.ops[w / 2 - 1]? with
    | some o => if 2 ≤ w then BitVec.ofNat 64 (fieldOf o.bits (64 * (w % 2)) 64) else 0
    | none => 0

/-- FEBITS (R400). -/
def Ctx.febits (x : Ctx) : Word := pack ((upTo 64).map fun i => (i, 1, b2n (vget x.full i true)))

/-- Eight bytes of the v registers. -/
def Ctx.vWord (x : Ctx) (o : Nat) : Word := BitVec.ofNat 64 (leNat ((upTo 8).map fun i => tgetD x.v (o + i) 0))

/-- The word at offset o of a slot's window (R400). -/
def Slot.word (sl : Slot) (o : Nat) : Word :=
  let x := sl.ctx
  if o = 0x000 then pack [(63, 1, 1), (60, 3, sl.kind), (59, 1, b2n sl.more), (48, 6, sl.cause), (0, 48, x.tid)]
  else if o = 0x008 then x.pc
  else if o = 0x010 then x.w1
  else if o = 0x018 then x.w2
  else if o = 0x020 then sl.det.d0
  else if o = 0x028 then sl.det.d1
  else if o = 0x030 then sl.det.d2
  else if o = 0x038 then sl.det.d3
  else if o = 0x040 then pack [(48, 16, sl.lcore), (20, 3, sl.thread), (0, 18, (coordWord sl.core).toNat)]
  else if o = 0x048 then x.febits
  else if o = 0x050 then x.fctl
  else if o = 0x058 then x.warn
  else if o = 0x060 then x.apxctl
  else if o = 0x068 then x.dlmode
  else if o = 0x070 then pack [(48, 16, x.tmpl.toNat), (0, 1, b2n x.perm)]
  else if 0x080 ≤ o ∧ o < 0x0A0 then Snap.handle ((o - 0x080) / 8) (vget x.snaps ((o - 0x080) / 8) none)
  else if 0x0A0 ≤ o ∧ o < 0x0C0 then
    match x.watches[(o - 0x0A0) / 8]? with
    | some w => pack [(63, 1, 1), (32, 6, w.reg.toNat), (0, 17, w.off)]
    | none => 0
  else if 0x100 ≤ o ∧ o < 0x300 then x.xr (BitVec.ofNat 6 ((o - 0x100) / 8))
  else if 0x300 ≤ o ∧ o < 0x400 then vget x.f ((o - 0x300) / 8) 0
  else if 0x400 ≤ o ∧ o < 0x420 then pack ((upTo 4).map fun i => (16 * i, 16, (vget x.m ((o - 0x400) / 2 + i) 0).toNat))
  else if 0x800 ≤ o ∧ o < 0x1000 then x.opWord ((o - 0x800) / 8)
  else if 0x1000 ≤ o then x.vWord (o - 0x1000)
  else 0

/-- CXSTAT (R402). -/
def Die.cxstat (d : Die) : Word :=
  pack [(32, 13, d.slots.length), (3, 1, b2n d.mfail), (2, 1, b2n d.cxFull), (1, 1, b2n d.cxBusy), (0, 1, b2n d.cxErr)]

/-- Region 0x1 (R398, R400, R402). -/
def Die.region1 (d : Die) (o : Nat) : Word :=
  if o < 0x2000000 then
    match tget d.slots (o / 0x2000) with
    | some sl => sl.word (o % 0x2000)
    | none => 0
  else if 0x4000000 ≤ o ∧ o < 0x4004000 then
    BitVec.ofNat 64 (fieldOf (tgetD d.stopRing ((o - 0x4000000) / 16) 0).toNat (8 * (o % 16)) 64)
  else if o = 0x4004008 then d.cxstat
  else 0

/-- The code of a cell state (R138). -/
def CellState.code : CellState → Nat
  | .idle => 0
  | .written => 1
  | .closed => 2
  | .stale => 3
  | .ready => 4
  | .running => 5
  | .faulted => 6
  | .done => 7

/-- LOC: are the buffers in device memory (R138)? -/
def Cell.loc (c : Cell) : Bool := wfield c.bufA 60 4 = 4

/-- The 1,024 bits of an entry (R138). -/
def Cell.bits (c : Cell) : Nat :=
  packNat ([(492, 20, c.dist), (487, 5, c.cnt), (482, 5, c.bind.prec.length), (384, 64, (c.bind.entry.getD 0).toNat), (320, 48, c.tagB.getD (2 ^ 48 - 1)),
    (256, 48, c.tagA.getD (2 ^ 48 - 1)), (192, 64, c.bufB.toNat), (128, 64, c.bufA.toNat), (63, 1, 1), (62, 1, b2n c.bind.entry.isSome),
    (61, 1, b2n (!c.waiting.isEmpty)), (57, 4, c.state.code), (53, 4, c.etype), (51, 2, c.rank - 1), (50, 1, b2n c.loc), (0, 48, c.cgen)] ++
    ((upTo 4).map fun i => (64 + 16 * i, 16, vget c.ext i 1 - 1)) ++ ((upTo c.bind.prec.length).map fun i => (512 + 20 * i, 20, nth 0 c.bind.prec i)))

/-- The word at byte offset o of cell id's entry; an absent entry reads with V = 0 and its tags at their Reset values. -/
def Sdir.entryWord (d : Sdir) (id o : Nat) : Word :=
  match tget d.cells id with
  | some c => BitVec.ofNat 64 (fieldOf c.bits (8 * o) 64)
  | none => if o = 32 ∨ o = 40 then 0x0000FFFFFFFFFFFF else 0

/-- SHGEN (R152). PUBING stays 1 from the notice until the publication, where a late release follows TP: R152 says until TP, R149 says until publication
(log 69, DESIGN CHOICE). -/
def Sdir.shgen (d : Sdir) : Word :=
  pack [(51, 1, b2n (d.cells.any fun e => e.2.state == .faulted)), (50, 1, b2n d.waitc), (49, 1, b2n d.notice.isSome), (48, 1, b2n d.recalc), (0, 48, d.pgen)]

/-- Region 0x2 (R138, R152). -/
def Sdir.region2 (d : Sdir) (o : Nat) : Word :=
  if o < 0x8000000 then d.entryWord (o / 128) (o % 128)
  else if o = 0x8000000 then d.shcfg
  else if o = 0x8000008 then d.shgen
  else if o = 0x8000010 then d.shpubt
  else 0

/-- FHSTAT (R46). -/
def Die.fhstat (d : Die) : Word := pack [(32, 16, d.notifs.length), (16, 13, d.held.length), (1, 1, b2n d.fhFull), (0, 1, b2n d.fhErr)]

/-- The per-die translation block (R39). -/
def Die.region4 (d : Die) (o : Nat) : Word :=
  if o = 0x8 then d.fhstat
  else if o = 0x18 then pack [(16, 16, d.invDone), (0, 16, d.invIssued)]
  else if o = 0x20 then pack [(32, 10, d.nwr), (0, 10, d.nrd)]
  else if 0x1000 ≤ o ∧ o < 0x3000 then BitVec.ofNat 64 (fieldOf (tgetD d.nring ((o - 0x1000) / 16) 0).toNat (8 * (o % 16)) 64)
  else 0

/-- The per-launch translation block (R39, R340). -/
def Launch.region4 (l : Launch) (o : Nat) : Word :=
  if o = 0 then BitVec.ofNat 64 (l.ptbase / 4096 * 4096)
  else if 0x100 ≤ o ∧ o < 0x200 then
    let w := (o - 0x100) % 0x40 / 8
    if 5 ≤ w then 0 else pack ((upTo 64).map fun i => (i, 1, b2n (64 * w + i < 288 && l.mask.contains ((o - 0x100) / 0x40 * 288 + 64 * w + i))))
  else if 0x1000 ≤ o ∧ o < 0x2000 then
    let b := (o - 0x1000) % 0x400 / 8
    if 72 ≤ b then 0
    else
      let e := tgetD l.shares (bayId ((o - 0x1000) / 0x400) b) { psize := 0, pbase := 0, vsize := 0, vbase := 0 }
      pack [(48, 16, e.vsize), (32, 16, e.vbase), (16, 16, e.psize), (0, 16, e.pbase)]
  else if 0x2000 ≤ o ∧ o < 0x3000 then
    match tget l.peers ((o - 0x2000) / 16) with
    | some e => if o % 16 = 0 then e.ep else pack [(63, 1, b2n e.v), (48, 12, e.pasid), (32, 16, e.ports)]
    | none => 0
  else if 0x3000 ≤ o ∧ o < 0x4000 then
    match tget l.shadows ((o - 0x3000) / 16) with
    | some e => if o % 16 = 0 then pack [(32, 16, e.size / 64 - 1), (1, 1, b2n e.sel), (0, 1, 1)] else e.name
    | none => 0
  else 0

/-- AGEP (R376). -/
def Sched.agep (q : Sched) : Nat := wfield q.schcfg 32 16

/-- Effective priority of a slot (R382); `now` is the gm count, or the quantum in a deterministic launch. -/
def Hqs.ep (h : Hqs) (agep now : Nat) : Nat :=
  match h.readySince with
  | some t => if agep = 0 then min 15 h.bpri else min 15 (h.bpri + (now - t) / agep)
  | none => h.bpri

/-- The clock by which ageing counts (R382, R391). -/
def State.ageClock (s : State) (asid : Nat) : Nat :=
  let p := s.part asid
  if p.launch.deterministic then p.sched.quanta else s.pkg.gmCount.toNat

/-- A monitor's words (R423, R424). -/
def Monitor.word (m : Monitor) (o : Nat) : Word :=
  if o = 0 then m.cfg
  else if o ≤ 0x20 then vget m.edges (o / 8 - 1) 0
  else if o = 0x28 then pack [(48, 16, m.min), (32, 16, m.max), (0, 32, m.count)]
  else if 0x40 ≤ o ∧ o < 0xC0 then BitVec.ofNat 64 (satN 32 (vget m.bins (o / 8 - 8) 0))
  else 0

/-- The debug block (R415). -/
def Debug.word (g : Debug) (o : Nat) : Word :=
  if 0x1000 ≤ o ∧ o < 0x1080 then (if o % 16 = 0 then vget g.bpCtl ((o - 0x1000) / 16) 0 else vget g.bpAddr ((o - 0x1000) / 16) 0)
  else if o = 0x1080 then g.step
  else if o = 0x1100 then g.trccfg
  else if o = 0x1108 then BitVec.ofNat 64 g.trcnext
  else if o = 0x1200 then g.rplctl
  else if o = 0x1208 then g.rplbase
  else if o = 0x1210 then g.rpllen
  else if o = 0x1218 then g.rpldiv
  else if o = 0x1220 then g.rplexp
  else if o = 0x1228 then g.rplobs
  else if 0x1400 ≤ o ∧ o < 0x1800 then (vget g.mons ((o - 0x1400) / 0x100) Monitor.reset).word (o % 0x100)
  else 0

/-- A partition's registers in region 0x6 (R376, R411, R415). Doorbells are write-only. -/
def State.region6 (s : State) (asid o : Nat) : Word :=
  let p := s.part asid
  if o = 0 then p.sched.schcfg
  else if o = 8 then p.wdcfg
  else if 0x100 ≤ o ∧ o < 0x180 then
    let h := vget p.sched.slots ((o - 0x100) / 8) Hqs.reset
    pack [(63, 1, b2n h.v), (62, 1, b2n h.depw), (52, 4, h.ep p.sched.agep (s.ageClock asid)), (48, 4, h.bpri), (36, 12, h.qid), (0, 36, h.qcb / 64)]
  else if o < 0x80000 then p.dbg.word o
  else 0

/-- DFCAUSE (R406). -/
def SysCore.dfcause (c : SysCore) : Word := pack [(63, 1, b2n c.frozen), (62, 1, b2n c.oint), (48, 8, c.ocode), (40, 8, c.scode)]

/-- The sill-die block (R39). -/
def State.sillWord (s : State) (o : Nat) : Word :=
  if o = 0x000 then s.pkg.bootwhy
  else if o = 0x008 then BitVec.ofNat 64 (b2n s.pkg.bootsel)
  else if o = 0x010 then s.pkg.pwrcap
  else if 0x040 ≤ o ∧ o < 0x060 then (s.die ((o - 0x040) / 8)).irqrt
  else if 0x060 ≤ o ∧ o < 0x080 then BitVec.ofNat 64 (s.die ((o - 0x060) / 8)).floor
  else if 0x100 ≤ o ∧ o < 0x140 then
    let d := s.die ((o - 0x100) / 16)
    if o % 16 = 0 then d.eccstat else d.eccaddr
  else if 0x200 ≤ o ∧ o < 0x300 then
    let c := vget s.pkg.sysCores ((o - 0x200) / 32) SysCore.reset
    match o % 32 with
    | 0 => c.dfcause
    | 8 => c.dfaddr
    | 16 => c.dfsaddr
    | _ => 0
  else 0

/-- The GTU block of a die, or the grandmaster's at index 4 (R39). -/
def State.region5 (s : State) (d o : Nat) : Word :=
  match o with
  | 0x00 => if d = 4 then s.pkg.gmCount else (s.die d).gtu.count
  | 0x08 => BitVec.ofNat 64 s.pkg.skewb
  | 0x10 => s.pkg.skewx
  | 0x18 => (if d = 4 then { Gtu.reset with state := .locked } else (s.die d).gtu).tstat s.pkg.ext
  | 0x100 => if d = 4 then s.pkg.epoch else 0
  | _ => 0

/-- The launch that the Dreith service prepares under an ASID and has not started (R39). -/
def State.prepares (s : State) (asid : Nat) : Option LaunchReq := if s.running asid then none else s.pkg.launchReqs.find? fun r => r.asid == asid

/-- The launch being prepared whose core this is. -/
def State.preparesCore (s : State) (c : Nat) : Option LaunchReq :=
  s.pkg.launchReqs.find? fun r => !s.running r.asid && r.cores.contains c

/-- Does the core lie in a bent that this part has disabled (R4)? -/
def State.harvestedCore (s : State) (c : Nat) : Bool := !isGateway c && s.pkg.harvested.contains (coreDie c * 288 + coreBent c)

/-- Region 0x0 (R39): a control register of a core; of a core that is not there, zero. QWIN of a launch that has not started is the value prepared for it. -/
def State.region0Word (s : State) (c t n : Nat) : Word :=
  if s.harvestedCore c then 0
  else match (if n = 0x041 then s.preparesCore c else none) with
    | some r => r.launch.qwin
    | none => s.ctlGet c t n

/-- The word at an address of the system window; an address that no layout names reads zero (R39). -/
def State.winRead (s : State) (va : Nat) : Word :=
  let d := fieldOf va 32 2
  let o32 := fieldOf va 0 32
  match fieldOf va 44 4 with
  | 0 => match region0 (fieldOf va 0 44) with | some (c, t, n) => s.region0Word c t n | none => 0
  | 1 => if fieldOf va 34 10 ≠ 0 then 0 else (s.die d).region1 o32
  | 2 => if fieldOf va 40 4 ≠ 0 ∨ !s.running (fieldOf va 28 12) then 0 else (s.part (fieldOf va 28 12)).sdir.region2 (fieldOf va 0 28)
  | 4 =>
    if fieldOf va 43 1 = 0 then (if fieldOf va 34 9 ≠ 0 then 0 else (s.die d).region4 o32)
    else if fieldOf va 40 3 ≠ 0 then 0
    else if s.running (fieldOf va 28 12) then (s.part (fieldOf va 28 12)).launch.region4 (fieldOf va 0 28)
    else match s.prepares (fieldOf va 28 12) with | some r => r.launch.region4 (fieldOf va 0 28) | none => 0
  | 5 => if 5 ≤ fieldOf va 32 12 then 0 else s.region5 (fieldOf va 32 12) o32
  | 6 =>
    if fieldOf va 32 12 = 0 then (if s.running (fieldOf va 20 12) then s.region6 (fieldOf va 20 12) (fieldOf va 0 20) else 0)
    else if fieldOf va 32 12 = 1 then s.sillWord o32
    else 0
  | _ => 0

/-- What a read changes: DFCAUSE.FROZEN is cleared by it (R406). -/
def State.afterWinRead (s : State) (va : Nat) : State :=
  if fieldOf va 44 4 = 6 ∧ fieldOf va 32 12 = 1 ∧ 0x200 ≤ fieldOf va 0 32 ∧ fieldOf va 0 32 < 0x300 ∧ va % 32 = 0 then
    s.modPkg fun p =>
      let i := (fieldOf va 0 32 - 0x200) / 32
      { p with sysCores := vset p.sysCores i { vget p.sysCores i SysCore.reset with frozen := false } }
  else s

/-! ## Writing -/

/-- A write of the context window (R400, R401). -/
def Slot.put (sl : Slot) (o : Nat) (v : Word) : Slot :=
  let x := sl.ctx
  let up := fun (x : Ctx) => { sl with ctx := x }
  if o = 0x008 then up { x with pc := v }
  else if o = 0x010 then up { x with w1 := pack [(48, 16, wfield v 48 16), (0, 48, x.tid)] }
  else if o = 0x018 then up { x with w2 := v }
  else if o = 0x048 then up { x with full := Vector.ofFn fun (i : Fin 64) => x.full[i] || (i.val != 0 && v.getLsbD i.val) }
  else if o = 0x050 then up { x with fctl := fctlPut .write x.fctl v }
  else if o = 0x058 then up { x with warn := v &&& 0x8000000000FF0007 }
  else if o = 0x060 then up { x with apxctl := CtlOp.apply .write 0x0000FFFF000F1F03 0 x.apxctl v }
  else if o = 0x068 then up { x with dlmode := v &&& 0xB }
  else if o = 0x070 then up { x with tmpl := BitVec.ofNat 16 (wfield v 48 16), perm := v.getLsbD 0 }
  else if 0x100 ≤ o ∧ o < 0x300 then up (x.setX (BitVec.ofNat 6 ((o - 0x100) / 8)) v)
  else if 0x300 ≤ o ∧ o < 0x400 then up { x with f := vset x.f ((o - 0x300) / 8) v }
  else if 0x400 ≤ o ∧ o < 0x420 then
    up { x with m := (upTo 4).foldl (fun m i => vset m ((o - 0x400) / 2 + i) (BitVec.ofNat 16 (wfield v (16 * i) 16))) x.m }
  else if 0x1000 ≤ o ∧ o < 0x2000 then
    up { x with v := (upTo 8).foldl (fun t i => tputD 0 t (o - 0x1000 + i) (BitVec.ofNat 8 (wfield v (8 * i) 8))) x.v }
  else sl

/-- The step a CXCMD value asks for (R402); none for a value that only sets ERR. -/
def cxEvent (d : Nat) (v : Word) : Option Event :=
  let slot := wfield v 32 12
  let lcore := wfield v 44 16
  let asid := wfield v 4 12
  let target := if 36 ≤ wfield v 21 6 then 4607 + 1000 else coreAt (wfield v 27 2) (wfield v 21 6) (wfield v 16 5)
  match wfield v 60 4 with
  | 1 => some (.cxcmdResume d slot)
  | 2 => some (.cxcmdResumeOn d slot lcore asid)
  | 3 => some (.cxcmdDiscard d slot)
  | 4 => some (.cxcmdReleaseHandler d slot)
  | 5 => some (.cxcmdDropMessage d slot)
  | 6 => some (.cxcmdDeschedule d asid lcore (wfield v 29 3))
  | 7 => some (.cxcmdMigrate d asid lcore target)
  | 8 => some (.cxcmdClearScarf d target)
  | _ => none

/-- Region 0x1: the window's registers, V of a stop record (W1C), CXCMD and CXSTAT. -/
def State.put1 (s : State) (d o : Nat) (v : Word) : State :=
  if o < 0x2000000 then s.modDie d fun e => { e with slots := tmod e.slots (o / 0x2000) fun sl => sl.put (o % 0x2000) v }
  else if 0x4000000 ≤ o ∧ o < 0x4004000 ∧ o % 16 = 8 ∧ v.getLsbD 63 then
    s.modDie d fun e => { e with stopRing := tmod e.stopRing ((o - 0x4000000) / 16) fun r => BitVec.ofNat 128 (r.toNat % 2 ^ 127) }
  else if o = 0x4004000 then
    match cxEvent d v with
    | some e => s.post [e]
    | none => s.modDie d fun e => { e with cxErr := true }
  else if o = 0x4004008 then
    s.modDie d fun e => { e with mfail := e.mfail && !v.getLsbD 3, cxFull := e.cxFull && !v.getLsbD 2, cxErr := e.cxErr && !v.getLsbD 0 }
  else s

/-- The step an FHCMD value asks for (R43). -/
def fhEvent (d : Nat) (v : Word) : Option Event :=
  match wfield v 60 4 with
  | 1 => some (.fhReplayHid d (wfield v 0 16))
  | 2 => some (.fhKillHid d (wfield v 0 16))
  | 3 => some (.fhReplayAsid d (wfield v 48 12))
  | 4 => some (.fhKillAsid d (wfield v 48 12))
  | _ => none

/-- The step a TLBINVC value asks for (R49); other values, and every command with SIZE 3, are ignored. -/
def tlbEvent (d : Nat) (v : Word) : Option Event :=
  if wfield v 10 2 = 3 then none
  else match wfield v 60 4 with
  | 1 => some (.tlbinvPage d (wfield v 48 12) (wfield v 16 32 * 65536) (wfield v 12 4) (wfield v 10 2))
  | 2 => some (.tlbinvAsid d (wfield v 48 12) (wfield v 12 4))
  | 3 => some (.tlbinvAll d (wfield v 12 4))
  | _ => none

/-- Region 0x4 of a die (R43, R46, R49, R39). -/
def State.put4 (s : State) (d o : Nat) (v : Word) : State :=
  if o = 0 then
    match fhEvent d v with
    | some e => s.post [e]
    | none => s.modDie d fun e => { e with fhErr := true }
  else if o = 8 then s.modDie d fun e => { e with fhFull := e.fhFull && !v.getLsbD 1, fhErr := e.fhErr && !v.getLsbD 0 }
  else if o = 0x10 then s.post (tlbEvent d v).toList
  else if o = 0x20 then
    s.modDie d fun e => if 512 < (e.nwr % 1024 + 1024 - wfield v 0 10) % 1024 then e else { e with nrd := wfield v 0 10 }
  else s

/-- A value is counted in a bin (R424). -/
def Monitor.counted (m : Monitor) (v b : Nat) : Monitor :=
  { m with min := Nat.min m.min v, max := Nat.max m.max v, count := satN 32 (m.count + 1), bins := vset m.bins b (satN 32 (vget m.bins b 0 + 1)) }

/-- A write of MONCFG (R423): CLR clears the monitor, before the samples of its cycle are counted (R424). -/
def Monitor.putCfg (m : Monitor) (v : Word) : Monitor :=
  let m := if v.getLsbD 0 then
    m.now.foldl (fun m p => m.counted p.1 p.2) { m with min := 0xFFFF, max := 0, count := 0, bins := Vector.replicate 16 0 } else m
  { m with cfg := v &&& 0xF8C0FFFF00000000 }

/-- A monitor's registers. -/
def Monitor.put (m : Monitor) (o : Nat) (v : Word) : Monitor :=
  if o = 0 then m.putCfg v else if o ≤ 0x20 then { m with edges := vset m.edges (o / 8 - 1) v } else m

/-- A write of TRCCFG sets TRCNEXT to 0 (R421). -/
def Debug.putTrc (g : Debug) (v : Word) : Debug := { g with trccfg := v &&& 0xFC00FFFFFFFFF000, trcnext := 0 }

/-- The debug block (R415, R425). -/
def Debug.put (g : Debug) (o : Nat) (v : Word) : Debug :=
  if 0x1000 ≤ o ∧ o < 0x1080 then
    if o % 16 = 0 then { g with bpCtl := vset g.bpCtl ((o - 0x1000) / 16) (v &&& 0xE000FFFFFFFFFFFF) }
    else { g with bpAddr := vset g.bpAddr ((o - 0x1000) / 16) v }
  else if o = 0x1080 then { g with step := v &&& 0x8000FFFFFFFFFFFF }
  else if o = 0x1100 then g.putTrc v
  else if o = 0x1200 then { g with rplctl := CtlOp.apply .write 0xE000000000000000 0x1000000000000000 g.rplctl v }
  else if o = 0x1208 then { g with rplbase := v &&& 0x0000FFFFFFFFF000 }
  else if o = 0x1210 then { g with rpllen := v }
  else if 0x1400 ≤ o ∧ o < 0x1800 then
    let m := (o - 0x1400) / 0x100
    { g with mons := vset g.mons m ((vget g.mons m Monitor.reset).put (o % 0x100) v) }
  else g

/-- A partition's registers in region 0x6 (R376, R377, R411, R415). -/
def State.put6 (s : State) (asid o : Nat) (v : Word) : State :=
  if o = 0 then s.modSched asid fun q => { q with schcfg := v &&& 0x0000FFFF003F001F }
  else if o = 8 then s.modPart asid fun p => { p with wdcfg := v &&& 0xFFFFFFFF, wdLast := s.cycle }
  else if 0x100 ≤ o ∧ o < 0x180 then
    s.modSched asid fun q =>
      let i := (o - 0x100) / 8
      { q with slots := vset q.slots i { vget q.slots i Hqs.reset with bpri := wfield v 48 4 } }
  else if o < 0x80000 then s.modPart asid fun p => { p with dbg := p.dbg.put o v }
  else if o < 0x88000 then s.post [.kick asid ((o - 0x80000) / 8) (wfield v 0 32)]
  else s

/-- ECCSTAT (R75): UEV and MULTI are W1C, CLR zeroes both counts. -/
def eccstatPut (old v : Word) : Word :=
  let w := CtlOp.apply .write 0 0x9 old v
  if v.getLsbD 1 then wput (wput w 48 16 0) 16 32 0 else w

/-- The sill-die block (R39, R432, R435, R436, R430). -/
def State.putSill (s : State) (o : Nat) (v : Word) : State :=
  if o = 0x008 then s.modPkg fun p => { p with bootsel := v.getLsbD 0 }
  else if o = 0x010 then s.modPkg fun p => { p with pwrcap := v &&& 0xFFFF }
  else if o = 0x030 then (if v = 1 then s.post [.rstcmd] else s)
  else if 0x040 ≤ o ∧ o < 0x060 ∧ o % 8 = 0 then s.modDie ((o - 0x040) / 8) fun e => { e with irqrt := v &&& 0x3FFFF }
  else if 0x060 ≤ o ∧ o < 0x080 then s.modDie ((o - 0x060) / 8) fun e => { e with floor := wfield v 0 3 }
  else if 0x100 ≤ o ∧ o < 0x140 ∧ o % 16 = 0 then s.modDie ((o - 0x100) / 16) fun e => { e with eccstat := eccstatPut e.eccstat v }
  else s

/-- A store to the per-launch translation block of a launch that has not started (R39, R340). -/
def Launch.put4 (l : Launch) (o : Nat) (v : Word) : Launch :=
  if o = 0 then { l with ptbase := wfield v 12 36 * 4096 }
  else if 0x100 ≤ o ∧ o < 0x200 then
    let first := (o - 0x100) / 0x40 * 288 + (o - 0x100) % 0x40 * 8
    let n := if (o - 0x100) % 0x40 = 0x20 then 32 else if (o - 0x100) % 0x40 < 0x20 then 64 else 0
    { l with mask := (l.mask.filter fun b => !(decide (first ≤ b) && decide (b < first + n))) ++ (((upTo n).filter fun i => v.getLsbD i).map fun i => first + i) }
  else if 0x1000 ≤ o ∧ o < 0x2000 then
    if 72 ≤ (o - 0x1000) % 0x400 / 8 then l
    else
      { l with
        shares := tput l.shares (bayId ((o - 0x1000) / 0x400) ((o - 0x1000) % 0x400 / 8))
          { vsize := wfield v 48 16, vbase := wfield v 32 16, psize := wfield v 16 16, pbase := wfield v 0 16 } }
  else if 0x2000 ≤ o ∧ o < 0x3000 then
    let i := (o - 0x2000) / 16
    let e := tgetD l.peers i { v := false, pasid := 0, ports := 0, ep := 0 }
    { l with peers := tput l.peers i (if o % 16 = 0 then { e with ep := v } else { e with v := v.getLsbD 63, pasid := wfield v 48 12, ports := wfield v 32 16 }) }
  else if 0x3000 ≤ o ∧ o < 0x4000 then
    let i := (o - 0x3000) / 16
    let e := tgetD l.shadows i { name := 0, size := 64, sel := false }
    if o % 16 = 0 then (if v.getLsbD 0 then { l with shadows := tput l.shadows i { e with size := 64 * (wfield v 32 16 + 1), sel := v.getLsbD 1 } } else { l with shadows := tdel l.shadows i })
    else { l with shadows := tput l.shadows i { e with name := v } }
  else l

/-- A change of a launch that has not started. -/
def State.modPrepared (s : State) (asid : Nat) (f : Launch → Launch) : State :=
  if s.running asid then s
  else s.modPkg fun p => { p with launchReqs := p.launchReqs.map fun r => if r.asid = asid then { r with launch := f r.launch } else r }

/-- A store through region 0x0: a value the map refuses, or a write that would wait, is ignored (R39). -/
def State.put0 (s : State) (o : Nat) (v : Word) : State :=
  match region0 o with
  | none => s
  | some (c, t, n) =>
    if s.harvestedCore c then s
    else match (if n = 0x041 then s.preparesCore c else none) with
    | some r => s.modPrepared r.asid fun l => { l with qwin := v &&& 0xFFFFFFFFFF }
    | none =>
    match s.ctlPut true c t n .write v with
    | .done s => s
    | .cause _ => s
    | .wait => s

/-- A store of 8 bytes to the system window; an address that no layout names ignores it (R39). -/
def State.winWrite (s : State) (va : Nat) (v : Word) : State :=
  let d := fieldOf va 32 2
  let o32 := fieldOf va 0 32
  match fieldOf va 44 4 with
  | 0 => s.put0 (fieldOf va 0 44) v
  | 1 => if fieldOf va 34 10 ≠ 0 then s else s.put1 d o32 v
  | 2 =>
    if fieldOf va 40 4 = 0 ∧ fieldOf va 0 28 = 0x8000000 then s.modSdir (fieldOf va 28 12) fun e => { e with shcfg := v &&& 0x0000FFFFFFFFFFFF } else s
  | 4 =>
    if fieldOf va 34 10 = 0 then s.put4 d o32 v
    else if fieldOf va 40 4 = 8 then s.modPrepared (fieldOf va 28 12) fun l => l.put4 (fieldOf va 0 28) v
    else s
  | 5 => if fieldOf va 32 12 = 4 ∧ o32 = 0x100 ∧ !s.pkg.ext then s.modPkg fun p => { p with epoch := v } else s
  | 6 =>
    if fieldOf va 32 12 = 0 then (if s.running (fieldOf va 20 12) then s.put6 (fieldOf va 20 12) (fieldOf va 0 20) v else s)
    else if fieldOf va 32 12 = 1 then s.putSill o32 v
    else s
  | _ => s

end Sys2Proof.Machine
end

