-- ==== Sys2Proof/Machine/LoadStore.lean ====
section
/-! DEFINITION. Scalar loads and stores (R239, R240), to memory, to the system window (R38, R39) and to a peer (R35). -/

namespace Sys2Proof.Machine

/-- A value read for a load, whose latency is a sample of a monitor (R423): an x register stays empty until it is filled (R193); an f register is interlocked (R191). -/
def loadInto (fp signed : Bool) (d : Reg) (n v : Nat) (s : State) : Res :=
  let s := s.sampledAt s.curCore 0
  if fp then .retire (s.modCur fun x => x.setF d (BitVec.ofNat 64 v)) else .retire (s.produce d (loadValue signed n v))

/-- A load whose value comes later: its x register is empty and the thread goes on (R193); an f register, which is interlocked, holds the thread
until the value is there (R191). -/
def loadLater (fp : Bool) (d : Reg) (s : State) : Res :=
  let s := s.sampledAt s.curCore 0
  if fp then .stay s.awaitAnswer else .retire (s.empty d)

/-- An access joins the loopback port of the issuing core, for its unit (R58). -/
def State.loopSend (s : State) (k n : Nat) (act : LoopAct) : State :=
  s.loopPush s.curCore { uid := s.cur.uid, rank := ateRank s.curCore s.curThread.val, loc := k, size := n, act := act }

/-- An access waits at a scratchpad that is being streamed, behind those already there (R25). -/
def State.arrive (s : State) (k n : Nat) (act : LoopAct) : State :=
  s.modCore ((keyCore k).getD 0) fun c =>
    { c with arrivals := c.arrivals ++ [{ uid := s.cur.uid, rank := ateRank s.curCore s.curThread.val, loc := k, size := n, act := act }] }

/-- A scalar load of n bytes of memory at a key: by the loopback port (R58), forwarded to the ATE that holds the line (R69), or now. A failed granule is met
at the issue (R73). -/
def loadKey (fp signed : Bool) (d : Reg) (n : Nat) (ea : Word) (k : Nat) (s : State) : Res :=
  match s.badIn k n with
  | some g => s.eccTrap g k n
  | none =>
    if s.streaming k then loadLater fp d (s.arrive k n (.load signed d fp))
    else if s.ownName ea then (if s.curK.loopFull then .stay s else loadLater fp d (s.loopSend k n (.load signed d fp)))
    else if s.lineHeld k then loadLater fp d (s.ateSend (ateRank s.curCore s.curThread.val) (.read k n signed s.cur.uid d fp))
    else loadInto fp signed d n (s.readLe k n) (s.correct k n)

/-- A scalar load of n bytes at ea (R240). The window's unnamed addresses read as zero (R39). -/
def loadAt (fp signed : Bool) (d : Reg) (n : Nat) (ea : Word) (s : State) : Res :=
  scalarAccess .load true false n n ea (fun h s =>
    match h with
    | .mem k => loadKey fp signed d n ea k s
    | .window va => if winNamed va then loadInto fp signed d n (s.winRead va).toNat (s.afterWinRead va) else loadInto fp signed d n 0 s
    | .remote _ _ =>
      let r := remoteReq false fp signed ea n d 0
      let s := s.sampledAt s.curCore 0
      if fp then .stay (s.sendRemote r) else .retire ((s.postRemote r).empty d)
    | .cell _ _ => .stay s) s

/-- A scalar store of n bytes to memory at a key, by the same ways as a load. -/
def storeKey (n : Nat) (v ea : Word) (k : Nat) (s : State) : Res :=
  match s.badPartly k n with
  | some g => s.eccTrap g k n
  | none =>
    if s.streaming k then .retire (s.arrive k n (.store v))
    else if s.ownName ea then (if s.curK.loopFull then .stay s else .retire (s.loopSend k n (.store v)))
    else if s.lineHeld k then .retire (s.ateSend (ateRank s.curCore s.curThread.val) (.write k n v s.cur.uid))
    else .retire (s.writeLe k n v.toNat)

/-- A scalar store of the low n bytes of v at ea (R240). A store to an unnamed address of the window is ignored (R39). -/
def storeAt (n : Nat) (v ea : Word) (s : State) : Res :=
  scalarAccess .store false true n n ea (fun h s =>
    match h with
    | .mem k => storeKey n v ea k s
    | .window va => .retire (if winNamed va then s.winWrite va v else s)
    | .remote _ _ => .stay (s.sendRemote (remoteReq true false false ea n 0 v))
    | .cell _ _ => .stay s) s

/-- LD and LDZ. -/
def loadX (signed : Bool) (n : Nat) (d a : Reg) (imm : BitVec 12) (ma : Bool) (s : State) : Host.Outcome State Fault Refusal :=
  issue [(a, ma)] (some d) (fun s => loadAt false signed d n (eaI s.cur a imm) s) s

/-- LDF. -/
def loadF (n : Nat) (d a : Reg) (imm : BitVec 12) (ma : Bool) (s : State) : Host.Outcome State Fault Refusal :=
  issue [(a, ma)] none (fun s => loadAt true false d n (eaI s.cur a imm) s) s

/-- ST. -/
def storeX (n : Nat) (rs a : Reg) (imm : BitVec 11) (ms ma : Bool) (s : State) : Host.Outcome State Fault Refusal :=
  issue [(a, ma), (rs, ms)] none (fun s => storeAt n (s.cur.xr rs) (eaS s.cur a imm) s) s

/-- STF. -/
def storeF (n : Nat) (rs a : Reg) (imm : BitVec 11) (ma : Bool) (s : State) : Host.Outcome State Fault Refusal :=
  issue [(a, ma)] none (fun s => storeAt n (s.cur.fr rs) (eaS s.cur a imm) s) s

def execLdB (d a : Reg) (imm : BitVec 12) (ma : Bool) (s : State) : Host.Outcome State Fault Refusal := loadX true 1 d a imm ma s
def execLdH (d a : Reg) (imm : BitVec 12) (ma : Bool) (s : State) : Host.Outcome State Fault Refusal := loadX true 2 d a imm ma s
def execLdW (d a : Reg) (imm : BitVec 12) (ma : Bool) (s : State) : Host.Outcome State Fault Refusal := loadX true 4 d a imm ma s
def execLdD (d a : Reg) (imm : BitVec 12) (ma : Bool) (s : State) : Host.Outcome State Fault Refusal := loadX true 8 d a imm ma s
def execLdzB (d a : Reg) (imm : BitVec 12) (ma : Bool) (s : State) : Host.Outcome State Fault Refusal := loadX false 1 d a imm ma s
def execLdzH (d a : Reg) (imm : BitVec 12) (ma : Bool) (s : State) : Host.Outcome State Fault Refusal := loadX false 2 d a imm ma s
def execLdzW (d a : Reg) (imm : BitVec 12) (ma : Bool) (s : State) : Host.Outcome State Fault Refusal := loadX false 4 d a imm ma s
def execLdfW (d a : Reg) (imm : BitVec 12) (ma : Bool) (s : State) : Host.Outcome State Fault Refusal := loadF 4 d a imm ma s
def execLdfD (d a : Reg) (imm : BitVec 12) (ma : Bool) (s : State) : Host.Outcome State Fault Refusal := loadF 8 d a imm ma s
def execStB (rs a : Reg) (imm : BitVec 11) (ms ma : Bool) (s : State) : Host.Outcome State Fault Refusal := storeX 1 rs a imm ms ma s
def execStH (rs a : Reg) (imm : BitVec 11) (ms ma : Bool) (s : State) : Host.Outcome State Fault Refusal := storeX 2 rs a imm ms ma s
def execStW (rs a : Reg) (imm : BitVec 11) (ms ma : Bool) (s : State) : Host.Outcome State Fault Refusal := storeX 4 rs a imm ms ma s
def execStD (rs a : Reg) (imm : BitVec 11) (ms ma : Bool) (s : State) : Host.Outcome State Fault Refusal := storeX 8 rs a imm ms ma s
def execStfW (rs a : Reg) (imm : BitVec 11) (_ms ma : Bool) (s : State) : Host.Outcome State Fault Refusal := storeF 4 rs a imm ma s
def execStfD (rs a : Reg) (imm : BitVec 11) (_ms ma : Bool) (s : State) : Host.Outcome State Fault Refusal := storeF 8 rs a imm ma s

end Sys2Proof.Machine
end

