-- ==== Sys2Proof/Machine/Atomic.lean ====
section
/-! DEFINITION. Atomics (R242 to R246), the fences (R87, R88, R90, R248), and the full/empty controls (R249, R250). -/

namespace Sys2Proof.Machine

/-- The order options of R89. -/
inductive AmoOrder where
  | relaxed | acq | rel | sc
deriving DecidableEq, Repr

/-- Must an atomic of this order wait at issue (R89)? A release follows the thread's earlier loads and stores; an acquire lets nothing later pass
the earlier loads, so it waits for them before it leaves, and the thread issues nothing until the atomic is performed. -/
def State.orderWaits (s : State) (o : AmoOrder) : Bool :=
  match o with
  | .relaxed => false
  | .acq => s.loadsOut s.cur.uid
  | .rel => s.accessesOut s.cur.uid
  | .sc => s.accessesOut s.cur.uid

/-- An atomic's checks and its departure for the home ATE (R246, R73). At an address of the system window that names nothing it reads zero and writes
nothing (R39). -/
def atomicAccess (o : AmoOrder) (n : Nat) (d : Reg) (va : Word) (op : Nat → AteOp) (s : State) : Res :=
  scalarAccess .atomic true true n n va (fun h s =>
    match h with
    | .mem k =>
      match s.badIn k n with
      | some g => s.eccTrap g k n
      | none =>
        if s.orderWaits o then .stay s
        else .retire ((((s.correct k n).sampledAt s.curCore 1).ateSend (ateRank s.curCore s.curThread.val) (op k)).empty d)
    | .window _ => if s.orderWaits o then .stay s else .retire (s.produce d 0)
    | _ => .trap .access { d0 := va, d1 := BitVec.ofNat 64 n } s) s

/-- The AMO operations: `fn` as in R197. -/
def amo (fn n : Nat) (o : AmoOrder) (d a b : Reg) (ma mb : Bool) (s : State) : Host.Outcome State Fault Refusal :=
  issue [(a, ma), (b, mb)] (some d) (fun s =>
    atomicAccess o n d (s.cur.xr a) (fun k => .amo fn n k (s.cur.xr b) s.cur.uid d) s) s

/-- AMOCAS (R245). -/
def amocas (n : Nat) (o : AmoOrder) (d a b c : Reg) (mq : Bool) (s : State) : Host.Outcome State Fault Refusal :=
  issue [(a, mq), (b, mq), (c, mq)] (some d) (fun s =>
    atomicAccess o n d (s.cur.xr a) (fun k => .cas n k (s.cur.xr b) (s.cur.xr c) s.cur.uid d) s) s

def execAmoaddW (d a b : Reg) (ma mb : Bool) (s : State) : Host.Outcome State Fault Refusal :=
  amo 0 4 .relaxed d a b ma mb s
def execAmoaddD (d a b : Reg) (ma mb : Bool) (s : State) : Host.Outcome State Fault Refusal :=
  amo 0 8 .relaxed d a b ma mb s
def execAmoaddWAcq (d a b : Reg) (ma mb : Bool) (s : State) : Host.Outcome State Fault Refusal :=
  amo 0 4 .acq d a b ma mb s
def execAmoaddDAcq (d a b : Reg) (ma mb : Bool) (s : State) : Host.Outcome State Fault Refusal :=
  amo 0 8 .acq d a b ma mb s
def execAmoaddWRel (d a b : Reg) (ma mb : Bool) (s : State) : Host.Outcome State Fault Refusal :=
  amo 0 4 .rel d a b ma mb s
def execAmoaddDRel (d a b : Reg) (ma mb : Bool) (s : State) : Host.Outcome State Fault Refusal :=
  amo 0 8 .rel d a b ma mb s
def execAmoaddWSc (d a b : Reg) (ma mb : Bool) (s : State) : Host.Outcome State Fault Refusal :=
  amo 0 4 .sc d a b ma mb s
def execAmoaddDSc (d a b : Reg) (ma mb : Bool) (s : State) : Host.Outcome State Fault Refusal :=
  amo 0 8 .sc d a b ma mb s
def execAmoandW (d a b : Reg) (ma mb : Bool) (s : State) : Host.Outcome State Fault Refusal :=
  amo 1 4 .relaxed d a b ma mb s
def execAmoandD (d a b : Reg) (ma mb : Bool) (s : State) : Host.Outcome State Fault Refusal :=
  amo 1 8 .relaxed d a b ma mb s
def execAmoandWAcq (d a b : Reg) (ma mb : Bool) (s : State) : Host.Outcome State Fault Refusal :=
  amo 1 4 .acq d a b ma mb s
def execAmoandDAcq (d a b : Reg) (ma mb : Bool) (s : State) : Host.Outcome State Fault Refusal :=
  amo 1 8 .acq d a b ma mb s
def execAmoandWRel (d a b : Reg) (ma mb : Bool) (s : State) : Host.Outcome State Fault Refusal :=
  amo 1 4 .rel d a b ma mb s
def execAmoandDRel (d a b : Reg) (ma mb : Bool) (s : State) : Host.Outcome State Fault Refusal :=
  amo 1 8 .rel d a b ma mb s
def execAmoandWSc (d a b : Reg) (ma mb : Bool) (s : State) : Host.Outcome State Fault Refusal :=
  amo 1 4 .sc d a b ma mb s
def execAmoandDSc (d a b : Reg) (ma mb : Bool) (s : State) : Host.Outcome State Fault Refusal :=
  amo 1 8 .sc d a b ma mb s
def execAmoorW (d a b : Reg) (ma mb : Bool) (s : State) : Host.Outcome State Fault Refusal :=
  amo 2 4 .relaxed d a b ma mb s
def execAmoorD (d a b : Reg) (ma mb : Bool) (s : State) : Host.Outcome State Fault Refusal :=
  amo 2 8 .relaxed d a b ma mb s
def execAmoorWAcq (d a b : Reg) (ma mb : Bool) (s : State) : Host.Outcome State Fault Refusal :=
  amo 2 4 .acq d a b ma mb s
def execAmoorDAcq (d a b : Reg) (ma mb : Bool) (s : State) : Host.Outcome State Fault Refusal :=
  amo 2 8 .acq d a b ma mb s
def execAmoorWRel (d a b : Reg) (ma mb : Bool) (s : State) : Host.Outcome State Fault Refusal :=
  amo 2 4 .rel d a b ma mb s
def execAmoorDRel (d a b : Reg) (ma mb : Bool) (s : State) : Host.Outcome State Fault Refusal :=
  amo 2 8 .rel d a b ma mb s
def execAmoorWSc (d a b : Reg) (ma mb : Bool) (s : State) : Host.Outcome State Fault Refusal :=
  amo 2 4 .sc d a b ma mb s
def execAmoorDSc (d a b : Reg) (ma mb : Bool) (s : State) : Host.Outcome State Fault Refusal :=
  amo 2 8 .sc d a b ma mb s
def execAmoxorW (d a b : Reg) (ma mb : Bool) (s : State) : Host.Outcome State Fault Refusal :=
  amo 3 4 .relaxed d a b ma mb s
def execAmoxorD (d a b : Reg) (ma mb : Bool) (s : State) : Host.Outcome State Fault Refusal :=
  amo 3 8 .relaxed d a b ma mb s
def execAmoxorWAcq (d a b : Reg) (ma mb : Bool) (s : State) : Host.Outcome State Fault Refusal :=
  amo 3 4 .acq d a b ma mb s
def execAmoxorDAcq (d a b : Reg) (ma mb : Bool) (s : State) : Host.Outcome State Fault Refusal :=
  amo 3 8 .acq d a b ma mb s
def execAmoxorWRel (d a b : Reg) (ma mb : Bool) (s : State) : Host.Outcome State Fault Refusal :=
  amo 3 4 .rel d a b ma mb s
def execAmoxorDRel (d a b : Reg) (ma mb : Bool) (s : State) : Host.Outcome State Fault Refusal :=
  amo 3 8 .rel d a b ma mb s
def execAmoxorWSc (d a b : Reg) (ma mb : Bool) (s : State) : Host.Outcome State Fault Refusal :=
  amo 3 4 .sc d a b ma mb s
def execAmoxorDSc (d a b : Reg) (ma mb : Bool) (s : State) : Host.Outcome State Fault Refusal :=
  amo 3 8 .sc d a b ma mb s
def execAmominW (d a b : Reg) (ma mb : Bool) (s : State) : Host.Outcome State Fault Refusal :=
  amo 4 4 .relaxed d a b ma mb s
def execAmominD (d a b : Reg) (ma mb : Bool) (s : State) : Host.Outcome State Fault Refusal :=
  amo 4 8 .relaxed d a b ma mb s
def execAmominWAcq (d a b : Reg) (ma mb : Bool) (s : State) : Host.Outcome State Fault Refusal :=
  amo 4 4 .acq d a b ma mb s
def execAmominDAcq (d a b : Reg) (ma mb : Bool) (s : State) : Host.Outcome State Fault Refusal :=
  amo 4 8 .acq d a b ma mb s
def execAmominWRel (d a b : Reg) (ma mb : Bool) (s : State) : Host.Outcome State Fault Refusal :=
  amo 4 4 .rel d a b ma mb s
def execAmominDRel (d a b : Reg) (ma mb : Bool) (s : State) : Host.Outcome State Fault Refusal :=
  amo 4 8 .rel d a b ma mb s
def execAmominWSc (d a b : Reg) (ma mb : Bool) (s : State) : Host.Outcome State Fault Refusal :=
  amo 4 4 .sc d a b ma mb s
def execAmominDSc (d a b : Reg) (ma mb : Bool) (s : State) : Host.Outcome State Fault Refusal :=
  amo 4 8 .sc d a b ma mb s
def execAmomaxW (d a b : Reg) (ma mb : Bool) (s : State) : Host.Outcome State Fault Refusal :=
  amo 5 4 .relaxed d a b ma mb s
def execAmomaxD (d a b : Reg) (ma mb : Bool) (s : State) : Host.Outcome State Fault Refusal :=
  amo 5 8 .relaxed d a b ma mb s
def execAmomaxWAcq (d a b : Reg) (ma mb : Bool) (s : State) : Host.Outcome State Fault Refusal :=
  amo 5 4 .acq d a b ma mb s
def execAmomaxDAcq (d a b : Reg) (ma mb : Bool) (s : State) : Host.Outcome State Fault Refusal :=
  amo 5 8 .acq d a b ma mb s
def execAmomaxWRel (d a b : Reg) (ma mb : Bool) (s : State) : Host.Outcome State Fault Refusal :=
  amo 5 4 .rel d a b ma mb s
def execAmomaxDRel (d a b : Reg) (ma mb : Bool) (s : State) : Host.Outcome State Fault Refusal :=
  amo 5 8 .rel d a b ma mb s
def execAmomaxWSc (d a b : Reg) (ma mb : Bool) (s : State) : Host.Outcome State Fault Refusal :=
  amo 5 4 .sc d a b ma mb s
def execAmomaxDSc (d a b : Reg) (ma mb : Bool) (s : State) : Host.Outcome State Fault Refusal :=
  amo 5 8 .sc d a b ma mb s
def execAmoswapW (d a b : Reg) (ma mb : Bool) (s : State) : Host.Outcome State Fault Refusal :=
  amo 6 4 .relaxed d a b ma mb s
def execAmoswapD (d a b : Reg) (ma mb : Bool) (s : State) : Host.Outcome State Fault Refusal :=
  amo 6 8 .relaxed d a b ma mb s
def execAmoswapWAcq (d a b : Reg) (ma mb : Bool) (s : State) : Host.Outcome State Fault Refusal :=
  amo 6 4 .acq d a b ma mb s
def execAmoswapDAcq (d a b : Reg) (ma mb : Bool) (s : State) : Host.Outcome State Fault Refusal :=
  amo 6 8 .acq d a b ma mb s
def execAmoswapWRel (d a b : Reg) (ma mb : Bool) (s : State) : Host.Outcome State Fault Refusal :=
  amo 6 4 .rel d a b ma mb s
def execAmoswapDRel (d a b : Reg) (ma mb : Bool) (s : State) : Host.Outcome State Fault Refusal :=
  amo 6 8 .rel d a b ma mb s
def execAmoswapWSc (d a b : Reg) (ma mb : Bool) (s : State) : Host.Outcome State Fault Refusal :=
  amo 6 4 .sc d a b ma mb s
def execAmoswapDSc (d a b : Reg) (ma mb : Bool) (s : State) : Host.Outcome State Fault Refusal :=
  amo 6 8 .sc d a b ma mb s
def execAmofaddW (d a b : Reg) (ma mb : Bool) (s : State) : Host.Outcome State Fault Refusal :=
  amo 7 4 .relaxed d a b ma mb s
def execAmofaddD (d a b : Reg) (ma mb : Bool) (s : State) : Host.Outcome State Fault Refusal :=
  amo 7 8 .relaxed d a b ma mb s
def execAmofaddWAcq (d a b : Reg) (ma mb : Bool) (s : State) : Host.Outcome State Fault Refusal :=
  amo 7 4 .acq d a b ma mb s
def execAmofaddDAcq (d a b : Reg) (ma mb : Bool) (s : State) : Host.Outcome State Fault Refusal :=
  amo 7 8 .acq d a b ma mb s
def execAmofaddWRel (d a b : Reg) (ma mb : Bool) (s : State) : Host.Outcome State Fault Refusal :=
  amo 7 4 .rel d a b ma mb s
def execAmofaddDRel (d a b : Reg) (ma mb : Bool) (s : State) : Host.Outcome State Fault Refusal :=
  amo 7 8 .rel d a b ma mb s
def execAmofaddWSc (d a b : Reg) (ma mb : Bool) (s : State) : Host.Outcome State Fault Refusal :=
  amo 7 4 .sc d a b ma mb s
def execAmofaddDSc (d a b : Reg) (ma mb : Bool) (s : State) : Host.Outcome State Fault Refusal :=
  amo 7 8 .sc d a b ma mb s
def execAmocasW (d a b c : Reg) (mq : Bool) (s : State) : Host.Outcome State Fault Refusal :=
  amocas 4 .relaxed d a b c mq s
def execAmocasD (d a b c : Reg) (mq : Bool) (s : State) : Host.Outcome State Fault Refusal :=
  amocas 8 .relaxed d a b c mq s
def execAmocasWAcq (d a b c : Reg) (mq : Bool) (s : State) : Host.Outcome State Fault Refusal :=
  amocas 4 .acq d a b c mq s
def execAmocasDAcq (d a b c : Reg) (mq : Bool) (s : State) : Host.Outcome State Fault Refusal :=
  amocas 8 .acq d a b c mq s
def execAmocasWRel (d a b c : Reg) (mq : Bool) (s : State) : Host.Outcome State Fault Refusal :=
  amocas 4 .rel d a b c mq s
def execAmocasDRel (d a b c : Reg) (mq : Bool) (s : State) : Host.Outcome State Fault Refusal :=
  amocas 8 .rel d a b c mq s
def execAmocasWSc (d a b c : Reg) (mq : Bool) (s : State) : Host.Outcome State Fault Refusal :=
  amocas 4 .sc d a b c mq s
def execAmocasDSc (d a b c : Reg) (mq : Bool) (s : State) : Host.Outcome State Fault Refusal :=
  amocas 8 .sc d a b c mq s

/-! ## Fences -/

/-- FENCE (R87, R248): issue is held until the accesses of group A are performed. An STVA counts once it has reached its home, and an LDNB when its value
returns (R101). -/
def execFence (scope : BitVec 3) (kind : BitVec 4) (s : State) : Host.Outcome State Fault Refusal :=
  issue [] none (fun s =>
    let loads := kind.getLsbD 3 || kind.getLsbD 2
    let stores := kind.getLsbD 1 || kind.getLsbD 0
    if 6 ≤ scope.toNat then .trap .rsvfld {} s
    else if (loads && s.loadsOut s.cur.uid) || (stores && s.storesOut s.cur.uid) then .stay s
    else .retire s) s

/-- FENCE.LOOP (R90): it completes once every access of the thread has been performed at the banks, those by the loopback port among them. -/
def execFenceLoop (s : State) : Host.Outcome State Fault Refusal :=
  issue [] none (fun s => if s.accessesOut s.cur.uid then .stay s else .retire s) s

/-! ## Full/empty controls -/

/-- FEMARK (R249). The watch is armed as a load of the word through the alias would be performed: behind the vector instructions that write it and
the unit's earlier accesses of it that are on their way, and on the visible area of a shadowed buffer. -/
def execFemark (d a : Reg) (ma : Bool) (s : State) : Host.Outcome State Fault Refusal :=
  issue [(a, ma)] (some d) (fun s =>
    let va := s.cur.xr a
    if d = 0 then .trap .rsvfld {} s
    else if 0x20000 ≤ va.toNat ∨ va.toNat % 8 ≠ 0 then .trap .access { d0 := va, d1 := 8 } s
    else match s.check (s.agent s.curCore) .load 8 8 va with
      | .ok (.mem k) =>
        if 4 ≤ s.cur.watches.length then .trap .qfull {} s
        else if s.interlocked false va 8 || s.mustFollow s.cur.uid false va 8 (.mem k) then .stay s
        else .retire (s.modCur fun x => { x.markEmpty d with watches := x.watches ++ [{ reg := d, off := keyOff k }] })
      | _ => .trap .access { d0 := va, d1 := 8 } s) s

/-- FEWAIT (R250). -/
def execFewait (a : Reg) (_ma : Bool) (s : State) : Host.Outcome State Fault Refusal :=
  issue [(a, false)] none .retire s

end Sys2Proof.Machine
end

