-- ==== Sys2Proof/Machine/Cells.lean ====
section
/-! DEFINITION. The cell instructions (R277 to R285): CDEF, CBIND, CUNBIND, CST, CSNAP, CLD, COMMIT, ABANDON and CSTAT. Each request is
served by one function, at issue or at the end of a quantum (R389). -/

namespace Sys2Proof.Machine

/-- What the SDIR does with a request: it is not accepted and the instruction waits (R258); it is kept unaccepted (CBIND, CUNBIND); it is
accepted and answered later; it is answered. -/
inductive SdirAns where
  | wait (s : State)
  | hold (s : State)
  | later (s : State)
  | ans (a : Ans)
deriving DecidableEq, Repr

/-- FN of a cell request (R197). -/
def fnCdef : Nat := 0
def fnCbind : Nat := 1
def fnCunbind : Nat := 2
def fnCst : Nat := 3
def fnCommit : Nat := 6
def fnAbandon : Nat := 7

/-- A cause of a cell request with a cell id in D0 (R393). -/
def sdirCause (c : Cause) (id : Nat) (s : State) : SdirAns := .ans (.cause c { d0 := BitVec.ofNat 64 id } s)

/-! ## Waiting behind a waiting commit -/

/-- Does a unit still wait at a cell instruction: running on a thread, or with a request the SDIR keeps? -/
def State.waitsAtSdir (s : State) (asid uid : Nat) : Bool :=
  !(s.threadsWhere fun _ _ th => th.running && th.ctx.uid == uid).isEmpty || (s.part asid).qreqs.any fun r => r.uid == uid

/-- Does an earlier request still wait for its turn (R144)? In a deterministic launch the end of a quantum serves in its own order (R389). -/
def State.behind (s : State) (asid uid : Nat) : Bool :=
  !(s.part asid).launch.deterministic && ((s.part asid).sdir.waitq.takeWhile (· ≠ uid)).any fun u => s.waitsAtSdir asid u

/-- Must a request wait unaccepted: a commit waits, or an earlier request does (R144)? A CST that waits for a publication holds back no other
request (R143). -/
def State.sdirBlocked (s : State) (asid uid : Nat) : Bool := (s.part asid).sdir.waitc || s.behind asid uid

/-- A COMMIT comes after the requests that wait from before it: they belong to the generation that it closes (R143, R144). One that finds a commit waiting is
answered at once (GENLIMIT). -/
def State.commitBlocked (s : State) (asid uid : Nat) : Bool := !(s.part asid).sdir.waitc && s.behind asid uid

/-- The unit takes its place among the waiting requests. -/
def State.queueSdir (s : State) (asid uid : Nat) : State :=
  s.modSdir asid fun d => if d.waitq.contains uid then d else { d with waitq := d.waitq ++ [uid] }

/-- The unit's CST waits for a publication (R143). -/
def State.queuePub (s : State) (asid uid : Nat) : State :=
  s.modSdir asid fun d => if d.pubq.contains uid then d else { d with pubq := d.pubq ++ [uid] }

/-- The unit no longer waits. -/
def State.unqueueSdir (s : State) (asid uid : Nat) : State :=
  s.modSdir asid fun d => { d with waitq := d.waitq.filter (· ≠ uid), pubq := d.pubq.filter (· ≠ uid) }

/-! ## CDEF -/

/-- The cell a CDEF descriptor describes, with free buffers; none for a nonzero zero-field, an extent beyond the rank or an unused type
(R278, R279). -/
def cellOf (w : List Word) : Option Cell :=
  let w0 := nth 0 w 0
  let w1 := nth 0 w 1
  let ext := Vector.ofFn fun (i : Fin 4) => wfield w0 (16 * i.val) 16 + 1
  let rank := wfield w1 4 2 + 1
  let c : Cell :=
    { etype := wfield w1 0 4, rank := rank, ext := ext, bufA := nth 0 w 2, bufB := nth 0 w 3, tagA := none, tagB := none, cgen := 0
      bind := { entry := none, prec := [] }, waiting := [], state := .written, cnt := 0, dist := 0, counter := 0, reclaim := none, copy := none, task := none }
  if wfield w1 6 58 ≠ 0 ∨ (etypeBits c.etype).isNone ∨ ((upTo 4).any fun i => decide (rank ≤ i) && vget ext i 1 != 1) ∨ 2 ^ 32 < c.bytes then none
  else some c

/-- Does a buffer of n bytes lie where R137 allows it? The walk of a granule that a failed entry stops gives the granule's error. -/
def State.bufFault (s : State) (asid : Nat) (va : Word) (n : Nat) : Option (Cause × Detail) :=
  let shape := some (Cause.cellshape, ({} : Detail))
  if va.toNat % 64 ≠ 0 then shape
  else match wfield va 60 4 with
    | 3 =>
      if wfield va 0 24 < 0x400000 then shape
      else match s.check (systemAgent asid) .engWrite 1 n va with
        | .ok (.mem _) => none
        | _ => shape
    | 4 =>
      if wfield va 48 12 ≠ 0 ∨ 2 ^ 48 < wfield va 0 48 + n then shape
      else
        let first := wfield va 0 48 / 65536
        ((upTo ((wfield va 0 48 + n - 1) / 65536 - first + 1)).map fun i =>
          match (walk s 0 asid ((first + i) * 65536)).res with
          | .page _ _ true _ => none
          | .ecc g => some (Cause.eccunc, ({ d0 := BitVec.ofNat 64 g } : Detail))
          | _ => shape).foldl (fun a b => a.or b) none
    | _ => shape

/-- CDEF at its acceptance (R279). -/
def State.cdefServe (s : State) (asid : Nat) (a : Word) (desc : List Word) : SdirAns :=
  let id := a.toNat
  let d := (s.part asid).sdir
  if 2 ^ 20 ≤ id ∨ (tget d.cells id).isSome then sdirCause .cellbad id s
  else match cellOf desc with
    | none => sdirCause .cellshape id s
    | some c =>
      if wfield c.bufA 60 4 ≠ wfield c.bufB 60 4 then sdirCause .cellshape id s
      else match (s.bufFault asid c.bufA c.span).or (s.bufFault asid c.bufB c.span) with
        | some (.cellshape, _) => sdirCause .cellshape id s
        | some (e, det) => .ans (.cause e det (s.noteEcc e det))
        | none =>
          match (s.walked asid c.bufB c.span).sdirZero asid c.bufA c.span with
          | .error (e, det) => .ans (.cause e det (s.noteEcc e det))
          | .ok s' =>
            let k := d.openGen
            .ans (.done (s'.modSdir asid fun d => { d with cells := tput d.cells id { c with tagA := some k, cgen := k } }))

/-! ## CBIND and CUNBIND -/

/-- The distinct precedents of a CBIND descriptor in the order given; none for a nonzero zero-field or more than 16 (R278, R279). -/
def precedentsOf (w : List Word) : Option (List Nat) :=
  let n := wfield (nth 0 w 1) 0 5
  let slot := fun i => wfield (nth 0 w (2 + i / 2)) (32 * (i % 2)) 32
  if 16 < n ∨ wfield (nth 0 w 1) 5 59 ≠ 0 ∨ ((upTo 16).any fun i => decide (2 ^ 20 ≤ slot i) || (decide (n ≤ i) && slot i != 0)) then none
  else some ((upTo n).map slot)

/-- The bindings of the cells once the changes recorded against k have applied, cell c having `bind` (R141). -/
def bindingsAt (cells : Tbl Cell) (k c : Nat) (bind : Binding) : Tbl Binding :=
  tmap cells fun i e => if i = c then bind else ((e.waiting.filter fun w => decide (w.1 ≤ k)).getLast?.map (·.2)).getD e.bind

/-- The cells of each distance to C along "reads" edges: level 0 is C, level n + 1 the cells not seen that read a cell of level n. -/
def cycleLevels (g : Tbl Binding) : Nat → List Nat → List Nat → List (List Nat)
  | 0, _, _ => []
  | fuel + 1, level, seen =>
    if level.isEmpty then []
    else
      let next := g.filterMap fun e => if !seen.contains e.1 && e.2.prec.any level.contains then some e.1 else none
      level :: cycleLevels g fuel next (seen ++ next)

/-- From a cell, the least precedent of each level in turn: the smallest of the shortest paths (R141). -/
def cyclePath (g : Tbl Binding) : List (List Nat) → Nat → List Nat
  | [], _ => []
  | level :: rest, c =>
    match argMin id (((tget g c).map (·.prec)).getD [] |>.filter level.contains) with
    | none => []
    | some p => p :: cyclePath g rest p

/-- The path of the cycle that a binding of C would close: C and the cells after it, or none (R141). -/
def cycleOf (g : Tbl Binding) (c : Nat) : Option (List Nat) :=
  let levels := cycleLevels g (g.length + 1) [c] [c]
  let prec := ((tget g c).map (·.prec)).getD []
  match (upTo levels.length).find? fun i => prec.any (nth [] levels i).contains with
  | none => none
  | some n => some (c :: (cyclePath g ((levels.take (n + 1)).reverse) c).take n)

/-- The record of a cycle, in D0 to D3 (R141). -/
def cycleDetail (path : List Nat) : Detail :=
  let total := path.length
  let named := if total ≤ 8 then path else path.take 7 ++ [path.getLastD 0]
  let v := packNat ([(240, 16, satN 16 total), (236, 4, min 8 total)] ++ (upTo named.length).map fun i => (20 * i, 20, nth 0 named i))
  { d0 := BitVec.ofNat 64 v, d1 := BitVec.ofNat 64 (v / 2 ^ 64), d2 := BitVec.ofNat 64 (v / 2 ^ 128), d3 := BitVec.ofNat 64 (v / 2 ^ 192) }

/-- A change recorded against the open generation; it replaces an earlier one of the same cell and generation (R139). -/
def Cell.record (c : Cell) (k : Nat) (b : Binding) : Cell := { c with waiting := (c.waiting.filter fun w => w.1 ≠ k) ++ [(k, b)] }

/-- Precedent edges and waiting changes of a partition (R140). -/
def Sdir.edges (cells : Tbl Cell) : Nat := cells.foldl (fun n e => n + e.2.bind.prec.length + (e.2.waiting.foldl (fun m w => m + w.2.prec.length) 0)) 0
def Sdir.changes (cells : Tbl Cell) : Nat := cells.foldl (fun n e => n + e.2.waiting.length) 0

/-- CBIND at its acceptance (R279). -/
def State.cbindServe (s : State) (asid : Nat) (a : Word) (desc : List Word) : SdirAns :=
  let id := a.toNat
  let d := (s.part asid).sdir
  let entry := nth 0 desc 0
  if (tget d.cells id).isNone then sdirCause .cellbad id s
  else if wfield entry 48 16 ≠ 0x4000 ∨ wfield entry 0 2 ≠ 0 then sdirCause .formula id s
  else match precedentsOf desc with
    | none => .ans (.cause .bindlimit {} s)
    | some prec =>
      match prec.find? fun p => (tget d.cells p).isNone with
      | some p => sdirCause .cellbad p s
      | none =>
        let bind : Binding := { entry := some entry, prec := (distinct prec.reverse).reverse }
        let cells := tmod d.cells id fun c => c.record d.openGen bind
        if 2 ^ 24 < Sdir.edges cells ∨ 65536 < Sdir.changes cells then .ans (.cause .bindlimit {} s)
        else match cycleOf (bindingsAt d.cells d.openGen id bind) id with
          | some path => .ans (.cause .cycle (cycleDetail path) s)
          | none => .ans (.done (s.modSdir asid fun d => { d with cells := cells }))

/-- CUNBIND at its acceptance (R279). R140 names a cause for a CBIND beyond 65,536 waiting changes and none for a CUNBIND: it is accepted (log 68, DESIGN
CHOICE). -/
def State.cunbindServe (s : State) (asid : Nat) (a : Word) : SdirAns :=
  let id := a.toNat
  let d := (s.part asid).sdir
  if (tget d.cells id).isNone then sdirCause .cellbad id s
  else .ans (.done (s.modCell asid id fun c => c.record d.openGen { entry := none, prec := [] }))

/-! ## CST -/

/-- CST at its acceptance (R143, R280): steps 4 to 6, then the target's buffer and the write. A formula task writes its own cell in its own
generation (R147); a discarded one has none (R160). A CST to a cell whose earlier accepted CST still waits for its reclaim is accepted at once and queued
behind that one, though it may then wait for a publication (log 23, DESIGN CHOICE: R143 does not say when it is accepted). -/
def State.cstServe (s : State) (asid core uid tid : Nat) (kind : UnitKind) (a b : Word) : SdirAns :=
  let id := wfield a 32 20
  let off := wfield a 0 32
  let n := wfield b 32 18
  let d := (s.part asid).sdir
  match tget d.cells id with
  | none => sdirCause .cellbad id s
  | some c =>
    if c.bytes < off + n then sdirCause .cellshape id s
    else
      let own := (kind.formula?.any fun f => f.1 == id) && c.task == some tid
      if !own && (c.bind.entry.isSome || kind.formula?.isSome) then sdirCause .formula id s
      else
        let k := match kind.formula? with | some f => f.2 | none => d.openGen
        let p : PendCst := { cell := id, gen := k, off := off, count := n, srcOff := wfield b 0 17, core := core, uid := uid }
        let keep := fun (s : State) => SdirAns.later (s.modSdir asid fun d => { d with csts := d.csts ++ [p] })
        if d.csts.any fun q => q.cell == id then keep s
        else match s.prepare asid id k with
          | .publication => .wait s
          | .reclaim s' => keep s'
          | .cause e det => .ans (.cause e det (s.noteEcc e det))
          | .ready buf s' =>
            match s'.cstWrite asid p buf with
            | .cause e det t => .ans (.cause e det { s with dies := t.dies, pkg := t.pkg })
            | r => .ans r

/-! ## COMMIT, ABANDON and CSTAT -/

/-- COMMIT at its acceptance (R144, R283). -/
def State.commitServe (s : State) (asid : Nat) : SdirAns :=
  let d := (s.part asid).sdir
  let k := BitVec.ofNat 64 d.openGen
  if d.waitc then .ans (.cause .genlimit {} s)
  else if d.recalc then .ans (.x k (s.modSdir asid fun d => { d with waitc := true }))
  else .ans (.x k (s.modSdir asid fun d => d.beginCommit))

/-- ABANDON at its acceptance (R159, R283). A formula task of the generation discarded gets no answer: it stops at its next boundary
(R160). -/
def State.abandonServe (s : State) (asid uid : Nat) (kind : UnitKind) (dest : Reg) : SdirAns :=
  let d := (s.part asid).sdir
  let k := d.pgen + 1
  if !d.recalc ∨ d.notice.isSome then .ans (.x 0 s)
  else if !d.closedGen ∧ d.csts.any fun p => p.gen == k then .later (s.modSdir asid fun d => { d with abandonq := d.abandonq ++ [(uid, dest)] })
  else match s.abandonFault asid with
    | some (e, det) => .ans (.cause e det (s.noteEcc e det))
    | none =>
      if kind.formula?.any fun f => f.2 == k then .wait ((s.abandon asid).modUnit uid fun x => { x with wait := .no })
      else .ans (.x (BitVec.ofNat 64 k) (s.abandon asid))

/-- The larger tag of a cell's buffers that is not free (R284). -/
def Cell.newest (c : Cell) : Nat := max (c.tagA.getD 0) (c.tagB.getD 0)

/-- CSTAT (R284). -/
def State.cstatServe (s : State) (asid : Nat) (a : Word) : SdirAns :=
  let d := (s.part asid).sdir
  let id := wfield a 0 63
  if wfield a 63 1 = 1 then (if id = 0 then .ans (.x d.shgen s) else sdirCause .cellbad id s)
  else match tget d.cells id with
    | none => sdirCause .cellbad id s
    | some c =>
      .ans (.x (pack [(60, 4, c.state.code), (59, 1, b2n c.bind.entry.isSome), (58, 1, b2n (!c.waiting.isEmpty)), (57, 1, b2n c.loc), (0, 48, c.newest)]) s)

/-! ## Serving -/

/-- One request at the SDIR. CDEF, CST, CBIND and CUNBIND wait behind a waiting commit, but for a formula task's CST to its own cell, which
belongs to the recalculating generation (R144, R147). -/
def State.cellServe (s : State) (asid : Nat) (q : QReq) (fn : Nat) (a b : Word) (desc : List Word) : SdirAns :=
  let x := (s.unitCtx q.uid).getD Ctx.reset
  let kind := x.kind
  let own := decide (fn = fnCst) && kind.formula?.any fun f => f.1 == wfield a 32 20
  if fn = fnCommit then (if s.commitBlocked asid q.uid then .wait (s.queueSdir asid q.uid) else (s.unqueueSdir asid q.uid).commitServe asid)
  else if fn = fnAbandon then s.abandonServe asid q.uid kind q.dest
  else if !own && s.sdirBlocked asid q.uid then
    (if (s.part asid).sdir.pubq.contains q.uid then .wait s
     else if fn = fnCbind ∨ fn = fnCunbind then .hold (s.queueSdir asid q.uid) else .wait (s.queueSdir asid q.uid))
  else
    let was := (s.part asid).sdir.pubq
    let s := s.unqueueSdir asid q.uid
    let r :=
      if fn = fnCdef then s.cdefServe asid a desc
      else if fn = fnCbind then s.cbindServe asid a desc
      else if fn = fnCunbind then s.cunbindServe asid a
      else s.cstServe asid q.core q.uid x.tid kind a b
    match r with
    | .wait s => .wait (if was.contains q.uid then s.modSdir asid fun d => { d with pubq := was } else s.queuePub asid q.uid)
    | r => r

/-- Requests that the SDIR kept are accepted in arrival order, up to the first unit that issues its instruction again by itself (R144). -/
def State.pumpCells (s : State) (asid : Nat) : Nat → State
  | 0 => s
  | fuel + 1 =>
    let p := s.part asid
    match p.sdir.waitq with
    | [] => s
    | u :: _ =>
      if p.sdir.waitc ∨ p.launch.deterministic then s
      else match p.qreqs.find? fun r => r.uid == u with
        | some r =>
          match r.op with
          | .cell fn a b desc =>
            match s.cellServe asid r fn a b desc with
            | .ans x => (((x.deliver r.uid r.dest).unqueueSdir asid u).modPart asid fun p => { p with qreqs := p.qreqs.erase r }).pumpCells asid fuel
            | _ => s
          | _ => s
        | none => if s.waitsAtSdir asid u then s else (s.unqueueSdir asid u).pumpCells asid fuel

/-- The pump over everything that waits. -/
def State.pump (s : State) (asid : Nat) : State := s.pumpCells asid ((s.part asid).sdir.waitq.length + 1)

/-- The issuing instruction's request: served at once, or at the end of the quantum in a deterministic launch (R285). -/
def cellRequest (fn : Nat) (a b : Word) (desc : List Word) (d : Reg) (s : State) : Res :=
  let asid := s.curK.asidN
  let op := QOp.cell fn a b desc
  let q := s.curReq d op
  if s.accessesOut s.cur.uid then .stay s
  else if (s.launchOf s.curCore).deterministic then .stay (s.sendQ d op)
  else match s.cellServe asid q fn a b desc with
    | .wait s => .stay s
    | .hold s => .stay ((s.keepReq asid q).awaitAnswer)
    | .later s => .stay s.awaitAnswer
    | .ans (.cause c det s) => .trap c det (s.pump asid)
    | .ans (.done s) => .retire (s.pump asid)
    | .ans (.x v s) => setRetire d v (s.pump asid)
    | .ans r => r.now d

/-! ## The instructions -/

/-- The 8-byte words of some bytes. -/
def wordsOf (bs : List Byte) : List Word := (upTo (bs.length / 8)).map fun i => BitVec.ofNat 64 (leNat ((bs.drop (8 * i)).take 8))

def execCdef (a b : Reg) (ma mb : Bool) (s : State) : Host.Outcome State Fault Refusal :=
  issue [(a, ma), (b, mb)] none (fun s =>
    wideLoad 32 32 (s.cur.xr b) (fun bs s => cellRequest fnCdef (s.cur.xr a) 0 (wordsOf bs) 0 s) s) s

def execCbind (a b : Reg) (ma mb : Bool) (s : State) : Host.Outcome State Fault Refusal :=
  issue [(a, ma), (b, mb)] none (fun s =>
    wideLoad 16 80 (s.cur.xr b) (fun bs s => cellRequest fnCbind (s.cur.xr a) 0 (wordsOf bs) 0 s) s) s

def execCunbind (a : Reg) (ma : Bool) (s : State) : Host.Outcome State Fault Refusal :=
  issue [(a, ma)] none (fun s => cellRequest fnCunbind (s.cur.xr a) 0 [] 0 s) s

/-- CST: steps 1 to 3 at issue (R280). -/
def execCst (a b : Reg) (ma mb : Bool) (s : State) : Host.Outcome State Fault Refusal :=
  issue [(a, ma), (b, mb)] none (fun s =>
    let va := s.cur.xr a
    let w := s.cur.xr b
    let n := wfield w 32 18
    if wfield va 52 12 ≠ 0x600 then .trap .access { d0 := va, d1 := BitVec.ofNat 64 n } s
    else if wfield w 50 14 ≠ 0 ∨ wfield w 17 15 ≠ 0 ∨ n = 0 ∨ 131072 < n then .trap .cellshape { d0 := BitVec.ofNat 64 (wfield va 32 20) } s
    else if 0x20000 < wfield w 0 17 + n then .trap .access { d0 := BitVec.ofNat 64 (wfield w 0 17), d1 := BitVec.ofNat 64 n } s
    else if s.interlocked false (BitVec.ofNat 64 (wfield w 0 17)) n then .stay s
    else cellRequest fnCst va w [] 0 s) s

def execCommit (d : Reg) (s : State) : Host.Outcome State Fault Refusal :=
  issue [] (some d) (fun s => cellRequest fnCommit 0 0 [] d s) s

def execAbandon (d : Reg) (s : State) : Host.Outcome State Fault Refusal :=
  issue [] (some d) (fun s => cellRequest fnAbandon 0 0 [] d s) s

def execCstat (d a : Reg) (ma : Bool) (s : State) : Host.Outcome State Fault Refusal :=
  issue [(a, ma)] (some d) (fun s =>
    match s.cstatServe s.curK.asidN (s.cur.xr a) with
    | .ans r => r.now d
    | _ => .stay s) s

/-! ## Snapshots -/

/-- The generation a waiting snapshot of a unit on core c binds to now (R150, R151, R153). -/
def State.snapNow (s : State) (c : Nat) (n : Snap) : Option Nat :=
  if n.mode = 0 then s.bindCurrent c else if n.want ≤ (s.part (s.core c).asidN).sdir.pgen then some n.want else none

/-- Is any snapshot of the context open in a slot? -/
def Ctx.freeSnap (x : Ctx) : Option Nat := (upTo 4).find? fun i => (vget x.snaps i none).isNone

/-- The context once its snapshot in a slot is closed. R281 does not say what becomes of a CSNAP whose snapshot has not bound: its register is filled with 0,
as the close answers, and its in-flight entry is done (log 23, DESIGN CHOICE). -/
def Ctx.closeSnap (x : Ctx) (slot : Nat) : Ctx :=
  match vget x.snaps slot none with
  | none => x
  | some n =>
    let y := { x with snaps := vset x.snaps slot none }
    if n.gen.isSome then y
    else { y with
      producers := if n.dest = 0 then y.producers else y.producers ++ [(n.dest.toNat, 0)]
      ops := y.ops.map fun (o : InFlight) => if o.kind = 6 ∧ o.addr = n.pc ∧ o.state < 2 then { o with state := 2 } else o }

/-- CSNAP (R281). Only an explicit one has an entry in the in-flight table (R420). Closing a slot whose snapshot has not bound is `Ctx.closeSnap` (log 23,
DESIGN CHOICE). -/
def execCsnap (d a : Reg) (ma : Bool) (s : State) : Host.Outcome State Fault Refusal :=
  issue [(a, ma)] (some d) (fun s =>
    let w := s.cur.xr a
    let x := s.cur
    let low := wfield w 0 48
    let sd := (s.part s.curK.asidN).sdir
    let form := wfield w 62 2
    if wfield w 48 14 ≠ 0 ∨ (form < 2 ∧ low ≠ 0) ∨ (form = 3 ∧ 4 ≤ low) then .trap .cellbad { d0 := w } s
    else if form = 3 then
      setRetire d (Snap.handle low (vget x.snaps low none)) (s.modCur fun x => x.closeSnap low)
    else match x.freeSnap with
      | none => .trap .genlimit {} s
      | some slot =>
        if form = 2 ∧ sd.openGen < low then .trap .genlimit {} s
        else
          let fresh := form = 1 ∧ sd.recalc
          let n : Snap :=
            { gen := none, mode := if form = 2 then 2 else if fresh then 1 else 0, want := if form = 2 then low else if fresh then sd.pgen + 1 else 0
              dest := d, pc := x.pc, order := s.nextAge }
          let n := { n with gen := s.snapNow s.curCore n }
          let s := { s with nextAge := s.nextAge + 1 }.modCur fun x => { x with snaps := vset x.snaps slot (some n) }
          if n.gen.isSome then .retire (s.produce d (Snap.handle slot (some n)))
          else .retire ((if form = 2 then (s.addOp x.pc 6 d).2 else s).empty d)) s

/-- The context once a waiting snapshot in a slot has bound to g: its handle is on its way (R152, R281). -/
def Ctx.bindSnap (x : Ctx) (slot g : Nat) (inSlot : Bool) : Ctx :=
  match vget x.snaps slot none with
  | none => x
  | some n =>
    let n' := { n with gen := some g }
    let y := { x with
      snaps := vset x.snaps slot (some n')
      producers := if n.dest = 0 then x.producers else x.producers ++ [(n.dest.toNat, Snap.handle slot (some n'))] }
    match x.ops.find? fun o => o.kind == 6 && o.addr == n.pc && decide (o.state < 2) with
    | some o => y.setOp inSlot o.seq 2 none
    | none => y

/-- The core where a unit's context lies. -/
def State.unitCore (s : State) (uid : Nat) : Option Nat :=
  match s.findUnit uid with
  | some (c, _) => some c
  | none =>
    match (s.dies.toList.flatMap fun (d : Die) => d.slots.filterMap fun e => if e.2.ctx.uid = uid then some (s.slotCore e.2) else none).head? with
    | some c => some c
    | none => (s.cores.find? fun p => p.2.ready.any fun e => match e.item with | .ctx x => x.uid == uid | _ => false).map (·.1)

/-- A waiting snapshot binds (R150, R153). -/
def execSnapBind (uid slot : Nat) (s : State) : Host.Outcome State Fault Refusal :=
  match s.unitCtx uid, s.unitCore uid with
  | some x, some c =>
    match vget x.snaps slot none with
    | some n =>
      if n.gen.isSome then .next s
      else match s.snapNow c n with
        | some g => .next (s.modUnit uid fun x => x.bindSnap slot g (s.inSlot uid))
        | none => .next s
    | none => .next s
  | _, _ => .next s

/-! ## CLD -/

/-- The generation a selector names: none for a fault; some none while its binding waits (R282). -/
def State.selGen (s : State) (sel : Word) : Option (Option Nat) :=
  if sel = 0 then some (s.readGen s.curCore s.cur)
  else if 4 < sel.toNat then none
  else (vget s.cur.snaps (sel.toNat - 1) none).map (·.gen)

/-- The read of CLD, of n bytes at the buffer address that its snapshot gives, in its place behind the unit's earlier accesses (R80, R102). A hold goes on
with that address (R44). -/
def cldRead (n : Nat) (d : Reg) (va buf : Word) (s : State) : Res :=
  match s.reach .load 1 n buf with
  | .error m => m.res .load buf s
  | .ok (.mem k) =>
    if s.moveWait s.cur || s.mustFollow s.cur.uid false buf n (.mem k) then .stay s
    else
      let s := s.touchTlb s.curCore buf
      match s.badIn k n with
      | some g => s.eccTrap g k n
      | none =>
        if s.lineHeld k then .retire ((s.ateSend (ateRank s.curCore s.curThread.val) (.read k n false s.cur.uid d false)).empty d)
        else .retire ((s.correct k n).produce d (BitVec.ofNat 64 (s.readLe k n)))
  | .ok _ => .trap .access { d0 := va, d1 := 8 } s

/-- CLD (R282). It is none of the scalar accesses that R416 lists, so no data breakpoint matches it. -/
def execCld (d a b : Reg) (ma mb : Bool) (s : State) : Host.Outcome State Fault Refusal :=
  issue [(a, ma), (b, mb)] (some d) (fun s =>
    let va := s.cur.xr a
    let asid := s.curK.asidN
    let id := wfield va 32 20
    let off := wfield va 0 32
    let cz := fun c => Res.trap c { d0 := BitVec.ofNat 64 id } s
    if wfield va 52 12 ≠ 0x600 then .trap .access { d0 := va, d1 := 8 } s
    else if off % 8 ≠ 0 then .trap .ldalign { d0 := va, d1 := 8 } s
    else match tget (s.part asid).sdir.cells id with
      | none => cz .cellbad
      | some c =>
        let n := min 8 (c.bytes - off)
        match s.cur.redo, s.selGen (s.cur.xr b) with
        | some r, _ => cldRead n d va r.va s
        | none, some none => .stay s
        | none, some (some g) =>
          if g < c.cgen then cz .cellbad
          else if c.bytes ≤ off then cz .cellshape
          else match s.cellRead asid id off n g with
            | .error (e, det) => .trap e det s
            | .ok buf => cldRead n d va buf s
        | none, none => if c.bytes ≤ off then cz .cellshape else cz .snapold) s

end Sys2Proof.Machine
end

