-- ==== Sys2Proof/Machine/Control.lean ====
section
/-! DEFINITION. Branches and jumps (R238). -/

namespace Sys2Proof.Machine

def execBeq (a b : Reg) (imm : BitVec 11) (ma mb : Bool) (s : State) : Host.Outcome State Fault Refusal := branch (· == ·) a b imm ma mb s
def execBne (a b : Reg) (imm : BitVec 11) (ma mb : Bool) (s : State) : Host.Outcome State Fault Refusal := branch (· != ·) a b imm ma mb s
def execBlt (a b : Reg) (imm : BitVec 11) (ma mb : Bool) (s : State) : Host.Outcome State Fault Refusal :=
  branch (fun x y => x.slt y) a b imm ma mb s
def execBge (a b : Reg) (imm : BitVec 11) (ma mb : Bool) (s : State) : Host.Outcome State Fault Refusal :=
  branch (fun x y => !x.slt y) a b imm ma mb s
def execBltu (a b : Reg) (imm : BitVec 11) (ma mb : Bool) (s : State) : Host.Outcome State Fault Refusal :=
  branch (fun x y => x.ult y) a b imm ma mb s
def execBgeu (a b : Reg) (imm : BitVec 11) (ma mb : Bool) (s : State) : Host.Outcome State Fault Refusal :=
  branch (fun x y => !x.ult y) a b imm ma mb s

/-- The link is written before the target is fetched. -/
def execJal (d : Reg) (imm : BitVec 19) (s : State) : Host.Outcome State Fault Refusal :=
  issue [] (some d) (fun s => .jump (s.cur.pc + offJ imm) (s.modCur fun x => x.setX d (x.pc + 4))) s

/-- A misaligned target stops at the JALR with FETCHALIGN. -/
def execJalr (d a : Reg) (imm : BitVec 12) (ma : Bool) (s : State) : Host.Outcome State Fault Refusal :=
  issue [(a, ma)] (some d) (fun s =>
    let target := eaI s.cur a imm
    if target.toNat % 4 ≠ 0 then .trap .fetchalign { d0 := target } s
    else .jump target (s.modCur fun x => x.setX d (x.pc + 4))) s

end Sys2Proof.Machine
end

