-- ==== Sys2Proof/Machine/Tcw.lean ====
section
/-! DEFINITION. Tile command words: their fields and modifier bits (R202, R307, R331). -/

namespace Sys2Proof.Machine

/-- The fields of a tile command word (R202). -/
structure Tcw where
  top : Nat
  ver : Nat
  mod : Nat
  fs : Nat
  rsv : Nat
  cx : Nat
  base : Word
  ra : Nat
  rb : Nat
  rc : Nat
  aux : Nat
deriving DecidableEq, Repr

def Tcw.of (w : BitVec 256) : Tcw :=
  let v := w.toNat
  { top := fieldOf v 248 8, ver := fieldOf v 244 4, mod := fieldOf v 236 8, fs := fieldOf v 230 6
    rsv := fieldOf v 224 6 + fieldOf v 64 13, cx := fieldOf v 192 32, base := BitVec.ofNat 64 (fieldOf v 128 64)
    ra := fieldOf v 111 17, rb := fieldOf v 94 17, rc := fieldOf v 77 17, aux := fieldOf v 0 64 }

/-- The word with its BASE replaced (R204). -/
def patchBase (w : BitVec 256) (base : Word) : BitVec 256 :=
  let v := w.toNat
  BitVec.ofNat 256 (v - fieldOf v 128 64 * 2 ^ 128 + base.toNat * 2 ^ 128)

/-- Bit i of a field. -/
def bitN (v i : Nat) : Bool := fieldOf v i 1 == 1

def Tcw.acc (t : Tcw) : Bool := bitN t.mod 0
def Tcw.clr (t : Tcw) : Bool := bitN t.mod 1
def Tcw.scl (t : Tcw) : Bool := bitN t.mod 2
def Tcw.sat (t : Tcw) : Bool := bitN t.mod 3
def Tcw.shd (t : Tcw) : Bool := bitN t.mod 4
def Tcw.msk (t : Tcw) : Bool := bitN t.mod 5
def Tcw.bent (t : Tcw) : Bool := bitN t.mod 6
def Tcw.wm (t : Tcw) : Bool := bitN t.mod 0
def Tcw.bar (t : Tcw) : Bool := bitN t.mod 1
def Tcw.nw (t : Tcw) : Bool := bitN t.mod 2
def Tcw.idx (t : Tcw) : Bool := bitN t.mod 5
def Tcw.lh (t : Tcw) : Bool := bitN t.mod 6
/-- AUX[63] of a vector-stream VSEL: the condition is a record (R303). -/
def Tcw.recCond (t : Tcw) : Bool := bitN t.aux 63

def Cmd.tcw (q : Cmd) : Tcw := Tcw.of q.word

end Sys2Proof.Machine
end

