-- ==== Sys2Proof/Machine/Engine.lean ====
section
/-! DEFINITION. What the engines share: element accesses of a command (R40, R287 to R290, R97, R160), its snapshot (R156), fabric channels
(R289), where a command stands, how a step of one ends, and its completion (R93, R206, R219, R419). -/

namespace Sys2Proof.Machine

/-- A command with nothing in it. -/
def Cmd.blank (core asid uid tid thr : Nat) : Cmd where
  top := 0
  word := 0
  ra := 0
  rb := 0
  rc := 0
  rx := 0
  ry := 0
  sa := 0
  sb := 0
  fctl := 0
  apxctl := 0
  msk := 0
  perm := false
  uid := uid
  core := core
  asid := asid
  token := 0
  seq := 0
  pos := 0
  flags := 0
  t2rsv := false
  aux := 0
  snap := none
  snapOrd := none
  tid := tid
  thr := thr
  gotA := []
  gotB := []
  gotX := []
  carry := 0
  enqCycle := 0
  kept := []
  fault := none
  hid := none
  redo := none
  fb := false
  win := 0
  boff := 0

/-- Why a step of a command is not made: the miss, with the access that met it, and the key and bytes of one that met an uncorrectable error. -/
structure EMiss where
  m : Miss
  kind : AccKind
  va : Word
  span : Nat × Nat := (0, 0)
deriving DecidableEq, Repr

/-- Part of a step of a command: it changes the state, or the whole step is not made. -/
abbrev Eng (α : Type) := StateT State (Except EMiss) α

/-- The step meets a cause. -/
def engFault {α : Type} (c : Cause) (d : Detail) : Eng α := fun _ => .error { m := .cause c d, kind := .engRead, va := 0 }

/-- The step waits. -/
def engWait {α : Type} : Eng α := fun _ => .error { m := .busy, kind := .engRead, va := 0 }

/-- The watermark channel that a copy command reports to: MOD[0] and CX[2:0] (R331). -/
def Cmd.ownMark (q : Cmd) : Option Nat :=
  if 0x80 ≤ q.top ∧ q.top < 0x82 ∧ fieldOf q.word.toNat 236 1 = 1 then some (fieldOf q.word.toNat 192 3) else none

/-- Is a write of a discarded formula task's command lost: does it reach the buffer that was freed (R160)? -/
def State.lostWrite (s : State) (q : Cmd) (va : Word) : Bool :=
  (s.part q.asid).sdir.lost.any fun l =>
    l.1 == q.tid && decide (s.placeOf q.core l.2.1 ≤ s.placeOf q.core va) && decide (s.placeOf q.core va < s.placeOf q.core l.2.1 + l.2.2)

/-- Is it a copy, whose source elements streamers read (R329)? -/
def Cmd.isCopy (q : Cmd) : Bool := q.top == 0x80 || q.top == 0x81

/-- Does an access of a command leave by the loopback port of its core (R58)? A streamer's does not. -/
def Cmd.loops (q : Cmd) (write : Bool) (va : Word) : Bool := ownAt q.core va && (write || !q.isCopy)

/-- What an element access of a command reaches; one that a hold has settled goes on from condition 9 (R44). -/
def State.engReach (s : State) (q : Cmd) (write shadow : Bool) (align n : Nat) (va : Word) : Except Miss Hit :=
  let kind : AccKind := if write then .engWrite else .engRead
  let a := s.agent q.core
  match q.redo.filter fun r => r.va == va && r.write == write && (wfield va 60 4 == 4 || wfield va 60 4 == 6) with
  | some r => (s.translate a kind r.addr).map fun pa => .mem (hbmKey pa)
  | none => (s.checkTo shadow a kind align n va).bind fun h => s.resolveCell a kind n q.snap h

/-- An element access of n bytes in the spaces R287 allows: its key; none for a write that is lost. A watermark in its way makes it wait
(R97), and a read by the loopback port or of a line that an ATE holds waits until it has its turn there (R58, R69). A write judges the granules it covers with
the others of its step (`Put.failing`). -/
def engKey (q : Cmd) (write shadow : Bool) (align n : Nat) (va : Word) : Eng (Option Nat) := fun s =>
  let kind : AccKind := if write then .engWrite else .engRead
  let fail := fun (m : Miss) => (Except.error { m := m, kind := kind, va := va } : Except EMiss (Option Nat × State))
  let access := Miss.cause .access { d0 := va, d1 := BitVec.ofNat 64 n }
  if wfield va 60 4 = 5 ∨ wfield va 60 4 = 7 then fail access
  else if write && s.lostWrite q va then .ok (none, s)
  else match s.engReach q write shadow align n va with
    | .error m => fail m
    | .ok (.mem k) =>
      if s.wmBlocked q.core (if write then q.ownMark else none) va n then fail .busy
      else if write then .ok (some k, s.touchTlb q.core va)
      else if s.turnWait q.uid q.seq k (q.loops false va) then fail (.turn k (q.loops false va))
      else match s.badIn k n with
        | some g => .error { m := .cause .eccunc { d0 := BitVec.ofNat 64 g }, kind := kind, va := va, span := (k, n) }
        | none => .ok (some k, (s.correct k n).touchTlb q.core va)
    | .ok _ => fail access

/-- An element read of n bytes. -/
def engRead (q : Cmd) (align n : Nat) (va : Word) : Eng Nat := do
  let k ← engKey q false false align n va
  return (← get).seen q.uid q.seq (k.getD 0) n

/-- Does a command read cell data: has one of its source records a base in space 0x6? -/
def usesCells (rs : List Shape) : Bool := rs.any fun r => r.loc == 0 && wfield r.base 60 4 == 6

/-- The generation that a command's reads through space 0x6 are bound to, once it is known: its issuer's snapshot, or a binding in
current mode (R156). -/
def State.cmdGen (s : State) (q : Cmd) : Option Nat :=
  match q.snap with
  | some g => some g
  | none =>
    match q.snapOrd with
    | none => s.bindCurrent q.core
    | some o =>
      match (s.unitCtx q.uid).bind fun x => (x.snaps.toList.filterMap id).find? fun n => n.order == o with
      | some n => n.gen
      | none => s.bindCurrent q.core

/-- The command with its snapshot bound, if it reads cells and can bind now. -/
def State.bindCmd (s : State) (q : Cmd) (rs : List Shape) : Cmd := if usesCells rs then { q with snap := s.cmdGen q } else q

/-! ## v registers and fabric channels -/

/-- The v registers a LOC 1 record reaches (R288, R290): of the unit wherever its context lies, or of the same thread of a neighbour. -/
def State.vOf (s : State) (q : Cmd) (r : Shape) : Tbl Byte :=
  if r.gang ≠ 0 then (s.ctx (bentCore q.core ((coreInBent q.core + r.gang) % 4)) q.thr).v
  else match s.unitCtx q.uid with
    | some x => x.v
    | none => (s.ctx q.core q.thr).v

/-- Changes them. -/
def State.modV (s : State) (q : Cmd) (r : Shape) (f : Tbl Byte → Tbl Byte) : State :=
  if r.gang ≠ 0 then s.modCtx (bentCore q.core ((coreInBent q.core + r.gang) % 4)) q.thr fun x => { x with v := f x.v }
  else if (s.unitCtx q.uid).isSome then s.modUnit q.uid fun x => { x with v := f x.v }
  else s.modCtx q.core q.thr fun x => { x with v := f x.v }

/-- First byte of a LOC 1 record among v0 to v15. -/
def Shape.vByte (r : Shape) : Nat := 256 * (r.vreg % 16)

/-- Bits [bit + n - 1 : bit] from byte `base` of a table of bytes on. -/
def tblBits (t : Tbl Byte) (base bit n : Nat) : Nat :=
  fieldOf (leNat ((upTo ((bit % 8 + n + 7) / 8)).map fun i => tgetD t (base + bit / 8 + i) 0)) (bit % 8) n

/-- Writes them; `last` clears the bits above them in their last byte (R215). -/
def tblPutBits (t : Tbl Byte) (base bit n v : Nat) (last : Bool) : Tbl Byte :=
  let len := (bit % 8 + n + 7) / 8
  let old := leNat ((upTo len).map fun i => tgetD t (base + bit / 8 + i) 0)
  let keep := if last then old % 2 ^ (bit % 8) else old - fieldOf old (bit % 8) n * 2 ^ (bit % 8)
  ((upTo len).zip (leBytes len (keep + v % 2 ^ n * 2 ^ (bit % 8)))).foldl (fun t p => tputD 0 t (base + bit / 8 + p.1) p.2) t

/-- Channel and bytes of a core's fabric buffer (R289). -/
def Core.fab (k : Core) (ch : Nat) : List Byte := vget k.fabric ch []

/-- Takes the bytes of a LOC 2 source's stream up to its first `need`, as far as the buffer holds them (R289). -/
def State.pullFabric (s : State) (core : Nat) (r : Shape) (need : Nat) (got : List Byte) : List Byte × State :=
  let ch := wfield r.base 16 3
  let n := min (min need r.stream - got.length) ((s.core core).fab ch).length
  if r.loc ≠ 2 ∨ n = 0 then (got, s)
  else (got ++ ((s.core core).fab ch).take n, s.modCore core fun k => { k with fabric := vset k.fabric ch ((k.fab ch).drop n) })

/-- Takes what is there of a LOC 2 source's stream, for a command that reads a source whole. -/
def State.pullAny (s : State) (core : Nat) (r : Shape) (got : List Byte) : List Byte × State :=
  s.pullFabric core r (got.length + min (r.stream - got.length) ((s.core core).fab (wfield r.base 16 3)).length) got

/-- Bytes of a source's stream up to the end of element `i` of it. -/
def Shape.bytesTo (r : Shape) (i : Nat) : Nat := ceilDiv ((i + 1) * r.w) 8

/-- The core that a fabric destination names. -/
def State.fabTarget (s : State) (q : Cmd) (r : Shape) : Nat := (s.lcoreCore q.asid (wfield r.base 0 16)).getD q.core

/-- Is there room for n more bytes in the buffer of a fabric destination, 2 KiB? -/
def State.fabRoom (s : State) (q : Cmd) (r : Shape) (n : Nat) : Bool :=
  decide ((((s.core (s.fabTarget q r)).fab (wfield r.base 16 3)).length + n) ≤ 2048)

/-! ## Elements -/

/-- The element of a source record at an index; `got` are the bytes that a fabric source has taken. -/
def elemRead (q : Cmd) (r : Shape) (got : List Byte) (idx : List Nat) : Eng Nat :=
  if r.loc = 0 then
    let (va, bit, n) := r.elem idx
    if 8 ≤ r.w then engRead q r.align n va
    else do
      let lo ← engRead q 1 1 va
      let hi ← if n = 2 then engRead q 1 1 (va + 1) else pure 0
      return fieldOf (lo + 256 * hi) bit r.w
  else if r.loc = 1 then do return tblBits ((← get).vOf q r) r.vByte (r.linear idx * r.w) r.w
  else
    let bit := r.linear idx * r.w
    if 8 * got.length < bit + r.w then engWait
    else pure (fieldOf (leNat ((got.drop (bit / 8)).take ((bit % 8 + r.w + 7) / 8))) (bit % 8) r.w)

/-- An element's write, ready to be made: n bytes at a key; bits of the byte at a key; bits of a v-register stream or a fabric stream. `own`: it leaves by the
loopback port (R58). -/
inductive Put where
  | mem (k n v : Nat) (own : Bool)
  | bits (k lo n v : Nat) (last own : Bool)
  | vec (bit n v : Nat) (last : Bool)
  | chan (bit n v : Nat) (last : Bool)
deriving DecidableEq, Repr

/-- The write of v as the element of a destination record at an index. -/
def elemPut (q : Cmd) (shadow : Bool) (r : Shape) (idx : List Nat) (v : Nat) : Eng (List Put) :=
  if r.loc = 0 then
    let (va, bit, n) := r.elem idx
    if 8 ≤ r.w then do
      let k ← engKey q true shadow r.align n va
      return (k.map fun k => Put.mem k n v (q.loops true va)).toList
    else do
      let last := nth 0 idx 0 + 1 == r.e 0
      let k ← engKey q true shadow 1 1 va
      let low := if n = 2 then 8 - bit else r.w
      let j ← if n = 2 then engKey q true shadow 1 1 (va + 1) else pure none
      let own := q.loops true va
      return (k.map fun k => Put.bits k bit low (v % 2 ^ low) (last && n == 1) own).toList ++
        (j.map fun j => Put.bits j 0 (r.w - low) (v / 2 ^ low) last own).toList
  else
    let i := r.linear idx
    let last := i + 1 == r.count
    if r.loc = 1 then pure [.vec (i * r.w) r.w v last] else pure [.chan (i * r.w) r.w v last]

/-- Bytes that a write sends on a fabric channel: whole words of 8 bytes, and what remains at the end of the stream (R289). -/
def Put.sent : Put → Nat
  | .chan bit n _ last => if last then (bit % 64 + n + 7) / 8 else (bit % 64 + n) / 64 * 8
  | _ => 0

/-- The bits of memory that a write covers, as the first and the number. -/
def Put.bits? : Put → Option (Nat × Nat)
  | .mem k n _ _ => some (8 * k, 8 * n)
  | .bits k lo n _ last _ => some (8 * k + lo, if last then 8 - lo else n)
  | _ => none

/-- Do the writes of a step cover a granule whole (R73)? -/
def State.putsCover (s : State) (all : List Put) (g : Nat) : Bool :=
  let rs := all.filterMap Put.bits?
  (upTo (8 * s.granuleSize g)).all fun i => rs.any fun r => decide (r.1 ≤ 8 * g + i) && decide (8 * g + i < r.1 + r.2)

/-- The failed granules that a write touches. -/
def State.failedAt (s : State) (p : Put) : List Nat :=
  if s.bad.isEmpty then []
  else match p.bits? with
    | some (b, n) => (s.granulesOf (b / 8) ((b % 8 + n + 7) / 8)).filter fun g => s.bad.contains g
    | none => []

/-- A failed granule that a write touches and that the writes of its step do not cover whole: the write is not performed (R73). -/
def State.putFails (s : State) (all : List Put) (p : Put) : Option Nat := (s.failedAt p).find? fun g => !s.putsCover all g

/-- The number of the first element of a step that a failed granule stops, with the granule. -/
def State.firstFailed (s : State) (els : List (List Put)) : Option (Nat × Nat) :=
  if s.bad.isEmpty then none
  else (els.zipIdx).findSome? fun e => (e.1.findSome? (s.putFails els.flatten)).map fun g => (e.2, g)

/-- The failed granules that a step writes whole have their codes replaced (R73). -/
def State.repairPuts (s : State) (all : List Put) : State :=
  { s with bad := s.bad.filter fun g => !(all.any fun p => (s.failedAt p).contains g) || !s.putsCover all g }

/-- Does a write leave by the loopback port (R58)? -/
def Put.own : Put → Bool
  | .mem _ _ _ own => own
  | .bits _ _ _ _ _ own => own
  | _ => false

/-- A write of a command that leaves by the loopback port, or for the ATE that holds its line (R58, R69). -/
def State.engPut (s : State) (q : Cmd) (k n value mask : Nat) (own : Bool) : State :=
  s.sendPut (ateRank q.core 5) q.uid q.seq k n value mask (if own then some q.core else none)

/-- Makes a write; the command carries the bits of a fabric word that is not whole yet. -/
def Put.make (r : Shape) (p : Put) (s : State) (q : Cmd) : State × Cmd :=
  match p with
  | .mem k n v own => (if own || s.lineHeld k then s.engPut q k n v (2 ^ (8 * n) - 1) own else s.writeLe k n v, q)
  | .bits k lo n v last own =>
    if own || s.lineHeld k then (s.engPut q k 1 (v % 2 ^ n * 2 ^ lo) ((if last then 2 ^ (8 - lo) - 1 else 2 ^ n - 1) * 2 ^ lo) own, q)
    else
      let old := (s.byteAt k).toNat
      let keep := if last then old % 2 ^ lo else old - fieldOf old lo n * 2 ^ lo
      (s.writeLe k 1 (keep + v % 2 ^ n * 2 ^ lo), q)
  | .vec bit n v last => (s.modV q r fun t => tblPutBits t r.vByte bit n v last, q)
  | .chan bit n v _ =>
    let all := q.carry + v % 2 ^ n * 2 ^ (bit % 64)
    let ch := wfield r.base 16 3
    (s.modCore (s.fabTarget q r) fun k => { k with fabric := vset k.fabric ch (k.fab ch ++ leBytes p.sent all) }, { q with carry := all / 2 ^ (8 * p.sent) })

/-- Makes writes in order. -/
def makePuts (r : Shape) (ps : List Put) (s : State) (q : Cmd) : State × Cmd := ps.foldl (fun a p => p.make r a.1 a.2) (s, q)

/-- How many of some elements' writes, in order, the loopback port of a core takes now (R58), and a fabric channel with `room` bytes (R289). -/
def putsFit (ports room : Nat) : List (List Put) → Nat
  | [] => 0
  | e :: r =>
    let own := (e.filter Put.own).length
    let out := (e.map Put.sent).sum
    if ports < own ∨ room < out then 0 else 1 + putsFit (ports - own) (room - out) r

/-- Evaluates up to n elements from number i on, up to the first that misses. -/
def engEach {α : Type} (f : Nat → Eng α) : Nat → Nat → State → List α × State × Option EMiss
  | 0, _, s => ([], s, none)
  | n + 1, i, s =>
    match f i s with
    | .error e => ([], s, some e)
    | .ok (a, s) =>
      let (r, s, e) := engEach f n (i + 1) s
      (a :: r, s, e)

/-! ## Where a command stands -/

/-- A place where commands stand in order: the matrix, vector-stream and copy queue of a core, the vector queue of a unit, and what ended units left in
the vector queue of a thread. -/
inductive Port where
  | mq (core : Nat)
  | vsq (core : Nat)
  | cq (core : Nat)
  | vq (uid : Nat)
  | past (core thread : Nat)
deriving DecidableEq, Repr

def State.queueOf (s : State) : Port → List Cmd
  | .mq c => (s.core c).mq
  | .vsq c => (s.core c).vsq
  | .cq c => (s.core c).cq
  | .vq u => ((s.unitCtx u).map (·.vq)).getD []
  | .past c t => (s.thr c t).past

def State.setQueue (s : State) (p : Port) (l : List Cmd) : State :=
  match p with
  | .mq c => s.modCore c fun k => { k with mq := l }
  | .vsq c => s.modCore c fun k => { k with vsq := l }
  | .cq c => s.modCore c fun k => { k with cq := l }
  | .vq u => s.modUnit u fun x => { x with vq := l }
  | .past c t => s.modThr c t fun th => { th with past := l }

/-- The command at the head, unless it waits for a held page. -/
def State.headCmd (s : State) (p : Port) : Option Cmd :=
  match s.queueOf p with
  | q :: _ => if q.hid.isNone then some q else none
  | [] => none

/-- The head as it now stands. -/
def State.putHead (s : State) (p : Port) (q : Cmd) : State := s.setQueue p (q :: (s.queueOf p).drop 1)

def State.popHead (s : State) (p : Port) : State := s.setQueue p ((s.queueOf p).drop 1)

/-- The number of a queue among the holders of R41. -/
def Port.holder (p : Port) (q : Cmd) : Holder :=
  match p with
  | .mq c => .engine c 0 q.uid
  | .vsq c => .engine c 1 q.uid
  | .cq c => .engine c 2 q.uid
  | .vq u => .engine q.core 3 u
  | .past c t => .engine c (pastQueue t) q.uid

/-! ## Completion -/

/-- Flags and warnings reach the FCTL and WARN of the unit, live or saved, or the launch's summary once it has ended (R206, R219, R230). -/
def State.orWarnings (s : State) (q : Cmd) : State :=
  let w : Word := (if q.t2rsv then 2 else 0) ||| (if isApx q.top && (s.part q.asid).launch.deterministic then 4 else 0)
  if (s.unitCtx q.uid).isSome then s.modUnit q.uid fun x => { x with fctl := accrue x.fctl q.flags, warn := x.warn ||| w }
  else s.modPart q.asid fun p =>
    { p with
      warnSum := accrue (p.warnSum ||| w) q.flags
      apxPast := if s.cores.any fun e => (e.2.vsq ++ e.2.threads.toList.flatMap (·.past)).any fun r => r.uid == q.uid && r.seq != q.seq then p.apxPast else tdel p.apxPast q.uid }

/-- The token of a command fills (R93), with a value that R93 does not state (log 10). -/
def State.fillToken (s : State) (q : Cmd) : State :=
  if q.token = 0 then s
  else
    let (n, s) := s.newFree
    s.deliver q.uid q.token (Config.tokenValue n)

/-- COMPLETION: a command's flags and warnings are set, its token fills, its in-flight entry is done or faulted. A trap that the captured
FCTL enables makes it faulted (R219). The fault of a stepped unit's command stops the unit at its next step boundary (R419). -/
def State.endCmd (s : State) (q : Cmd) (fault : Option (Cause × Detail)) : State :=
  let fault := match fault with
    | some f => some f
    | none => (enabledCause q.fctl q.flags).map fun c => (c, {})
  let s := ((s.orWarnings q).fillToken q).dropTurns q.uid q.seq
  let s := s.setOp q.uid q.seq (if fault.isSome then 3 else 2) (fault.map (·.1))
  let s := s.modPart q.asid fun p => { p with wdLast := s.cycle }
  match fault with
  | some (c, d) => if s.stepped q.asid q.tid && !s.inSlot q.uid then s.pendEng q.uid c d false else s
  | none => s

/-- The requests of a command leave the SFU's queue (R301). -/
def State.dropSfu (s : State) (core : Nat) (q : Cmd) : State :=
  s.modCore core fun k => { k with sfu := k.sfu.filter fun (r : SfuReq) => !(r.uid == q.uid && r.seq == q.seq) }

/-- A vector instruction or BADDQ at a thread's queue ends: a fault withdraws what its unit has queued behind it and stops the unit at its next boundary
(R296), or, where the unit has been suspended since, its task. -/
def State.endVec (s : State) (p : Port) (q : Cmd) (fault : Option (Cause × Detail)) : State :=
  let fault := match fault with
    | some f => some f
    | none => (enabledCause q.fctl q.flags).map fun c => (c, {})
  let s := s.orWarnings q
  let s := (s.popHead p).setOp q.uid q.seq (if fault.isSome then 3 else 2) (fault.map (·.1))
  let s := s.modPart q.asid fun p => { p with wdLast := s.cycle }
  match fault with
  | some (c, d) =>
    let s := s.setQueue p ((s.queueOf p).filter fun r => r.uid != q.uid)
    if s.stepped q.asid q.tid && (s.findUnit q.uid).isSome && !s.inSlot q.uid then s.pendEng q.uid c d true else s.pendTask q.asid q.uid q.tid c d
  | none => s

/-- The command at the head of a queue ends. -/
def State.endHead (s : State) (p : Port) (q : Cmd) (fault : Option (Cause × Detail)) : State :=
  let s := (s.dropSfu q.core q).dropTurns q.uid q.seq
  match p with
  | .vq _ => s.endVec p q fault
  | .past _ _ => s.endVec p q fault
  | _ => (s.popHead p).endCmd q fault

/-- The head's access is held: the command waits for its page (R41, R42, R46). -/
def State.holdHead (s : State) (p : Port) (q : Cmd) (e : EMiss) (space peer addr reason : Nat) (c : Cause) : State :=
  let (hid, s) := (s.dropSfu q.core q).park (coreDie q.core) q.asid e.kind e.va.toNat space peer addr reason c (p.holder q)
  (s.putHead p { q with hid := some hid, redo := some { va := e.va, addr := addr, write := e.kind = .engWrite } }).modUnit q.uid fun x => x.holdOp q.seq (hid % 65536)

/-- The uncorrectable granules that an access met are logged (R73, R76). -/
def State.noteMiss (s : State) (e : EMiss) : State :=
  match e.m with
  | .cause .eccunc d => if e.span.2 = 0 then s.logRange d.d0.toNat 1 else s.logRange e.span.1 e.span.2
  | _ => s

/-- A miss of the head's step: it waits, asks for its turn (R70), is held, or ends as faulted. -/
def State.missHead (s : State) (p : Port) (q : Cmd) (e : EMiss) : State :=
  match e.m with
  | .busy => (s.dropSfu q.core q).putHead p q
  | .turn k own => ((s.dropSfu q.core q).putHead p q).askTurn (ateRank q.core 5) q.uid q.seq k (if own then some q.core else none)
  | .held space peer addr reason c => s.holdHead p q e space peer addr reason c
  | .cause c d => (s.noteMiss e).endHead p q (some (c, d))

/-- The head's command runs: state 1 of its in-flight entry (R420). -/
def State.runHead (s : State) (q : Cmd) : State :=
  s.modUnit q.uid fun x => { x with ops := x.ops.map fun (o : InFlight) => if o.seq = q.seq ∧ o.state = 0 then { o with state := 1 } else o }

end Sys2Proof.Machine
end

