-- ==== Sys2Proof/Machine/FloatOps.lean ====
section
/-! DEFINITION. Scalar floating point (R253 to R256): arithmetic, comparison, classification, moves and conversions. -/

namespace Sys2Proof.Machine

/-- A format as a scalar instruction holds it: FP32 in bits [31:0] of an f register, or FP64 (R191). -/
def Fmt.width (f : Fmt) : Nat := f.e + f.m + 1

/-- The value in f[r], subnormals as FCTL.DAZ says (R217). -/
def Ctx.fval (x : Ctx) (f : Fmt) (r : Reg) : Fv := f.read (wfield x.fctl 3 1 == 1) (wfield (x.fr r) 0 f.width)

/-- An instruction that raised flags (R219): they accrue; where one of them traps, it stops with its cause and its destination stays. -/
def withFlags (fx : Fx) (put : Ctx → Ctx) (s : State) : Res :=
  let s := s.modCur fun x => { x with fctl := accrue x.fctl fx.bits }
  match enabledCause s.cur.fctl fx.bits with
  | some c => .trap c {} s
  | none => .retire (s.modCur put)

/-- An operation that rounds an exact result into f[D] (R217). -/
def fpRound (f : Fmt) (d : Reg) (r : Ctx → Exact) (s : State) : Host.Outcome State Fault Refusal :=
  issue [] none (fun s =>
    let q := (r s.cur).round f s.cur.fctl
    withFlags q.2 (fun x => x.setF d (BitVec.ofNat 64 q.1)) s) s

/-- FCTL.RM. -/
def Ctx.rm (x : Ctx) : Nat := wfield x.fctl 0 3

def fadd (f : Fmt) (d a b : Reg) : State → Host.Outcome State Fault Refusal := fpRound f d fun x => (x.fval f a).add x.rm (x.fval f b)
def fsub (f : Fmt) (d a b : Reg) : State → Host.Outcome State Fault Refusal := fpRound f d fun x => (x.fval f a).add x.rm (x.fval f b).neg
def fmul (f : Fmt) (d a b : Reg) : State → Host.Outcome State Fault Refusal := fpRound f d fun x => (x.fval f a).mul (x.fval f b)
def fdiv (f : Fmt) (d a b : Reg) : State → Host.Outcome State Fault Refusal := fpRound f d fun x => (x.fval f a).div (x.fval f b)
def fsqrt (f : Fmt) (d a : Reg) : State → Host.Outcome State Fault Refusal := fpRound f d fun x => (x.fval f a).sqrt
def fma (f : Fmt) (d a b c : Reg) : State → Host.Outcome State Fault Refusal :=
  fpRound f d fun x => Fv.fma x.rm (x.fval f a) (x.fval f b) (x.fval f c)

/-- FMIN and FMAX (R254). The result is one of the two operands: FTZ does not flush it (log 91, DESIGN CHOICE; R216 speaks of results). -/
def fpick (larger : Bool) (f : Fmt) (d a b : Reg) (s : State) : Host.Outcome State Fault Refusal :=
  issue [] none (fun s => .retire (s.modCur fun x => x.setF d (BitVec.ofNat 64 (f.bitsOf (Fv.pick larger (x.fval f a) (x.fval f b)))))) s

/-- Is either value a NaN? -/
def anyNan (a b : Fv) : Bool := a == .nan || b == .nan

/-- FCMP (R254): LT and LE raise NV for a NaN. -/
def fcmp (rel : Fv → Fv → Bool) (signals : Bool) (f : Fmt) (d a b : Reg) (s : State) : Host.Outcome State Fault Refusal :=
  issue [] (some d) (fun s =>
    let x := s.cur.fval f a
    let y := s.cur.fval f b
    withFlags { nv := signals && anyNan x y } (fun c => c.setX d (BitVec.ofNat 64 (b2n (!anyNan x y && rel x y)))) s) s

/-- The class of an encoding (R254). -/
def fclassOf (f : Fmt) (bits : Nat) : Nat :=
  let neg := fieldOf bits (f.e + f.m) 1 = 1
  let ex := fieldOf bits f.m f.e
  let fr := fieldOf bits 0 f.m
  if ex = 2 ^ f.e - 1 then (if fr = 0 then (if neg then 0 else 7) else if fr < 2 ^ (f.m - 1) then 8 else 9)
  else if ex = 0 then (if fr = 0 then (if neg then 3 else 4) else if neg then 2 else 5)
  else if neg then 1 else 6

def fclass (f : Fmt) (d a : Reg) (s : State) : Host.Outcome State Fault Refusal :=
  issue [] (some d) (fun s => setRetire d (BitVec.ofNat 64 (2 ^ fclassOf f (wfield (s.cur.fr a) 0 f.width))) s) s

/-- The FSGNJ family: the magnitude of f[A] with a sign computed from both signs (R253). -/
def fsgn (sg : Nat → Nat → Nat) (f : Fmt) (d a b : Reg) (s : State) : Host.Outcome State Fault Refusal :=
  issue [] none (fun s =>
    let x := wfield (s.cur.fr a) 0 f.width
    let y := wfield (s.cur.fr b) 0 f.width
    .retire (s.modCur fun c => c.setF d (BitVec.ofNat 64 (x % f.signBit + f.signBit * sg (x / f.signBit) (y / f.signBit))))) s

/-- FMV.X (R253). -/
def fmvx (f : Fmt) (d a : Reg) (s : State) : Host.Outcome State Fault Refusal :=
  issue [] (some d) (fun s => setRetire d (BitVec.ofNat 64 (wfield (s.cur.fr a) 0 f.width)) s) s

/-- FMV.F (R253). -/
def fmvf (f : Fmt) (d a : Reg) (ma : Bool) (s : State) : Host.Outcome State Fault Refusal :=
  issue [(a, ma)] none (fun s => .retire (s.modCur fun x => x.setF d (BitVec.ofNat 64 (wfield (x.xr a) 0 f.width)))) s

/-- A conversion between floating formats (R255). -/
def fcvtFF (dst src : Fmt) (d a : Reg) (s : State) : Host.Outcome State Fault Refusal :=
  fpRound dst d (fun x => { v := x.fval src a }) s

/-- A conversion to a 64-bit integer (R255). -/
def fcvtToInt (signed : Bool) (src : Fmt) (d a : Reg) (s : State) : Host.Outcome State Fault Refusal :=
  issue [] (some d) (fun s =>
    let r := toInteger s.cur.rm (if signed then -(2 ^ 63) else 0) (if signed then 2 ^ 63 - 1 else 2 ^ 64 - 1) (s.cur.fval src a)
    withFlags r.2 (fun x => x.setX d (BitVec.ofInt 64 r.1)) s) s

/-- The integer in x[r]. -/
def intOf (signed : Bool) (w : Word) : Int := if signed then w.toInt else w.toNat

/-- A conversion from a 64-bit integer (R255). -/
def fcvtFromInt (signed : Bool) (dst : Fmt) (d a : Reg) (ma : Bool) (s : State) : Host.Outcome State Fault Refusal :=
  issue [(a, ma)] none (fun s =>
    let i := intOf signed (s.cur.xr a)
    let q := ({ v := .fin (decide (i < 0)) i.natAbs 0 } : Exact).round dst s.cur.fctl
    withFlags q.2 (fun x => x.setF d (BitVec.ofNat 64 q.1)) s) s

/-- A conversion between the integer types (R255). -/
def fcvtII (dstSigned : Bool) (d a : Reg) (ma : Bool) (s : State) : Host.Outcome State Fault Refusal :=
  issue [(a, ma)] (some d) (fun s =>
    let i := intOf (!dstSigned) (s.cur.xr a)
    let lo : Int := if dstSigned then -(2 ^ 63) else 0
    let hi : Int := if dstSigned then 2 ^ 63 - 1 else 2 ^ 64 - 1
    withFlags { nv := decide (i < lo) || decide (hi < i) } (fun x => x.setX d (BitVec.ofInt 64 (max lo (min hi i)))) s) s

def execFaddS (d a b : Reg) (_ma _mb : Bool) (s : State) : Host.Outcome State Fault Refusal := fadd fp32 d a b s
def execFsubS (d a b : Reg) (_ma _mb : Bool) (s : State) : Host.Outcome State Fault Refusal := fsub fp32 d a b s
def execFmulS (d a b : Reg) (_ma _mb : Bool) (s : State) : Host.Outcome State Fault Refusal := fmul fp32 d a b s
def execFdivS (d a b : Reg) (_ma _mb : Bool) (s : State) : Host.Outcome State Fault Refusal := fdiv fp32 d a b s
def execFsqrtS (d a : Reg) (_ma : Bool) (s : State) : Host.Outcome State Fault Refusal := fsqrt fp32 d a s
def execFminS (d a b : Reg) (_ma _mb : Bool) (s : State) : Host.Outcome State Fault Refusal := fpick false fp32 d a b s
def execFmaxS (d a b : Reg) (_ma _mb : Bool) (s : State) : Host.Outcome State Fault Refusal := fpick true fp32 d a b s
def execFcmpEqS (d a b : Reg) (_ma _mb : Bool) (s : State) : Host.Outcome State Fault Refusal := fcmp Fv.eq false fp32 d a b s
def execFcmpLtS (d a b : Reg) (_ma _mb : Bool) (s : State) : Host.Outcome State Fault Refusal := fcmp (Fv.lt false) true fp32 d a b s
def execFcmpLeS (d a b : Reg) (_ma _mb : Bool) (s : State) : Host.Outcome State Fault Refusal :=
  fcmp (fun x y => !Fv.lt false y x) true fp32 d a b s
def execFclassS (d a : Reg) (_ma : Bool) (s : State) : Host.Outcome State Fault Refusal := fclass fp32 d a s
def execFsgnjS (d a b : Reg) (_ma _mb : Bool) (s : State) : Host.Outcome State Fault Refusal := fsgn (fun _ y => y) fp32 d a b s
def execFsgnjnS (d a b : Reg) (_ma _mb : Bool) (s : State) : Host.Outcome State Fault Refusal := fsgn (fun _ y => 1 - y) fp32 d a b s
def execFsgnjxS (d a b : Reg) (_ma _mb : Bool) (s : State) : Host.Outcome State Fault Refusal := fsgn (fun x y => (x + y) % 2) fp32 d a b s
def execFmvXS (d a : Reg) (_ma : Bool) (s : State) : Host.Outcome State Fault Refusal := fmvx fp32 d a s
def execFmvFS (d a : Reg) (ma : Bool) (s : State) : Host.Outcome State Fault Refusal := fmvf fp32 d a ma s
def execFaddD (d a b : Reg) (_ma _mb : Bool) (s : State) : Host.Outcome State Fault Refusal := fadd fp64 d a b s
def execFsubD (d a b : Reg) (_ma _mb : Bool) (s : State) : Host.Outcome State Fault Refusal := fsub fp64 d a b s
def execFmulD (d a b : Reg) (_ma _mb : Bool) (s : State) : Host.Outcome State Fault Refusal := fmul fp64 d a b s
def execFdivD (d a b : Reg) (_ma _mb : Bool) (s : State) : Host.Outcome State Fault Refusal := fdiv fp64 d a b s
def execFsqrtD (d a : Reg) (_ma : Bool) (s : State) : Host.Outcome State Fault Refusal := fsqrt fp64 d a s
def execFminD (d a b : Reg) (_ma _mb : Bool) (s : State) : Host.Outcome State Fault Refusal := fpick false fp64 d a b s
def execFmaxD (d a b : Reg) (_ma _mb : Bool) (s : State) : Host.Outcome State Fault Refusal := fpick true fp64 d a b s
def execFcmpEqD (d a b : Reg) (_ma _mb : Bool) (s : State) : Host.Outcome State Fault Refusal := fcmp Fv.eq false fp64 d a b s
def execFcmpLtD (d a b : Reg) (_ma _mb : Bool) (s : State) : Host.Outcome State Fault Refusal := fcmp (Fv.lt false) true fp64 d a b s
def execFcmpLeD (d a b : Reg) (_ma _mb : Bool) (s : State) : Host.Outcome State Fault Refusal :=
  fcmp (fun x y => !Fv.lt false y x) true fp64 d a b s
def execFclassD (d a : Reg) (_ma : Bool) (s : State) : Host.Outcome State Fault Refusal := fclass fp64 d a s
def execFsgnjD (d a b : Reg) (_ma _mb : Bool) (s : State) : Host.Outcome State Fault Refusal := fsgn (fun _ y => y) fp64 d a b s
def execFsgnjnD (d a b : Reg) (_ma _mb : Bool) (s : State) : Host.Outcome State Fault Refusal := fsgn (fun _ y => 1 - y) fp64 d a b s
def execFsgnjxD (d a b : Reg) (_ma _mb : Bool) (s : State) : Host.Outcome State Fault Refusal := fsgn (fun x y => (x + y) % 2) fp64 d a b s
def execFmvXD (d a : Reg) (_ma : Bool) (s : State) : Host.Outcome State Fault Refusal := fmvx fp64 d a s
def execFmvFD (d a : Reg) (ma : Bool) (s : State) : Host.Outcome State Fault Refusal := fmvf fp64 d a ma s
def execFcvtSD (d a : Reg) (_ma : Bool) (s : State) : Host.Outcome State Fault Refusal := fcvtFF fp32 fp64 d a s
def execFcvtDS (d a : Reg) (_ma : Bool) (s : State) : Host.Outcome State Fault Refusal := fcvtFF fp64 fp32 d a s
def execFcvtLS (d a : Reg) (_ma : Bool) (s : State) : Host.Outcome State Fault Refusal := fcvtToInt true fp32 d a s
def execFcvtSL (d a : Reg) (ma : Bool) (s : State) : Host.Outcome State Fault Refusal := fcvtFromInt true fp32 d a ma s
def execFcvtLD (d a : Reg) (_ma : Bool) (s : State) : Host.Outcome State Fault Refusal := fcvtToInt true fp64 d a s
def execFcvtDL (d a : Reg) (ma : Bool) (s : State) : Host.Outcome State Fault Refusal := fcvtFromInt true fp64 d a ma s
def execFcvtLuS (d a : Reg) (_ma : Bool) (s : State) : Host.Outcome State Fault Refusal := fcvtToInt false fp32 d a s
def execFcvtSLu (d a : Reg) (ma : Bool) (s : State) : Host.Outcome State Fault Refusal := fcvtFromInt false fp32 d a ma s
def execFcvtLuD (d a : Reg) (_ma : Bool) (s : State) : Host.Outcome State Fault Refusal := fcvtToInt false fp64 d a s
def execFcvtDLu (d a : Reg) (ma : Bool) (s : State) : Host.Outcome State Fault Refusal := fcvtFromInt false fp64 d a ma s
def execFcvtLuL (d a : Reg) (ma : Bool) (s : State) : Host.Outcome State Fault Refusal := fcvtII false d a ma s
def execFcvtLLu (d a : Reg) (ma : Bool) (s : State) : Host.Outcome State Fault Refusal := fcvtII true d a ma s
def execFmaS (d a b c : Reg) (_mq : Bool) (s : State) : Host.Outcome State Fault Refusal := fma fp32 d a b c s
def execFmaD (d a b c : Reg) (_mq : Bool) (s : State) : Host.Outcome State Fault Refusal := fma fp64 d a b c s

end Sys2Proof.Machine
end

