-- ==== Sys2Proof/Machine/Sfu.lean ====
section
/-! DEFINITION. The special-function unit (R226 to R230, R300): the correctly rounded functions, by fixed-point bounds that decide the
rounding, and the elements that the approximate path serves. -/

namespace Sys2Proof.Machine

/-- Fraction bits of the fixed-point values. -/
def sfuP : Nat := 640

/-- The sum of z^(2i+1) / (2i+1) over the next n terms, `p` being z^(2i+1) and `zz` z squared, all with `sfuP` fraction bits. -/
def artanhSum (zz : Int) : Nat → Nat → Int → Int
  | 0, _, _ => 0
  | n + 1, i, p => p / (2 * i + 1 : Nat) + artanhSum zz n (i + 1) (p * zz / 2 ^ sfuP)

/-- artanh z, |z| at most 1/3. -/
def artanhFix (z : Int) : Int := artanhSum (z * z / 2 ^ sfuP) 210 0 z

/-- ln 2 = 2 artanh (1/3). -/
def ln2Fix : Int := 2 * artanhFix (2 ^ sfuP / 3)

/-- The sum of r^i / i! over the next n terms. -/
def expSum (r : Int) : Nat → Nat → Int → Int
  | 0, _, _ => 0
  | n + 1, i, t => t + expSum r n (i + 1) (t * r / 2 ^ sfuP / (i + 1 : Nat))

/-- e^x for a fixed-point x: the pair (m, k) with e^x near m * 2^k * 2^-sfuP. -/
def expFix (x : Int) : Int × Int :=
  let l := ln2Fix
  let k := (2 * x + l) / (2 * l)
  (expSum (x - k * l) 130 0 (2 ^ sfuP), k)

/-- A fixed-point value as an exact one where its bounds decide: it lies within 2^24 units of v * 2^k, and its bits below 2^200 only say that it is
inexact. -/
def decided (neg : Bool) (v k : Int) : Option Exact :=
  let lo := (v - 2 ^ 24) / 2 ^ 200
  let hi := (v + 2 ^ 24) / 2 ^ 200
  if lo = hi ∧ 0 ≤ lo then some { v := .fin neg lo.toNat (k - sfuP + 200), sticky := true } else none

/-- A positive value above every finite one, one below every subnormal, and one just below 1. -/
def hugeExact : Exact := { v := .fin false 1 4000, sticky := true }
def tinyExact : Exact := { v := .fin false 1 (-4000), sticky := true }
def belowOne : Exact := { v := .fin false (2 ^ 800 - 1) (-800), sticky := true }

/-- A value just above 2^k, and one just below the magnitude m * 2^e: between it and the next point where any rounding changes. -/
def aboveExp (k : Int) : Exact := { v := .fin false (2 ^ 200) (k - 200), sticky := true }
def justBelow (neg : Bool) (m : Nat) (e : Int) : Exact := { v := .fin neg (m * 2 ^ 100 - 1) (e - 100), sticky := true }

/-- A value with a sign. -/
def Exact.withSign (x : Exact) (neg : Bool) : Exact := { x with v := match x.v with | .fin _ m e => .fin neg m e | .inf _ => .inf neg | .nan => .nan }

/-- |x| as a fixed-point value; exact for every finite input of R292's special-function types below 2^9. -/
def fixOf (m : Nat) (e : Int) : Int := alignTo m e (-(sfuP : Int))

/-- Is m * 2^e at least 2^n? -/
def atLeast (m : Nat) (e : Int) (n : Int) : Bool := decide (n ≤ expo m e)

def sfuExp (neg : Bool) (m : Nat) (e : Int) : Option Exact :=
  if atLeast m e 8 then some (if neg then tinyExact else hugeExact)
  else if !atLeast m e (-60) then some (if neg then justBelow false 1 0 else aboveExp 0)
  else
    let r := expFix (if neg then -(fixOf m e) else fixOf m e)
    decided false r.1 r.2

def sfuLog (m : Nat) (e : Int) : Option Exact :=
  let l := Nat.log2 m
  let one : Int := 2 ^ sfuP
  let f : Int := alignTo m (-(l : Int)) (-(sfuP : Int))
  let big := decide (3 * one < 2 * f)
  -- twice the sum and twice the difference, so that halving f stays exact
  let num := if big then f - 2 * one else f - one
  let den := if big then f + 2 * one else f + one
  let z := num * one / den
  let v := 2 * artanhFix z + (e + l + (if big then 1 else 0)) * ln2Fix
  if m = 2 ^ l ∧ e + l = 0 then some { v := .fin false 0 0 } else if v < 0 then decided true (-v) 0 else decided false v 0

def sfuTanh (neg : Bool) (m : Nat) (e : Int) : Option Exact :=
  if atLeast m e 7 then some (belowOne.withSign neg)
  else if !atLeast m e (-60) then some (justBelow neg m e)
  else
    let r := expFix (-2 * fixOf m e)
    let t : Int := if r.2 ≤ 0 then r.1 / 2 ^ (-r.2).toNat else r.1 * 2 ^ r.2.toNat
    decided neg ((2 ^ sfuP - t) * 2 ^ sfuP / (2 ^ sfuP + t)) 0

def sfuSigm (neg : Bool) (m : Nat) (e : Int) : Option Exact :=
  if atLeast m e 8 then some (if neg then tinyExact else belowOne)
  else if !atLeast m e (-60) then some (if neg then justBelow false 1 (-1) else aboveExp (-1))
  else
    let r := expFix (-(fixOf m e))
    let t : Int := if r.2 ≤ 0 then r.1 / 2 ^ (-r.2).toNat else r.1 * 2 ^ r.2.toNat
    decided false ((if neg then t else 2 ^ sfuP) * 2 ^ sfuP / (2 ^ sfuP + t)) 0

/-- 1/sqrt(x): the root of 2^(2s) / m, with x = m * 2^e and e even. -/
def sfuRsq (m : Nat) (e : Int) : Exact :=
  let m' := if e % 2 = 0 then m else 2 * m
  let e' := if e % 2 = 0 then e else e - 1
  let s := 200 + Nat.log2 m'
  let y := isqrt (2 ^ (2 * s) / m')
  { v := .fin false y (-(e' / 2) - s), sticky := decide (y * y * m' ≠ 2 ^ (2 * s)) }

/-- The exact functions of R300 by FN[2:0]; none where the bounds do not decide. -/
def sfuValue (fn : Nat) (x : Fv) : Option Exact :=
  match x with
  | .nan => some { v := .nan }
  | .inf neg =>
    some (match fn with
    | 0 => if neg then { v := .fin false 0 0 } else { v := .inf false }
    | 1 => if neg then Exact.invalid else { v := .inf false }
    | 2 => { v := .fin neg 0 0 }
    | 3 => if neg then Exact.invalid else { v := .fin false 0 0 }
    | 4 => { v := .fin neg 1 0 }
    | _ => if neg then { v := .fin false 0 0 } else { v := .fin false 1 0 })
  | .fin neg 0 _ =>
    some (match fn with
    | 0 => { v := .fin false 1 0 }
    | 1 => { v := .inf true, fx := { dz := true } }
    | 2 => { v := .inf neg, fx := { dz := true } }
    | 3 => { v := .inf neg, fx := { dz := true } }
    | 4 => { v := .fin neg 0 0 }
    | _ => { v := .fin false 1 (-1) })
  | .fin neg m e =>
    match fn with
    | 0 => sfuExp neg m e
    | 1 => if neg then some Exact.invalid else sfuLog m e
    | 2 => some ((Fv.fin false 1 0).div (.fin neg m e))
    | 3 => if neg then some Exact.invalid else some (sfuRsq m e)
    | 4 => sfuTanh neg m e
    | _ => sfuSigm neg m e

/-- The exact path of one element (R300): correctly rounded under the captured FCTL. -/
def sfuExact (f : Fmt) (fn : Nat) (fctl : Word) (bits : Nat) : Nat × Fx :=
  match sfuValue fn (f.read (wfield fctl 3 1 == 1) bits) with
  | some x => x.round f fctl
  | none => ((Config.sfuUndecided fn (BitVec.ofNat 64 bits)).toNat % 2 ^ (f.e + f.m + 1), {})

/-- May an input go to the approximate path (R226)? Zeros, subnormals and values not finite may not. -/
def apxEligible (f : Fmt) (fn : Nat) (bits : Nat) : Bool :=
  if fieldOf bits f.m f.e = 0 then false
  else match f.read false bits with
    | .fin neg m e =>
      let x := Fv.fin false m e
      let within := fun (lo hi : Int) => Fv.lt false (.fin false 1 lo) x && Fv.lt false x (.fin false 1 hi)
      match fn with
      | 0 => Fv.lt false x (.fin false 1 4)
      | 1 => !neg && within (-16) 16
      | 2 => within (-32) 32
      | 3 => !neg && within (-32) 32
      | _ => Fv.lt false x (.fin false 1 3)
    | _ => false

/-- The sampled error in units in the last place of the exact result, at most 0xFFFF (R228); a fraction of a unit is dropped.
Where one of two results that differ is an infinity or a NaN, R228 gives no units in the last place: the error is the largest, 0xFFFF (log 92, DESIGN
CHOICE). -/
def ulpError (f : Fmt) (exact approx : Nat) : Nat :=
  if exact = approx then 0
  else match f.read false exact, f.read false approx with
    | .fin n m e, .fin k o p =>
      let q := min e p
      let d := ((if n then -(alignTo m e q) else alignTo m e q) - (if k then -(alignTo o p q) else alignTo o p q)).natAbs
      let u := if m = 0 then f.qmin else max (expo m e - f.m) f.qmin
      if u ≤ q then satN 16 (d * 2 ^ (q - u).toNat) else satN 16 (d / 2 ^ (u - q).toNat)
    | _, _ => 0xFFFF

/-- The histogram bin of an error (R228). -/
def errorBin (err : Nat) : Nat := if err = 0 then 0 else min 15 (Nat.log2 err + 1)

/-- APXMON after a sample; `exc`: it exceeded BOUND (R228, R229). -/
def Apxmon.sample (a : Apxmon) (err : Nat) (exc : Bool) : Apxmon :=
  let b := errorBin err
  { maxErr := max a.maxErr err, exc := a.exc || exc, samples := satN 32 (a.samples + 1), bins := vset a.bins b (satN 16 (vget a.bins b 0 + 1)) }

/-- The state of the approximate path over a run of elements: the context's eligible count, FB, the core's monitor, reports of APXBOUND. -/
structure Apx where
  count : Nat
  fb : Bool
  mon : Apxmon
  reports : Nat
deriving DecidableEq, Repr

/-- One element of a .A instruction (R226 to R229). `fresh` numbers the free value. -/
def sfuApprox (f : Fmt) (fn : Nat) (fctl apxctl : Word) (det : Bool) (bits fresh : Nat) (a : Apx) : (Nat × Fx) × Apx :=
  let exact := sfuExact f fn fctl bits
  if det || wfield apxctl 0 1 == 0 || a.fb || !apxEligible f fn bits then (exact, a)
  else
    let approx := (Config.approxSfu fn (BitVec.ofNat 64 bits) fresh).toNat % 2 ^ (f.e + f.m + 1)
    let a := { a with count := a.count + 1 }
    if a.count % 2 ^ (min 20 (wfield apxctl 8 5)) = 0 then
      let err := ulpError f exact.1 approx
      let bound := wfield apxctl 32 16
      let exc := decide (bound ≠ 0) && decide (bound < err)
      (exact, { a with mon := a.mon.sample err exc, fb := a.fb || exc, reports := a.reports + b2n exc })
    else ((approx, {}), a)

end Sys2Proof.Machine
end

