-- ==== Sys2Proof/Machine/VecOps.lean ====
section
/-! DEFINITION. The element operations of the vector engine (R297 to R300) and Convert between element types (R218), and one step of a
vector instruction or vector-stream command (R293, R296). -/

namespace Sys2Proof.Machine

/-- The floating-point format of an element type (R136). -/
def etFmt : Nat → Option Fmt
  | 0x0 => some fp32
  | 0x1 => some bf16
  | 0x2 => some fp16
  | 0x3 => some e4m3
  | 0x4 => some e5m2
  | 0x5 => some e2m3
  | 0x6 => some e3m2
  | 0x7 => some e2m1
  | 0xB => some fp64
  | _ => none

/-- An integer as a value. -/
def intFv (i : Int) : Fv := .fin (decide (i < 0)) i.natAbs 0

/-- The value of a T2 code; the reserved code reads as 0 (R214). -/
def t2Int (bits : Nat) : Int := match bits % 4 with | 1 => 1 | 3 => -1 | _ => 0

/-- The value of an element as a source (R209 to R215, R297). -/
def etRead (et : Nat) (daz : Bool) (bits : Nat) : Fv :=
  match etFmt et with
  | some f => f.read daz bits
  | none => if et = 0xA then intFv (t2Int bits) else if et = etBit1 then intFv (bits % 2) else intFv (toSigned (elemBits et) bits)

/-- Convert(x, D, rm, sat) of R218 for an exact value, perhaps with a sticky part below it. -/
def convertTo (et rm : Nat) (sat ftz : Bool) (x : Fv) (sticky : Bool := false) : Nat × Fx :=
  match etFmt et with
  | some f => f.encode rm sat ftz x sticky
  | none =>
    let w := elemBits et
    let (lo, hi) : Int × Int := if et = 0xA then (-1, 1) else (-(2 ^ (w - 1) : Nat), (2 ^ (w - 1) : Nat) - 1)
    let r := toInteger rm lo hi x
    (ofSigned w r.1, r.2)

/-- FCTL.RM, SAT, FTZ and DAZ as captured. -/
def fctlRm (w : Word) : Nat := wfield w 0 3
def fctlSat (w : Word) : Bool := wfield w 5 1 == 1
def fctlFtz (w : Word) : Bool := wfield w 4 1 == 1
def fctlDaz (w : Word) : Bool := wfield w 3 1 == 1

/-- The relation of VCMP: 0 EQ, 1 LT, 2 LE, 3 NE (R297). -/
def vcmpRel (opx : Nat) (a b : Fv) : Nat × Fx :=
  if anyNan a b then (b2n (opx == 3), { nv := opx == 1 || opx == 2 })
  else (b2n (match opx with | 0 => Fv.eq a b | 1 => Fv.lt false a b | 2 => !Fv.lt false b a | _ => !Fv.eq a b), {})

/-- Two- and three-operand arithmetic on elements of type `et` (R297, R298): 0 add, 1 subtract, 2 multiply, 3 maximum, 4 minimum,
5 absolute value, 6 negate, 16 multiply and add. A maximum or minimum is one of its operands, and FTZ does not flush it (log 91, DESIGN CHOICE). -/
def vecArith (op et : Nat) (fctl : Word) (a b c : Nat) : Nat × Fx :=
  match etFmt et with
  | some f =>
    let v := f.read (fctlDaz fctl)
    match op with
    | 0 => ((v a).add (fctlRm fctl) (v b)).round f fctl
    | 1 => ((v a).add (fctlRm fctl) (v b).neg).round f fctl
    | 2 => ((v a).mul (v b)).round f fctl
    | 3 => (f.bitsOf (Fv.pick true (v a) (v b)), {})
    | 4 => (f.bitsOf (Fv.pick false (v a) (v b)), {})
    | 5 => (a % f.signBit, {})
    | 6 => (if a / f.signBit % 2 = 1 then a - f.signBit else a + f.signBit, {})
    | _ => (Fv.fma (fctlRm fctl) (v a) (v b) (v c)).round f fctl
  | none =>
    let w := elemBits et
    let i := toSigned w
    (ofSigned w (match op with
      | 0 => i a + i b
      | 1 => i a - i b
      | 2 => i a * i b
      | 3 => max (i a) (i b)
      | 4 => min (i a) (i b)
      | 5 => (i a).natAbs
      | 6 => -(i a)
      | _ => i a * i b + i c), {})

/-- Elements of .A instructions that a command's unit has counted (R228), in its context or, once it has ended, beside it. -/
def State.apxCount (s : State) (q : Cmd) : Nat :=
  match s.unitCtx q.uid with
  | some x => x.apxCount
  | none => tgetD (s.part q.asid).apxPast q.uid 0

/-- Keeps the count; `fb`: a sampled error exceeded BOUND, which the unit's APXCTL.FB shows while the unit has not ended (R229). -/
def State.putApx (s : State) (q : Cmd) (n : Nat) (fb : Bool) : State :=
  if (s.unitCtx q.uid).isSome then s.modUnit q.uid fun x => { x with apxCount := n, apxctl := if fb then wput x.apxctl 1 1 1 else x.apxctl }
  else s.modPart q.asid fun p => { p with apxPast := tput p.apxPast q.uid n }

/-- An element of a special function, on the exact or the approximate path (R226 to R230, R300). It belongs to the request that the SFU serves, with FB as
that request brought it; after a sampled error above BOUND the rest of its command is exact (R229). -/
def sfuElem (q : Cmd) (f : Fmt) (fn bits : Nat) : Eng (Nat × Fx) := fun s =>
  if fn < 8 then .ok (sfuExact f fn q.fctl bits, s)
  else
    let (n, s) := s.newFree
    let a : Apx := { count := s.apxCount q, fb := (s.core q.core).sfu.head?.any (·.fb), mon := (s.core q.core).apxmon, reports := 0 }
    let (r, b) := sfuApprox f (fn - 8) q.fctl q.apxctl (s.part q.asid).launch.deterministic bits n a
    let s := (s.modCore q.core fun k => { k with apxmon := b.mon }).putApx q b.count (decide (0 < b.reports))
    if b.reports = 0 then .ok (r, s)
    else .ok (r, (s.modCore q.core fun k =>
      { k with sfu := k.sfu.map fun (r : SfuReq) => if r.uid = q.uid ∧ r.seq = q.seq then { r with fb := true } else r }).noticeOf q.core .apxbound q.tid)

/-- The reduction of VRED over the elements from i0 on (R298). -/
def vredFrom (q : Cmd) (op : Nat) (a : Shape) (rest : List Nat) : Nat → Nat → Nat → Fx → Eng (Nat × Fx)
  | 0, _, acc, fx => pure (acc, fx)
  | n + 1, i, acc, fx => do
    let e ← elemRead q a q.gotA (i :: rest)
    let r := vecArith op a.etype q.fctl acc e 0
    vredFrom q op a rest n (i + 1) r.1 (fx.or r.2)

/-- An element that VSEL or VSHF takes over: the reserved T2 code is read as 0 (R214). -/
def t2Copy (et bits : Nat) : Nat × Fx × Bool := if et = 0xA ∧ bits = 2 then (0, {}, true) else (bits, {}, false)

/-- The value of destination element idx (R297 to R300). -/
def vecValue (q : Cmd) (d a b x : Shape) (idx : List Nat) : Eng (Nat × Fx × Bool) := do
  let tail := idx.drop 1
  if q.top = 0x48 then
    let e ← elemRead q a q.gotA (0 :: tail)
    let op := match d.opx with | 0 => 0 | 1 => 3 | _ => 4
    let r ← vredFrom q op a tail (a.e 0 - 1) 1 e {}
    return (r.1, r.2, false)
  else if q.top = 0x4B then
    let j := toSigned 32 (← elemRead q b q.gotB (b.bcast idx))
    if j < 0 ∨ (a.e 0 : Int) ≤ j then engFault .shapebad { d0 := q.boff }
    else
      let e ← elemRead q a q.gotA (j.toNat :: (a.bcast (0 :: tail)).drop 1)
      return t2Copy a.etype e
  else
    let va ← elemRead q a q.gotA (a.bcast idx)
    if 0x60 ≤ q.top ∧ q.top < 0x70 then
      let r ← sfuElem q ((etFmt a.etype).getD fp32) (q.top - 0x60) va
      return (r.1, r.2, false)
    else if q.top = 0x4A then return (va, {}, false)
    else if q.top = 0x47 then
      let r := convertTo d.etype (fctlRm q.fctl) (fctlSat q.fctl) (fctlFtz q.fctl) (etRead a.etype (fctlDaz q.fctl) va)
      return (r.1, r.2, a.etype == 0xA && va == 2)
    else if q.top = 0x45 ∨ q.top = 0x46 then
      let r := vecArith (q.top - 0x40) a.etype q.fctl va 0 0
      return (r.1, r.2, false)
    else
      let vb ← elemRead q b q.gotB (b.bcast idx)
      if q.top = 0x71 then
        let c ← if x.ver = 0 then pure (b2n (q.msk.getLsbD (nth 0 idx 0 % 16))) else elemRead q x q.gotX (x.bcast idx)
        let r := t2Copy a.etype (if c = 1 then va else vb)
        return (r.1, r.2.1, (t2Copy a.etype va).2.2 || (t2Copy a.etype vb).2.2)
      else if q.top = 0x49 then
        let daz := fctlDaz q.fctl
        let r := vcmpRel d.opx (etRead a.etype daz va) (etRead b.etype daz vb)
        return (r.1, r.2, false)
      else if q.top = 0x70 then
        let vc ← elemRead q x q.gotX (x.bcast idx)
        let r := vecArith 16 a.etype q.fctl va vb vc
        return (r.1, r.2, false)
      else
        let r := vecArith (q.top - 0x40) a.etype q.fctl va vb 0
        return (r.1, r.2, false)

/-- Destination element number n: its value is read and computed; and it is written. -/
def vecKept (q : Cmd) (d a b x : Shape) (n : Nat) : Eng Kept := do
  let r ← vecValue q d a b x (d.index n)
  return { val := r.1, fx := r.2.1.bits, t2 := r.2.2 }

def vecPut (q : Cmd) (d : Shape) (n v : Nat) : Eng (List Put) := elemPut q false d (d.index n) v

/-- Elements left from number pos on of the step of `size` elements to which it belongs. -/
def stepLen (pos size count : Nat) : Nat := min ((pos / size + 1) * size) count - pos

/-- Bytes of a fabric source's stream that the step to which element `pos` belongs needs; VRED and VSHF read A by whole rows (R298, R299). -/
def vecNeed (top : Nat) (isA : Bool) (d r : Shape) (pos size : Nat) : Nat :=
  if r.loc ≠ 2 then 0
  else (upTo (stepLen pos size d.count)).foldl (fun n i =>
    let idx := d.index (pos + i)
    let j := if isA && (top == 0x48 || top == 0x4B) then r.linear ((r.e 0 - 1) :: (r.bcast (0 :: idx.drop 1)).drop 1) else r.linear (r.bcast idx)
    max n (r.bytesTo j)) 0

/-- The bytes that a step needs of fabric sources are taken as they come (R289): A's, then B's, then those of the third source. -/
def State.pullAll (s : State) (q : Cmd) (d a b x : Shape) (size : Nat) : State × Cmd :=
  let need := fun isA r => vecNeed q.top isA d r q.pos size
  let (ga, s) := s.pullFabric q.core a (need true a) q.gotA
  let (gb, s) := s.pullFabric q.core b (need false b) q.gotB
  let (gx, s) := s.pullFabric q.core x (need false x) q.gotX
  (s, { q with gotA := ga, gotB := gb, gotX := gx })

/-- The writes of elements are made, and the command notes their flags. -/
def applyElems (d : Shape) (rs : List (List Put × Kept)) (s : State) (q : Cmd) : State × Cmd :=
  rs.foldl (fun a r =>
    let (s, q) := makePuts d r.1 a.1 a.2
    (s, { q with flags := q.flags ||| r.2.fx, t2rsv := q.t2rsv || r.2.t2 })) (s, q)

/-- Bytes of a fabric destination that a command which ends at element pos still holds. -/
def Shape.tail (d : Shape) (pos : Nat) : Nat := if d.loc = 2 then ceilDiv (pos * d.w % 64) 8 else 0

/-- A command that ends at a cause sends the whole elements it still holds for a fabric channel (R289, R296). -/
def State.flushChan (s : State) (q : Cmd) (d : Shape) (pos : Nat) : State :=
  if d.tail pos = 0 then s
  else
    let ch := wfield d.base 16 3
    s.modCore (s.fabTarget q d) fun k => { k with fabric := vset k.fabric ch (k.fab ch ++ leBytes (d.tail pos) q.carry) }

/-- The elements' writes that stand, and the miss that ends them: the first that misses, or that a failed granule stops (R73). -/
def stepParts (s : State) (rs : List (List Put)) (e : Option EMiss) : List (List Put) × Option EMiss :=
  match s.firstFailed rs with
  | some (i, g) => (rs.take i, some { m := .cause .eccunc { d0 := BitVec.ofNat 64 g }, kind := .engWrite, va := 0 })
  | none => (rs, e)

/-- Reads and computes up to n elements from number i on, behind those of the step that are kept already, up to the first that misses. -/
def engKeep (vf : List Kept → Nat → Eng Kept) : Nat → Nat → List Kept → State → List Kept × State × Option EMiss
  | 0, _, l, s => (l, s, none)
  | n + 1, i, l, s =>
    match vf l i s with
    | .error e => (l, s, some e)
    | .ok (k, s) => engKeep vf n (i + 1) (l ++ [k]) s

/-- An elementwise command has nothing left to write: it ends once its writes to held lines and by the loopback port are performed, and its channel takes what it
still holds. -/
def State.finishElems (s : State) (p : Port) (q : Cmd) (d : Shape) : State :=
  if s.putsOut q.uid q.seq || (q.fault.isSome && decide (d.tail q.pos ≠ 0) && !s.fabRoom q d (d.tail q.pos)) then s.putHead p q
  else (if q.fault.isSome then s.flushChan q d q.pos else s).endHead p q q.fault

/-- The elements that a command has read and computed are written in order, up to one that is held, waits, or finds no room in the loopback port or its
channel, which leaves it and those after it to be written later (R41, R289), or up to one with a cause (R40, R73). -/
def State.writeElems (s : State) (p : Port) (q : Cmd) (d : Shape) (pf : Nat → Nat → Eng (List Put)) : State :=
  let (ps, s', e) := engEach (fun i => pf i ((q.kept[i - q.pos]?.map Kept.val).getD 0)) q.kept.length q.pos s
  let (ps, e) := stepParts s' ps e
  let room := if d.loc = 2 then 2048 - ((s'.core (s'.fabTarget q d)).fab (wfield d.base 16 3)).length else 0
  let n := putsFit (16 - (s'.core q.core).loop.length) room ps
  let (t, c) := applyElems d ((ps.take n).zip q.kept) (s'.repairPuts (ps.take n).flatten) q
  let c := { c with pos := q.pos + n, kept := q.kept.drop n, redo := if n = 0 then q.redo else none }
  if n < ps.length then t.putHead p c
  else match e with
    | some e =>
      match e.m with
      | .cause k det => (t.noteMiss e).finishElems p { c with kept := [], fault := some (k, det) } d
      | _ => t.missHead p c e
    | none => if d.count ≤ c.pos ∨ c.fault.isSome then t.finishElems p c d else t.putHead p c

/-- One step of an elementwise command at the head of a queue, of at most `size` elements (R293, R296): the elements of the step are read and computed, in
order, by `vf`, and then, with all its sources read, written by `pf`. What is read before an element that is held or waits stays read, and what is written
stays written (R40, R41); a cause ends the command once the elements before it are written. -/
def State.elemStep (s : State) (p : Port) (q : Cmd) (d : Shape) (size : Nat) (vf : List Kept → Nat → Eng Kept) (pf : Nat → Nat → Eng (List Put)) : State :=
  let left := if q.fault.isSome then 0 else stepLen q.pos size d.count - q.kept.length
  let (l, s', e) := engKeep vf left (q.pos + q.kept.length) q.kept s
  let more := decide (q.kept.length < l.length)
  let c := { q with kept := l, redo := if more then none else q.redo }
  let t := if more then s'.dropTurns q.uid q.seq else s'
  match e with
  | none => t.writeElems p c d pf
  | some e =>
    match e.m with
    | .cause k det => (t.noteMiss e).writeElems p { c with fault := some (k, det) } d pf
    | _ => t.missHead p c e

/-- Is it one of the special functions, which the SFU performs (R300, R301)? -/
def isSfu (top : Nat) : Bool := 0x60 ≤ top && top < 0x70

/-- The next step of a command becomes a request at the SFU, with FB as it now stands (R229, R301). -/
def State.sfuEnter (s : State) (p : Port) (q : Cmd) (pos : Nat) : State :=
  let fb := q.fb || q.apxctl.getLsbD 1 || (s.unitCtx q.uid).any fun x => x.apxctl.getLsbD 1
  let r : SfuReq := { uid := q.uid, seq := q.seq, pos := pos, stream := p == .vsq q.core, fb := fb }
  s.modCore q.core fun k => { k with sfu := k.sfu ++ [r] }

/-- The SFU serves the request at the head of its queue, a step of the command at the head of a port. -/
def State.sfuServe (s : State) (p : Port) (q : Cmd) (r : SfuReq) (d : Shape) (size : Nat) (vf : List Kept → Nat → Eng Kept) (pf : Nat → Nat → Eng (List Put)) : State :=
  let mine := fun (e : SfuReq) => e.uid == r.uid && e.seq == r.seq && e.pos == r.pos
  let t := s.elemStep p q d size vf pf
  let now := (t.core q.core).sfu.find? mine
  let t := t.modCore q.core fun k => { k with sfu := k.sfu.filter fun e => !mine e }
  if !r.fb && now.any (·.fb) then t.setQueue p ((t.queueOf p).map fun (c : Cmd) => if c.uid = q.uid ∧ c.seq = q.seq then { c with fb := true } else c) else t

/-- Has a command nothing to compute now: its step is computed, its last element is written, or a cause ends it? -/
def Cmd.computed (q : Cmd) (size count : Nat) : Bool := q.fault.isSome || decide (stepLen q.pos size count ≤ q.kept.length)

/-- One step of the vector instruction or vector-stream command at the head of a queue. A special function's step enters the SFU's queue, or, where its
request is the first there, is served; which of the two comes first is open (R301). `bad`: the SFU's self-check fails on the element of that number of
the step that is served (R296). -/
def State.vecStep (s : State) (p : Port) (bad : Option Nat) : State :=
  match s.headCmd p with
  | none => s
  | some q =>
    let d := Shape.of q.rc
    let a := Shape.of q.ra
    let b := Shape.of q.rb
    let x := Shape.of q.rx
    let here := [a, b, x].filter fun r => r.ver != 0
    let size := 2048 / ((d :: here).foldl (fun n r => max n r.w) 1)
    let (s, q) := (s.runHead q).pullAll (s.bindCmd q here) d a b x size
    let s := s.putHead p q
    let sfu := (s.core q.core).sfu
    let mine := sfu.filter fun (r : SfuReq) => r.uid == q.uid && r.seq == q.seq
    let pos := if mine.isEmpty then q.pos else (q.pos / size + mine.length) * size
    let enters := decide (pos < d.count) && decide (sfu.length < 32)
    if !isSfu q.top || q.computed size d.count then s.elemStep p q d size (fun _ => vecKept q d a b x) (vecPut q d)
    else match sfu.head?.filter (mine.contains ·) with
      | some r =>
        if enters && !Config.sfuServes (Nat.pair s.freshCount q.seq) then s.sfuEnter p q pos
        else s.sfuServe p q r d size (fun _ i => if bad = some (i - q.pos) then engFault .sfufault {} else vecKept q d a b x i) (vecPut q d)
      | none => if enters then s.sfuEnter p q pos else s

end Sys2Proof.Machine
end

