-- ==== Sys2Proof/Machine/Reduce.lean ====
section
/-! DEFINITION. One step of a BADDQ (R346, R347): block reduction into FA36 accumulators, and the conversion of its output. -/

namespace Sys2Proof.Machine

/-- A value times 2^k. -/
def Fv.scale (v : Fv) (k : Int) : Fv := match v with | .fin n m e => .fin n m (e + k) | v => v

/-- An operand of a reduction lies in one of the spaces 0x0 to 0x4 (R345). -/
def baddSpace (va : Word) : Eng Unit := if 4 < wfield va 60 4 then engFault .access { d0 := va, d1 := 1 } else pure ()

/-- Element number e of a packed stream at a base (R215): its first byte, its first bit there, the bytes it touches. -/
def packedAt (base : Word) (w e : Nat) : Word × Nat × Nat := (base + BitVec.ofNat 64 (e * w / 8), e * w % 8, (e * w % 8 + w + 7) / 8)

/-- Reads element e of a packed stream. -/
def packedRead (q : Cmd) (base : Word) (et e : Nat) : Eng Nat := do
  let w := elemBits et
  let (va, bit, n) := packedAt base w e
  baddSpace va
  if 8 ≤ w then engRead q (w / 8) n va
  else do
    let lo ← engRead q 1 1 va
    let hi ← if n = 2 then engRead q 1 1 (va + 1) else pure 0
    return fieldOf (lo + 256 * hi) bit w

/-- The write of element e of a packed stream. -/
def packedPut (q : Cmd) (shadow : Bool) (base : Word) (et e v : Nat) : Eng (List Put) := do
  let w := elemBits et
  let (va, bit, n) := packedAt base w e
  baddSpace va
  if 8 ≤ w then do
    let k ← engKey q true shadow (w / 8) n va
    return (k.map fun k => Put.mem k n v (q.loops true va)).toList
  else do
    let k ← engKey q true shadow 1 1 va
    let low := if n = 2 then 8 - bit else w
    let j ← if n = 2 then engKey q true shadow 1 1 (va + 1) else pure none
    let own := q.loops true va
    return (k.map fun k => Put.bits k bit low (v % 2 ^ low) false own).toList ++ (j.map fun j => Put.bits j 0 (w - low) (v / 2 ^ low) false own).toList

/-- Address of Acc(i). -/
def Baddq.accAt (d : Baddq) (i : Nat) : Word := BitVec.ofNat 64 (d.acc + 8 * i)

/-- Acc(i) after its input is added (R346). -/
def baddAcc (q : Cmd) (d : Baddq) (e0 i : Nat) : Eng Nat := do
  let old ← engRead q 8 8 (d.accAt i)
  let x ← packedRead q d.inp d.itype (e0 + i)
  let v := etRead d.itype false x
  let v ← if d.isc then (do
      let c ← packedRead q d.iscl 8 ((e0 + i) / 32)
      return if c = 255 then Fv.nan else v.scale ((c : Int) - 127)) else pure v
  return fa36.bitsOf ((fa36.read false (if d.clr then 0 else old)).add 0 v).v

/-- The write of Acc(i). -/
def baddPut (q : Cmd) (d : Baddq) (i v : Nat) : Eng (List Put) := do
  let k ← engKey q true false 8 8 (d.accAt i)
  return (k.map fun k => Put.mem k 8 v false).toList

/-- Exponent of the largest finite value of an output type (R346). -/
def tmax : Nat → Int
  | 3 => 8
  | 4 => 15
  | 5 => 2
  | 6 => 4
  | _ => 2

/-- The scale code of a run of accumulators; 255 where one is NaN or infinite (R346). -/
def runCode (et : Nat) (accs : List Nat) : Nat :=
  let vs := accs.map (fa36.read false)
  if vs.any fun v => match v with | .fin _ _ _ => false | _ => true then 255
  else
    let exps := vs.filterMap fun v => match v with | .fin _ m e => if m = 0 then none else some (expo m e) | _ => none
    match exps with
    | [] => 127
    | e :: r => (max 0 (min 254 (r.foldl max e - tmax et + 127))).toNat

/-- The output of an accumulator under a scale code: the value it stands for, or NaN under the code 255 (R346). -/
def baddOut (d : Baddq) (code acc : Nat) : Nat × Fx :=
  if code = 255 then convertTo d.otype 0 true false .nan else convertTo d.otype 0 true false ((fa36.read false acc).scale (127 - (code : Int)))

/-- Element i of a reduction without output scales: the accumulator, with the flags of its output. -/
def baddKept (q : Cmd) (d : Baddq) (e0 i : Nat) : Eng Kept := do
  let r ← baddAcc q d e0 i
  return { val := r, fx := if d.outen then (baddOut d 127 r).2.bits else 0 }

/-- Its writes: the accumulator, and its output. -/
def baddPuts (q : Cmd) (d : Baddq) (e0 i v : Nat) : Eng (List Put) := do
  let ps ← baddPut q d i v
  if !d.outen then return ps
  else return ps ++ (← packedPut q d.shd d.out d.otype (e0 + i) (baddOut d 127 v).1)

/-- A run of 32 elements with output scales comes to 65 values: 32 accumulators, their scale code, and 32 outputs (R346); `l` are those of the run that are
known already, and value i is wanted. -/
def runKept (q : Cmd) (d : Baddq) (e0 : Nat) (l : List Kept) (i : Nat) : Eng Kept := do
  let j := i % 65
  if j < 32 then return { val := ← baddAcc q d e0 (32 * (i / 65) + j) }
  else if j = 32 then return { val := runCode d.otype ((l.take 32).map Kept.val) }
  else
    let v := nth 0 (l.map Kept.val)
    let o := baddOut d (v 32) (v (j - 33))
    return { val := o.1, fx := o.2.bits }

/-- The writes of value i of a run. -/
def runPuts (q : Cmd) (d : Baddq) (e0 i v : Nat) : Eng (List Put) :=
  let j := i % 65
  let e := e0 + 32 * (i / 65)
  if j < 32 then baddPut q d (32 * (i / 65) + j) v
  else if j = 32 then packedPut q d.shd d.oscl 8 (e / 32) v
  else packedPut q d.shd d.out d.otype (e + (j - 33)) v

/-- A record of n elements of no storage, which counts a reduction's steps. -/
def countShape (n : Nat) : Shape := { Shape.of 0 with ext := #v[n, 1, 1, 1] }

/-- One step of the BADDQ at the head of a vector queue: 32 elements (R347). -/
def State.baddStep (s : State) (p : Port) : State :=
  match s.headCmd p with
  | none => s
  | some q =>
    let d := Baddq.of q.ra
    let e0 := d.e0 q.aux
    let s := s.runHead q
    if d.outen && d.osc then s.elemStep p q (countShape (65 * ((d.n + 1) / 32))) 65 (runKept q d e0) (runPuts q d e0)
    else s.elemStep p q (countShape (d.n + 1)) 32 (fun _ => baddKept q d e0) (baddPuts q d e0)

end Sys2Proof.Machine
end

