-- ==== Sys2Proof/Machine/Vector.lean ====
section
/-! DEFINITION. Reading records at issue (R291), what a command captures (R204, R220), the issue of vector instructions (R291 to R300),
VWAIT (R295), and the masks (R302). -/

namespace Sys2Proof.Machine

/-- A load of n bytes at a space-0x0 address by an issuing instruction, as records and command words are read; at a line that an ATE holds, in its turn there
(R69). -/
def State.readAlias (s : State) (n : Nat) (va : Word) : Except Miss (List Byte × State) :=
  match s.checkNamed (s.agent s.curCore) .load 1 n va with
  | .error m => .error m
  | .ok _ =>
    if s.interlocked false va n then .error .busy
    else match s.aliasKeys s.curCore va.toNat n with
      | .error (c, d) => .error (.cause c d)
      | .ok ks =>
        match ks.find? fun k => k % 32 == 0 && s.turnWait s.cur.uid threadSeq k false with
        | some k => .error (.turn k false)
        | none => .ok (ks.map (s.seenByte s.cur.uid threadSeq), (s.aliasNote s.curCore va.toNat n).dropTurns s.cur.uid threadSeq)

/-- The 64-byte records at some addresses, in order. -/
def State.readRecords (s : State) : List Word → Except Miss (List (BitVec 512) × State)
  | [] => .ok ([], s)
  | va :: r =>
    match s.readAlias 64 va with
    | .error m => .error m
    | .ok (bs, s) =>
      match s.readRecords r with
      | .error m => .error m
      | .ok (l, s) => .ok (BitVec.ofNat 512 (leNat bs) :: l, s)

/-- A miss of such a read. -/
def Miss.atIssue (m : Miss) (s : State) : Res :=
  match m with
  | .cause c d => .trap c d (s.noteEcc c d (64 - d.d0.toNat % 64))
  | m => m.res .load 0 s

/-- Does the LCORE exist in the launch? -/
def State.hasLcore (s : State) (asid n : Nat) : Bool := (s.lcoreCore asid n).isSome

/-- A command or vector instruction of the issuing thread, with what it captures and an entry in the in-flight table (R220, R420). -/
def State.capture (s : State) (top : Nat) (word : BitVec 256) (addr : Word) (kind : Nat) (token : Reg) : Cmd × State :=
  let x := s.cur
  let (seq, s') := s.addOp addr kind token
  ({ Cmd.blank s.curCore s.curK.asidN x.uid x.tid s.curThread.val with
     top := top, word := word, fctl := x.fctl, apxctl := x.apxctl, perm := x.perm, token := token, seq := seq
     snapOrd := x.curSnap.map (·.order), enqCycle := s.cycle, win := s.curWindow s.curCore }, s')

/-- A record's bits, or those of no record. -/
def recAt (l : List (BitVec 512)) (i : Nat) : BitVec 512 := l.getD i 0

/-- A vector instruction enters its thread's queue with the records D, A, B and C, of which B's lies at `boff` (R293). -/
def State.queueVec (s : State) (top : Nat) (rs : List (BitVec 512)) (boff : Word) (msk : BitVec 16) : State :=
  let (q, s) := s.capture top 0 s.cur.pc 4 0
  let q := { q with rc := recAt rs 0, ra := recAt rs 1, rb := recAt rs 2, rx := recAt rs 3, boff := boff, msk := msk }
  let q := s.bindCmd q ((rs.drop 1).map Shape.of)
  let det := (s.launchOf s.curCore).deterministic
  s.modCur fun x => { x with vq := x.vq ++ [q], warn := if isApx top && det then x.warn ||| 4 else x.warn }

/-- The issuing thread's vector queue (R293). -/
def State.curVectors (s : State) : List Cmd := (s.thr s.curCore s.curThread.val).vectors

/-- The issue of a vector instruction: D, then the sources, hold record addresses (R291). It is a release towards what the thread has under
way (R294), and a ninth waits for room (R293). -/
def vecIssue (top : Nat) (d : Reg) (srcs : List (Reg × Bool)) (msk : Ctx → BitVec 16) (s : State) : Host.Outcome State Fault Refusal :=
  issue srcs (some d) (fun s =>
    let x := s.cur
    let addrs := x.xr d :: srcs.map fun r => x.xr r.1
    if 8 ≤ s.curVectors.length ∨ s.accessesOut x.uid then .stay s
    else match addrs.find? fun a => wfield a 60 4 != 0 || wfield a 0 6 != 0 with
      | some a => .trap .shapebad { d0 := a } s
      | none =>
        match s.readRecords addrs with
        | .error m => m.atIssue s
        | .ok (rs, s) =>
          let shapes := (addrs.map BitVec.toNat).zip (rs.map Shape.of)
          match shapes with
          | [] => .stay s
          | dd :: ss =>
            match shapeCheck (roleOf top) (s.launchOf s.curCore).gang (s.hasLcore s.curK.asidN) dd ss with
            | some (c, det) => .trap c det s
            | none => .retire (s.queueVec top rs (nth 0 addrs 2) (msk x))) s

/-- A vector instruction of two sources, and of one. -/
def vec2 (top : Nat) (d a b : Reg) (ma mb : Bool) : State → Host.Outcome State Fault Refusal := vecIssue top d [(a, ma), (b, mb)] fun _ => 0
def vec1 (top : Nat) (d a : Reg) (ma : Bool) : State → Host.Outcome State Fault Refusal := vecIssue top d [(a, ma)] fun _ => 0

def execVadd (d a b : Reg) (ma mb : Bool) (s : State) : Host.Outcome State Fault Refusal := vec2 0x40 d a b ma mb s
def execVsub (d a b : Reg) (ma mb : Bool) (s : State) : Host.Outcome State Fault Refusal := vec2 0x41 d a b ma mb s
def execVmul (d a b : Reg) (ma mb : Bool) (s : State) : Host.Outcome State Fault Refusal := vec2 0x42 d a b ma mb s
def execVmax (d a b : Reg) (ma mb : Bool) (s : State) : Host.Outcome State Fault Refusal := vec2 0x43 d a b ma mb s
def execVmin (d a b : Reg) (ma mb : Bool) (s : State) : Host.Outcome State Fault Refusal := vec2 0x44 d a b ma mb s
def execVabs (d a : Reg) (ma : Bool) (s : State) : Host.Outcome State Fault Refusal := vec1 0x45 d a ma s
def execVneg (d a : Reg) (ma : Bool) (s : State) : Host.Outcome State Fault Refusal := vec1 0x46 d a ma s
def execVcvt (d a : Reg) (ma : Bool) (s : State) : Host.Outcome State Fault Refusal := vec1 0x47 d a ma s
def execVred (d a : Reg) (ma : Bool) (s : State) : Host.Outcome State Fault Refusal := vec1 0x48 d a ma s
def execVcmp (d a b : Reg) (ma mb : Bool) (s : State) : Host.Outcome State Fault Refusal := vec2 0x49 d a b ma mb s
def execVmov (d a : Reg) (ma : Bool) (s : State) : Host.Outcome State Fault Refusal := vec1 0x4A d a ma s
def execVshf (d a b : Reg) (ma mb : Bool) (s : State) : Host.Outcome State Fault Refusal := vec2 0x4B d a b ma mb s

/-- VFMA: C holds the addend's record (R297). -/
def execVfma (d a b c : Reg) (mq : Bool) (s : State) : Host.Outcome State Fault Refusal :=
  vecIssue 0x70 d [(a, mq), (b, mq), (c, mq)] (fun _ => 0) s

/-- VSEL: C names an m register, captured now (R297). -/
def execVsel (d a b c : Reg) (mq : Bool) (s : State) : Host.Outcome State Fault Refusal :=
  vecIssue 0x71 d [(a, mq), (b, mq)] (fun x => x.mr c) s

def execVexp (d a : Reg) (ma : Bool) (s : State) : Host.Outcome State Fault Refusal := vec1 0x60 d a ma s
def execVlog (d a : Reg) (ma : Bool) (s : State) : Host.Outcome State Fault Refusal := vec1 0x61 d a ma s
def execVrcp (d a : Reg) (ma : Bool) (s : State) : Host.Outcome State Fault Refusal := vec1 0x62 d a ma s
def execVrsq (d a : Reg) (ma : Bool) (s : State) : Host.Outcome State Fault Refusal := vec1 0x63 d a ma s
def execVtanh (d a : Reg) (ma : Bool) (s : State) : Host.Outcome State Fault Refusal := vec1 0x64 d a ma s
def execVsigm (d a : Reg) (ma : Bool) (s : State) : Host.Outcome State Fault Refusal := vec1 0x65 d a ma s
def execVexpA (d a : Reg) (ma : Bool) (s : State) : Host.Outcome State Fault Refusal := vec1 0x68 d a ma s
def execVlogA (d a : Reg) (ma : Bool) (s : State) : Host.Outcome State Fault Refusal := vec1 0x69 d a ma s
def execVrcpA (d a : Reg) (ma : Bool) (s : State) : Host.Outcome State Fault Refusal := vec1 0x6A d a ma s
def execVrsqA (d a : Reg) (ma : Bool) (s : State) : Host.Outcome State Fault Refusal := vec1 0x6B d a ma s
def execVtanhA (d a : Reg) (ma : Bool) (s : State) : Host.Outcome State Fault Refusal := vec1 0x6C d a ma s
def execVsigmA (d a : Reg) (ma : Bool) (s : State) : Host.Outcome State Fault Refusal := vec1 0x6D d a ma s

/-- VWAIT (R295). -/
def execVwait (s : State) : Host.Outcome State Fault Refusal :=
  issue [] none (fun s => if s.curVectors.isEmpty then .retire s else .stay s) s

/-- Where the first vector instruction of a thread's queue stands (R293): among those of ended units, or in the queue of the unit that runs. -/
def State.vecPort (s : State) (core thread : Nat) : Option Port :=
  let th := s.thr core thread
  if !th.past.isEmpty then some (.past core thread) else if th.running then some (.vq th.ctx.uid) else none

/-- The step that is due of a thread's vector queue (R293); thread 4 stands for the vector-stream queue of the core (R303). `bad` is the element on which
the SFU's self-check fails (R296). -/
def execVectorStep (core thread : Nat) (bad : Option Nat) (s : State) : Host.Outcome State Fault Refusal :=
  .next (match (if thread = 4 then some (.vsq core) else s.vecPort core thread) with
    | none => s
    | some p => if (s.queueOf p).head?.any fun q => q.top == baddqTop then s.baddStep p else s.vecStep p bad)

/-- A step of the vector-stream command at the head of a core's queue, where it is the operation named (R303). -/
def tcwStep (top core : Nat) (s : State) : Host.Outcome State Fault Refusal :=
  .next (if ((s.core core).vsq.head?.any fun q => q.top == top) then s.vecStep (.vsq core) none else s)

def execTcwVadd (core : Nat) (s : State) : Host.Outcome State Fault Refusal := tcwStep 0x40 core s
def execTcwVsub (core : Nat) (s : State) : Host.Outcome State Fault Refusal := tcwStep 0x41 core s
def execTcwVmul (core : Nat) (s : State) : Host.Outcome State Fault Refusal := tcwStep 0x42 core s
def execTcwVmax (core : Nat) (s : State) : Host.Outcome State Fault Refusal := tcwStep 0x43 core s
def execTcwVmin (core : Nat) (s : State) : Host.Outcome State Fault Refusal := tcwStep 0x44 core s
def execTcwVabs (core : Nat) (s : State) : Host.Outcome State Fault Refusal := tcwStep 0x45 core s
def execTcwVneg (core : Nat) (s : State) : Host.Outcome State Fault Refusal := tcwStep 0x46 core s
def execTcwVcvt (core : Nat) (s : State) : Host.Outcome State Fault Refusal := tcwStep 0x47 core s
def execTcwVred (core : Nat) (s : State) : Host.Outcome State Fault Refusal := tcwStep 0x48 core s
def execTcwVcmp (core : Nat) (s : State) : Host.Outcome State Fault Refusal := tcwStep 0x49 core s
def execTcwVmov (core : Nat) (s : State) : Host.Outcome State Fault Refusal := tcwStep 0x4A core s
def execTcwVshf (core : Nat) (s : State) : Host.Outcome State Fault Refusal := tcwStep 0x4B core s
def execTcwVexp (core : Nat) (s : State) : Host.Outcome State Fault Refusal := tcwStep 0x60 core s
def execTcwVlog (core : Nat) (s : State) : Host.Outcome State Fault Refusal := tcwStep 0x61 core s
def execTcwVrcp (core : Nat) (s : State) : Host.Outcome State Fault Refusal := tcwStep 0x62 core s
def execTcwVrsq (core : Nat) (s : State) : Host.Outcome State Fault Refusal := tcwStep 0x63 core s
def execTcwVtanh (core : Nat) (s : State) : Host.Outcome State Fault Refusal := tcwStep 0x64 core s
def execTcwVsigm (core : Nat) (s : State) : Host.Outcome State Fault Refusal := tcwStep 0x65 core s
def execTcwVexpA (core : Nat) (s : State) : Host.Outcome State Fault Refusal := tcwStep 0x68 core s
def execTcwVlogA (core : Nat) (s : State) : Host.Outcome State Fault Refusal := tcwStep 0x69 core s
def execTcwVrcpA (core : Nat) (s : State) : Host.Outcome State Fault Refusal := tcwStep 0x6A core s
def execTcwVrsqA (core : Nat) (s : State) : Host.Outcome State Fault Refusal := tcwStep 0x6B core s
def execTcwVtanhA (core : Nat) (s : State) : Host.Outcome State Fault Refusal := tcwStep 0x6C core s
def execTcwVsigmA (core : Nat) (s : State) : Host.Outcome State Fault Refusal := tcwStep 0x6D core s
def execTcwVfma (core : Nat) (s : State) : Host.Outcome State Fault Refusal := tcwStep 0x70 core s
def execTcwVsel (core : Nat) (s : State) : Host.Outcome State Fault Refusal := tcwStep 0x71 core s

/-! ## Masks -/

/-- A mask instruction that writes m[D]. -/
def maskOp (srcs : List (Reg × Bool)) (d : Reg) (f : Ctx → BitVec 16) (s : State) : Host.Outcome State Fault Refusal :=
  issue srcs none (fun s => .retire (s.modCur fun x => x.setM d (f x))) s

def execMand (d a b : Reg) (_ma _mb : Bool) (s : State) : Host.Outcome State Fault Refusal := maskOp [] d (fun x => x.mr a &&& x.mr b) s
def execMor (d a b : Reg) (_ma _mb : Bool) (s : State) : Host.Outcome State Fault Refusal := maskOp [] d (fun x => x.mr a ||| x.mr b) s
def execMxor (d a b : Reg) (_ma _mb : Bool) (s : State) : Host.Outcome State Fault Refusal := maskOp [] d (fun x => x.mr a ^^^ x.mr b) s
def execMnot (d a : Reg) (_ma : Bool) (s : State) : Host.Outcome State Fault Refusal := maskOp [] d (fun x => ~~~(x.mr a)) s
def execMshl (d a b : Reg) (_ma mb : Bool) (s : State) : Host.Outcome State Fault Refusal :=
  maskOp [(b, mb)] d (fun x => x.mr a <<< wfield (x.xr b) 0 5) s
def execMshr (d a b : Reg) (_ma mb : Bool) (s : State) : Host.Outcome State Fault Refusal :=
  maskOp [(b, mb)] d (fun x => x.mr a >>> wfield (x.xr b) 0 5) s
def execMmovMX (d a : Reg) (ma : Bool) (s : State) : Host.Outcome State Fault Refusal :=
  maskOp [(a, ma)] d (fun x => (x.xr a).truncate 16) s
def execMmovMM (d a : Reg) (_ma : Bool) (s : State) : Host.Outcome State Fault Refusal := maskOp [] d (fun x => x.mr a) s

/-- The number of one bits of a mask. -/
def onesOf (v : BitVec 16) : Nat := ((upTo 16).filter fun i => v.getLsbD i).length

def execMpop (d a : Reg) (_ma : Bool) (s : State) : Host.Outcome State Fault Refusal :=
  issue [] (some d) (fun s => setRetire d (BitVec.ofNat 64 (onesOf (s.cur.mr a))) s) s
def execMmovXM (d a : Reg) (_ma : Bool) (s : State) : Host.Outcome State Fault Refusal :=
  issue [] (some d) (fun s => setRetire d ((s.cur.mr a).zeroExtend 64) s) s

end Sys2Proof.Machine
end

