-- ==== Sys2Proof/Machine/Enq.lean ====
section
/-! DEFINITION. The classes of tile commands (R203) and ENQ: reading the word, patching it, the checks of R204 in order, and the
records each class of command takes with it (R303, R307, R332). -/

namespace Sys2Proof.Machine

/-- An MM command's TOP. -/
def isMm (top : Nat) : Bool := decide (top < 0x0A)

/-- Is C to be read: is neither ACC nor CLR set (R311)? -/
def Tcw.cin (t : Tcw) : Bool := !t.acc && !t.clr

/-- The queue of a TOP: 0 matrix, 1 vector-stream, 2 copy; none where it is unassigned (R203). -/
def topClass (top : Nat) : Option Nat :=
  if (topEvent 0 top).isNone then none
  else if top < 0x40 then some 0 else if top < 0x80 then some 1 else some 2

/-- Has the operation a second source record (R297, R303)? -/
def hasB (top : Nat) : Bool := top ≤ 0x44 || top == 0x49 || top == 0x4B || 0x70 ≤ top

/-- The fields a command uses: masks of MOD, CX and AUX, and RA, RB, RC, FS, and a primary record (R303, R307, R331). -/
structure TcwUse where
  mod : Nat := 0
  cx : Nat := 0
  aux : Nat := 0
  ra : Bool := false
  rb : Bool := false
  rc : Bool := false
  fs : Bool := false
  primary : Bool := true
deriving DecidableEq, Repr

def Tcw.uses (t : Tcw) : TcwUse :=
  if isMm t.top then
    { mod := 0x67, cx := 0x3F, aux := if 5 ≤ t.top ∧ t.top < 8 then 0x3FFFF + 0x1FFFF * 2 ^ 24 + 0x1FFFF * 2 ^ 41 else 0x3FFFF
      ra := true, rc := t.cin, fs := t.scl }
  else if t.top = 0x10 then { cx := 0xF, aux := 0x3FFFF, ra := true }
  else if t.top = 0x11 then { cx := 1, primary := false }
  else if t.top = 0x12 then { mod := 0x38, cx := 0xF, rc := true }
  else if t.top = 0x13 then { aux := 0x1FFFF, ra := true }
  else if t.top = 0x14 then { mod := 2, cx := 0xFFFF, rc := !t.clr, primary := false }
  else if t.top = 0x15 then { mod := 3, cx := 0xF3F, aux := 0x3FFFF + 0x1FFFF * 2 ^ 24, ra := true, rc := t.cin }
  else if t.top < 0x80 then
    { cx := if t.top = 0x71 ∧ !t.recCond then 0xF else 0
      aux := if t.top = 0x70 then 0x1FFFF else if t.top = 0x71 then (if t.recCond then 2 ^ 63 + 0x1FFFF else 0) else 0
      ra := true, rb := hasB t.top, rc := true }
  else
    let x := t.top = 0x81
    { mod := if x then 0x77 else 0x17
      cx := (if t.wm then 7 else 0) + (if x && t.lh then 0x3FF00 else 0)
      aux := if t.bar then 2 ^ 64 - 1 else 0
      ra := true, rb := x && t.idx, rc := true }

/-- Has a field a bit outside a mask? -/
def outside (v mask : Nat) : Bool := v &&& mask != v

/-- Step 3 of R204: a reserved field or an unused one is not zero; a command without a primary record has a BASE (R306). -/
def Tcw.reserved (t : Tcw) : Bool :=
  let u := t.uses
  t.rsv != 0 || outside t.mod u.mod || outside t.cx u.cx || outside t.aux u.aux || (!u.ra && t.ra != 0) || (!u.rb && t.rb != 0) ||
  (!u.rc && t.rc != 0) || (!u.fs && t.fs != 0) || decide (32 ≤ t.fs) || (!u.primary && t.base != 0)

/-- The code of a combination of R207 that a word holds on its own, with whether it is met: 0x03, 0x04, 0x05. -/
def Tcw.mixes (t : Tcw) : List (Bool × Nat) :=
  [((isMm t.top || t.top == 0x15) && t.acc && t.clr, 3), ((t.top == 8 || t.top == 9) && t.scl, 4),
   (t.top == 0x12 && t.sat && [0, 1, 2, 9].contains (t.cx % 16), 5)]

/-- Step 4 of R204 for combinations in ascending order of their codes: TE = 1 stops at the first that is met, TE = 0 notes each, so that MIXID keeps the highest
(R207, which does not say which of several it keeps: log 90, DESIGN CHOICE). -/
def mixSteps : List (Bool × Nat) → (State → Res) → State → Res
  | [], go, s => go s
  | (bad, code) :: r, go, s =>
    if !bad then mixSteps r go s
    else if wfield s.cur.warn 63 1 = 1 then .trap .mixtrap { d0 := BitVec.ofNat 64 code } (s.modCur fun x => { x with warn := mixWarn x.warn code })
    else mixSteps r go (s.modCur fun x => { x with warn := mixWarn x.warn code })

/-- The records at some private-alias offsets, all multiples of 64 (R202, step 1 of R291). -/
def withRecords (offs : List Nat) (go : List (BitVec 512) → State → Res) (s : State) : Res :=
  match offs.find? fun o => o % 64 != 0 with
  | some o => .trap .shapebad { d0 := BitVec.ofNat 64 o } s
  | none =>
    match s.readRecords (offs.map (BitVec.ofNat 64)) with
    | .error m => m.atIssue s
    | .ok (rs, s) => go rs s

/-- A record with its BASE replaced, where the patched BASE is not zero (R306). -/
def rebase (base : Word) (r : BitVec 512) : BitVec 512 :=
  if base = 0 then r else BitVec.ofNat 512 (r.toNat - fieldOf r.toNat 0 64 + base.toNat)

/-- A SHAPEBAD that names a record by its offset. -/
def badAt (off : Nat) : Option (Cause × Detail) := some (.shapebad, { d0 := BitVec.ofNat 64 off })

/-- The first of some conditions that holds. -/
def firstBad : List (Bool × Option (Cause × Detail)) → Option (Cause × Detail)
  | [] => none
  | (b, c) :: r => if b then c else firstBad r

/-- Steps 2 and 3 of R291 on records that are no vector operands, each with its offset and whether it is a destination; and R290. -/
def State.plainRecords (s : State) (rs : List (Nat × Shape × Bool)) : Option (Cause × Detail) :=
  let l := s.launchOf s.curCore
  match rs.find? fun r => r.2.1.reserved with
  | some _ => some (.rsvfld, {})
  | none =>
    match rs.find? fun r => r.2.1.badLoc r.2.2 (s.hasLcore s.curK.asidN) || r.2.1.opx != 0 with
    | some r => badAt r.1
    | none => if !l.gang && rs.any fun r => r.2.1.gang != 0 then some (.gangbad, {}) else none

/-! ## Shadowed destinations -/

/-- The shadow-table buffers that n bytes from an address touch: the index and whether they lie wholly in the buffer's area 0 (R340). The test is made on
names: no access is checked for it. -/
def State.shadowHitsAt (s : State) (core : Nat) (lo : Word) (n : Nat) : List (Nat × Bool) :=
  let k := s.placeOf core lo
  (s.launchOf core).shadows.filterMap fun e =>
    let b := s.placeOf core e.2.name
    if overlap k n b (2 * e.2.size) then some (e.1, decide (b ≤ k) && decide (k + n ≤ b + e.2.size)) else none

/-- The same for a destination's footprint. -/
def State.shadowHits (s : State) (core : Nat) (r : Shape) : List (Nat × Bool) :=
  if r.loc ≠ 0 then [] else s.shadowHitsAt core (BitVec.ofInt 64 r.footprint.1) r.footprint.2

/-- Do buffers touched match SHD (R340)? -/
def shdMatch (shd : Bool) (hits : List (Nat × Bool)) : Bool :=
  if shd then (match hits with | [h] => h.2 | _ => false) else hits.isEmpty

/-- Does SHD match the buffers (R340)? -/
def State.shdFits (s : State) (core : Nat) (shd : Bool) (r : Shape) : Bool :=
  shdMatch shd (s.shadowHits core r)

/-! ## The matrix class -/

/-- A format pair (R308): element types of A and B, group size n, alignment point P (R221), B values in a unit, and integer sums. -/
structure MmFmt where
  a : Nat
  b : Nat
  n : Nat
  p : Nat
  v : Nat
  int : Bool := false
deriving DecidableEq, Repr

def mmFmt : Nat → MmFmt
  | 0x0 => { a := 0x1, b := 0x1, n := 16, p := 23, v := 8 }
  | 0x1 => { a := 0x2, b := 0x2, n := 16, p := 23, v := 8 }
  | 0x2 => { a := 0x3, b := 0x3, n := 16, p := 23, v := 16 }
  | 0x3 => { a := 0x4, b := 0x4, n := 16, p := 23, v := 16 }
  | 0x4 => { a := 0x3, b := 0x4, n := 16, p := 23, v := 16 }
  | 0x5 => { a := 0x7, b := 0x7, n := 32, p := 22, v := 32 }
  | 0x6 => { a := 0x5, b := 0x5, n := 32, p := 22, v := 16 }
  | 0x7 => { a := 0x6, b := 0x6, n := 32, p := 22, v := 16 }
  | 0x8 => { a := 0x8, b := 0x8, n := 16, p := 0, v := 16, int := true }
  | _ => { a := 0xA, b := 0x8, n := 32, p := 0, v := 16, int := true }

/-- The MM command that a word runs: MMBM names its own (R322). -/
def Tcw.mmTop (t : Tcw) : Nat := if t.top = 0x15 then fieldOf t.cx 8 4 else t.top

/-- The TOPs MMBM may run (R322). -/
def denseOk (top : Nat) : Bool := decide (top ≤ 4) || top == 8 || top == 9

/-- B values in a unit for an element type, for MLOADB (R308, R316); 0 for a type it does not take. -/
def unitValues : Nat → Nat
  | 1 => 8
  | 2 => 8
  | 3 => 16
  | 4 => 16
  | 5 => 16
  | 6 => 16
  | 7 => 32
  | 8 => 16
  | _ => 0

/-- The groups [g0, g1) of G that logical position i takes (R225). -/
def bentRun (g i : Nat) : Nat × Nat :=
  let len := fun j => g / 4 + b2n (decide (j < g % 4))
  let g0 := ((upTo i).map len).foldl (· + ·) 0
  (g0, g0 + len i)

/-- The shape of a product: M, N, K, the number of groups, the run [g0, g1) of groups and [k0, k1) of K indices, the unit rows (R309, R320). -/
structure MmSize where
  m : Nat
  n : Nat
  k : Nat
  g : Nat
  g0 : Nat
  g1 : Nat
  k0 : Nat
  k1 : Nat
  u : Nat
deriving DecidableEq, Repr

/-- The size of a product of K by M from a core at a logical position. -/
def mmSize (t : Tcw) (k m pos : Nat) : MmSize :=
  let f := mmFmt t.mmTop
  let g := ceilDiv k f.n
  let (g0, g1) := if t.bent && isMm t.top then bentRun g pos else (0, g)
  let k0 := min k (g0 * f.n)
  let k1 := min k (g1 * f.n)
  { m := m, n := t.cx % 64 + 1, k := k, g := g, g0 := g0, g1 := g1, k0 := k0, k1 := k1, u := ceilDiv (k1 - k0) f.v }

/-- Check 2 of R307 fails. -/
def badWindow (off u : Nat) : Bool := off % 1024 != 0 || decide (0x40000 < off + 1024 * u)

/-- Check 4 of R307 fails, for the element types and extents given. -/
def badCin (c : Shape) (types : List Nat) (ext : Shape → Bool) : Bool :=
  c.loc != 0 || decide (4 < wfield c.base 60 4) || !types.contains c.etype || !ext c || c.e 2 != 1 || c.e 3 != 1

/-- The record offsets that a matrix command names, in the order A, A-scale or bitmap, B-scale, C. -/
def Tcw.mxOffs (t : Tcw) : List Nat :=
  let s1 := fieldOf t.aux 24 17
  if isMm t.top then [t.ra] ++ (if 5 ≤ t.top ∧ t.top < 8 then [s1, fieldOf t.aux 41 17] else []) ++ (if t.cin then [t.rc] else [])
  else match t.top with
    | 0x10 => [t.ra]
    | 0x12 => [t.rc]
    | 0x13 => if t.ra = 0 then [] else [t.ra]
    | 0x14 => if t.clr || t.rc == 0 then [] else [t.rc]
    | 0x15 => [t.ra, s1] ++ (if t.cin then [t.rc] else [])
    | _ => []

/-- Checks 1 to 5 of R307 on an MM or MMBM command's records. -/
def State.mmChecks (s : State) (t : Tcw) (rs : List Shape) : Option (Cause × Detail) :=
  let f := mmFmt t.mmTop
  let at_ := fun i => nth (Shape.of 0) rs i
  let a := at_ 0
  let bm := t.top == 0x15
  let mx := isMm t.top && decide (5 ≤ t.top) && decide (t.top < 8)
  let (k, m) := if bm then ((at_ 1).e 0, (at_ 1).e 1) else (a.e 0, a.e 1)
  let z := mmSize t k m (s.curK.lcore % 4)
  let cIdx := if mx then 3 else if bm then 2 else 1
  firstBad [
    (bm && !denseOk t.mmTop, badAt t.ra),
    (a.loc != 0 || wfield a.base 60 4 != 0 || a.etype != f.a || a.s 0 != 0 || a.e 2 != 1 || a.e 3 != 1 || (bm && a.e 1 != 1) || (!bm && decide (64 < m)), badAt t.ra),
    (bm && ((at_ 1).etype != etBit1 || (at_ 1).e 2 != 1 || (at_ 1).e 3 != 1 || decide (64 < m)), badAt (fieldOf t.aux 24 17)),
    (badWindow (t.aux % 2 ^ 18) z.u, badAt t.ra),
    (mx && ((at_ 1).loc != 0 || wfield (at_ 1).base 60 4 != 0 || (at_ 1).etype != 8 || (upTo 4).map (at_ 1).e != [z.g, m, 1, 1]), badAt (fieldOf t.aux 24 17)),
    (mx && ((at_ 2).loc != 0 || wfield (at_ 2).base 60 4 != 0 || (at_ 2).etype != 8 || (upTo 4).map (at_ 2).e != [z.g, z.n, 1, 1]), badAt (fieldOf t.aux 41 17)),
    (t.cin && badCin (at_ cIdx) [if f.int then 9 else 0] (fun c => c.e 0 == z.n && c.e 1 == m), badAt t.rc),
    (isMm t.top && t.bent && !t.clr, badAt t.ra)]

/-- Is an FP32 pattern a normal number? -/
def normalFp32 (bits : Nat) : Bool := fieldOf bits 23 8 != 0 && fieldOf bits 23 8 != 255

/-- The checks of a matrix command's own rule, after steps 1 to 3 of R291 (R307, R313, R316, R318, R319, R321, R322). -/
def State.mxChecks (s : State) (t : Tcw) (rs : List Shape) : Option (Cause × Detail) :=
  let r := nth (Shape.of 0) rs 0
  if isMm t.top ∨ t.top = 0x15 then
    match s.mmChecks t rs with
    | some c => some c
    | none =>
      if isMm t.top && t.scl && !(mmFmt t.top).int then
        firstBad [(t.fs == 31, some (.rsvfld, {})),
          (!normalFp32 (wfield (s.cur.fr (BitVec.ofNat 6 t.fs)) 0 32) || !normalFp32 (wfield (s.cur.fr (BitVec.ofNat 6 (t.fs + 1))) 0 32), some (.fpinv, {}))]
      else none
  else match t.top with
    | 0x10 =>
      let v := unitValues (t.cx % 16)
      firstBad [(decide (1 < r.loc) || decide (64 < r.e 1) || r.e 2 != 1 || r.e 3 != 1 || v == 0 || r.etype != t.cx % 16, badAt t.ra),
        (badWindow (t.aux % 2 ^ 18) (ceilDiv (r.e 0) (max 1 v)), badAt t.ra)]
    | 0x12 =>
      firstBad [(r.loc == 1 || decide (64 < r.e 0) || decide (64 < r.e 1) || r.e 2 != 1 || r.e 3 != 1 || decide (9 < t.cx % 16) || r.etype != t.cx % 16, badAt t.rc),
        (!s.shdFits s.curCore t.shd r, badAt t.rc)]
    | 0x13 => firstBad [(t.aux % 16 != 0, badAt (t.aux % 2 ^ 17))]
    | 0x14 =>
      if rs.isEmpty then none
      else firstBad [(s.curK.lcore % 4 != 0, badAt t.rc),
        (badCin r [0, 9] (fun c => decide (c.e 0 ≤ 64) && decide (c.e 1 ≤ 64)), badAt t.rc)]
    | _ => none

/-- Is the i-th record of a matrix command its destination (the type checks of R291 step 3 for a destination)? -/
def Tcw.mxDest (t : Tcw) : Bool := t.top == 0x12

/-- A command accepted by ENQ: its token is empty, and it stands in its queue. -/
def State.accept (s : State) (p : Port) (t : Tcw) (word : BitVec 256) (addr : Word) (kind : Nat) (d : Reg) (shapes : List Shape) (f : Cmd → Cmd) : State :=
  let (q, s) := s.capture t.top word addr kind d
  let q := s.bindCmd (f q) shapes
  (s.setQueue p (s.queueOf p ++ [q])).empty d

/-- Step 5 of R204 for the matrix class, and the command enqueued. -/
def enqMatrix (d : Reg) (addr : Word) (word : BitVec 256) (t : Tcw) (s : State) : Res :=
  withRecords t.mxOffs (fun rs s =>
    let primary := fun (i : Nat) (r : BitVec 512) => if i = 0 && t.uses.primary then rebase t.base r else r
    let rs := (upTo rs.length).map fun i => primary i (recAt rs i)
    let shapes := rs.map Shape.of
    let named := (t.mxOffs.zip shapes).map fun p => (p.1, p.2, t.mxDest)
    match s.plainRecords named with
    | some (c, det) => .trap c det s
    | none =>
      match s.mxChecks t shapes with
      | some (c, det) => .trap c det s
      | none =>
        let has := isMm t.top || t.top == 0x10 || t.top == 0x13 || t.top == 0x15
        let more := (if isMm t.top ∧ 5 ≤ t.top ∧ t.top < 8 then 2 else if t.top = 0x15 then 1 else 0)
        let scl := isMm t.top && t.scl && !(mmFmt t.top).int
        let f := fun (i : Nat) => if scl then BitVec.ofNat 32 (wfield (s.cur.fr (BitVec.ofNat 6 (t.fs + i))) 0 32) else 0
        .retire (s.accept (.mq s.curCore) t word addr 1 d shapes fun q =>
          { q with
            ra := if has then recAt rs 0 else 0
            rx := if 1 ≤ more then recAt rs 1 else 0
            ry := if 2 ≤ more then recAt rs 2 else 0
            rc := if has then recAt rs (1 + more) else recAt rs 0
            sa := f 0, sb := f 1 })) s

/-! ## The vector-stream class -/

/-- Step 5 of R204 for the vector-stream class (R303), and the command enqueued. -/
def enqVector (d : Reg) (addr : Word) (word : BitVec 256) (t : Tcw) (s : State) : Res :=
  let third := t.top == 0x70 || (t.top == 0x71 && t.recCond)
  let offs := [t.rc, t.ra] ++ (if hasB t.top then [t.rb] else []) ++ (if third then [t.aux % 2 ^ 17] else [])
  withRecords offs (fun rs s =>
    let rs := (upTo rs.length).map fun i => if i = 1 then rebase t.base (recAt rs i) else recAt rs i
    let shapes := offs.zip (rs.map Shape.of)
    match shapes with
    | [] => .stay s
    | dd :: ss =>
      match shapeCheck (roleOf t.top) (s.launchOf s.curCore).gang (s.hasLcore s.curK.asidN) dd ss with
      | some (c, det) => .trap c det s
      | none =>
        .retire (s.accept (.vsq s.curCore) t word addr 2 d (ss.map (·.2)) fun q =>
          { q with
            rc := recAt rs 0, ra := recAt rs 1
            rb := if hasB t.top then recAt rs 2 else 0, boff := BitVec.ofNat 64 t.rb
            rx := if third then recAt rs 3 else 0
            msk := s.cur.mr (BitVec.ofNat 6 (t.cx % 16)) })) s

/-! ## The copy class -/

/-- Is a record dense (R332 check 3)? The stride of a dimension of extent 1 is never used. -/
def Shape.dense (r : Shape) : Bool :=
  let row := ceilDiv (r.e 0 * r.w) 8
  let ok := fun (i : Nat) (sd : Nat) => r.e i == 1 || r.s i == (sd : Int)
  ok 0 0 && ok 1 row && ok 2 (row * r.e 1) && ok 3 (row * r.e 1 * r.e 2)

/-- Bytes of a dense destination. -/
def Shape.denseBytes (r : Shape) : Nat := ceilDiv (r.e 0 * r.w) 8 * r.e 1 * r.e 2 * r.e 3

/-- Copies of a core that are not complete (R338). -/
def Core.copiesOut (k : Core) : Nat := k.cq.length + k.copies.length

/-- Check 5 of R332: the barrier object's address. A translation is not made at the ENQ. -/
def State.barCheck (s : State) (aux : Word) : Option (Cause × Detail) :=
  let sp := wfield aux 60 4
  if aux.toNat % 32 ≠ 0 ∨ sp = 0 ∨ 4 < sp then some (.barbad, { d0 := aux })
  else match s.check (s.agent s.curCore) .atomic 32 32 aux with
    | .error (.cause c det) => if sp = 4 ∧ c = .eccunc then none else some (c, det)
    | _ => none

/-- The checks of R332 on the source, the destination and the index record. -/
def State.copyChecks (s : State) (t : Tcw) (a c x : Shape) : Option (Cause × Detail) :=
  let chan := fieldOf t.cx 8 8
  match firstBad [
    (a.loc != 0 || a.etype == etBit1, badAt t.ra),
    (c.loc != 0 || c.etype == etBit1, badAt t.rc),
    (t.idx && t.top == 0x81 && (x.loc != 0 || wfield x.base 60 4 != 0 || x.etype != 9), badAt t.rb),
    ((if t.top == 0x81 && t.idx then x.count else a.count) != c.count || (!(t.top == 0x81 && t.lh) && a.etype != c.etype) || decide (2 ^ 32 < c.footprint.2), badAt t.rc),
    (((t.top == 0x81 && t.lh) || t.wm) && !c.dense, badAt t.rc),
    (t.wm && wfield c.base 60 4 != 0, badAt t.rc),
    ((t.wm && t.shd) || !s.shdFits s.curCore t.shd c, badAt t.rc)] with
  | some e => some e
  | none =>
    match (if t.bar then s.barCheck (BitVec.ofNat 64 t.aux) else none) with
    | some e => some e
    | none =>
      firstBad [(t.top == 0x81 && t.lh && !s.curK.chanV chan, some (.chinval, { d0 := BitVec.ofNat 64 chan })),
        (t.nw && decide (1024 ≤ s.curK.copiesOut), some (.qfull, {}))]

/-- The watermark channel of an accepted copy covers its destination and stands at its base (R336). -/
def Core.startMark (k : Core) (n : Nat) (c : Shape) : Core :=
  { k with wmarks := vset k.wmarks n { w := c.base, base := c.base.toNat, limit := c.base.toNat + c.denseBytes, landed := [], busy := true } }

/-- Step 5 of R204 for the copy class (R332), and the command enqueued. -/
def enqCopy (d : Reg) (addr : Word) (word : BitVec 256) (t : Tcw) (s : State) : Res :=
  let hasX := t.top == 0x81 && t.idx
  let offs := [t.ra, t.rc] ++ (if hasX then [t.rb] else [])
  withRecords offs (fun rs s =>
    let ra := rebase t.base (recAt rs 0)
    let rc := recAt rs 1
    let rx := if hasX then recAt rs 2 else 0
    let a := Shape.of ra
    let c := Shape.of rc
    match s.plainRecords ([(t.ra, a, false), (t.rc, c, true)] ++ (if hasX then [(t.rb, Shape.of rx, false)] else [])) with
    | some (e, det) => .trap e det s
    | none =>
      match s.copyChecks t a c (Shape.of rx) with
      | some (e, det) => .trap e det s
      | none =>
        let s := if t.wm then s.modCurK fun k => k.startMark (t.cx % 8) c else s
        .retire (s.accept (.cq s.curCore) t word addr 3 d [a] fun q => { q with ra := ra, rc := rc, rb := rx })) s

/-! ## ENQ -/

/-- Must the ENQ wait at issue: for room in the matrix queue (R306) or among the outstanding copies (R338), for the copy that uses its
watermark channel (R336), or, as a release, for accesses of the thread that are under way (R92)? -/
def State.enqWaits (s : State) (cls : Nat) (t : Tcw) : Bool :=
  s.accessesOut s.cur.uid || (cls == 0 && decide (16 ≤ s.curK.mq.length)) ||
  (cls == 2 && !t.nw && decide (1024 ≤ s.curK.copiesOut)) || (cls == 2 && t.wm && (vget s.curK.wmarks (t.cx % 8) Wmark.reset).busy)

/-- The checks of R204 on a word that ENQ with queue `qf` has read, and the command enqueued. -/
def enqWord (qf : Nat) (d : Reg) (addr : Word) (word : BitVec 256) (s : State) : Res :=
  let t := Tcw.of word
  match topClass t.top with
  | none => .trap .illop {} s
  | some cls =>
    if t.ver ≠ 1 ∨ t.reserved then .trap .rsvfld {} s
    else if t.top = 0x15 ∧ !(s.launchOf s.curCore).privileged then .trap .priv {} s
    else mixSteps ((qf != cls, 2) :: t.mixes) (fun s =>
      if s.enqWaits cls t then .stay s
      else if cls = 0 then enqMatrix d addr word t s
      else if cls = 1 then enqVector d addr word t s
      else enqCopy d addr word t s) s

/-- ENQ (R93, R204, R394). -/
def enq (qf : Nat) (d a b : Reg) (ma mb : Bool) (s : State) : Host.Outcome State Fault Refusal :=
  issue [(a, ma), (b, mb)] (some d) (fun s =>
    let va := s.cur.xr a
    if d = 0 ∨ d = a ∨ d = b then .trap .tokbad {} s
    else if 8 ≤ wfield va 60 4 then .trap .access { d0 := va, d1 := 32 } s
    else if va.toNat % 32 ≠ 0 then .trap .ldalign { d0 := va, d1 := 32 } s
    else if wfield va 60 4 ≠ 0 then .trap .access { d0 := va, d1 := 32 } s
    else match s.readAlias 32 va with
      | .error m => m.atIssue s
      | .ok (bs, s) =>
        let w := BitVec.ofNat 256 (leNat bs)
        enqWord qf d va (if b = 0 then w else patchBase w (s.cur.xr b)) s) s

/-- `q3`: the Q field names queue 3 (R207). -/
def execEnqM (d a b : Reg) (ma mb q3 : Bool) (s : State) : Host.Outcome State Fault Refusal := enq (if q3 then 3 else 0) d a b ma mb s
def execEnqV (d a b : Reg) (ma mb : Bool) (s : State) : Host.Outcome State Fault Refusal := enq 1 d a b ma mb s
def execEnqC (d a b : Reg) (ma mb : Bool) (s : State) : Host.Outcome State Fault Refusal := enq 2 d a b ma mb s

/-- QMIG (R323). -/
def execQmig (d a : Reg) (ma : Bool) (s : State) : Host.Outcome State Fault Refusal :=
  issue [(a, ma)] (some d) (fun s =>
    let v := s.cur.xr a
    if wfield v 1 63 ≠ 0 then .trap .rsvfld { d0 := v } s
    else
      let old := s.cur.perm
      setRetire d (BitVec.ofNat 64 (b2n old)) (s.modCur fun x => { x with perm := v.getLsbD 0 })) s

end Sys2Proof.Machine
end

