-- ==== Sys2Proof/Machine/Matrix.lean ====
section
/-! DEFINITION. The matrix engine (R305 to R325): the sums of R221 to R225, MM and MMBM, MLOADB, MCLR, MDRAIN, MMASK, MREDB, and the move of a
queued chain. -/

namespace Sys2Proof.Machine

/-! ## Sums -/

/-- Is the value an infinity? -/
def Fv.isInf : Fv → Bool
  | .inf _ => true
  | _ => false

/-- floor(m * 2^e). -/
def floorShift (m : Nat) (e : Int) : Nat := if 0 ≤ e then m * 2 ^ e.toNat else m / 2 ^ (-e).toNat

/-- One product aligned to 2^(emax - P), truncated toward zero (R222). -/
def alignedTerm (p : Nat) (emax : Int) : Fv → Int
  | .fin neg m e => let q : Int := floorShift m (e + p - emax); if neg then -q else q
  | _ => 0

/-- The result of a group of products: none where every product is zero (R222). -/
def groupResult (p : Nat) (ps : List Fv) : Option Fv :=
  if ps.any (· == .nan) then some .nan
  else if ps.any Fv.isInf then
    (if ps.contains (.inf true) && ps.contains (.inf false) then some .nan else some (.inf (ps.contains (.inf true))))
  else
    let exps := ps.filterMap fun v => match v with | .fin _ m e => if m = 0 then none else some (expo m e) | _ => none
    match exps with
    | [] => none
    | e :: r =>
      let emax := r.foldl max e
      let sum := (ps.map (alignedTerm p emax)).foldl (· + ·) 0
      some (.fin (decide (sum < 0)) sum.natAbs (emax - p))

/-- A group's result times two exact scales (R313). -/
def scaleGroup (sa sb : Fv) : Fv → Fv
  | .fin n m e => (((Fv.fin n m e).mul sa).v.mul sb).v
  | v => v

/-- The accumulator after a group's result (R223). -/
def accumulate (a : Nat) (g : Option Fv) : Nat :=
  match g with
  | none => a
  | some (.fin _ 0 _) => a
  | some g => fa36.bitsOf ((fa36.read false a).add 0 g).v

/-- The value of an MM operand as stored (R222, R224). -/
def mmValue (et bits : Nat) : Fv :=
  match etFmt et with
  | some f => f.read false bits
  | none => if et = 0xA then intFv (t2Int bits) else intFv (toSigned 8 bits)

/-- A list in groups of n. -/
def groupsOf {α : Type} (n : Nat) : Nat → List α → List (List α)
  | 0, _ => []
  | c + 1, l => l.take n :: groupsOf n c (l.drop n)

/-- The value that a scale code stands for: 2^(code - 127), or NaN for 0xFF (R212). -/
def e8m0 (code : Nat) : Option Int := if code = 255 then none else some ((code : Int) - 127)

/-- A group's products with the factor of its two scale codes (R221, R314). -/
def scaledProducts (sa sb : Option Nat) (ps : List Fv) : List Fv :=
  match sa, sb with
  | some a, some b =>
    match e8m0 a, e8m0 b with
    | some i, some j => ps.map fun v => v.scale (i + j)
    | _, _ => [.nan]
  | _, _ => ps

/-! ## The mask -/

/-- Enabled(m, n) of R319. -/
def MeMask.enabled (k : MeMask) (m n : Nat) : Bool :=
  let r := (m + k.moff : Int)
  let c := (n + k.noff : Int)
  match k.kind with
  | 0 => true
  | 1 => decide (c ≤ r)
  | 2 => decide ((r - c).natAbs ≤ k.w)
  | _ => k.bitmap.contains (n + 64 * m)

/-- The mask under which a command of core c's queue runs: a moved chain brings its own (R325). -/
def State.maskFor (s : State) (c : Nat) (q : Cmd) : MeMask := if q.core = c then (s.core c).me.mask else (s.core c).me.guest

/-! ## The B-window -/

/-- Key of a byte of a core's B-window (R22, R63). A gateway core, for which R22 names no bay, has a window of its own (log 18). -/
def windowKey (c off : Nat) : Nat :=
  if isGateway c then vaultKey 4 ((c - 4608) / 16) (0x40000 * ((c - 4608) % 16) + off)
  else vaultKey (coreDie c) (coreBay c) (0x40000 * (4 * coreBentInBay c + coreInBent c) + off)

/-- Changes a core's matrix engine. -/
def State.modMe (s : State) (c : Nat) (f : Me → Me) : State := s.modCore c fun k => { k with me := f k.me }

/-- A vertical access of the engine of core c meets a fence or a failed bond lane (R395). -/
def State.bondFails (s : State) (c : Nat) : Bool := (s.core c).me.fenced || (s.core c).me.bondBad

/-- The engine's vertical access fails: it is fenced, with a notice at the first failure (R395). -/
def State.fence (s : State) (c : Nat) (q : Cmd) : State :=
  if (s.core c).me.fenced then s else (s.modMe c fun m => { m with fenced := true }).noticeOf c .bwinbad q.tid

/-- A unit of B: 16 bytes at a window offset of the core whose context the command belongs to (R309); ECCUNC under R73. -/
def readUnit (q : Cmd) (off : Nat) : Eng Nat := fun s =>
  let k := windowKey q.core off
  if s.turnWait q.uid q.seq k false then .error { m := .turn k false, kind := .engRead, va := BitVec.ofNat 64 k }
  else match s.badIn k 16 with
    | some g => .error { m := .cause .eccunc { d0 := BitVec.ofNat 64 g }, kind := .engRead, va := BitVec.ofNat 64 k, span := (k, 16) }
    | none => .ok (s.seen q.uid q.seq k 16, s.correct k 16)

/-- Column n of B for the K indices of the run. -/
def readColumn (q : Cmd) (f : MmFmt) (win n : Nat) (z : MmSize) : Eng (List Fv) := do
  let us ← (upTo z.u).mapM fun u => readUnit q (win + 1024 * u + 16 * n)
  let w := elemBits f.b
  return ((us.flatMap fun u => (upTo f.v).map fun i => mmValue f.b (fieldOf u (i * w) w)).take (z.k1 - z.k0))

/-! ## MM and MMBM -/

/-- Row m of A for the K indices of the run, as codes. -/
def readRow (q : Cmd) (a : Shape) (z : MmSize) (m : Nat) : Eng (List Nat) :=
  (upTo (z.k1 - z.k0)).mapM fun k => elemRead q a q.gotA [z.k0 + k, m, 0, 0]

/-- The expansion of MMBM's A (R322): the position of each marked element among the listed values, by increasing k and then m. -/
def expandRows (q : Cmd) (a x : Shape) (z : MmSize) : Eng (List (List Nat)) := do
  let marks ← (upTo z.k).mapM fun k => (upTo z.m).mapM fun m => elemRead q x q.gotX [k, m, 0, 0]
  let order := (marks.flatten.foldl (fun (acc : List (Option Nat) × Nat) b => if b = 1 then (some acc.2 :: acc.1, acc.2 + 1) else (none :: acc.1, acc.2)) ([], 0)).1.reverse
  let vals ← order.mapM fun o => match o with
    | none => (pure 0 : Eng Nat)
    | some i => if a.e 0 ≤ i then engFault .shapebad { d0 := BitVec.ofNat 64 q.tcw.ra } else elemRead q a q.gotA [i, 0, 0, 0]
  return (upTo z.m).map fun m => (upTo z.k).map fun k => nth 0 vals (k * z.m + m)

/-- The scale codes of a record's row (R314). -/
def readScales (q : Cmd) (r : Shape) (z : MmSize) (i : Nat) : Eng (List Nat) :=
  (upTo (z.g1 - z.g0)).mapM fun j => elemRead q r [] [z.g0 + j, i, 0, 0]

/-- A sum of FA36 groups from a start value: element (m, n) of R312. -/
def sumGroups (f : MmFmt) (scl : Option (Fv × Fv)) (start : Nat) (a b : List Fv) (sa sb : List Nat) (mx : Bool) (groups : Nat) : Nat :=
  ((groupsOf f.n groups (List.zipWith (fun x y => (Fv.mul x y).v) a b)).zipIdx).foldl (fun acc p =>
    let ps := if mx then scaledProducts sa[p.2]? sb[p.2]? p.1 else p.1
    let g := groupResult f.p ps
    let g := match scl, g with | some (x, y), some v => some (scaleGroup x y v) | _, g => g
    accumulate acc g) start

/-- The integer sum of products (R224). -/
def sumInts (a b : List Fv) : Int :=
  (List.zipWith (fun x y => match (Fv.mul x y).v with | .fin n m e => let v : Int := floorShift m e; if n then -v else v | _ => 0) a b).foldl (· + ·) 0

/-- What a command's accumulators start from (R311): the present ones, zeros, or Cin. -/
def mmStart (q : Cmd) (t : Tcw) (f : MmFmt) (z : MmSize) (cur : Tbl (BitVec 36)) : Eng (Tbl (BitVec 36)) :=
  if t.cin then do
    let c := Shape.of q.rc
    let vals ← (upTo (z.m * z.n)).mapM fun i => elemRead q c [] [i % z.n, i / z.n, 0, 0]
    return (vals.zipIdx).foldl (fun (acc : Tbl (BitVec 36)) p =>
      tputD 0 acc (64 * (p.2 / z.n) + p.2 % z.n) (BitVec.ofNat 36 (if f.int then p.1 else fa36.bitsOf (fp32.read false p.1)))) []
  else if t.clr then pure [] else pure cur

/-- The accumulators of an MM or MMBM command on the engine of core c (R312), and whether a reserved T2 code was read. -/
def mmResult (c : Nat) (q : Cmd) (t : Tcw) (z : MmSize) : Eng (Tbl (BitVec 36) × Bool) := do
  let f := mmFmt t.mmTop
  let a := Shape.of q.ra
  let s ← get
  let mask := s.maskFor c q
  let cur := (s.core c).me.acc
  let start ← mmStart q t f z cur
  let rows ← if t.top = 0x15 then expandRows q a (Shape.of q.rx) z else (upTo z.m).mapM (readRow q a z)
  let cols ← (upTo z.n).mapM fun n => readColumn q f (t.aux % 2 ^ 18) n z
  let mx := isMm t.top && decide (5 ≤ t.top) && decide (t.top < 8)
  let sa ← if mx then (upTo z.m).mapM (readScales q (Shape.of q.rx) z) else pure []
  let sb ← if mx then (upTo z.n).mapM (readScales q (Shape.of q.ry) z) else pure []
  let scl := if isMm t.top && t.scl && !f.int then some (fp32.read false q.sa.toNat, fp32.read false q.sb.toNat) else none
  let acc := (upTo z.m).foldl (fun (acc : Tbl (BitVec 36)) m =>
    let row := (nth [] rows m).map (mmValue f.a)
    (upTo z.n).foldl (fun (acc : Tbl (BitVec 36)) n =>
      if t.msk && isMm t.top && !mask.enabled m n then acc
      else
        let i := 64 * m + n
        let old := (tgetD acc i 0).toNat
        let col := nth [] cols n
        tputD 0 acc i (BitVec.ofNat 36 (
          if f.int then ofSigned 32 (toSigned 32 old + sumInts row col)
          else sumGroups f scl old row col (nth [] sa m) (nth [] sb n) mx (z.g1 - z.g0)))) acc) start
  return (acc, f.a == 0xA && rows.any fun r => r.contains 2)

/-- The size of the product a queued command makes (R307, R322). -/
def State.sizeOf (s : State) (q : Cmd) (t : Tcw) : MmSize :=
  let r := Shape.of (if t.top = 0x15 then q.rx else q.ra)
  mmSize t (r.e 0) (r.e 1) ((s.core q.core).lcore % 4)

/-- What a command that meets a cause leaves in its region: NaN, or 0 in INT32 mode (R315). -/
def mmSpoil (int32 : Bool) (z : MmSize) (acc : Tbl (BitVec 36)) : Tbl (BitVec 36) :=
  (upTo z.m).foldl (fun a m => (upTo z.n).foldl (fun a n => tputD 0 a (64 * m + n) (if int32 then 0 else BitVec.ofNat 36 fa36.cnan)) a) acc

/-- A miss of an MM or MMBM command: a cause spoils its region, in the mode in which the command found the engine (R315). -/
def State.mmMiss (s : State) (c : Nat) (q : Cmd) (z : MmSize) (e : EMiss) : State :=
  match e.m with
  | .cause _ _ => (s.modMe c fun m => { m with acc := mmSpoil m.int32 z m.acc }).missHead (.mq c) q e
  | _ => s.missHead (.mq c) q e

/-- An MM or MMBM command at the head of a matrix queue runs (R311 to R315, R320, R322). -/
def State.mmRun (s : State) (c : Nat) (q : Cmd) : State :=
  let t := q.tcw
  let f := mmFmt t.mmTop
  let z := s.sizeOf q t
  let me := (s.core c).me
  let q := s.bindCmd q ([Shape.of q.ra, Shape.of q.rc, Shape.of q.rx, Shape.of q.ry].filter fun r => r.ver != 0)
  let (gx, s) := s.pullAny q.core (Shape.of q.rx) q.gotX
  let q := { q with gotX := gx }
  if t.acc && !t.clr && me.int32 != f.int then s.endHead (.mq c) q (some (.engfault, {}))
  else if q.core = c ∧ z.u ≠ 0 ∧ s.bondFails c then
    s.fence c q |>.mmMiss c q z { m := .cause .bwinbad {}, kind := .engRead, va := 0 }
  else match mmResult c q t z s with
    | .error e => s.mmMiss c q z e
    | .ok ((acc, t2), s) =>
      let head := !t.acc || t.clr
      let s := s.modMe c fun m => { m with acc := acc, int32 := if head then f.int else m.int32, chain := m.chain || head }
      s.endHead (.mq c) { q with t2rsv := q.t2rsv || t2 } none

/-- The command at the head of a core's matrix queue, where it is the operation named and does not wait for a page, runs. -/
def mqStep (top core : Nat) (run : Cmd → State → State) (s : State) : Host.Outcome State Fault Refusal :=
  match s.headCmd (.mq core) with
  | some q => .next (if q.top = top then run q (s.runHead q) else s)
  | none => .next s

def execMmBf16 (core : Nat) (s : State) : Host.Outcome State Fault Refusal := mqStep 0x00 core (fun q s => s.mmRun core q) s
def execMmF16 (core : Nat) (s : State) : Host.Outcome State Fault Refusal := mqStep 0x01 core (fun q s => s.mmRun core q) s
def execMmE4m3 (core : Nat) (s : State) : Host.Outcome State Fault Refusal := mqStep 0x02 core (fun q s => s.mmRun core q) s
def execMmE5m2 (core : Nat) (s : State) : Host.Outcome State Fault Refusal := mqStep 0x03 core (fun q s => s.mmRun core q) s
def execMmE4m3e5m2 (core : Nat) (s : State) : Host.Outcome State Fault Refusal := mqStep 0x04 core (fun q s => s.mmRun core q) s
def execMmMx4 (core : Nat) (s : State) : Host.Outcome State Fault Refusal := mqStep 0x05 core (fun q s => s.mmRun core q) s
def execMmMx6a (core : Nat) (s : State) : Host.Outcome State Fault Refusal := mqStep 0x06 core (fun q s => s.mmRun core q) s
def execMmMx6b (core : Nat) (s : State) : Host.Outcome State Fault Refusal := mqStep 0x07 core (fun q s => s.mmRun core q) s
def execMmI8 (core : Nat) (s : State) : Host.Outcome State Fault Refusal := mqStep 0x08 core (fun q s => s.mmRun core q) s
def execMmT2i8 (core : Nat) (s : State) : Host.Outcome State Fault Refusal := mqStep 0x09 core (fun q s => s.mmRun core q) s
def execMmbm (core : Nat) (s : State) : Host.Outcome State Fault Refusal := mqStep 0x15 core (fun q s => s.mmRun core q) s

/-! ## MLOADB -/

/-- The 16 bytes of a unit from its values (R309, R316). -/
def unitBytes (r : Shape) (vals : List Nat) : List Byte := leBytes 16 ((vals.zipIdx.map fun p => p.1 * 2 ^ (p.2 * r.w)).foldl (· + ·) 0)

/-- Writes unit (n, u) of the window of a command's core (R316). -/
def State.writeUnit (s : State) (q : Cmd) (r : Shape) (n u : Nat) (vals : List Nat) : State :=
  let k := windowKey q.core (q.tcw.aux % 2 ^ 18 + 1024 * u + 16 * n)
  let bs := unitBytes r vals
  if s.lineHeld k then s.engPut q k 16 (leNat bs) (2 ^ 128 - 1) false else s.writeBytes k bs

/-- Reads up to `fuel` more source elements of MLOADB, in iteration order; a unit is written once its last value has been read, and the values of one that is not
complete are kept (R316). A fenced engine's write fails (R395). -/
def loadElems (r : Shape) (fenced : Bool) : Nat → Cmd → State → Cmd × State × Option EMiss
  | 0, q, s => (q, s, none)
  | fuel + 1, q, s =>
    match elemRead q r [] (r.index q.pos) s with
    | .error e => (q, s, some e)
    | .ok (v, s) =>
      let k := q.pos % r.e 0
      let p := { q with pos := q.pos + 1, kept := q.kept ++ [{ val := v }], redo := none }
      if (k + 1) % unitValues r.etype ≠ 0 ∧ k + 1 ≠ r.e 0 then loadElems r fenced fuel p s
      else if fenced then (p, s, some { m := .cause .bwinbad {}, kind := .engWrite, va := 0 })
      else loadElems r fenced fuel { p with kept := [] } (s.writeUnit q r (q.pos / r.e 0) (k / unitValues r.etype) (p.kept.map Kept.val))

/-- The units of the columns beyond the source's are written as zero. -/
def State.zeroUnits (s : State) (q : Cmd) (r : Shape) : State :=
  (upTo (ceilDiv (r.e 0) (max 1 (unitValues r.etype)))).foldl (fun s u => (upTo (64 - r.e 1)).foldl (fun s n => s.writeUnit q r (r.e 1 + n) u []) s) s

/-- MLOADB at the head of a matrix queue (R316): it goes on from the element at which it was held or waited. -/
def State.loadB (s : State) (c : Nat) (q : Cmd) : State :=
  let r := Shape.of q.ra
  let q := s.bindCmd q [r]
  let (p, s, e) := loadElems r (s.core c).me.fenced (r.count - q.pos) q s
  let s := if q.pos < p.pos then s.dropTurns q.uid q.seq else s
  match e with
  | some e => s.missHead (.mq c) p e
  | none =>
    let s := if p.carry = 0 then s.zeroUnits p r else s
    if s.putsOut p.uid p.seq then s.putHead (.mq c) { p with carry := 1 } else s.endHead (.mq c) p none

def execMloadb (core : Nat) (s : State) : Host.Outcome State Fault Refusal := mqStep 0x10 core (fun q s => s.loadB core q) s

/-! ## MCLR, MDRAIN, MMASK -/

/-- MCLR (R317). -/
def execMclr (core : Nat) (s : State) : Host.Outcome State Fault Refusal :=
  mqStep 0x11 core (fun q s => (s.modMe core fun m => { m with acc := [], int32 := bitN q.tcw.cx 0, chain := true }).endHead (.mq core) q none) s

/-- The value MDRAIN converts for accumulator (m, n): the accumulator, or FILL where the mask disables it (R318). -/
def Me.drainValue (me : Me) (mask : MeMask) (msk : Bool) (m n : Nat) : Fv :=
  let off := msk && !mask.enabled m n
  let bits := if off then mask.fill.toNat else (tgetD me.acc (64 * m + n) 0).toNat
  if me.int32 then intFv (toSigned 32 bits) else if off then fp32.read false bits else fa36.read false bits

/-- The value of destination element number i of an MDRAIN (R318). -/
def drainKept (q : Cmd) (t : Tcw) (r : Shape) (me : Me) (mask : MeMask) (i : Nat) : Kept :=
  let idx := r.index i
  let sat := (t.sat && !([0, 1, 2, 9].contains r.etype)) || fctlSat q.fctl
  let v := convertTo r.etype (fctlRm q.fctl) sat (fctlFtz q.fctl) (me.drainValue mask t.msk (nth 0 idx 1) (nth 0 idx 0))
  { val := v.1, fx := v.2.bits }

/-- MDRAIN: the next elements, 64 at a time (R318). -/
def execMdrain (core : Nat) (s : State) : Host.Outcome State Fault Refusal :=
  mqStep 0x12 core (fun q s =>
    let t := q.tcw
    let r := Shape.of q.rc
    let s := s.modMe core fun m => { m with chain := false }
    s.elemStep (.mq core) q r 64 (fun _ i => pure (drainKept q t r (s.core core).me (s.maskFor core q) i)) (fun i v => elemPut q t.shd r (r.index i) v)) s

/-- The parameter block of MMASK as a mask without its bitmap; none for a reserved bit (R319). -/
def maskOfBlock (v : Nat) : Option MeMask :=
  if fieldOf v 96 32 ≠ 0 ∨ fieldOf v 2 14 ≠ 0 then none
  else some { kind := fieldOf v 0 2, moff := fieldOf v 16 16, noff := fieldOf v 32 16, w := fieldOf v 48 16, fill := BitVec.ofNat 32 (fieldOf v 64 32), bitmap := [] }

/-- The mask that MMASK loads (R319). -/
def loadMask (q : Cmd) (t : Tcw) : Eng MeMask := do
  let v ← engRead q 16 16 (BitVec.ofNat 64 t.aux)
  match maskOfBlock v with
  | none => engFault .shapebad { d0 := BitVec.ofNat 64 t.aux }
  | some k =>
    if k.kind ≠ 3 then return k
    else
      let r := Shape.of q.ra
      if r.ver = 0 ∨ r.etype ≠ etBit1 ∨ (upTo 4).map r.e ≠ [64, 64, 1, 1] then engFault .shapebad { d0 := BitVec.ofNat 64 t.ra }
      else do
        let bits ← (upTo 4096).mapM fun i => elemRead q r q.gotA (r.index i)
        return { k with bitmap := (bits.zipIdx.filter fun p => p.1 == 1).map (·.2) }

/-- MMASK (R319). -/
def execMmask (core : Nat) (s : State) : Host.Outcome State Fault Refusal :=
  mqStep 0x13 core (fun q s =>
    let r := Shape.of q.ra
    let q := if r.ver = 0 then q else s.bindCmd q [r]
    let (ga, s) := s.pullAny q.core r q.gotA
    let q := { q with gotA := ga }
    match loadMask q q.tcw s with
    | .error e => s.missHead (.mq core) q e
    | .ok (k, s) => (s.modMe core fun m => { m with mask := k }).endHead (.mq core) q none) s

/-! ## MREDB -/

/-- An MREDB reaches the head of its queue and waits there (R321). -/
def execMredb (core : Nat) (s : State) : Host.Outcome State Fault Refusal :=
  mqStep 0x14 core (fun q s => s.putHead (.mq core) { q with pos := 1 }) s

/-- The MREDB that waits at the head of a core's queue. -/
def State.waitingRedb (s : State) (c : Nat) : Option Cmd :=
  (s.core c).mq.head?.bind fun q => if q.top = 0x14 ∧ q.pos = 1 ∧ q.hid.isNone then some q else none

/-- The four cores of a bent of the launch, by logical position (R320). -/
def State.bentCores (s : State) (core : Nat) : List Nat :=
  let k := s.core core
  (upTo 4).filterMap fun i => s.lcoreCore k.asidN (k.lcore - k.lcore % 4 + i)

/-- The four commands of a bent that meet, where they do. -/
def State.redbMeet (s : State) (core : Nat) : Option (List (Nat × Cmd)) :=
  let l := (s.bentCores core).filterMap fun c => (s.waitingRedb c).map fun q => (c, q)
  if l.length = 4 then some l else none

/-- Ends the four commands. -/
def State.endRedb (s : State) (l : List (Nat × Cmd)) (fault : Option (Cause × Detail)) : State :=
  l.foldl (fun s p => s.endHead (.mq p.1) p.2 fault) s

/-- One addition of the combination: AddFA36, or modulo 2^32 (R225, R321). -/
def redAdd (int32 : Bool) (a b : Nat) : Nat := if int32 then (a + b) % 2 ^ 32 else addFa36 a b

/-- The combined accumulators (R321): ((p0 + p1) + (p2 + p3)), plus Cin inside its extents. -/
def redbValue (int32 : Bool) (accs : List (Tbl (BitVec 36))) (cin : List Nat) (c : Shape) : Tbl (BitVec 36) :=
  (upTo 4096).foldl (fun (r : Tbl (BitVec 36)) i =>
    let p := fun j => (tgetD (nth [] accs j) i 0).toNat
    let sum := redAdd int32 (redAdd int32 (p 0) (p 1)) (redAdd int32 (p 2) (p 3))
    let m := i / 64
    let n := i % 64
    let v := if c.ver ≠ 0 ∧ n < c.e 0 ∧ m < c.e 1 then
      (let x := nth 0 cin (n + c.e 0 * m); redAdd int32 sum (if int32 then x else fa36.bitsOf (fp32.read false x))) else sum
    tputD 0 r i (BitVec.ofNat 36 v)) []

/-- Position 0 reads Cin and is given the combination. -/
def State.redbCombine (s : State) (c0 : Nat) (q0 : Cmd) (l : List (Nat × Cmd)) : State :=
  let c := Shape.of q0.rc
  let q := if c.ver = 0 then q0 else s.bindCmd q0 [c]
  let int32 := (s.core c0).me.int32
  match engEach (fun i => elemRead q c [] (c.index i)) (if c.ver = 0 then 0 else c.count) 0 s with
  | (_, _, some e) =>
    match e.m with
    | .cause k d => (s.noteMiss e).endRedb l (some (k, d))
    | _ => s.missHead (.mq c0) q e
  | (cin, s', none) =>
    let accs := l.map fun p => (s'.core p.1).me.acc
    (s'.modMe c0 fun m => { m with acc := redbValue int32 accs cin c }).endRedb l none

/-- The four MREDBs of a bent meet (R321). Tags and modes are judged before CLR and Cin's type. -/
def execMredbCombine (core : Nat) (s : State) : Host.Outcome State Fault Refusal :=
  match s.redbMeet core with
  | some ((c0, q0) :: r) =>
    let l := (c0, q0) :: r
    let mode := (s.core c0).me.int32
    let c := Shape.of q0.rc
    .next (
      if r.any fun p => p.2.tcw.cx != q0.tcw.cx || (s.core p.1).me.int32 != mode then s.endRedb l (some (.engfault, {}))
      else if r.any fun p => p.2.tcw.clr != q0.tcw.clr then s.endRedb l (some (.shapebad, { d0 := BitVec.ofNat 64 q0.tcw.rc }))
      else if c.ver ≠ 0 ∧ c.etype ≠ (if mode then 9 else 0) then s.endRedb l (some (.engfault, {}))
      else s.redbCombine c0 q0 l)
  | _ => .next s

/-! ## Moving a chain -/

/-- Is a command a chain head (R311, R317)? -/
def Cmd.isHead (q : Cmd) : Bool := q.top == 0x11 || ((isMm q.top || q.top == 0x15) && (!q.tcw.acc || q.tcw.clr))

/-- May a command be part of a chain that moves (R324)? -/
def Cmd.movable (q : Cmd) : Bool :=
  q.perm && q.hid.isNone && !([0x10, 0x13, 0x14].contains q.top) && !(isMm q.top && q.tcw.bent)

/-- A chain from the start of a list: up to its first MDRAIN, every command movable (R324). -/
def chainFrom : List Cmd → Option (List Cmd × List Cmd)
  | [] => none
  | q :: r =>
    if !q.movable then none
    else if q.top = 0x12 then some ([q], r)
    else (chainFrom r).map fun p => (q :: p.1, p.2)

/-- The first chain that may move, behind at least one command and behind no MMASK, whose mask is not known yet (R324, R325): the commands
before it, the chain, and those after it. -/
def splitChain : List Cmd → Option (List Cmd × List Cmd × List Cmd)
  | [] => none
  | h :: r =>
    if h.top = 0x13 then none
    else
      let here := match r with
        | q :: _ => if q.isHead then chainFrom r else none
        | [] => none
      match here with
      | some (ch, rest) => some ([h], ch, rest)
      | none => (splitChain r).map fun p => (h :: p.1, p.2.1, p.2.2)

/-- May a chain of one core's queue move to another core (R324)? -/
def State.chainMoves (s : State) (origin target : Nat) : Option (List Cmd × List Cmd × List Cmd) :=
  let o := s.core origin
  let t := s.core target
  if origin = target ∨ o.asid ≠ t.asid ∨ o.asid = none ∨ !sameDomain 0 origin target ∨ (s.launchOf origin).deterministic ∨
      !t.mq.isEmpty ∨ t.me.chain ∨ !o.holds ∨ !t.holds ∨ o.migrating.isSome ∨ t.migrating.isSome ∨ !(o.mq.all fun q => q.core == origin) then none
  else splitChain o.mq

/-- Hardware moves a queued chain to another matrix engine of the bent (R324, R325). -/
def execChainMigrate (origin target : Nat) (s : State) : Host.Outcome State Fault Refusal :=
  match s.chainMoves origin target with
  | none => .next s
  | some (front, ch, rest) =>
    let mask := (s.core origin).me.mask
    let s := s.modCore origin fun k => { k with mq := front ++ rest }
    .next (s.modCore target fun k => { k with mq := k.mq ++ ch, me := { k.me with guest := mask } })

end Sys2Proof.Machine
end

