-- ==== Sys2Proof/Machine/Moves.lean ====
section
/-! DEFINITION. How everything that names a core or a key is named after a move of a core's context (R408), or after the exchange of the two areas of a
shadowed buffer (R340). -/

namespace Sys2Proof.Machine

/-! ## Renaming -/

/-- A move of a context from one core to another; or, with `swap`, the exchange of the two areas of a shadowed buffer, from a key on and of a size (R340). -/
structure Move where
  src : Nat
  dst : Nat
  swap : Option (Nat × Nat) := none

def Move.core (m : Move) (c : Nat) : Nat := if c = m.src then m.dst else c

/-- Does a key lie in the scratchpad that moves? -/
def Move.holds (m : Move) (k : Nat) : Bool := m.swap.isNone && decide (scratchKey m.src 0 ≤ k) && decide (k < scratchKey m.src 0 + 0x20000)

/-- A key after the move. -/
def Move.key (m : Move) (k : Nat) : Nat :=
  match m.swap with
  | some (b, n) => if b ≤ k ∧ k < b + n then k + n else if b + n ≤ k ∧ k < b + 2 * n then k - n else k
  | none => if m.holds k then scratchKey m.dst (k - scratchKey m.src 0) else k

def Cmd.moved (m : Move) (q : Cmd) : Cmd := { q with core := m.core q.core }
def Timed.moved (m : Move) (a : Timed) : Timed := { a with core := m.core a.core, loc := m.key a.loc }
def TimedBuf.moved (m : Move) (b : TimedBuf) : TimedBuf :=
  { incoming := b.incoming.map (Timed.moved m), stores := b.stores.map (Timed.moved m), loads := b.loads.map (Timed.moved m), fwd := b.fwd.map (Timed.moved m) }
def Msg.moved (m : Move) (g : Msg) : Msg := { g with fromCore := m.core g.fromCore, target := m.core g.target }
def CopyOp.moved (m : Move) (o : CopyOp) : CopyOp := { o with cmd := o.cmd.moved m }
/-- The rank of a requester after the move: its place among the requesters stays (R70). -/
def Move.rank (m : Move) (r : Nat) : Nat := if r ≠ 0 ∧ r < ateRankOther 0 0 ∧ (r - 1) / 8 = m.src then m.dst * 8 + (r - 1) % 8 + 1 else r

def LoopAct.moved (m : Move) (a : LoopAct) : LoopAct := match a with | .timed a => .timed (a.moved m) | a => a
def LoopReq.moved (m : Move) (r : LoopReq) : LoopReq := { r with loc := m.key r.loc, rank := m.rank r.rank, act := r.act.moved m }
def Stall.moved (m : Move) (w : Stall) : Stall := match w with | .send g => .send (g.moved m) | w => w
def Ctx.moved (m : Move) (x : Ctx) : Ctx := { x with vq := x.vq.map (Cmd.moved m), sends := x.sends.map (Msg.moved m), stall := x.stall.moved m }

def ReadyEntry.moved (m : Move) (e : ReadyEntry) : ReadyEntry :=
  match e.item with
  | .ctx x => { e with item := .ctx (x.moved m) }
  | _ => e

def Core.moved (m : Move) (k : Core) : Core :=
  { k with
    threads := k.threads.map fun (th : Thread) => { th with ctx := th.ctx.moved m, past := th.past.map (Cmd.moved m) }
    ready := k.ready.map (ReadyEntry.moved m)
    mq := k.mq.map (Cmd.moved m), vsq := k.vsq.map (Cmd.moved m), cq := k.cq.map (Cmd.moved m)
    copies := tmap k.copies fun _ o => o.moved m
    timed := k.timed.moved m
    outcomes := k.outcomes.map fun (o : StvaOutcome) => { o with acc := o.acc.moved m }
    inbound := k.inbound.map (Msg.moved m)
    det := { k.det with parked := k.det.parked.map (Msg.moved m), waiting := k.det.waiting.map (Msg.moved m) }
    loop := k.loop.map (LoopReq.moved m), arrivals := k.arrivals.map (LoopReq.moved m) }

def AteOp.moved (m : Move) (op : AteOp) : AteOp :=
  match op with
  | .amo fn size l o u d => .amo fn size (m.key l) o u d
  | .cas size l e n u d => .cas size (m.key l) e n u d
  | .barriv l w => .barriv (m.key l) w
  | .barwait l p u c sl d => .barwait (m.key l) p u (m.core c) sl d
  | .joinw l u c sl d => .joinw (m.key l) u (m.core c) sl d
  | .jdec l va st u w => .jdec (m.key l) va st u w
  | .bqtake l u d => .bqtake (m.key l) u d
  | .bytes l n c o w => .bytes (m.key l) n (m.core c) o w
  | .dec l a q i qcb st => .dec (m.key l) a q i qcb st
  | .count l a q i st w => .count (m.key l) a q i st w
  | .done l va st t a w => .done (m.key l) va st t a w
  | .read l n sg u d fp => .read (m.key l) n sg u d fp
  | .write l n v u => .write (m.key l) n v u
  | .timed l o => .timed (m.key l) o
  | .pass l u q => .pass (m.key l) u q
  | .put l n v k u q => .put (m.key l) n v k u q
  | .sys l n st v sc => .sys (m.key l) n st v sc

/-- A request after the move. -/
def AteReq.moved (m : Move) (r : AteReq) : AteReq := { r with op := r.op.moved m, rank := m.rank r.rank }

def Waiter.moved (m : Move) (w : Waiter) : Waiter := { w with loc := m.key w.loc, core := m.core w.core }
def Wins.moved (m : Move) (t : Wins) : Wins := { t with marks := t.marks.map fun (p, a, b, l) => (p, a, b, l.map (Waiter.moved m)) }

/-- What an ATE holds, with the names of the move. The scratchpad's hot lines have been written back (R408). -/
def Ate.moved (m : Move) (a : Ate) : Ate :=
  { input := a.input.map (AteReq.moved m)
    hot := a.hot.filter fun l => !m.holds (64 * l)
    waiters := a.waiters.map (Waiter.moved m)
    deps := a.deps.map fun d => (m.key d.1, d.2)
    wins := a.wins.foldl (fun t e => tput t (m.key e.1) (e.2.moved m)) []
    nextAt := a.nextAt }

/-- The part of an ATE whose lines a predicate names. -/
def Ate.part (a : Ate) (p : Nat → Bool) : Ate :=
  { input := a.input.filter fun r => p r.op.loc, hot := a.hot.filter fun l => p (64 * l), waiters := a.waiters.filter fun w => p w.loc
    deps := a.deps.filter fun d => p d.1, wins := a.wins.filter fun e => p e.1, nextAt := a.nextAt }

/-- Two parts together. -/
def Ate.join (a b : Ate) : Ate :=
  { input := a.input ++ b.input, hot := a.hot ++ b.hot, waiters := a.waiters ++ b.waiters, deps := a.deps ++ b.deps
    wins := b.wins.foldl (fun t e => tput t e.1 e.2) a.wins, nextAt := a.nextAt }

/-- Requests, waiters and registrations on lines of the scratchpad are the target bay's from now on (R408). -/
def State.moveAtes (s : State) (m : Move) : State :=
  let b0 := homeBay (scratchKey m.src 0)
  let b1 := homeBay (scratchKey m.dst 0)
  let a := (s.bay b0).ate
  let s := if b0 = b1 then s
    else
      (s.modBay b0 fun b => { b with ate := a.part fun l => !m.holds l }).modBay b1 fun b => { b with ate := b.ate.join (a.part m.holds) }
  { s with bays := tmap s.bays fun _ (b : Bay) => { b with ate := b.ate.moved m, pool := b.pool.moved m, vault := b.vault.moved m } }

def RemoteReq.moved (m : Move) (r : RemoteReq) : RemoteReq :=
  if r.core = m.src then { r with core := m.dst, held := false, timed := r.timed.map (Timed.moved m) } else { r with timed := r.timed.map (Timed.moved m) }

def QReq.moved (m : Move) (r : QReq) : QReq :=
  { r with core := m.core r.core, op := match r.op with | .bqtake l a => .bqtake (m.key l) a | o => o }

def Partition.moved (m : Move) (lcore : Nat) (p : Partition) : Partition :=
  { p with
    launch := { p.launch with lcores := tput p.launch.lcores lcore m.dst }
    qreqs := p.qreqs.map (QReq.moved m)
    sdir := { p.sdir with csts := p.sdir.csts.map fun (c : PendCst) => { c with core := m.core c.core } }
    sched := { p.sched with pulls := p.sched.pulls.map fun q => (m.core q.1, q.2) } }

/-- What is on its way to a shadowed buffer when its areas are exchanged reaches the area that its address then names: the visible one, or for an engine write
the shadow (R95, R340). -/
def State.swapAreas (s : State) (asid b n : Nat) : State :=
  let m : Move := { src := 0, dst := 0, swap := some (b, n) }
  { s with
    bays := tmap s.bays fun _ (b : Bay) => { b with ate := b.ate.moved m, pool := b.pool.moved m, vault := b.vault.moved m }
    cores := s.cores.map fun (c, k) =>
      (c, { k with
        timed := k.timed.moved m, loop := k.loop.map (LoopReq.moved m), arrivals := k.arrivals.map (LoopReq.moved m)
        copies := tmap k.copies fun _ (o : CopyOp) => if o.cmd.asid = asid then { o with barLoc := none } else o })
    parts := tmod s.parts asid fun p => { p with qreqs := p.qreqs.map (QReq.moved m) } }

end Sys2Proof.Machine
end

