-- ==== Sys2Proof/Machine/Copy.lean ====
section
/-! DEFINITION. Copies (R329 to R338): the copy request, packets, landing, barrier counts and completion; PUBL (R95, R341), WMRD (R342), BQTAKE
(R344) and the issue of BADDQ (R345). -/

namespace Sys2Proof.Machine

/-- A copy of a core. -/
def State.copyOp (s : State) (core op : Nat) : Option CopyOp := tget (s.core core).copies op

def State.modCopy (s : State) (core op : Nat) (f : CopyOp → CopyOp) : State := s.modCore core fun k => { k with copies := tmod k.copies op f }

/-- Is it a COPYX with this option? -/
def Tcw.gathers (t : Tcw) : Bool := t.top == 0x81 && t.idx
def Tcw.lands (t : Tcw) : Bool := t.top == 0x81 && t.lh

/-- Source elements of a packet (R329, R334). -/
def packetElems (t : Tcw) (w : Nat) : Nat :=
  let bytes := if t.lands then 32 * 2 ^ fieldOf t.cx 16 2 else 256
  let n := 8 * bytes / w
  if w < 8 then max 8 (n / 8 * 8) else max 1 n

/-- A copy with nothing read. -/
def CopyOp.start (q : Cmd) (arrival : Nat) : CopyOp where
  cmd := q
  read := 0
  arrival := arrival
  unit := 0
  gaps := []
  packets := []
  nextPkt := 0
  barWait := 0
  barHid := none
  barLoc := none
  barOut := 0
  fault := none
  faultAt := 0

/-- The command at the head of a core's copy queue leaves for its streamers (R329). -/
def State.startCopy (s : State) (core : Nat) (q : Cmd) : State :=
  let s := (s.runHead q).popHead (.cq core)
  let q := s.bindCmd q [Shape.of q.ra]
  let (age, s) := s.newAge
  s.modCore core fun k => { k with copies := tput k.copies k.nextCopy (CopyOp.start q age), nextCopy := k.nextCopy + 1 }

/-- The step of the command at the head of a copy queue, where it is the operation named. -/
def cqStep (top core : Nat) (s : State) : Host.Outcome State Fault Refusal :=
  match s.headCmd (.cq core) with
  | some q => .next (if q.top = top then s.startCopy core q else s)
  | none => .next s

def execCopy (core : Nat) (s : State) : Host.Outcome State Fault Refusal := cqStep 0x80 core s
def execCopyx (core : Nat) (s : State) : Host.Outcome State Fault Refusal := cqStep 0x81 core s

/-! ## Ends -/

/-- Is an access of a copy on its way to a peer? -/
def State.copyRemote (s : State) (core op : Nat) (write : Bool) : Bool :=
  s.pkg.remotes.any fun r => r.core == core && r.write == write && r.copy.any fun p => p.1 == op

/-- Has every source element been read, or does a cause end the reading? -/
def CopyOp.allRead (o : CopyOp) : Bool := o.gaps.isEmpty && (o.fault.isSome || decide ((Shape.of o.cmd.rc).count ≤ o.read))

/-- A copy that is complete or, with a cause, has settled ends: its watermark reaches the limit, its token fills (R336, R337). -/
def State.endCopy (s : State) (core op : Nat) (o : CopyOp) : State :=
  let s := s.modCore core fun k =>
    { k with
      copies := tdel k.copies op
      wmarks := match o.cmd.ownMark with
        | some n => let w := vget k.wmarks n Wmark.reset; vset k.wmarks n { w with w := BitVec.ofNat 64 w.limit, landed := [], busy := false }
        | none => k.wmarks }
  (s.endCmd o.cmd o.fault).sampledAt core 3

/-- Has a copy nothing left to do? -/
def State.copySettled (s : State) (core op : Nat) (o : CopyOp) : Bool :=
  o.allRead && o.packets.isEmpty && o.cmd.gotA.isEmpty && o.barWait == 0 && o.barOut == 0 && !s.copyRemote core op false

/-- The cause of element e, where no earlier element's is known: the earliest element's cause is the command's. -/
def CopyOp.noteFault (o : CopyOp) (e : Nat) (c : Cause) (d : Detail) : CopyOp :=
  if o.fault.isSome ∧ o.faultAt ≤ e then o else { o with fault := some (c, d), faultAt := e }

/-- A cause at the destination ends a copy from element e on: what was to land from there is dropped, and nothing more is read but the held elements before
it (R337). -/
def CopyOp.failFrom (o : CopyOp) (e : Nat) (c : Cause) (d : Detail) : CopyOp :=
  { o with
    packets := o.packets.filter fun p => decide (p.2.first < e)
    gaps := o.gaps.filter fun g => decide (g.first < e), cmd := { o.cmd with gotA := [], hid := none } }.noteFault e c d

/-- A cause at the destination of a packet ends the copy from that packet on. One that is gone was dropped with the cause that ended the copy. -/
def CopyOp.fail (o : CopyOp) (pkt : Nat) (c : Cause) (d : Detail) : CopyOp :=
  match tget o.packets pkt with
  | some p => o.failFrom p.first c d
  | none => o

/-- A cause at source element e ends the reading there: elements before it are still read, and what was sent still lands (R337). Elements behind it that are
read and not sent go no further. -/
def CopyOp.failSource (o : CopyOp) (e : Nat) (c : Cause) (d : Detail) : CopyOp :=
  { o with
    gaps := o.gaps.filter fun g => decide (g.first < e)
    cmd := { o.cmd with hid := none, gotA := if o.read ≤ e then o.cmd.gotA else [] } }.noteFault e c d

/-- A page of a copy is held (R41). -/
def State.holdCopy (s : State) (core : Nat) (q : Cmd) (kind : AccKind) (va : Word) (space peer vag reason : Nat) (c : Cause) : Nat × State :=
  let (hid, s) := s.park (coreDie q.core) q.asid kind va.toNat space peer vag reason c (.engine core 2 q.uid)
  (hid, s.modUnit q.uid fun x => x.holdOp q.seq (hid % 65536))

/-! ## Barrier counts -/

/-- The counts of landed bytes leave for the barrier object's home ATE (R98, R336, R337). -/
def State.flushBar (s : State) (core op : Nat) : State :=
  match s.copyOp core op with
  | none => s
  | some o =>
    if o.barWait = 0 ∨ o.barHid.isSome then s
    else
      let aux := BitVec.ofNat 64 o.cmd.tcw.aux
      let send := fun (k : Nat) (s : State) =>
        (s.modCopy core op fun o => { o with barWait := 0, barOut := o.barOut + 1, barLoc := if wfield aux 60 4 = 4 then some k else none }).ateSend
          (ateRank core 5) (.bytes k o.barWait core op o.cmd.win)
      match o.barLoc with
      | some k => send k s
      | none =>
        match s.check (s.agent core) .atomic 32 32 aux with
        | .ok (.mem k) => send k (s.touchTlb core aux)
        | .error (.held sp peer vag reason c) =>
          let (hid, s) := s.holdCopy core o.cmd .atomic aux sp peer vag reason c
          s.modCopy core op fun o => { o with barHid := some hid }
        | .error (.cause c d) => (s.noteEcc c d).modCopy core op fun o => { (o.failFrom 0 c d) with barWait := 0 }
        | _ => s

/-! ## Reading -/

/-- The source index of destination element e: the gather's index, or e (R333). -/
def copySource (q : Cmd) (a x : Shape) (gathers : Bool) (e : Nat) : Eng Nat :=
  if !gathers then pure e
  else do
    let j := toSigned 32 (← elemRead q x [] (x.index e))
    if j < 0 ∨ (a.count : Int) ≤ j then engFault .shapebad { d0 := BitVec.ofNat 64 q.tcw.rb } else pure j.toNat

/-- The unit whose streamer reads a key (R329): a scratchpad, a pool, a vault, or four channels of a stack's 32 (R65), taken as neighbours (log 80, DESIGN
CHOICE). -/
def keyUnit (k : Nat) : Nat :=
  if keySpace k = 7 then
    let pa := k - 0x7000300000000000
    let off := if pa < 0x4000000000 then fieldOf pa 15 23 * 4096 + pa % 4096 else fieldOf (pa - 0x4000000000) 13 22 * 4096 + pa % 4096
    8 * stackOf pa + fieldOf off 8 3
  else if keySpace k = 1 then 64 + (keyCore k).getD 0
  else k / 0x2000000

/-- What reading one source element gives: its bits and the unit that holds it, or an element of a peer's memory, which starts at a bit of its n bytes. -/
inductive CopyRead where
  | bits (v unit : Nat)
  | remote (va : Word) (bit n : Nat)
deriving DecidableEq, Repr

/-- Reads the source element of destination element e. -/
def copyRead (q : Cmd) (a x : Shape) (gathers : Bool) (e : Nat) : Eng CopyRead := do
  let j ← copySource q a x gathers e
  let idx := a.index j
  let (va, bit, n) := a.elem idx
  if wfield va 60 4 = 5 then
    (fun s =>
      match s.check (s.agent q.core) .engRead a.align n va with
      | .error m => .error { m := m, kind := .engRead, va := va }
      | .ok _ => .ok (.remote va bit n, s))
  else do
    let k ← engKey q false false a.align (if 8 ≤ a.w then n else 1) va
    return .bits (← elemRead q a [] idx) (keyUnit (k.getD 0))

/-- A copy's access to a peer's memory (R329, R330): a gateway core's leaves by the port beside its bent. A read carries in `value` the bit at which the
element starts. -/
def State.copyToPeer (s : State) (core op pkt : Nat) (q : Cmd) (write : Bool) (va : Word) (n : Nat) (value mask : Word) : State :=
  let id := s.pkg.nextRemote
  let r : RemoteReq :=
    { remoteReq write false false va n 0 value with
      id := id, asid := q.asid, uid := q.uid, core := core, thread := q.thr, copy := some (op, pkt), mask := mask
      port := if isGateway core then (core - 4608) / 4 else s.portOf q.asid va }
  s.modPkg fun p => { p with remotes := p.remotes ++ [r], nextRemote := id + 1 }

/-- The elements read but not sent, as values. -/
def Cmd.pendingVals (q : Cmd) : List Nat := (groupsOf 8 (q.gotA.length / 8) q.gotA).map leNat

/-- A packed stream of values of w bits (R215). -/
def packStream (w : Nat) (vals : List Nat) : List Byte :=
  leBytes ((vals.length * w + 7) / 8) ((vals.zipIdx).foldl (fun n p => n + p.1 % 2 ^ w * 2 ^ (p.2 * w)) 0)

/-- Elements from number `first` on leave as a packet (R329). -/
def CopyOp.pack (o : CopyOp) (w first : Nat) (vals : List Nat) : CopyOp :=
  if vals.isEmpty then o
  else
    let p : Packet := { first := first, count := vals.length, bytes := packStream w vals, hid := none, redo := none, stamp := none, pos := 0, landAt := none, acks := 0 }
    { o with packets := o.packets ++ [(o.nextPkt, p)], nextPkt := o.nextPkt + 1 }

/-- The elements read so far leave as a packet. -/
def CopyOp.sendPacket (o : CopyOp) (w : Nat) : CopyOp :=
  let vals := o.cmd.pendingVals
  { (o.pack w (o.read - vals.length) vals) with cmd := { o.cmd with gotA := [] } }

/-- One more element is read. -/
def CopyOp.gotElem (o : CopyOp) (v : Nat) : CopyOp :=
  { o with read := o.read + 1, cmd := { o.cmd with gotA := o.cmd.gotA ++ leBytes 8 v } }

/-- Number of elements from e on, at most n, that lie on the 64 KiB page of an address, or of whose index record the element lies there: what is held with
element e (R41). -/
def pageRun (q : Cmd) (a x : Shape) (gathers : Bool) (va : Word) (e : Nat) : Nat → Nat
  | 0 => 0
  | n + 1 =>
    let r := if gathers then x else a
    if e < r.count ∧ wfield (r.elem (r.index e)).1 16 48 = wfield va 16 48 then pageRun q a x gathers va (e + 1) n + 1 else 0

/-- The page of source element e is held: it waits with the elements beside it, at most `n` in all, and reading goes on beyond them (R41, R333). -/
def State.holdSource (s : State) (core op : Nat) (o : CopyOp) (kind : AccKind) (va : Word) (space peer addr reason : Nat) (c : Cause) (e n : Nat) : Nat × State :=
  let a := Shape.of o.cmd.ra
  let (hid, s) := s.holdCopy core o.cmd kind va space peer addr reason c
  let (stamp, s) := s.newAge
  let k := max 1 (pageRun o.cmd a (Shape.of o.cmd.rb) o.cmd.tcw.gathers va e n)
  (k, s.modCopy core op fun o => { o with gaps := o.gaps ++ [{ first := e, count := k, hid := some hid, stamp := stamp, redo := some { va := va, addr := addr, write := false } }] })

/-- A streamer, or the copy port, waits for the turn of a copy's access (R69): streamers rank by their dies. -/
def State.askFor (s : State) (q : Cmd) (e : EMiss) : State :=
  match e.m with
  | .turn k own =>
    if e.kind = .engRead then s.askTurn (ateRankOther 1 (keyDie k)) q.uid q.seq k none
    else s.askTurn (ateRank q.core 5) q.uid q.seq k (if own then some q.core else none)
  | _ => s

/-- May a copy be read on: nothing holds it, no cause has ended it, none of its pages stalls for an entry (R46), nothing is outstanding at a peer? -/
def State.mayRead (s : State) (core op : Nat) (o : CopyOp) : Bool :=
  o.fault.isNone && o.cmd.hid.isNone && !(o.gaps.any fun g => g.hid == some noEntry) && decide (o.read < (Shape.of o.cmd.rc).count) && !s.copyRemote core op false

/-- The unit that holds the element a copy reads next. -/
def State.nextUnit (s : State) (o : CopyOp) : Option Nat :=
  match copyRead o.cmd (Shape.of o.cmd.ra) (Shape.of o.cmd.rb) o.cmd.tcw.gathers o.read s with
  | .ok (.bits _ u, _) => some u
  | _ => none

/-- Is a copy's turn come at the streamer of its next element: does no request that arrived there before it still wait to be read (R329)? -/
def State.streamTurn (s : State) (core op : Nat) (o : CopyOp) : Bool :=
  match s.nextUnit o with
  | none => true
  | some u => !s.cores.any fun e => e.2.copies.any fun c => decide (c.2.arrival < o.arrival) && (e.1 != core || c.1 != op) && s.mayRead e.1 c.1 c.2 && s.nextUnit c.2 == some u

/-- Reads elements up to a packet, the end, a unit whose streamer serves another request first, a peer's element, or a miss; with `fuel` elements left to
read. -/
def State.streamCopy (s : State) (core op : Nat) : Nat → State
  | 0 => s
  | fuel + 1 =>
    match s.copyOp core op with
    | none => s
    | some o =>
      let t := o.cmd.tcw
      let a := Shape.of o.cmd.ra
      let send := fun (s : State) => s.modCopy core op fun o => o.sendPacket a.w
      if o.fault.isSome ∨ (Shape.of o.cmd.rc).count ≤ o.read ∨ packetElems t a.w ≤ o.cmd.gotA.length / 8 then send s
      else match copyRead o.cmd a (Shape.of o.cmd.rb) t.gathers o.read s with
        | .ok (.bits v u, s') =>
          if u ≠ o.unit ∧ !s.streamTurn core op o then send s
          else
            let s := if u ≠ o.unit then send s' else s'
            (s.modCopy core op fun o => { (o.gotElem v) with unit := u }).streamCopy core op fuel
        | .ok (.remote va bit n, s) => s.copyToPeer core op 0 o.cmd false va n (BitVec.ofNat 64 bit) 0
        | .error e =>
          match e.m with
          | .held sp peer addr reason c =>
            let (k, s) := (send s).holdSource core op o e.kind e.va sp peer addr reason c o.read (min (packetElems t a.w) ((Shape.of o.cmd.rc).count - o.read))
            s.modCopy core op fun o => { o with read := o.read + k }
          | .cause c d => (send (s.noteMiss e)).modCopy core op fun o => o.failSource o.read c d
          | _ => s.askFor o.cmd e

/-- The gap of a copy that a replay has freed and that comes first in the order of joining (R44). -/
def CopyOp.freedGap (o : CopyOp) : Option Gap := argMin Gap.stamp (o.gaps.filter fun g => g.hid.isNone)

/-- The elements of a freed gap are read: they leave as a packet, up to one whose page is held again or at which the reading ends. -/
def State.fillGap (s : State) (core op : Nat) (o : CopyOp) (g : Gap) : State :=
  let a := Shape.of o.cmd.ra
  let q := { o.cmd with redo := g.redo }
  let one := fun (i : Nat) => (do
    match ← copyRead q a (Shape.of o.cmd.rb) o.cmd.tcw.gathers i with
    | .bits v u => return (v, u)
    | .remote _ _ _ => engWait : Eng (Nat × Nat))
  let (vs, s', e) := engEach one g.count g.first s
  let run := vs.takeWhile fun v => v.2 == ((vs.head?.map (·.2)).getD 0)
  let n := run.length
  let keep := fun (o : CopyOp) => { o with gaps := o.gaps.filterMap fun (h : Gap) => if h.first ≠ g.first then some h else if n < h.count then some { h with first := h.first + n, count := h.count - n, redo := if n = 0 then h.redo else none } else none }
  let s' := s'.modCopy core op fun o => keep (o.pack a.w g.first (run.map (·.1)))
  if n < vs.length then s'
  else match e with
    | none => s'
    | some e =>
      let s' := if n = 0 then s else s'.dropTurns q.uid q.seq
      match e.m with
      | .held sp peer addr reason c =>
        let (hid, s) := s'.holdCopy core o.cmd e.kind e.va sp peer addr reason c
        let (stamp, s) := s.newAge
        let redo : EngRedo := { va := e.va, addr := addr, write := false }
        s.modCopy core op fun o => { o with gaps := o.gaps.map fun (h : Gap) => if h.first = g.first + n then { h with hid := some hid, stamp := stamp, redo := some redo } else h }
      | .cause c d => (s'.noteMiss e).modCopy core op fun o => o.failSource (g.first + n) c d
      | _ => s'.askFor o.cmd e

/-- A copy's barrier counts leave, and it ends if it has settled. -/
def State.settleCopy (s : State) (core op : Nat) : State :=
  let s := s.flushBar core op
  match s.copyOp core op with
  | some o => if s.copySettled core op o then s.endCopy core op o else s
  | none => s

/-- Is the reading of a copy over: every element has been read, or a cause has ended it? What has been read still leaves. -/
def CopyOp.ended (o : CopyOp) : Bool := o.fault.isSome || decide ((Shape.of o.cmd.rc).count ≤ o.read)

/-- The reading goes on for up to a packet; turns at held lines have been used once it gets further (R69). -/
def State.streamMore (s : State) (core op : Nat) (o : CopyOp) : State :=
  let t := s.streamCopy core op (packetElems o.cmd.tcw (Shape.of o.cmd.ra).w + 1)
  if (t.copyOp core op).all fun p => p.read != o.read then t.dropTurns o.cmd.uid o.cmd.seq else t

/-- A streamer reads on for a copy and sends a packet (R329); a copy that has settled ends. -/
def execCopyRequest (core op : Nat) (s : State) : Host.Outcome State Fault Refusal :=
  match s.copyOp core op with
  | none => .next s
  | some o => .next ((match o.freedGap with
      | some g => s.fillGap core op o g
      | none =>
        if (s.mayRead core op o && s.streamTurn core op o) || (o.ended && !o.cmd.gotA.isEmpty && !s.copyRemote core op false) then
          s.streamMore core op o else s).settleCopy core op)

/-! ## Landing -/

/-- Bytes of the destination that element i completes (R215). -/
def Shape.doneBytes (r : Shape) (i : Nat) : Nat :=
  let i0 := i % r.e 0
  if 8 ≤ r.w then r.w / 8
  else (if i0 + 1 = r.e 0 then ceilDiv ((i0 + 1) * r.w) 8 else (i0 + 1) * r.w / 8) - i0 * r.w / 8

/-- The watermark advances over the landed ranges that follow it (R97). -/
def Wmark.advance (w : Wmark) : Nat → Wmark
  | 0 => w
  | fuel + 1 =>
    match w.landed.find? fun r => decide (r.1 ≤ w.w.toNat) && decide (w.w.toNat < r.2) with
    | some r => { w with w := BitVec.ofNat 64 r.2 }.advance fuel
    | none => w

/-- [lo, hi) has landed in a watermark channel's range. -/
def Wmark.land (w : Wmark) (lo hi : Nat) : Wmark :=
  let w := { w with landed := w.landed ++ [(lo, hi)] }
  let w := w.advance (w.landed.length + 1)
  { w with landed := w.landed.filter fun r => decide (w.w.toNat < r.2) }

/-- A packet has landed: its bytes count for the watermark and the barrier object (R97, R336), and it is gone. -/
def State.packetDone (s : State) (core op pkt : Nat) (o : CopyOp) (lo hi bytes : Nat) : State :=
  let s := match o.cmd.ownMark with
    | some n => s.modCore core fun k => { k with wmarks := vset k.wmarks n ((vget k.wmarks n Wmark.reset).land lo hi) }
    | none => s
  s.modCopy core op fun o =>
    { o with packets := tdel o.packets pkt, barWait := if o.cmd.tcw.bar then o.barWait + bytes else o.barWait }

/-- Where the landed bytes of a packet lie: [lo, hi), and their number. -/
def Packet.range (p : Packet) (c : Shape) : Nat × Nat × Nat :=
  match p.landAt with
  | some x1 => (x1.toNat, x1.toNat + p.bytes.length, p.bytes.length)
  | none =>
    ((c.elem (c.index p.first)).1.toNat
    , if p.first + p.count < c.count then (c.elem (c.index (p.first + p.count))).1.toNat else c.base.toNat + c.denseBytes
    , ((upTo p.count).map fun i => c.doneBytes (p.first + i)).foldl (· + ·) 0)

/-- Number of writes a packet makes: its elements, or the bytes of a landing handler's output. -/
def Packet.writes (p : Packet) : Nat := if p.landAt.isSome then p.bytes.length else p.count

/-- What write number i of a packet comes to: writes to be made, or a write to a peer. -/
inductive CopyWrite where
  | puts (l : List Put)
  | remote (va : Word) (n : Nat) (value mask : Word)
deriving DecidableEq, Repr

/-- Write number i of a packet (R333, R335). A row's last byte is written with zeros in its uncovered bits (R287). -/
def copyWrite (q : Cmd) (t : Tcw) (c : Shape) (p : Packet) (i : Nat) : Eng CopyWrite := do
  let peer := fun (va : Word) (align n : Nat) (v m : Nat) => (fun s =>
    match s.check (s.agent q.core) .engWrite align n va with
    | .error e => .error { m := e, kind := .engWrite, va := va }
    | .ok _ => .ok (.remote va n (BitVec.ofNat 64 v) (BitVec.ofNat 64 m), s) : Eng CopyWrite)
  match p.landAt with
  | some x1 =>
    let va := x1 + BitVec.ofNat 64 i
    let v := (nth 0 p.bytes i).toNat
    if wfield va 60 4 = 5 then peer va 1 1 v 255
    else do
      let k ← engKey q true t.shd 1 1 va
      return .puts (k.map fun k => Put.mem k 1 v (q.loops true va)).toList
  | none =>
    let w := c.w
    let v := fieldOf (leNat ((p.bytes.drop (i * w / 8)).take ((i * w % 8 + w + 7) / 8))) (i * w % 8) w
    let idx := c.index (p.first + i)
    let (va, bit, n) := c.elem idx
    if wfield va 60 4 = 5 then
      let last := nth 0 idx 0 + 1 == c.e 0
      peer va c.align n (v * 2 ^ bit) (if 8 ≤ w then 2 ^ (8 * n) - 1 else if last then 2 ^ (8 * n) - 2 ^ bit else (2 ^ w - 1) * 2 ^ bit)
    else do return .puts (← elemPut q t.shd c idx v)

/-- The writes of memory among them. -/
def CopyWrite.putsOf : CopyWrite → List Put
  | .puts l => l
  | .remote _ _ _ _ => []

/-- The writes found are made, or leave for the peer. -/
def State.makeWrites (s : State) (core op pkt : Nat) (q : Cmd) (c : Shape) (l : List CopyWrite) : State :=
  l.foldl (fun s w =>
    match w with
    | .puts ps => (makePuts c ps s q).1
    | .remote va n v m =>
      (s.copyToPeer core op pkt q true va n v m).modCopy core op fun o => { o with packets := tmod o.packets pkt fun p => { p with acks := p.acks + 1 } }) s

/-- Lands a packet as far as it goes (R330, R333, R337). -/
def State.landPacket (s : State) (core op pkt : Nat) : State :=
  match s.copyOp core op with
  | none => s
  | some o =>
    match tget o.packets pkt with
    | none => s
    | some p =>
      let c := Shape.of o.cmd.rc
      let (ws, s', e) := engEach (copyWrite { o.cmd with redo := p.redo } o.cmd.tcw c p) (p.writes - p.pos) p.pos s
      let (ws, e) := match s'.firstFailed (ws.map CopyWrite.putsOf) with
        | some (i, g) => (ws.take i, some ({ m := .cause .eccunc { d0 := BitVec.ofNat 64 g }, kind := .engWrite, va := 0 } : EMiss))
        | none => (ws, e)
      let n := putsFit (16 - (s'.core o.cmd.core).loop.length) 0 (ws.map CopyWrite.putsOf)
      let fits := decide (n = ws.length)
      let ws := ws.take n
      let s := (s'.repairPuts (ws.flatMap CopyWrite.putsOf)).makeWrites core op pkt o.cmd c ws
      let s := s.modCopy core op fun o => { o with packets := tmod o.packets pkt fun p => { p with pos := p.pos + n, redo := if n = 0 then p.redo else none } }
      match (if fits then e else none) with
      | some e =>
        match e.m with
        | .held sp peer addr reason k =>
          let (hid, s) := s.holdCopy core o.cmd e.kind e.va sp peer addr reason k
          let (stamp, s) := s.newAge
          let redo : EngRedo := { va := e.va, addr := addr, write := true }
          s.modCopy core op fun o => { o with packets := tmod o.packets pkt fun p => { p with hid := some hid, stamp := some stamp, redo := some redo } }
        | .cause k d => (s.noteMiss e).modCopy core op fun o => o.fail pkt k d
        | _ => s.askFor o.cmd e
      | none =>
        let left := (((s.copyOp core op).bind fun o => tget o.packets pkt).map (·.acks)).getD 0
        if left ≠ 0 || !fits || s.putsOut o.cmd.uid o.cmd.seq then s
        else
          let (lo, hi, n) := p.range c
          s.packetDone core op pkt o lo hi n

/-- A packet reaches the copy port and is written to its destination (R330). -/
def execPacketLand (core op pkt : Nat) (s : State) : Host.Outcome State Fault Refusal := .next ((s.landPacket core op pkt).settleCopy core op)

/-- Is it not a packet's turn among the packets that replays have freed, which keep the order in which their pages joined (R44)? -/
def CopyOp.behind (o : CopyOp) (p : Packet) : Bool :=
  match p.stamp with
  | none => false
  | some n => o.packets.any fun q => q.2.hid.isNone && decide (q.2.pos < q.2.writes) && q.2.stamp.any fun m => decide (m < n)

/-- May a packet land now: no page of it is held, its writes to a peer have not left, and a landing handler that it waits for has run? -/
def CopyOp.mayLand (o : CopyOp) (p : Packet) : Bool :=
  p.hid.isNone && (p.acks == 0 || decide (p.pos < p.writes)) && (!o.cmd.tcw.lands || p.landAt.isSome) && !o.behind p

/-! ## PUBL, WMRD, BQTAKE, BADDQ -/

/-- The shadow-table entry that is valid under an index (R340, R341). -/
def State.shadowEntry (s : State) (asid i : Nat) : Option Shadow := tget (s.part asid).launch.shadows i

/-- Does a command write a shadowed buffer (R95, R340)? -/
def State.writesBuf (s : State) (buf : Nat) (q : Cmd) : Bool :=
  if q.top = baddqTop then
    let d := Baddq.of q.ra
    d.shd && (d.outs (d.e0 q.aux)).any fun r => (s.shadowHitsAt q.core r.1 r.2).any fun h => h.1 == buf
  else (q.top == 0x12 || q.top == 0x80 || q.top == 0x81) && q.tcw.shd && (s.shadowHits q.core (Shape.of q.rc)).any fun h => h.1 == buf

/-- The commands of the issuing thread that have not completed: its unit's, and those that earlier units of the thread left (R341). -/
def State.threadCmds (s : State) : List Cmd :=
  ((s.cores.flatMap fun p => p.2.mq ++ p.2.cq ++ p.2.copies.map fun o => o.2.cmd) ++ (s.thr s.curCore s.curThread.val).vectors).filter fun q =>
    q.uid == s.cur.uid || (q.core == s.curCore && q.thr == s.curThread.val)

/-- PUBL (R95, R341). -/
def execPubl (a : Reg) (ma : Bool) (s : State) : Host.Outcome State Fault Refusal :=
  issue [(a, ma)] none (fun s =>
    let v := s.cur.xr a
    if 255 < v.toNat ∨ (s.shadowEntry s.curK.asidN v.toNat).isNone then .trap .access { d0 := v } s
    else if s.accessesOut s.cur.uid || s.threadCmds.any (s.writesBuf v.toNat) then .stay s
    else .stay (s.modCur fun x => { x with wait := .publ v.toNat })) s

/-- The exchange of a buffer's images, and the copy of the new visible image into the new shadow (R95). -/
def State.exchange (s : State) (asid buf : Nat) : State :=
  match s.shadowEntry asid buf with
  | none => s
  | some e =>
    let (b, size) := s.shadowBase asid e
    let sel := !e.sel
    let s := (s.modPart asid fun p => { p with launch := { p.launch with shadows := tput p.launch.shadows buf { e with sel := sel } } }).swapAreas asid b size
    if sel then s.copyRange (b + size) b size else s.copyRange b (b + size) size

/-- The unit of a core's launch that is not running and whose PUBL has reached its buffer's home (R258, R341). -/
def State.savedPubl (s : State) (core : Nat) : Option Ctx :=
  (s.launchCtxs (s.core core).asidN).find? fun x =>
    (match x.wait with | .publ _ => true | _ => false) && !(s.findUnit x.uid).any fun p => (s.thr p.1 p.2).running

/-- The unit whose PUBL is served: that of a thread, or, where the event names thread 4, one that is not running. -/
def State.publUnit (s : State) (core thread : Nat) : Option Ctx :=
  if thread = 4 then s.savedPubl core else if (s.thr core thread).running then some (s.ctx core thread) else none

/-- The buffer's home performs the exchange of a PUBL that waits on a thread, or in a saved context, which then goes on (R95, R258, R341). -/
def execPublExchange (core thread : Nat) (s : State) : Host.Outcome State Fault Refusal :=
  .next (match s.publUnit core thread with
    | none => s
    | some x =>
      match x.wait with
      | .publ buf => (s.exchange (s.core core).asidN buf).answer x.uid id
      | _ => s)

/-- WMRD (R342). -/
def execWmrd (d a : Reg) (ma : Bool) (s : State) : Host.Outcome State Fault Refusal :=
  issue [(a, ma)] (some d) (fun s =>
    let v := s.cur.xr a
    if 7 < v.toNat then .trap .shapebad { d0 := v } s else setRetire d (vget s.curK.wmarks v.toNat Wmark.reset).w s) s

/-- BQTAKE (R344): in a deterministic launch a quantum-served request (R389). At an address of the system window that names nothing, NEXT and LIMIT read zero
(R39). It is none of the atomics that R416 lists (R242), so no data breakpoint matches it. -/
def execBqtake (d a : Reg) (ma : Bool) (s : State) : Host.Outcome State Fault Refusal :=
  issue [(a, ma)] (some d) (fun s =>
    let va := s.cur.xr a
    scalarAccess .atomic false false 16 16 va (fun h s =>
      if s.loadsOut s.cur.uid then .stay s
      else match h with
      | .mem k =>
        match s.badIn k 16 with
        | some g => s.eccTrap g k 16
        | none =>
          let s := s.correct k 16
          if (s.launchOf s.curCore).deterministic then .stay ((s.empty d).sendQ d (.bqtake k va))
          else .retire ((s.ateSend (ateRank s.curCore s.curThread.val) (.bqtake k s.cur.uid d)).empty d)
      | .window _ => .retire (s.produce d 0xFFFFFFFFFFFFFFFF)
      | _ => .trap .access { d0 := va, d1 := 16 } s) s) s

/-- The checks of a reduction descriptor (R345). -/
def State.baddChecks (s : State) (d : Baddq) (e0 : Nat) : Bool :=
  let wi := elemBits d.itype
  let wo := elemBits d.otype
  d.rsv || decide (7 < d.itype) || decide (7 < d.otype) || (d.isc && decide (d.itype < 3)) || (d.osc && decide (d.otype < 3)) ||
  ((d.isc || d.osc) && (d.n + 1) % 32 != 0) || (d.n + 1) * wi % 8 != 0 || (d.n + 1) * wo % 8 != 0 ||
  decide (0x20000 < d.acc + 8 * (d.n + 1)) || d.acc % 8 != 0 ||
  (d.outs e0).any fun r => !shdMatch d.shd (s.shadowHitsAt s.curCore r.1 r.2)

/-- BADDQ (R345, R347): checked at issue like a vector instruction, then queued. -/
def execBaddq (a b : Reg) (ma mb : Bool) (s : State) : Host.Outcome State Fault Refusal :=
  issue [(a, ma), (b, mb)] none (fun s =>
    let x := s.cur
    let va := x.xr a
    if 8 ≤ s.curVectors.length ∨ s.accessesOut x.uid then .stay s
    else if wfield va 60 4 ≠ 0 ∨ va.toNat % 64 ≠ 0 then .trap .shapebad { d0 := va } s
    else match s.readRecords [va] with
      | .error m => m.atIssue s
      | .ok (rs, s) =>
        let d := Baddq.of (recAt rs 0)
        if s.baddChecks d (d.e0 (x.xr b)) then .trap .shapebad { d0 := va } s
        else
          let (q, s) := s.capture baddqTop 0 s.cur.pc 4 0
          .retire (s.modCur fun y => { y with vq := y.vq ++ [{ q with ra := recAt rs 0, aux := x.xr b }] })) s

end Sys2Proof.Machine
end

