-- ==== Sys2Proof/Machine/Dde.lean ====
section
/-! DEFINITION. The decision-diagram engine (R349 to R371): nodes in device memory, the unique table, the recursions that define each
instruction's result, collection, level exchange, and the serving of requests. -/

namespace Sys2Proof.Machine

/-- A request of the engine: the state it leaves stands even where a cause aborts it (R354, R359). -/
abbrev DdM (α : Type) := ExceptT (Cause × Detail) (StateM State) α

/-- A node's fields (R350). -/
structure DdNode where
  level : Nat
  ref : Nat
  low : Nat
  high : Nat
  chain : Nat
deriving DecidableEq, Repr

/-- The complement flag, FALSE, and the levels of the terminal and of a free node (R350, R351). -/
def ddFlag : Nat := 0x80000000
def ddTerm : Nat := 0xFFFF
def ddFree : Nat := 0xFFFE

/-- Node id of an edge, and its flag. -/
def ddId (e : Nat) : Nat := e % ddFlag
def ddNeg (e : Nat) : Bool := ddFlag ≤ e

/-- An edge with its flag flipped. -/
def ddNot (e : Nat) : Nat := if ddNeg e then e - ddFlag else e + ddFlag

def ddFail {α : Type} (c : Cause) (d : Detail := {}) : DdM α := throw (c, d)

/-- DDNODE at a node that is met inside a diagram, which D1 marks until `Ans.named` has put an operand in D0. -/
def ddBadNode {α : Type} (e : Nat) : DdM α := ddFail .ddnode { d0 := BitVec.ofNat 64 e, d1 := 1 }

/-- The diagram space of a partition; DDNODE where it has none (R349). -/
def ddSpace (asid : Nat) : DdM Dds := do
  match tget (← get).spaces asid with
  | some d => return d
  | none => ddBadNode 0

def ddSet (asid : Nat) (f : Dds → Dds) : DdM Unit :=
  modify fun s => { s with spaces := tmod s.spaces asid f }

/-- Variable at a level (R352). -/
def Partition.ddVarAt (p : Partition) (l : Nat) : Nat := wfield (p.ddord (l / 4)) (16 * (l % 4)) 12

/-- Is the order valid (R352)? -/
def Partition.ddValid (p : Partition) (vars : Nat) : Bool :=
  let vs := (upTo vars).map p.ddVarAt
  (upTo vars).all fun v => vs.contains v

/-- The order must be valid, or DDORDER. -/
def ddOrderOk (asid vars : Nat) : DdM Unit := do
  if !((← get).part asid).ddValid vars then ddFail .ddorder

/-- Level of a variable. -/
def Partition.ddLevOf (p : Partition) (vars v : Nat) : Nat := ((upTo vars).find? fun l => p.ddVarAt l == v).getD 0

def ddKey (d : Dds) (i : Nat) : Nat := hbmKey (d.nodeBase + 16 * i)

/-- Reads a node; an uncorrectable error in it is ECCUNC (R359). -/
def ddNode (d : Dds) (i : Nat) : DdM DdNode := do
  let s ← get
  match s.badIn (ddKey d i) 16 with
  | some g =>
    set (s.logRange (ddKey d i) 16)
    ddFail .eccunc { d0 := BitVec.ofNat 64 g }
  | none =>
    set (s.correct (ddKey d i) 16)
    let v := s.readLe (ddKey d i) 16
    return { level := fieldOf v 0 16, ref := fieldOf v 16 16, low := fieldOf v 32 32, high := fieldOf v 64 32, chain := fieldOf v 96 32 }

/-- A node's 128 bits. -/
def DdNode.bits (n : DdNode) : Nat := packNat [(0, 16, n.level), (16, 16, n.ref), (32, 32, n.low), (64, 32, n.high), (96, 32, n.chain)]

def ddPut (d : Dds) (i : Nat) (n : DdNode) : DdM Unit := modify fun s => s.writeLe (ddKey d i) 16 n.bits

/-- A node met by a traversal: one that breaks R351 takes DDNODE. -/
def ddVisit (d : Dds) (i : Nat) : DdM DdNode := do
  let n ← ddNode d i
  if d.vars ≤ n.level ∨ n.low = n.high ∨ ddNeg n.high ∨ 2 ^ d.nn ≤ ddId n.low ∨ 2 ^ d.nn ≤ n.high then ddBadNode i else return n

/-- LEVEL of an edge's node, the terminal's being above every other (R362). -/
def ddLevel (d : Dds) (e : Nat) : DdM Nat := do
  if ddId e = 0 then return ddTerm else return (← ddVisit d (ddId e)).level

/-- The cofactor of an edge at level l (R362). A child that does not lie below its node breaks R351. -/
def ddCof (d : Dds) (e l b : Nat) : DdM Nat := do
  if ddId e = 0 then return e
  else
    let n ← ddVisit d (ddId e)
    if n.level ≠ l then return e
    else
      let c := if b = 0 then n.low else n.high
      if (← ddLevel d c) ≤ l then ddBadNode (ddId e) else return (if ddNeg e then ddNot c else c)

/-- A node met by a traversal whose children must lie below it, or it breaks R351 (R359). -/
def ddLawful (d : Dds) (i : Nat) : DdM DdNode := do
  let n ← ddVisit d i
  if (← ddLevel d n.low) ≤ n.level ∨ (← ddLevel d n.high) ≤ n.level then ddBadNode i else return n

/-! ## References and the unique table -/

/-- IncRef (R355). -/
def ddInc (d : Dds) (i : Nat) : DdM Unit := do
  let n ← ddNode d i
  if i ≠ 0 ∧ n.ref ≠ 0xFFFF then ddPut d i { n with ref := n.ref + 1 }

/-- DecRef (R355); answers whether the count became 0. -/
def ddDec (d : Dds) (i : Nat) : DdM Bool := do
  let n ← ddNode d i
  if i = 0 ∨ n.ref = 0xFFFF ∨ n.ref = 0 then return false
  else
    ddPut d i { n with ref := n.ref - 1 }
    return n.ref == 1

/-- Bucket of a triple (R354). -/
def ddBucket (d : Dds) (l lo hi : Nat) : Nat :=
  (Nat.xor (Nat.xor (l * 0x9E3779B1 % 2 ^ 32) (lo * 0x85EBCA6B % 2 ^ 32)) (hi * 0xC2B2AE35 % 2 ^ 32)) / 2 ^ (32 - d.nb)

def ddHeadKey (d : Dds) (b : Nat) : Nat := hbmKey (d.bktBase + 4 * b)

/-- Head of a bucket. -/
def ddHead (d : Dds) (b : Nat) : DdM Nat := do
  let s ← get
  match s.badIn (ddHeadKey d b) 4 with
  | some g =>
    set (s.logUncorrectable g false)
    ddFail .eccunc { d0 := BitVec.ofNat 64 g }
  | none =>
    set (s.correct (ddHeadKey d b) 4)
    return s.readLe (ddHeadKey d b) 4

def ddSetHead (d : Dds) (b v : Nat) : DdM Unit := modify fun s => s.writeLe (ddHeadKey d b) 4 v

/-- The first node from i on along a chain with the triple. -/
def ddFind (d : Dds) (l lo hi : Nat) : Nat → Nat → DdM (Option Nat)
  | 0, i => ddBadNode i
  | fuel + 1, i => do
    if i = 0 then return none
    else
      let n ← ddNode d i
      if n.level = l ∧ n.low = lo ∧ n.high = hi then return some i else ddFind d l lo hi fuel n.chain

/-- Links a node at the head of its bucket. -/
def ddLink (d : Dds) (i : Nat) (n : DdNode) : DdM Unit := do
  let b := ddBucket d n.level n.low n.high
  ddPut d i { n with chain := ← ddHead d b }
  ddSetHead d b i

/-- Unlinks node i from the chain that goes on from p. -/
def ddUnlinkFrom (d : Dds) (i next : Nat) : Nat → Nat → DdM Unit
  | 0, p => ddBadNode p
  | fuel + 1, p => do
    if p = 0 then return
    else
      let n ← ddNode d p
      if n.chain = i then ddPut d p { n with chain := next } else ddUnlinkFrom d i next fuel n.chain

/-- Unlinks node i from its bucket's chain. -/
def ddUnlink (d : Dds) (i : Nat) (n : DdNode) : DdM Unit := do
  let b := ddBucket d n.level n.low n.high
  let h ← ddHead d b
  if h = i then ddSetHead d b n.chain else ddUnlinkFrom d i n.chain (2 ^ d.nn) h

/-- MakeNode (R354). -/
def ddMake (asid l lo hi : Nat) : DdM Nat := do
  if lo = hi then return lo
  let c := ddNeg hi
  let lo := if c then ddNot lo else lo
  let hi := if c then ddNot hi else hi
  let d ← ddSpace asid
  let found ← ddFind d l lo hi (2 ^ d.nn) (← ddHead d (ddBucket d l lo hi))
  let n ← match found with
    | some n => pure n
    | none =>
      if d.limit ≤ d.alloc ∨ d.freeHead = 0 then ddFail .ddfull
      else
        let n := d.freeHead
        let f ← ddNode d n
        ddSet asid fun d => { d with freeHead := f.chain, alloc := d.alloc + 1 }
        ddLink d n { level := l, ref := 0, low := lo, high := hi, chain := 0 }
        ddInc d (ddId lo)
        ddInc d (ddId hi)
        pure n
  return if c then n + ddFlag else n

/-! ## Operands -/

/-- The check of an edge operand (R359). -/
def ddEdge (asid : Nat) (v : Word) : DdM Nat := do
  let d ← ddSpace asid
  let e := v.toNat
  let bad := (throw (Cause.ddnode, ({ d0 := v } : Detail)) : DdM Nat)
  if 2 ^ 32 ≤ e ∨ 2 ^ d.nn ≤ ddId e then bad
  else
    let n ← ddNode d (ddId e)
    if n.level = ddFree ∨ (n.level ≠ ddTerm ∧ d.vars ≤ n.level) then bad else return e

/-- Is an edge a cube (R359)? -/
def ddIsCube (d : Dds) : Nat → Nat → DdM Bool
  | 0, _ => pure false
  | fuel + 1, c => do
    if ddId c = 0 then return c == 0
    else
      let l ← ddLevel d c
      let lo ← ddCof d c l 0
      let hi ← ddCof d c l 1
      if lo = ddFlag then ddIsCube d fuel hi else if hi = ddFlag then ddIsCube d fuel lo else return false

/-- A cube operand. -/
def ddCube (asid : Nat) (v : Word) : DdM Nat := do
  let e ← ddEdge asid v
  let d ← ddSpace asid
  if ← ddIsCube d (d.vars + 1) e then return e else ddFail .ddnode { d0 := BitVec.ofNat 64 e }

/-! ## Recursions -/

/-- Apply (R362). -/
def ddApply (asid op : Nat) : Nat → Nat → Nat → DdM Nat
  | 0, f, _ => ddBadNode f
  | fuel + 1, f, g => do
    if ddId f = 0 ∧ ddId g = 0 then
      return if fieldOf op (2 * b2n (f == 0) + b2n (g == 0)) 1 = 1 then 0 else ddFlag
    else
      let d ← ddSpace asid
      let l := min (← ddLevel d f) (← ddLevel d g)
      let lo ← ddApply asid op fuel (← ddCof d f l 0) (← ddCof d g l 0)
      let hi ← ddApply asid op fuel (← ddCof d f l 1) (← ddCof d g l 1)
      ddMake asid l lo hi

/-- Ite (R362). -/
def ddIte (asid : Nat) : Nat → Nat → Nat → Nat → DdM Nat
  | 0, f, _, _ => ddBadNode f
  | fuel + 1, f, g, h => do
    if ddId f = 0 then return if f = 0 then g else h
    else
      let d ← ddSpace asid
      let l := min (← ddLevel d f) (min (← ddLevel d g) (← ddLevel d h))
      let lo ← ddIte asid fuel (← ddCof d f l 0) (← ddCof d g l 0) (← ddCof d h l 0)
      let hi ← ddIte asid fuel (← ddCof d f l 1) (← ddCof d g l 1) (← ddCof d h l 1)
      ddMake asid l lo hi

/-- Next and Pol of a cube at its level (R363). -/
def ddNext (d : Dds) (c : Nat) : DdM (Nat × Nat) := do
  let l ← ddLevel d c
  let lo ← ddCof d c l 0
  if lo = ddFlag then return (← ddCof d c l 1, 1) else return (lo, 0)

/-- The cube with every level above l passed. -/
def ddSkipCube (d : Dds) (l : Nat) : Nat → Nat → DdM Nat
  | 0, c => pure c
  | fuel + 1, c => do
    if c ≠ 0 ∧ (← ddLevel d c) < l then ddSkipCube d l fuel (← ddNext d c).1 else return c

/-- Restrict, or with `ex` Exist (R363). -/
def ddRestrict (asid : Nat) (ex : Bool) : Nat → Nat → Nat → DdM Nat
  | 0, f, _ => ddBadNode f
  | fuel + 1, f, c => do
    let d ← ddSpace asid
    let l ← ddLevel d f
    let c ← ddSkipCube d l (d.vars + 1) c
    if ddId f = 0 ∨ c = 0 then return f
    else if (← ddLevel d c) = l then
      let (nx, pol) ← ddNext d c
      if ex then
        let lo ← ddRestrict asid ex fuel (← ddCof d f l 0) nx
        let hi ← ddRestrict asid ex fuel (← ddCof d f l 1) nx
        ddApply asid 14 (d.vars + 2) lo hi
      else ddRestrict asid ex fuel (← ddCof d f l pol) nx
    else
      let lo ← ddRestrict asid ex fuel (← ddCof d f l 0) c
      let hi ← ddRestrict asid ex fuel (← ddCof d f l 1) c
      ddMake asid l lo hi

/-- Is Restrict(f, Cube(l0, n, a)) not FALSE (R365)? No node is created. -/
def ddSat (d : Dds) (l0 n a : Nat) : Nat → Nat → DdM Bool
  | 0, f => ddBadNode f
  | fuel + 1, f => do
    if ddId f = 0 then return f == 0
    else
      let l ← ddLevel d f
      if l0 ≤ l ∧ l < l0 + n then ddSat d l0 n a fuel (← ddCof d f l (fieldOf a (l - l0) 1))
      else if ← ddSat d l0 n a fuel (← ddCof d f l 0) then return true
      else ddSat d l0 n a fuel (← ddCof d f l 1)

/-- The reference that a program owns of a result (R355). -/
def ddOwned (asid e : Nat) : DdM Word := do
  ddInc (← ddSpace asid) (ddId e)
  return BitVec.ofNat 64 e

/-! ## Counting -/

/-- One rounding of an exact FP64 result, to nearest even; an infinite one is DDCOUNTOVF (R364). -/
def ddRound (x : Exact) : DdM Nat :=
  let r := fp64.bitsOf x.v
  if r % fp64.signBit = fp64.infCode then ddFail .ddcountovf else pure r

def dd64 (bits : Nat) : Fv := fp64.read false bits

/-- Skip (R364): x times S(k) for k from lo on, n times. -/
def ddSkip (w : Nat → Nat × Nat) : Nat → Nat → Nat → DdM Nat
  | 0, _, x => pure x
  | n + 1, k, x => do
    let sk ← ddRound ((dd64 (w k).1).add 0 (dd64 (w k).2))
    ddSkip w n (k + 1) (← ddRound ((dd64 x).mul (dd64 sk)))

/-- EdgeVal (R364), with the value of a node inside it; `w` gives the weights of the variable at a level. -/
def ddEdgeVal (d : Dds) (w : Nat → Nat × Nat) : Nat → Nat → Nat → DdM Nat
  | 0, e, _ => ddBadNode e
  | fuel + 1, e, l => do
    let one := 0x3FF0000000000000
    let (lv, x) ← (if ddId e = 0 then pure (d.vars, one)
      else do
        let n ← ddLawful d (ddId e)
        let a ← ddEdgeVal d w fuel n.low (n.level + 1)
        let b ← ddEdgeVal d w fuel n.high (n.level + 1)
        let pa ← ddRound ((dd64 (w n.level).1).mul (dd64 a))
        let pb ← ddRound ((dd64 (w n.level).2).mul (dd64 b))
        pure (n.level, ← ddRound ((dd64 pa).add 0 (dd64 pb))) : DdM (Nat × Nat))
    let x ← (if ddNeg e then do
        let all ← ddSkip w (d.vars - lv) lv one
        ddRound ((dd64 all).add 0 (dd64 x).neg)
      else pure x)
    ddSkip w (lv - l) l x

/-- Bytes of the issuing core's scratchpad, which the engine reads when it accepts the request (R358). -/
def ddScratch (core off n : Nat) : DdM (List Byte) := do
  let s ← get
  let c := s.holderOf core
  match s.aliasBytes c off n with
  | .error (e, d) =>
    set (if e = .eccunc then s.aliasNote c off n else s)
    ddFail e d
  | .ok bs =>
    set (s.aliasNote c off n)
    return bs

/-- The offset of a block of n bytes: LDALIGN where it is not a multiple of `align`, ACCESS where it reaches past the scratchpad. -/
def ddOffset (v : Word) (align n : Nat) : DdM Nat :=
  if v.toNat % align ≠ 0 then ddFail .ldalign { d0 := v, d1 := BitVec.ofNat 64 n }
  else if 0x20000 < v.toNat + n then ddFail .access { d0 := v, d1 := BitVec.ofNat 64 n }
  else pure v.toNat

/-- May an FP64 word be a weight? -/
def ddWeightOk (bits : Nat) : Bool :=
  match fp64.read false bits with
  | .fin neg m _ => !neg || m == 0
  | _ => false

/-- DDCOUNT (R364). -/
def ddCount (asid core : Nat) (a b : Word) : DdM Word := do
  let d ← ddSpace asid
  ddOrderOk asid d.vars
  let f ← ddEdge asid a
  let off ← ddOffset b 16 (16 * d.vars)
  let ws := wordsOf (← ddScratch core off (16 * d.vars))
  match (upTo d.vars).find? fun v => !ddWeightOk (nth 0 ws (2 * v)).toNat || !ddWeightOk (nth 0 ws (2 * v + 1)).toNat with
  | some v => ddFail .ddweight { d0 := BitVec.ofNat 64 v }
  | none =>
    let p := (← get).part asid
    let w := fun (l : Nat) => ((nth 0 ws (2 * p.ddVarAt l)).toNat, (nth 0 ws (2 * p.ddVarAt l + 1)).toNat)
    return BitVec.ofNat 64 (← ddEdgeVal d w (d.vars + 2) f 0)

/-! ## Masks -/

/-- Bits j to j + n - 1 of DDMASK. -/
def ddMaskBits (d : Dds) (f l0 n s : Nat) : Nat → Nat → DdM (List Bool)
  | 0, _ => pure []
  | k + 1, j => do
    let b ← (if s + j < 2 ^ n then ddSat d l0 n (s + j) (d.vars + 2) f else pure false)
    return b :: (← ddMaskBits d f l0 n s k (j + 1))

/-- What a DDMASK answers: a mask, that its record is written, or that an element write waits or is held (R40, R41). -/
inductive DdMask where
  | mask (v : BitVec 16)
  | written
  | miss (e : EMiss)
deriving DecidableEq, Repr

/-- The elements that a DDMASK has still to write are written in order, up to one that is held or finds no room in the loopback port, from which its
instruction goes on later (R41, R58), or one with a cause. It is done once its writes to held lines and by the loopback port are performed. -/
def ddMaskWrite (core asid uid tid thr : Nat) (j : MaskJob) : DdM DdMask := do
  let s ← get
  let r := Shape.of j.record
  let q := { Cmd.blank (s.holderOf core) asid uid tid thr with seq := threadSeq, redo := j.redo }
  let (ps, s, e) := engEach (fun i => elemPut q false r (r.index i) (b2n (nth false j.bits i))) (r.count - j.pos) j.pos s
  let (ps, e) := stepParts s ps e
  let ps' := ps.take (putsFit (16 - (s.core q.core).loop.length) 0 ps)
  let s := (makePuts r ps'.flatten (s.repairPuts ps'.flatten) q).1
  let waits := fun (e : EMiss) (redo : Option EngRedo) => (do
    set (s.modUnit uid fun x => { x with maskJob := some { j with pos := j.pos + ps'.length, redo := redo } })
    return .miss e : DdM DdMask)
  let busy : EMiss := { m := .busy, kind := .engWrite, va := 0 }
  if ps'.length < ps.length then waits busy none
  else match e with
    | some e =>
      match e.m with
      | .cause c det =>
        set (s.noteMiss e)
        ddFail c det
      | .held _ _ addr _ _ => waits e (some { va := e.va, addr := addr, write := true })
      | _ => waits e none
    | none =>
      if s.putsOut uid threadSeq then waits busy none
      else
        set s
        return .written

/-- DDMASK (R365). -/
def ddMaskOp (asid core uid tid thr : Nat) (a b : Word) (dreg : Nat) : DdM DdMask := do
  let d ← ddSpace asid
  let off ← ddOffset b 16 16
  let p := leNat (← ddScratch core off 16)
  let l0 := fieldOf p 0 12
  let n := fieldOf p 16 5 + 1
  let t := fieldOf p 63 1 = 1
  let st := fieldOf p 64 32
  let rec' := fieldOf p 96 17
  if fieldOf p 113 15 ≠ 0 ∨ fieldOf p 21 42 ≠ 0 ∨ fieldOf p 12 4 ≠ 0 ∨ (!t ∧ rec' ≠ 0) ∨ (t ∧ dreg ≠ 0) then ddFail .rsvfld
  let det : Detail := { d0 := BitVec.ofNat 64 rec' }
  let r ← (if !t then pure (Shape.of 0)
    else if rec' % 64 ≠ 0 then ddFail .shapebad det
    else do
      let r := Shape.of (BitVec.ofNat 512 (leNat (← ddScratch core rec' 64)))
      if r.reserved then ddFail .rsvfld
      else if r.badLoc true (fun _ => true) ∨ r.opx ≠ 0 ∨ r.loc ≠ 0 ∨ r.etype ≠ etBit1 then ddFail .shapebad det
      else pure r)
  let k := if t then r.count else 16
  if d.vars < l0 + n ∨ (!t ∧ (16 < n ∨ 2 ^ n ≤ st)) ∨ (t ∧ (32 < n ∨ 2 ^ n < st + k)) then ddFail .ddmasksize
  let f ← ddEdge asid a
  let bits ← ddMaskBits d f l0 n st k 0
  if !t then return .mask (BitVec.ofNat 16 (packNat ((upTo 16).map fun i => (i, 1, b2n (nth false bits i)))))
  else ddMaskWrite core asid uid tid thr { record := BitVec.ofNat 512 (leNat (← ddScratch core rec' 64)), bits := bits, pos := 0, redo := none }

/-! ## References, collection, exchange of levels -/

/-- DDDEREF (R366). -/
def ddDeref (asid : Nat) (v : Word) : DdM Unit := do
  let e ← ddEdge asid v
  let d ← ddSpace asid
  let n ← ddNode d (ddId e)
  if n.ref = 0 then ddFail .ddrefovf { d0 := v }
  else
    let _ ← ddDec d (ddId e)

/-- The stack of R367; answers how many nodes it freed. -/
def ddFreeStack (asid : Nat) : Nat → List Nat → Nat → DdM Nat
  | 0, _, n => pure n
  | _ + 1, [], n => pure n
  | fuel + 1, m :: st, n => do
    let d ← ddSpace asid
    let x ← ddNode d m
    if 2 ^ d.nn ≤ ddId x.low ∨ 2 ^ d.nn ≤ ddId x.high then ddBadNode m
    ddUnlink d m x
    let z ← ddDec d (ddId x.low)
    let st := if z then ddId x.low :: st else st
    let z ← ddDec d (ddId x.high)
    let st := if z then ddId x.high :: st else st
    ddPut d m { level := ddFree, ref := 0, low := 0, high := 0, chain := d.freeHead }
    ddSet asid fun d => { d with freeHead := m, alloc := d.alloc - 1 }
    ddFreeStack asid fuel st (n + 1)

/-- DDCOLLECT from node id on (R367). -/
def ddCollectFrom (asid : Nat) : Nat → Nat → Nat → DdM Nat
  | 0, _, n => pure n
  | fuel + 1, i, n => do
    let d ← ddSpace asid
    let x ← ddNode d i
    let n ← (if x.level < ddFree ∧ x.ref = 0 then ddFreeStack asid (2 ^ d.nn) [i] n else pure n)
    ddCollectFrom asid fuel (i + 1) n

/-- How many nodes from i on satisfy a predicate. -/
def ddTally (d : Dds) (p : DdNode → Bool) : Nat → Nat → Nat → DdM Nat
  | 0, _, n => pure n
  | fuel + 1, i, n => do
    let x ← ddNode d i
    ddTally d p fuel (i + 1) (if x.level < ddFree && p x then n + 1 else n)

/-- The ids of the nodes of a level, ascending. -/
def ddIdsAt (d : Dds) (l : Nat) : Nat → Nat → DdM (List Nat)
  | 0, _ => pure []
  | fuel + 1, i => do
    let x ← ddNode d i
    let r ← ddIdsAt d l fuel (i + 1)
    return if x.level = l then i :: r else r

/-- Moves nodes to a level: each leaves its bucket and joins the new one. -/
def ddMoveTo (d : Dds) (l : Nat) : List Nat → DdM Unit
  | [] => pure ()
  | i :: r => do
    let x ← ddNode d i
    ddUnlink d i x
    ddLink d i { x with level := l }
    ddMoveTo d l r

/-- Rewrites the nodes that had a child at level l + 1 (R368 step 3); their children of B now lie at level l. -/
def ddRewrite (asid l : Nat) (bs : List Nat) : List Nat → DdM Unit
  | [] => pure ()
  | i :: r => do
    let d ← ddSpace asid
    let x ← ddNode d i
    let cof := fun (e b : Nat) => (do
      if bs.contains (ddId e) then
        let y ← ddNode d (ddId e)
        let c := if b = 0 then y.low else y.high
        return if ddNeg e then ddNot c else c
      else return e : DdM Nat)
    ddUnlink d i x
    let lo ← ddMake asid (l + 1) (← cof x.low 0) (← cof x.high 0)
    let hi ← ddMake asid (l + 1) (← cof x.low 1) (← cof x.high 1)
    let _ ← ddDec d (ddId x.low)
    let _ ← ddDec d (ddId x.high)
    ddInc d (ddId lo)
    ddInc d (ddId hi)
    let y ← ddNode d i
    ddLink d i { y with low := lo, high := hi }
    ddRewrite asid l bs r

/-- Nodes among some ids that have a child among others; each is met by the traversal. -/
def ddParents (d : Dds) (bs : List Nat) : List Nat → DdM (List Nat)
  | [] => pure []
  | i :: r => do
    let x ← ddLawful d i
    let rest ← ddParents d bs r
    return if bs.contains (ddId x.low) || bs.contains (ddId x.high) then i :: rest else rest

/-- The two DDORD fields exchanged. -/
def Partition.ddSwapOrder (p : Partition) (l : Nat) : Partition :=
  let a := p.ddVarAt l
  let b := p.ddVarAt (l + 1)
  let p1 : Partition := { p with ddords := tput p.ddords (l / 4) (wput (p.ddord (l / 4)) (16 * (l % 4)) 12 b) }
  { p1 with ddords := tput p1.ddords ((l + 1) / 4) (wput (p1.ddord ((l + 1) / 4)) (16 * ((l + 1) % 4)) 12 a) }

/-- DDSWAP (R368). -/
def ddSwapOp (asid : Nat) (v : Word) : DdM Word := do
  let d ← ddSpace asid
  ddOrderOk asid d.vars
  let l := v.toNat
  if d.vars ≤ l + 1 then ddFail .ddorder
  let ls ← ddIdsAt d l (2 ^ d.nn - 1) 1
  let bs ← ddIdsAt d (l + 1) (2 ^ d.nn - 1) 1
  let as ← ddParents d bs ls
  let _ ← ddParents d [] bs
  if d.limit < d.alloc + 2 * as.length then ddFail .ddfull
  ddMoveTo d (l + 1) (ls.filter fun i => !as.contains i)
  ddMoveTo d l bs
  ddRewrite asid l bs as
  modify fun s => s.modPart asid fun p => p.ddSwapOrder l
  return BitVec.ofNat 64 (← ddSpace asid).alloc

/-- The hits and misses of an operation's search of the cache are counted (R369). How many there are depends on the cache, which the rules leave open
(log 15). -/
def State.countCache (s : State) (asid : Nat) : State :=
  let (n, s) := s.newFree
  { s with spaces := tmod s.spaces asid fun (d : Dds) =>
      { d with hits := satN 64 (d.hits + (Config.cacheHits n).toNat), misses := satN 64 (d.misses + (Config.cacheMisses n).toNat) } }

/-- DDSTAT (R369). -/
def ddStatOp (asid : Nat) (v : Word) : DdM Word := do
  let d ← ddSpace asid
  let n := 2 ^ d.nn - 1
  match v.toNat with
  | 0 => return BitVec.ofNat 64 d.alloc
  | 1 => return BitVec.ofNat 64 (← ddTally d (fun x => x.ref == 0) n 1 0)
  | 2 => return BitVec.ofNat 64 (← ddTally d (fun x => x.ref == 0xFFFF) n 1 0)
  | 3 => return BitVec.ofNat 64 (2 ^ d.nn)
  | 4 => return BitVec.ofNat 64 d.limit
  | 5 => return BitVec.ofNat 64 d.hits
  | 6 => return BitVec.ofNat 64 d.misses
  | 7 => return BitVec.ofNat 64 d.vars
  | _ => ddFail .rsvfld

/-! ## DDINIT -/

/-- The records of the nodes from i on in a fresh table: each free, the last ending the free list (R370). -/
def ddFreshNodes (d : Dds) : Nat → Nat → State → State
  | 0, _, s => s
  | n + 1, i, s =>
    let x : DdNode := { level := ddFree, ref := 0, low := 0, high := 0, chain := if n = 0 then 0 else i + 1 }
    ddFreshNodes d n (i + 1) (s.writeLe (ddKey d i) 16 x.bits)

/-- Kind and x[A] of a request in a digest (R425). -/
def QOp.digestWords : QOp → Word × Word
  | .pull => (1, 0)
  | .cell _ a _ _ => (2, a)
  | .bqtake _ a => (3, a)
  | .dd _ a _ _ => (4, a)
  | .ctl _ _ a => (4, a)

/-- Is the request a decision-diagram instruction's? -/
def QReq.isDd (r : QReq) : Bool :=
  match r.op with
  | .dd _ _ _ _ => true
  | _ => false

/-- Requests of a partition still queued are answered with DDNODE, which names their first operand (R370, R393). -/
def State.dropDdReqs (s : State) (asid : Nat) : State :=
  let rs := (s.part asid).qreqs
  let s := s.modPart asid fun p => { p with qreqs := rs.filter fun r => !r.isDd }
  (rs.filter QReq.isDd).foldl (fun s r => Ans.deliver r.uid r.dest (.cause .ddnode { d0 := r.op.digestWords.2 } s)) s

/-- The space is discarded, with its cache share (R370). -/
def State.dropDds (s : State) (asid : Nat) : State :=
  match tget s.spaces asid with
  | none => s
  | some d =>
    let s := (s.modDie d.srvdie fun e => { e with cacheBlocks := e.cacheBlocks - d.ocsh }).modPart asid fun p => { p with ddords := [] }
    { s with spaces := tdel s.spaces asid }

/-- DDINIT's descriptor p is carried out (R370). Its writes cover every granule of both tables, and so put right those that had failed (R73). -/
def ddInitWith (p : Nat) : DdM Unit := do
  let nn := fieldOf p 47 5
  let nb := fieldOf p 52 5
  let ocsh := fieldOf p 57 5
  let die := fieldOf p 62 2
  let asid := fieldOf p 64 12
  let nodeBase := fieldOf p 192 64
  let bktBase := fieldOf p 256 64
  if fieldOf p 320 192 ≠ 0 ∨ fieldOf p 76 116 ≠ 0 ∨ fieldOf p 12 35 ≠ 0 ∨ nn < 10 ∨ nb < 10 ∨ 30 < nb ∨ ocsh = 0 ∨ 16 < ocsh then ddFail .rsvfld
  let nlen := 16 * 2 ^ nn
  let blen := 4 * 2 ^ nb
  let bad := fun (a : Nat) => (ddFail .access { d0 := BitVec.ofNat 64 a } : DdM Unit)
  if nodeBase % 4096 ≠ 0 ∨ 0x6000000000 < nodeBase + nlen then bad nodeBase
  if bktBase % 4096 ≠ 0 ∨ 0x6000000000 < bktBase + blen ∨ overlap nodeBase nlen bktBase blen then bad bktBase
  let s ← get
  let own := match tget s.spaces asid with | some d => if d.srvdie = die then d.ocsh else 0 | none => 0
  if 16 < (s.die die).cacheBlocks - own + ocsh then ddFail .ddopcache
  let d : Dds := { srvdie := die, nodeBase := nodeBase, bktBase := bktBase, nn := nn, nb := nb, ocsh := ocsh, vars := fieldOf p 0 12 + 1
                   alloc := 0, limit := 2 ^ nn - 1, freeHead := 1, hits := 0, misses := 0 }
  let s := ((s.dropDds asid).dropDdReqs asid).modDie die fun e => { e with cacheBlocks := e.cacheBlocks + ocsh }
  let term : DdNode := { level := ddTerm, ref := 0xFFFF, low := 0, high := 0, chain := 0 }
  let s := (ddFreshNodes d (2 ^ nn - 1) 1 (s.writeLe (ddKey d 0) 16 term.bits)).repair (ddKey d 0) nlen
  let s := (s.zeroRange (hbmKey bktBase) blen).modPart asid fun p => { p with ddords := [] }
  set ({ s with spaces := tput s.spaces asid d } : State)

/-- DDINIT reads its descriptor from the core's scratchpad (R370). -/
def ddInitOp (core : Nat) (v : Word) : DdM Unit := do
  let off ← ddOffset v 64 64
  ddInitWith (leNat (← ddScratch core off 64))

/-! ## Serving -/

/-- FN of the decision-diagram instructions of major 0x51 (R197), and 32 for DDITE. -/
def fnDdite : Nat := 32

/-- What a served request comes to: an answer, or an element write that waits or is held. -/
inductive DdOut where
  | ans (a : Ans)
  | miss (e : EMiss) (s : State)
  /-- A DDFULL routed in a deterministic launch: the answer comes with the close at which its message is placed (R271, R443). -/
  | routed (s : State)
deriving DecidableEq, Repr

/-- The answer of an operation with an x result, of one with none. -/
def ddAnsX (m : DdM Word) (s : State) : DdOut :=
  match (m.run).run s with
  | (.ok v, s) => .ans (.x v s)
  | (.error (c, d), s) => .ans (.cause c d s)

def ddAnsU (m : DdM Unit) (s : State) : DdOut :=
  match (m.run).run s with
  | (.ok (), s) => .ans (.done s)
  | (.error (c, d), s) => .ans (.cause c d s)

/-- The operands of DDAPPLY and the two cube operations are checked before any node is created (R359). -/
def ddTwo (asid : Nat) (a b : Word) (go : Dds → Nat → Nat → DdM Nat) : DdM Word := do
  let f ← ddEdge asid a
  let g ← ddEdge asid b
  ddOwned asid (← go (← ddSpace asid) f g)

/-- Does an operation search the operation cache (R356): the recursions of R362 to R364? DDMASK, of R365, does so when its bits are found. -/
def ddCached (fn : Nat) : Bool := (1 ≤ fn && fn ≤ 3) || 16 ≤ fn

/-- Performs one request of a partition, whole (R357). For DDMASK `c` is the number of its m register. -/
def State.ddServe (s : State) (asid core uid tid thr fn : Nat) (a b c : Word) : DdOut :=
  let s := if ddCached fn then s.countCache asid else s
  if fn = 0 then
    ddAnsX (do
      let d ← ddSpace asid
      ddOrderOk asid d.vars
      if d.vars ≤ a.toNat then ddFail .ddorder
      ddOwned asid (← ddMake asid (((← get).part asid).ddLevOf d.vars a.toNat) ddFlag 0)) s
  else if fn = 1 ∨ fn = 2 then
    ddAnsX (do
      let f ← ddEdge asid a
      let g ← ddCube asid b
      ddOwned asid (← ddRestrict asid (fn == 2) ((← ddSpace asid).vars + 2) f g)) s
  else if fn = 3 then ddAnsX (ddCount asid core a b) s
  else if fn = 4 then
    let job := (s.unitCtx uid).bind Ctx.maskJob
    let s := if job.isSome then s.modUnit uid fun x => { x with maskJob := none } else s
    let run := match job with
      | some j => ddMaskWrite core asid uid tid thr j
      | none => ddMaskOp asid core uid tid thr a b c.toNat
    match (run.run).run (if job.isNone then s.countCache asid else s) with
    | (.ok (.mask v), s) => .ans (.m (BitVec.ofNat 6 c.toNat) v s)
    | (.ok .written, s) => .ans (.done s)
    | (.ok (.miss e), s) => .miss e s
    | (.error (e, d), s) => .ans (.cause e d s)
  else if fn = 5 then ddAnsU (do ddInc (← ddSpace asid) (ddId (← ddEdge asid a))) s
  else if fn = 6 then ddAnsU (ddDeref asid a) s
  else if fn = 7 then ddAnsX (ddSwapOp asid a) s
  else if fn = 8 then
    ddAnsX (do
      let d ← ddSpace asid
      return BitVec.ofNat 64 (← ddCollectFrom asid (2 ^ d.nn - 1) 1 0)) s
  else if fn = 9 then ddAnsX (ddStatOp asid a) s
  else if fn = 10 then ddAnsU (ddInitOp core a) s
  else if fn = fnDdite then
    ddAnsX (do
      let f ← ddEdge asid a
      let g ← ddEdge asid b
      let h ← ddEdge asid c
      ddOwned asid (← ddIte asid ((← ddSpace asid).vars + 2) f g h)) s
  else ddAnsX (ddTwo asid a b fun d f g => ddApply asid (fn - 16) (d.vars + 2) f g) s

/-- A DDFULL against a unit on a thread is routed where its core has a route: the destination takes the failure value once the message is placed, at once
or, in a deterministic launch, at the close of its window (R271, R359, R443). -/
def Ans.routed (uid : Nat) (dest : Reg) : Ans → DdOut
  | .cause .ddfull d s =>
    match s.findUnit uid with
    | some (i, t) =>
      match s.routeCause i t .ddfull (s.ctx i t).pc dest with
      | some s => if (s.launchOf i).deterministic then .routed s else .ans (.x 0xFFFFFFFFFFFFFFFF s)
      | none => .ans (.cause .ddfull d s)
    | none => .ans (.cause .ddfull d s)
  | a => .ans a

/-- The answer with the operand that a DDNODE names (R393): the one that a check found, or, for a node met inside a diagram and for want of a diagram space, the
first (log 7, DESIGN CHOICE). -/
def Ans.named (a : Word) : Ans → Ans
  | .cause .ddnode d s => .cause .ddnode (if d.d1 = 0 then d else { d0 := a }) s
  | r => r

/-- A kept request is performed for its unit. -/
def State.ddServeReq (s : State) (asid : Nat) (r : QReq) (fn : Nat) (a b c : Word) : DdOut :=
  match s.ddServe asid r.core r.uid (((s.unitCtx r.uid).map Ctx.tid).getD 0) r.thread fn a b c with
  | .ans x => (x.named a).routed r.uid r.dest
  | o => o

/-- A kept request's element write is held: the unit waits for its page as a held thread does, and then issues the instruction again (R41, R47). -/
def State.holdReq (s : State) (asid : Nat) (r : QReq) (e : EMiss) : State :=
  match e.m with
  | .held sp peer addr reason c =>
    let core := s.holderOf r.core
    match s.findUnit r.uid with
    | some (i, t) => if (s.thr i t).running then
        (s.park (coreDie core) asid e.kind e.va.toNat sp peer addr reason c (.thread r.uid)).2.modCtx i t fun x => { x with wait := .held, redo := none }
      else s.modUnit r.uid fun x => { x with wait := .no, maskJob := none }
    | none => s.modUnit r.uid fun x => { x with wait := .no, maskJob := none }
  | _ => s

/-- The issuing instruction's request: performed at once, or at the end of the quantum in a deterministic launch (R357, R389). It is a release
for what the thread has under way (R358). -/
def ddRequest (fn : Nat) (d : Reg) (a b c : Word) (s : State) : Res :=
  let asid := s.curK.asidN
  if s.accessesOut s.cur.uid then .stay s
  else if (s.launchOf s.curCore).deterministic then .stay ((s.empty d).sendQ d (.dd fn a b c))
  else match s.ddServeReq asid (s.curReq d (.dd fn a b c)) fn a b c with
    | .miss e t => e.m.res e.kind e.va t
    | .routed t => .stay t
    | .ans r => r.now d

def dd2 (fn : Nat) (d a b : Reg) (ma mb : Bool) (s : State) : Host.Outcome State Fault Refusal :=
  issue [(a, ma), (b, mb)] (some d) (fun s => ddRequest fn d (s.cur.xr a) (s.cur.xr b) 0 s) s

def dd1 (fn : Nat) (d a : Reg) (ma : Bool) (s : State) : Host.Outcome State Fault Refusal :=
  issue [(a, ma)] (some d) (fun s => ddRequest fn d (s.cur.xr a) 0 0 s) s

def execDdvar (d a : Reg) (ma : Bool) (s : State) : Host.Outcome State Fault Refusal := dd1 0 d a ma s
def execDdrestrict (d a b : Reg) (ma mb : Bool) (s : State) : Host.Outcome State Fault Refusal := dd2 1 d a b ma mb s
def execDdexist (d a b : Reg) (ma mb : Bool) (s : State) : Host.Outcome State Fault Refusal := dd2 2 d a b ma mb s
def execDdcount (d a b : Reg) (ma mb : Bool) (s : State) : Host.Outcome State Fault Refusal := dd2 3 d a b ma mb s

/-- DDMASK: D is an m register (R365). -/
def execDdmask (d a b : Reg) (ma mb : Bool) (s : State) : Host.Outcome State Fault Refusal :=
  issue [(a, ma), (b, mb)] none (fun s => ddRequest 4 0 (s.cur.xr a) (s.cur.xr b) (BitVec.ofNat 64 d.toNat) s) s

def execDdref (a : Reg) (ma : Bool) (s : State) : Host.Outcome State Fault Refusal :=
  issue [(a, ma)] none (fun s => ddRequest 5 0 (s.cur.xr a) 0 0 s) s
def execDdderef (a : Reg) (ma : Bool) (s : State) : Host.Outcome State Fault Refusal :=
  issue [(a, ma)] none (fun s => ddRequest 6 0 (s.cur.xr a) 0 0 s) s
def execDdswap (d a : Reg) (ma : Bool) (s : State) : Host.Outcome State Fault Refusal := dd1 7 d a ma s
def execDdcollect (d : Reg) (s : State) : Host.Outcome State Fault Refusal :=
  issue [] (some d) (fun s => ddRequest 8 d 0 0 0 s) s
def execDdstat (d a : Reg) (ma : Bool) (s : State) : Host.Outcome State Fault Refusal := dd1 9 d a ma s

/-- DDINIT is privileged (R360). -/
def execDdinit (a : Reg) (ma : Bool) (s : State) : Host.Outcome State Fault Refusal :=
  if !(s.launchOf s.curCore).privileged then .next (s.trap .priv)
  else issue [(a, ma)] none (fun s => ddRequest 10 0 (s.cur.xr a) 0 0 s) s

def execDdapply (d a b : Reg) (op : BitVec 4) (ma mb : Bool) (s : State) : Host.Outcome State Fault Refusal := dd2 (16 + op.toNat) d a b ma mb s
def execDdite (d a b c : Reg) (mq : Bool) (s : State) : Host.Outcome State Fault Refusal :=
  issue [(a, mq), (b, mq), (c, mq)] (some d) (fun s => ddRequest fnDdite d (s.cur.xr a) (s.cur.xr b) (s.cur.xr c) s) s

end Sys2Proof.Machine
end

