-- ==== Sys2Proof/Machine/Sched.lean ====
section
/-! DEFINITION. The dispatcher of a partition: user queues and their control blocks (R374), kicks (R377, R378), the mappings that the firmware
decides (R379, R380), selection (R381 to R386), and the hardware task queue (R387). -/

namespace Sys2Proof.Machine

/-! ## Queue control blocks and slots -/

/-- Word i of a queue control block (R374). -/
def State.qcbWord (s : State) (qcb i : Nat) : Word := BitVec.ofNat 64 (s.readLe (hbmKey (qcb + 8 * i)) 8)

/-- The block with bits [lo + n - 1 : lo] of word i replaced. -/
def State.qcbPut (s : State) (qcb i lo n v : Nat) : State := s.writeLe (hbmKey (qcb + 8 * i)) 8 (wput (s.qcbWord qcb i) lo n v).toNat

/-- Fields of a block. -/
def State.qcbHead (s : State) (qcb : Nat) : Nat := wfield (s.qcbWord qcb 1) 0 32
def State.qcbTail (s : State) (qcb : Nat) : Nat := wfield (s.qcbWord qcb 1) 32 32
def State.qcbDone (s : State) (qcb : Nat) : Nat := wfield (s.qcbWord qcb 2) 32 32
def State.qcbV (s : State) (qcb : Nat) : Bool := wfield (s.qcbWord qcb 3) 32 1 == 1
def State.qcbPend (s : State) (qcb : Nat) : Bool := wfield (s.qcbWord qcb 3) 33 1 == 1
def State.qcbLogsz (s : State) (qcb : Nat) : Nat := wfield (s.qcbWord qcb 3) 39 5
def State.qcbBpri (s : State) (qcb : Nat) : Nat := wfield (s.qcbWord qcb 3) 48 4
def State.qcbQid (s : State) (qcb : Nat) : Nat := wfield (s.qcbWord qcb 3) 52 12

/-- Hardware queue slot i of a partition. -/
def State.hqs (s : State) (asid i : Nat) : Hqs := vget (s.part asid).sched.slots i Hqs.reset

/-- Does a QCB that a running launch's firmware keeps hold the word at a device physical address? -/
def State.inQcb (s : State) (pa : Nat) : Bool := s.parts.any fun p => p.2.sched.queues.any fun u => decide (u.qcb ≤ pa) && decide (pa < u.qcb + 64)

/-- Word i of a QCB after a store of the bits `m` of v: a field marked RO keeps its value, one marked W1C is cleared by a 1, and the reserved ones are
zero (R12, R374). -/
def qcbStore (i : Nat) (old v m : Word) : Word :=
  match i with
  | 0 => (old &&& ~~~m) ||| (v &&& m)
  | 1 => old
  | 2 => old
  | 3 => CtlOp.apply .write (0xFFFF0F8100000000 &&& m) 0x0000000A00000000 old (v &&& m)
  | _ => 0

/-- A system core stores n bytes, which lie in one word of a QCB, at a device physical address (R374). -/
def State.storeQcb (s : State) (pa n : Nat) (v : Word) : State :=
  let w := pa / 8 * 8
  let sh := 8 * (pa % 8)
  let m : Word := BitVec.ofNat 64 ((2 ^ (8 * n) - 1) * 2 ^ sh)
  let old := BitVec.ofNat 64 (s.readLe (hbmKey w) 8)
  s.writeLe (hbmKey w) 8 (qcbStore (pa % 64 / 8) old (BitVec.ofNat 64 (v.toNat * 2 ^ sh)) m).toNat

def State.modHqs (s : State) (asid i : Nat) (f : Hqs → Hqs) : State :=
  s.modSched asid fun q => { q with slots := vset q.slots i (f (vget q.slots i Hqs.reset)) }

/-- Slots that hold a queue. -/
def State.mappedSlots (s : State) (asid : Nat) : List Nat := (upTo 16).filter fun i => (s.hqs asid i).v

/-- The slot that a queue occupies. -/
def State.slotOfQcb (s : State) (asid qcb : Nat) : Option Nat := (s.mappedSlots asid).find? fun i => (s.hqs asid i).qcb == qcb

/-- NSLOT and RLIM (R376). -/
def Sched.nslot (q : Sched) : Nat := let n := wfield q.schcfg 0 5; if n = 0 ∨ 16 < n then 16 else n
def Sched.rlim (q : Sched) : Nat := let n := wfield q.schcfg 16 6; if n = 0 then 64 else n

/-- May the dispatcher work: is the launch neither stopping nor frozen? -/
def Partition.active (p : Partition) : Bool := !p.stopping && !p.frozen

/-! ## Heads -/

/-- Words of a launch descriptor (R375). -/
abbrev Descr := List Word

/-- Address of the descriptor at a slot's head (R374). -/
def Hqs.headAt (h : Hqs) : Nat := h.ring + 64 * (h.head % 2 ^ h.logsz)

/-- The descriptor at a device physical address; one that an uncorrectable error touches reads as zeros with a reserved bit, so it is malformed
(log 26). -/
def State.descrAt (s : State) (a : Nat) : Descr :=
  if (s.badIn (hbmKey a) 64).isSome then [0, 1, 0, 0, 0, 0, 0, 0] else (upTo 8).map fun i => BitVec.ofNat 64 (s.readLe (hbmKey (a + 8 * i)) 8)

/-- Is it an address that DEP or SIG may hold (R375)? -/
def counterOk (w : Word) : Bool := w == 0 || (w.toNat % 8 == 0 && decide (1 ≤ wfield w 60 4) && decide (wfield w 60 4 ≤ 4))

/-- Is a descriptor malformed (R375)? -/
def Launch.malformed (l : Launch) (d : Descr) : Bool :=
  let w1 := nth 0 d 1
  let place := wfield w1 32 16
  (nth 0 d 0).toNat % 4 != 0 || wfield w1 0 32 != 0 || wfield w1 58 6 != 0 || decide (l.widest < wfield w1 52 4) ||
  (place != 0xFFFF && (tget l.lcores place).isNone) || !counterOk (nth 0 d 2) || !counterOk (nth 0 d 3)

/-- What a slot's head waits for: nothing, a counter at a key, or a counter that cannot be reached now. -/
inductive HeadPlan where
  | none | ready | dep (key : Nat) | stuck
deriving DecidableEq, Repr

/-- The plan for the head of slot i (R381): a head whose DEP is a counter waits for it, be the descriptor malformed otherwise. -/
def State.headPlan (s : State) (asid i : Nat) : HeadPlan :=
  let h := s.hqs asid i
  if !h.v ∨ h.head = h.tail then .none
  else
    let dep := nth 0 (s.descrAt h.headAt) 2
    if dep = 0 ∨ !counterOk dep then .ready
    else match s.check (systemAgent asid) .load 8 8 dep with
      | .ok (.mem k) => if s.readLe k 8 = 0 then .ready else .dep k
      | _ => .stuck

/-- Weak granules of the head's counter, and of the tables that lead to it, are corrected where it is read (R72). -/
def State.depRead (s : State) (asid i : Nat) : State :=
  if s.weak.isEmpty then s
  else
    let dep := nth 0 (s.descrAt (s.hqs asid i).headAt) 2
    match (if dep = 0 ∨ !counterOk dep then none else some (s.check (systemAgent asid) .load 8 8 dep)) with
    | some (.ok (.mem k)) => (s.walked asid dep 8).correct k 8
    | _ => s

/-- The head's wait starts, or its counter is registered at its home ATE (R381). A head whose counter cannot be reached is tried again. -/
def State.refreshHead (s : State) (asid i : Nat) : State :=
  let h := s.hqs asid i
  if h.depw ∨ h.readySince.isSome then s
  else match s.headPlan asid i with
    | .ready => (s.depRead asid i).headReady asid i
    | .dep k =>
      ((s.depRead asid i).modBay (homeBay k) fun b => { b with ate := { b.ate with deps := b.ate.deps ++ [(k, asid, i)] } }).modHqs asid i fun h => { h with depw := true }
    | _ => s

/-- Would a refresh of the head do something? -/
def State.headStale (s : State) (asid i : Nat) : Bool :=
  let h := s.hqs asid i
  !h.depw && h.readySince.isNone && (match s.headPlan asid i with | .ready => true | .dep _ => true | _ => false)

/-- Every head that is not registered is tried (R381). -/
def State.refreshHeads (s : State) (asid : Nat) : State := (upTo 16).foldl (fun s i => s.refreshHead asid i) s

/-- The registration of a slot's head is cancelled (R379). -/
def State.cancelDep (s : State) (asid i : Nat) : State :=
  { s with bays := tmap s.bays fun _ (b : Bay) => { b with ate := { b.ate with deps := b.ate.deps.filter fun d => d.2 ≠ (asid, i) } } }

/-! ## What the firmware decides -/

/-- Pending queues in the order in which they are served: descending BPRI, then ascending QID (R380). -/
def State.pendingQs (s : State) (asid : Nat) : List UserQ :=
  sortLex (fun (u : UserQ) => [15 - s.qcbBpri u.qcb, u.qid])
    ((s.part asid).sched.queues.filter fun u => u.pendSince.isSome && s.qcbV u.qcb && (s.slotOfQcb asid u.qcb).isNone)

/-- Effective priority of slot i now (R382). -/
def State.slotEp (s : State) (asid i : Nat) : Nat := (s.hqs asid i).ep (s.part asid).sched.agep (s.ageClock asid)

/-- BPRI plus the ageing of a pending queue (R380 rule 3). -/
def State.agedPri (s : State) (asid : Nat) (u : UserQ) : Nat :=
  let a := (s.part asid).sched.agep
  s.qcbBpri u.qcb + (if a = 0 then 0 else (s.ageClock asid - u.pendSince.getD 0) / a)

/-- The slot that the firmware gives to a pending queue, and whether its queue must leave it first (R380 rules 1 to 3). -/
def State.firmwareSlot (s : State) (asid : Nat) (first : Bool) (u : UserQ) : Option (Nat × Bool) :=
  let inUse := (upTo (s.part asid).sched.nslot)
  let taken := inUse.filter fun i => (s.hqs asid i).v
  match inUse.find? fun i => !(s.hqs asid i).v with
  | some i => if first then some (i, false) else none
  | none =>
    match argMin (fun i => 16 * (s.hqs asid i).idleSince + (15 - i)) (taken.filter fun i => (s.hqs asid i).readySince.isNone) with
    | some i => if first then some (i, true) else none
    | none =>
      match argMin (fun i => 16 * s.slotEp asid i + (15 - i)) taken with
      | some i => if s.slotEp asid i < s.agedPri asid u then some (i, true) else none
      | none => none

/-- The commands of one decision of the firmware (R380): those that map the first pending queue that can be. -/
def State.firmware (s : State) (asid : Nat) : List Event :=
  match (s.pendingQs asid) with
  | [] => []
  | u :: rest =>
    let all := (u, true) :: rest.map fun r => (r, false)
    match all.findSome? fun r => (s.firmwareSlot asid r.2 r.1).map fun p => (r.1, p) with
    | some (q, i, full) => (if full then [.queueUnmap asid i] else []) ++ [.queueMap asid i q.qcb]
    | none => []

/-- Does the event map a queue of the partition? -/
def Event.mapsIn (e : Event) (asid : Nat) : Bool := match e with | .queueMap a _ _ => a == asid | _ => false

/-- The firmware decides at a wake or a selection (R380). While a mapping that it has decided is still to be made it decides nothing more: it looks again once
that stands. -/
def State.wakeFirmware (s : State) (asid : Nat) : State := if s.agenda.any fun e => e.mapsIn asid then s else s.post (s.firmware asid)

/-- A queue is mapped into a slot (R379); the firmware then looks at what is still pending. -/
def execQueueMap (asid slot qcb : Nat) (s : State) : Host.Outcome State Fault Refusal :=
  .next (
    if !s.running asid then s
    else if 16 ≤ slot ∨ (s.hqs asid slot).v ∨ !s.qcbV qcb ∨ (s.slotOfQcb asid qcb).isSome then s.wakeFirmware asid
    else
      let h : Hqs :=
        { v := true, qcb := qcb, qid := s.qcbQid qcb, bpri := s.qcbBpri qcb, logsz := s.qcbLogsz qcb, ring := (s.qcbWord qcb 0).toNat
          head := s.qcbHead qcb, tail := s.qcbTail qcb, done := s.qcbDone qcb, depw := false, readySince := none, idleSince := s.ageClock asid }
      let s := (s.qcbPut qcb 3 33 1 0).qcbPut qcb 3 34 1 1
      let s := (s.modHqs asid slot fun _ => h).modSched asid fun q =>
        { q with queues := q.queues.map fun (u : UserQ) => if u.qcb = qcb then { u with pendSince := none } else u }
      (s.refreshHead asid slot).wakeFirmware asid)

/-- A queue leaves its slot (R379): its entries already selected stay in the task queue. -/
def execQueueUnmap (asid slot : Nat) (s : State) : Host.Outcome State Fault Refusal :=
  let h := s.hqs asid slot
  .next (
    if !s.running asid ∨ 16 ≤ slot ∨ !h.v then s
    else
      let s := ((s.qcbPut h.qcb 1 0 32 h.head).qcbPut h.qcb 1 32 32 h.tail).qcbPut h.qcb 2 32 32 h.done
      let s := (s.qcbPut h.qcb 3 48 4 h.bpri).qcbPut h.qcb 3 34 1 0
      (s.cancelDep asid slot).modHqs asid slot fun _ => Hqs.reset)

/-! ## Kicks -/

/-- Is a kick malformed (R377)? -/
def badKick (head tail logsz new : Nat) : Bool :=
  decide (2 ^ logsz < (new + 2 ^ 32 - head) % 2 ^ 32) || decide (2 ^ 31 ≤ (new + 2 ^ 32 - tail) % 2 ^ 32)

/-- PEND becomes 1: the queue class is raised on the die of LCORE 0, and the firmware decides (R378, R380). -/
def State.pendQueue (s : State) (asid : Nat) (u : UserQ) : State :=
  if s.qcbPend u.qcb then s
  else
    let now := s.ageClock asid
    let s := (s.qcbPut u.qcb 3 33 1 1).modSched asid fun q =>
      { q with queues := q.queues.map fun (v : UserQ) => if v.qcb = u.qcb then { v with pendSince := some now } else v }
    (s.raiseIrq (coreDie ((s.lcoreCore asid 0).getD 0)) 20).wakeFirmware asid

/-- A kick reaches the dispatcher (R377, R378). -/
def State.applyKick (s : State) (asid qid tail : Nat) : State :=
  let new := tail % 2 ^ 32
  match (s.part asid).sched.queues.find? fun u => u.qid == qid with
  | none => s
  | some u =>
    match s.slotOfQcb asid u.qcb with
    | some i =>
      let h := s.hqs asid i
      if new = h.tail then s
      else if badKick h.head h.tail h.logsz new then s.qcbPut u.qcb 3 35 1 1
      else (s.modHqs asid i fun h => { h with tail := new }).refreshHead asid i
    | none =>
      if !s.qcbV u.qcb ∨ new = s.qcbTail u.qcb then s
      else if badKick (s.qcbHead u.qcb) (s.qcbTail u.qcb) (s.qcbLogsz u.qcb) new then s.qcbPut u.qcb 3 35 1 1
      else (s.qcbPut u.qcb 1 32 32 new).pendQueue asid u

/-- A kick (R377): in a deterministic launch it waits for the end of the quantum (R391). -/
def execKick (asid qid tail : Nat) (s : State) : Host.Outcome State Fault Refusal :=
  .next (
    if !s.running asid ∨ !(s.part asid).active then s
    else if (s.part asid).launch.deterministic then s.modSched asid fun q => { q with kicks := q.kicks ++ [(qid, tail)] }
    else s.applyKick asid qid tail)

/-! ## Selection -/

/-- The slot to select from (R383): the largest EP, the earliest start of waiting, the lowest number. -/
def State.selectSlot (s : State) (asid : Nat) : Option Nat :=
  let q := (s.part asid).sched
  if q.rlim ≤ (q.taskq.filter fun e => e.root).length ∨ 1024 ≤ q.taskq.length then none
  else
    (sortLex (fun i => [15 - s.slotEp asid i, ((s.hqs asid i).readySince).getD 0, i])
      ((upTo q.nslot).filter fun i => (s.hqs asid i).v && (s.hqs asid i).readySince.isSome)).head?

/-- The root of a descriptor (R385). -/
def rootPeg (d : Descr) (at_ tid : Nat) (now : Word) : Peg where
  w := #v[nth 0 d 0, pack [(48, 16, wfield (nth 0 d 1) 48 16), (0, 48, tid)], BitVec.ofNat 64 (0x7000300000000000 + at_ + 32), nth 0 d 6, nth 0 d 7,
    BitVec.ofNat 64 at_, 0, 0]
  enqt := now
  enqLcore := 0
  stolen := false

/-- An entry of the hardware task queue (R387). -/
def State.queueRoot (s : State) (asid : Nat) (p : Peg) : State :=
  let (age, s) := s.newAge
  s.modSched asid fun q => { q with taskq := q.taskq ++ [{ age := age, root := true, peg := p }] }

/-- The root is bound to the core its PLACE names, or enters the hardware task queue (R386). -/
def State.placeRoot (s : State) (asid place : Nat) (p : Peg) : State :=
  match s.lcoreCore asid place with
  | some c => s.readyItem (s.holderOf c) p.enqt (.peg p)
  | none => s.queueRoot asid p

/-- The status of a malformed descriptor (R385). -/
def malformedStatus : Word := 0xFF00000100000000

/-- The head of slot i is selected (R383, R385, R388); the firmware decides anew (R380). -/
def State.selectHead (s : State) (asid i : Nat) : State :=
  let h := s.hqs asid i
  let a := h.headAt
  let d := s.descrAt a
  let l := (s.part asid).launch
  let n := (s.part asid).sched.rootCount
  let s := match s.badIn (hbmKey a) 64 with
    | some g => s.logUncorrectable g false
    | none => s
  let root : Root := { loc := hbmKey (a + 32), qid := h.qid, index := h.head, qcb := h.qcb, sig := if counterOk (nth 0 d 3) then nth 0 d 3 else 0 }
  let now := s.ageClock asid
  let next := fun (s : State) =>
    let s := (s.modHqs asid i fun h => { h with head := (h.head + 1) % 2 ^ 32, readySince := none, idleSince := now }).modSched asid fun q =>
      { q with lastSel := some s.cycle }
    (s.refreshHead asid i).wakeFirmware asid
  if l.malformed d ∨ 2 ^ 32 ≤ n then
    next (((s.writeLe root.loc 8 0).writeLe (root.loc + 8) 8 malformedStatus.toNat).complete asid root malformedStatus)
  else
    let s := (s.writeLe root.loc 8 1).writeLe (root.loc + 8) 8 0
    let s := s.modSched asid fun q => { q with roots := q.roots ++ [root], rootCount := n + 1 }
    next (s.placeRoot asid (wfield (nth 0 d 1) 32 16) (rootPeg d a (l.idBase + 0xFFFF * 2 ^ 32 + n) s.pkg.gmCount))

/-- Have 16 cycles passed since the last selection (R383)? -/
def State.selectTime (s : State) (asid : Nat) : Bool :=
  match (s.part asid).sched.lastSel with
  | some t => decide (t + 16 ≤ s.cycle)
  | none => true

/-- One selection (R383). In a deterministic launch selections are made at ends of quantum (R391). -/
def execDispatchSelection (asid : Nat) (s : State) : Host.Outcome State Fault Refusal :=
  .next (
    if !s.running asid ∨ !(s.part asid).active ∨ (s.part asid).launch.deterministic then s
    else
      let s := s.refreshHeads asid
      match s.selectSlot asid with
      | some i => if s.selectTime asid then s.selectHead asid i else s
      | none => s)

/-! ## The hardware task queue -/

/-- The first entry: the highest peg priority, then the oldest (R387). -/
def Sched.firstTask (q : Sched) : Option TaskEntry := (sortLex (fun (e : TaskEntry) => [15 - e.peg.pri, e.age]) q.taskq).head?

/-- The pull of a core takes the first entry, which enters that core's ready queue (R387). -/
def State.servePull (s : State) (asid core : Nat) : State :=
  match (s.part asid).sched.firstTask with
  | none => s
  | some e =>
    (s.modSched asid fun q => { q with taskq := q.taskq.filter fun f => f.age ≠ e.age, pulls := q.pulls.filter fun p => p.1 ≠ core }).readyItem
      (s.holderOf core) e.peg.enqt (.peg e.peg)

/-- The oldest pull is served (R387). In a deterministic launch pulls are served at ends of quantum (R389). -/
def execTaskQueuePull (asid : Nat) (s : State) : Host.Outcome State Fault Refusal :=
  .next (
    if !s.running asid ∨ !(s.part asid).active ∨ (s.part asid).launch.deterministic then s
    else match (s.part asid).sched.pulls with
      | (c, _) :: _ => s.servePull asid c
      | [] => s)

/-- Steps due at the dispatchers. -/
def State.dueSched (s : State) : List Event :=
  s.parts.flatMap fun (a, p) =>
    if !p.active || p.launch.deterministic then []
    else
      (if ((s.selectSlot a).isSome && s.selectTime a) || (upTo 16).any fun i => s.headStale a i then [.dispatchSelection a] else []) ++
      (if !p.sched.pulls.isEmpty && !p.sched.taskq.isEmpty then [.taskQueuePull a] else [])

end Sys2Proof.Machine
end

