-- ==== Sys2Proof/Machine/Debug.lean ====
section
/-! DEFINITION. The monitors and the trace ring (R421, R424), the patrol scrubber (R74), the writes of registers by system software (R12, R39), and
the accesses of a system core (R30, R38, R48). -/

namespace Sys2Proof.Machine

/-! ## Monitors and trace -/

/-- Edge n of a monitor (R424): edge 4j + i lies in bits [16i+15:16i] of MONEDGE j. -/
def Monitor.edge (m : Monitor) (n : Nat) : Nat := wfield (vget m.edges (n / 4) 0) (16 * (n % 4)) 16

/-- The bin of a sample (R424): 0 below edge 0; i from edge i - 1 to below edge i; 15 otherwise. -/
def Monitor.bin (m : Monitor) (v : Nat) : Nat :=
  if v < m.edge 0 then 0
  else (((upTo 15).drop 1).find? fun i => decide (m.edge (i - 1) ≤ v) && decide (v < m.edge i)).getD 15

/-- A sample, saturated to 16 bits, is counted (R424). -/
def Monitor.sample (m : Monitor) (value : Nat) : Monitor :=
  let v := satN 16 value
  let m := m.counted v (m.bin v)
  { m with now := m.now ++ [(v, m.bin v)] }

/-- Changes a partition's debug block. -/
def State.modDebug (s : State) (asid : Nat) (f : Debug → Debug) : State := s.modPart asid fun p => { p with dbg := f p.dbg }

/-- Changes one of its monitors. -/
def State.modMonitor (s : State) (asid mon : Nat) (f : Monitor → Monitor) : State :=
  s.modDebug asid fun g => { g with mons := vset g.mons mon (f (vget g.mons mon Monitor.reset)) }

/-- A sample of a monitor's source (R423, R424): taken while EN is 1 and SRC names a source. -/
def execMonitorSample (asid mon value : Nat) (s : State) : Host.Outcome State Fault Refusal :=
  .next (s.modMonitor asid mon fun m => if wfield m.cfg 63 1 = 1 ∧ wfield m.cfg 59 4 < 8 then m.sample value else m)

/-- A write of 1 to MONCFG.CLR (R423). -/
def execMonitorClr (asid mon : Nat) (s : State) : Host.Outcome State Fault Refusal :=
  .next (s.modMonitor asid mon fun m => m.putCfg (m.cfg ||| 1))

/-- A write of TRCCFG (R421). -/
def execTrccfgWrite (asid : Nat) (value : BitVec 64) (s : State) : Host.Outcome State Fault Refusal := .next (s.modDebug asid fun g => g.putTrc value)

/-! ## The scrubber and the error log -/

/-- The patrol scrubber of a die reads a granule of that die (R72 to R75). -/
def execScrubRead (die granule : Nat) (s : State) : Host.Outcome State Fault Refusal :=
  let g := s.granuleOf granule
  .next (
    if keyDie g ≠ die then s
    else if s.bad.contains g then s.logUncorrectable g true
    else s.correct g (s.granuleSize g))

/-- A write of 1 to ECCSTAT.CLR (R75). -/
def execEccstatClr (die : Nat) (s : State) : Host.Outcome State Fault Refusal := .next (s.modDie die fun d => { d with eccstat := eccstatPut d.eccstat 2 })

/-- A write of 1 to APXCTL.CLR (R227, R228). -/
def execApxmonClr (core : Nat) (s : State) : Host.Outcome State Fault Refusal := .next (s.modCore core fun k => { k with apxmon := Apxmon.reset })

/-! ## Writes of registers by system software -/

/-- The state after a write that its register's map may refuse, or on which an instruction would wait: both leave it as it is (R39). -/
def CtlPut.orElse (r : CtlPut) (s : State) : State :=
  match r with
  | .done t => t
  | .cause _ => s
  | .wait => s

def execDqcfgWrite (core : Nat) (value : BitVec 64) (s : State) : Host.Outcome State Fault Refusal :=
  .next ((s.ctlPut true core 0 0x042 .write value).orElse s)

def execMbcfgWrite (core : Nat) (value : BitVec 64) (s : State) : Host.Outcome State Fault Refusal :=
  .next ((s.ctlPut true core 0 0x043 .write value).orElse s)

def execRfcfgWrite (core : Nat) (value : BitVec 64) (s : State) : Host.Outcome State Fault Refusal :=
  .next ((s.ctlPut true core 0 0x044 .write value).orElse s)

/-- DDORDn of a partition's DDE (R352). -/
def execDdordWrite (asid n : Nat) (value : BitVec 64) (s : State) : Host.Outcome State Fault Refusal :=
  .next (if n < 1024 ∧ s.running asid then (s.ddordPut asid n .write value).orElse s else s)

/-- DDLIM of a partition's DDE (R353). -/
def execDdlimWrite (asid : Nat) (value : BitVec 64) (s : State) : Host.Outcome State Fault Refusal := .next (s.ddlimPut asid .write value)

/-- Does an address name an 8-byte word of the system window's registers (R38, R39)? -/
def isWindowWord (addr : Nat) : Bool :=
  fieldOf addr 60 4 == 7 && fieldOf addr 48 12 == 0 && decide (fieldOf addr 44 4 < 7) && fieldOf addr 44 4 != 3 && addr % 8 == 0

/-- System software writes a register, which takes effect field by field (R12, R39). -/
def execRegisterWrite (addr value : BitVec 64) (s : State) : Host.Outcome State Fault Refusal :=
  .next (if isWindowWord addr.toNat then s.winWrite addr.toNat value else s)

/-! ## System cores -/

/-- Sets what the last load of a system core returned. -/
def State.sysLoaded (s : State) (sc : Nat) (v : Word) : State :=
  s.modPkg fun p => { p with sysCores := vset p.sysCores sc { vget p.sysCores sc SysCore.reset with loaded := v } }

/-- A system core's load or store of device memory: never translated and never held (R30, R48). One that meets an uncorrectable error is not
performed, and is logged (R73); one to a line that an ATE holds is forwarded to it (R69); a queue's control block keeps its access codes (R374). -/
def State.sysMem (s : State) (sc : Nat) (write : Bool) (k size : Nat) (value : Word) : State :=
  match (if write then s.badPartly k size else s.badIn k size) with
  | some _ => s.logRange k size
  | none =>
    let pa := k - hbmKey 0
    if write && s.inQcb pa then s.storeQcb pa size value
    else if s.lineHeld k then s.ateSend (ateRankOther 0 sc) (.sys k size write value sc)
    else if write then s.writeLe k size value.toNat
    else (s.sysLoaded sc (BitVec.ofNat 64 (s.readLe k size))).correct k size

/-- A load or store of a system core through the system window (R30, R38, R39, R48). One that R40 stops is not performed: a narrow one to a register too,
where an address that names none reads zero. -/
def execSystemCoreAccess (sc : Nat) (write : Bool) (addr : BitVec 64) (size : Nat) (value : BitVec 64) (s : State) : Host.Outcome State Fault Refusal :=
  let a := addr.toNat
  .next (
    if 8 ≤ sc ∨ !([1, 2, 4, 8].contains size) ∨ a % size ≠ 0 then s
    else if isWindowWord (a / 8 * 8) then
      if size ≠ 8 then (if write ∨ winNamed (a / 8 * 8) then s else s.sysLoaded sc 0)
      else if write then s.winWrite a value else (s.sysLoaded sc (s.winRead a)).afterWinRead a
    else if fieldOf a 44 20 = 0x70003 ∧ fieldOf a 40 4 = 0 ∧ fieldOf a 0 40 + size ≤ 0x6000000000 then
      s.sysMem sc write (hbmKey (fieldOf a 0 40)) size value
    else s)

end Sys2Proof.Machine
end

