-- ==== Sys2Proof/Machine/Integer.lean ====
section
/-! DEFINITION. Integer, logic, bit-field and address-forming instructions (R232 to R237). -/

namespace Sys2Proof.Machine

/-- SLL, SRL and SRA take the amount from bits [5:0] (R232). -/
def amount (b : Word) : Nat := wfield b 0 6

def sll (a b : Word) : Word := a <<< amount b
def srl (a b : Word) : Word := a >>> amount b
def sra (a b : Word) : Word := a.sshiftRight (amount b)

/-- 1 or 0. -/
def flagWord (b : Bool) : Word := if b then 1 else 0

/-- Bits [127:64] of the signed product (R232). -/
def mulh (a b : Word) : Word := BitVec.ofInt 64 ((a.toInt * b.toInt) / 2 ^ 64)

/-- Bits [127:64] of the unsigned product. -/
def mulhu (a b : Word) : Word := BitVec.ofNat 64 (a.toNat * b.toNat / 2 ^ 64)

/-- Leading zero bits, 0 to 64. -/
def clz (a : Word) : Word := BitVec.ofNat 64 (((upTo 64).find? fun i => a.getLsbD (63 - i)).getD 64)

/-- Trailing zero bits, 0 to 64. -/
def ctz (a : Word) : Word := BitVec.ofNat 64 (((upTo 64).find? fun i => a.getLsbD i).getD 64)

/-- One bits. -/
def popc (a : Word) : Word := BitVec.ofNat 64 ((upTo 64).filter fun i => a.getLsbD i).length

/-- Quotient rounded toward zero; -2^63 / -1 wraps to -2^63 (R233). -/
def divS (a b : Word) : Word := BitVec.ofInt 64 (a.toInt.tdiv b.toInt)

/-- Remainder with the sign of the dividend (R233). -/
def remS (a b : Word) : Word := BitVec.ofInt 64 (a.toInt.tmod b.toInt)

def divU (a b : Word) : Word := BitVec.ofNat 64 (a.toNat / b.toNat)
def remU (a b : Word) : Word := BitVec.ofNat 64 (a.toNat % b.toNat)

/-- A division: INTDZ for a zero divisor once both sources are full, else the destination is empty until the result is written
(R233, R193). -/
def divide (f : Word → Word → Word) (d a b : Reg) (ma mb : Bool) (s : State) : Host.Outcome State Fault Refusal :=
  issue [(a, ma), (b, mb)] (some d) (fun s =>
    if s.cur.xr b = 0 then .trap .intdz {} s else .retire (s.produce d (f (s.cur.xr a) (s.cur.xr b)))) s

def execAdd (d a b : Reg) (ma mb : Bool) (s : State) : Host.Outcome State Fault Refusal := opRR (· + ·) d a b ma mb s
def execSub (d a b : Reg) (ma mb : Bool) (s : State) : Host.Outcome State Fault Refusal := opRR (· - ·) d a b ma mb s
def execAnd (d a b : Reg) (ma mb : Bool) (s : State) : Host.Outcome State Fault Refusal := opRR (· &&& ·) d a b ma mb s
def execOr (d a b : Reg) (ma mb : Bool) (s : State) : Host.Outcome State Fault Refusal := opRR (· ||| ·) d a b ma mb s
def execXor (d a b : Reg) (ma mb : Bool) (s : State) : Host.Outcome State Fault Refusal := opRR (· ^^^ ·) d a b ma mb s
def execSll (d a b : Reg) (ma mb : Bool) (s : State) : Host.Outcome State Fault Refusal := opRR sll d a b ma mb s
def execSrl (d a b : Reg) (ma mb : Bool) (s : State) : Host.Outcome State Fault Refusal := opRR srl d a b ma mb s
def execSra (d a b : Reg) (ma mb : Bool) (s : State) : Host.Outcome State Fault Refusal := opRR sra d a b ma mb s
def execMin (d a b : Reg) (ma mb : Bool) (s : State) : Host.Outcome State Fault Refusal :=
  opRR (fun x y => if y.slt x then y else x) d a b ma mb s
def execMax (d a b : Reg) (ma mb : Bool) (s : State) : Host.Outcome State Fault Refusal :=
  opRR (fun x y => if x.slt y then y else x) d a b ma mb s
def execMinu (d a b : Reg) (ma mb : Bool) (s : State) : Host.Outcome State Fault Refusal :=
  opRR (fun x y => if y.ult x then y else x) d a b ma mb s
def execMaxu (d a b : Reg) (ma mb : Bool) (s : State) : Host.Outcome State Fault Refusal :=
  opRR (fun x y => if x.ult y then y else x) d a b ma mb s
def execSlt (d a b : Reg) (ma mb : Bool) (s : State) : Host.Outcome State Fault Refusal :=
  opRR (fun x y => flagWord (x.slt y)) d a b ma mb s
def execSltu (d a b : Reg) (ma mb : Bool) (s : State) : Host.Outcome State Fault Refusal :=
  opRR (fun x y => flagWord (x.ult y)) d a b ma mb s
def execSeq (d a b : Reg) (ma mb : Bool) (s : State) : Host.Outcome State Fault Refusal :=
  opRR (fun x y => flagWord (x == y)) d a b ma mb s
def execSne (d a b : Reg) (ma mb : Bool) (s : State) : Host.Outcome State Fault Refusal :=
  opRR (fun x y => flagWord (x != y)) d a b ma mb s
def execMul (d a b : Reg) (ma mb : Bool) (s : State) : Host.Outcome State Fault Refusal := opRR (· * ·) d a b ma mb s
def execMulh (d a b : Reg) (ma mb : Bool) (s : State) : Host.Outcome State Fault Refusal := opRR mulh d a b ma mb s
def execMulhu (d a b : Reg) (ma mb : Bool) (s : State) : Host.Outcome State Fault Refusal := opRR mulhu d a b ma mb s
def execDiv (d a b : Reg) (ma mb : Bool) (s : State) : Host.Outcome State Fault Refusal := divide divS d a b ma mb s
def execDivu (d a b : Reg) (ma mb : Bool) (s : State) : Host.Outcome State Fault Refusal := divide divU d a b ma mb s
def execRem (d a b : Reg) (ma mb : Bool) (s : State) : Host.Outcome State Fault Refusal := divide remS d a b ma mb s
def execRemu (d a b : Reg) (ma mb : Bool) (s : State) : Host.Outcome State Fault Refusal := divide remU d a b ma mb s
def execClz (d a : Reg) (ma : Bool) (s : State) : Host.Outcome State Fault Refusal := opR clz d a ma s
def execCtz (d a : Reg) (ma : Bool) (s : State) : Host.Outcome State Fault Refusal := opR ctz d a ma s
def execPopc (d a : Reg) (ma : Bool) (s : State) : Host.Outcome State Fault Refusal := opR popc d a ma s

/-- Is the coordinate word free of set zero bits, with its row in the mesh, and the offset in the scratchpad (R235)? -/
def mkgaOk (a b : Word) : Bool :=
  wfield a 18 46 == 0 && wfield a 14 2 == 0 && wfield a 5 3 == 0 && decide (wfield a 8 6 ≤ 35) && decide (b.toNat < 2 ^ 17)

/-- The global address of MKGA (R235). -/
def mkgaAddr (a b : Word) : Word :=
  BitVec.ofNat 64 (0x1000000000000000 + wfield a 16 2 * 2 ^ 32 + wfield a 8 6 * 2 ^ 26 + wfield a 0 5 * 2 ^ 21 + b.toNat)

/-- MKGA (R235). Its ACCESS has no address and no size of an access: D0 holds the coordinate word and D1 zero (log 7, DESIGN CHOICE). -/
def execMkga (d a b : Reg) (ma mb : Bool) (s : State) : Host.Outcome State Fault Refusal :=
  issue [(a, ma), (b, mb)] (some d) (fun s =>
    if mkgaOk (s.cur.xr a) (s.cur.xr b) then setRetire d (mkgaAddr (s.cur.xr a) (s.cur.xr b)) s
    else .trap .access { d0 := s.cur.xr a } s) s

def execGcoord (d : Reg) (s : State) : Host.Outcome State Fault Refusal :=
  issue [] (some d) (fun s => setRetire d (coordWord s.curCore) s) s

def execAddi (d a : Reg) (imm : BitVec 12) (ma : Bool) (s : State) : Host.Outcome State Fault Refusal := opR (· + immI imm) d a ma s
def execAndi (d a : Reg) (imm : BitVec 12) (ma : Bool) (s : State) : Host.Outcome State Fault Refusal := opR (· &&& immI imm) d a ma s
def execOri (d a : Reg) (imm : BitVec 12) (ma : Bool) (s : State) : Host.Outcome State Fault Refusal := opR (· ||| immI imm) d a ma s
def execXori (d a : Reg) (imm : BitVec 12) (ma : Bool) (s : State) : Host.Outcome State Fault Refusal := opR (· ^^^ immI imm) d a ma s
def execSlti (d a : Reg) (imm : BitVec 12) (ma : Bool) (s : State) : Host.Outcome State Fault Refusal :=
  opR (fun x => flagWord (x.slt (immI imm))) d a ma s
def execSltiu (d a : Reg) (imm : BitVec 12) (ma : Bool) (s : State) : Host.Outcome State Fault Refusal :=
  opR (fun x => flagWord (x.ult (immI imm))) d a ma s
def execSlli (d a : Reg) (sh : BitVec 6) (ma : Bool) (s : State) : Host.Outcome State Fault Refusal := opR (· <<< sh.toNat) d a ma s
def execSrli (d a : Reg) (sh : BitVec 6) (ma : Bool) (s : State) : Host.Outcome State Fault Refusal := opR (· >>> sh.toNat) d a ma s
def execSrai (d a : Reg) (sh : BitVec 6) (ma : Bool) (s : State) : Host.Outcome State Fault Refusal :=
  opR (fun x => x.sshiftRight sh.toNat) d a ma s

def execLui (d : Reg) (imm : BitVec 19) (s : State) : Host.Outcome State Fault Refusal :=
  issue [] (some d) (fun s => setRetire d (immU imm) s) s
def execAuipc (d : Reg) (imm : BitVec 19) (s : State) : Host.Outcome State Fault Refusal :=
  issue [] (some d) (fun s => setRetire d (s.cur.pc + immU imm) s) s

/-- The field length of BFX and BFI, cut at bit 63 under the fallback of MIXID 0x01 (R237, R207). -/
def bfLen (pos len : BitVec 6) : Nat := min (len.toNat + 1) (64 - pos.toNat)

/-- Does the field run past bit 63? -/
def bfMix (pos len : BitVec 6) : Bool := decide (64 < pos.toNat + (len.toNat + 1))

/-- BFI's result: bits [pos + len - 1 : pos] of `old` replaced (R237). -/
def bfInsert (old v : Word) (pos n : Nat) : Word := wput old pos n v.toNat

def execBfx (d a : Reg) (pos len : BitVec 6) (ma : Bool) (s : State) : Host.Outcome State Fault Refusal :=
  mixCheck (bfMix pos len) 1 (opR (fun x => BitVec.ofNat 64 (wfield x pos.toNat (bfLen pos len))) d a ma) s

/-- BFI reads x[D]; a full x[D] is awaited under R195. -/
def execBfi (d a : Reg) (pos len : BitVec 6) (ma : Bool) (s : State) : Host.Outcome State Fault Refusal :=
  mixCheck (bfMix pos len) 1 (issue [(a, ma)] (some d) fun s =>
    setRetire d (bfInsert (s.cur.xr d) (s.cur.xr a) pos.toNat (bfLen pos len)) s) s

def execSel (d a b c : Reg) (mq : Bool) (s : State) : Host.Outcome State Fault Refusal :=
  issue [(a, mq), (b, mq), (c, mq)] (some d) (fun s => setRetire d (if s.cur.xr c ≠ 0 then s.cur.xr a else s.cur.xr b) s) s

end Sys2Proof.Machine
end

