-- ==== Sys2Proof/Machine/Early.lean ====
section
/-! DEFINITION. The causes of R205 steps 4 and 5 that an instruction meets before its sources are tested: R396 takes them before any
boundary stop. -/

namespace Sys2Proof.Machine

/-- R205 step 4 for a control register. -/
def State.earlyCtl (s : State) (write : Bool) (n : Nat) : Option (Cause × Detail) :=
  (ctlCheck (s.launchOf s.curCore).privileged write n).map fun c => (c, {})

/-- R205 step 4 for a privileged instruction. -/
def State.earlyPriv (s : State) : Option (Cause × Detail) :=
  if (s.launchOf s.curCore).privileged then none else some (.priv, {})

/-- R205 step 5 for a combination with a code, where trapping is enabled. -/
def State.earlyMix (s : State) (bad : Bool) (code : Nat) : Option (Cause × Detail) :=
  if bad && wfield s.cur.warn 63 1 == 1 then some (.mixtrap, { d0 := BitVec.ofNat 64 code }) else none

/-- The stop for a cause of R205 step 4 or 5. -/
def State.earlyTrap (s : State) (c : Cause) (d : Detail) : State := if c = .mixtrap then s.mixTrap d.d0.toNat else s.trap c d

/-- The cause of R205 step 4 or 5, if the instruction meets one. -/
def Instr.early (i : Instr) (s : State) : Option (Cause × Detail) :=
  match i with
  | .ctlrd _ imm => s.earlyCtl false imm.toNat
  | .ctlwr _ _ imm _ => s.earlyCtl true imm.toNat
  | .ctlset _ _ imm _ => s.earlyCtl true imm.toNat
  | .ctlclr _ _ imm _ => s.earlyCtl true imm.toNat
  | .halt _ _ => s.earlyPriv
  | .ddinit _ _ => s.earlyPriv
  | .bfx _ _ pos len _ => s.earlyMix (bfMix pos len) 1
  | .bfi _ _ pos len _ => s.earlyMix (bfMix pos len) 1
  | _ => none

end Sys2Proof.Machine
end

