-- ==== Sys2Proof/Machine/Landing.lean ====
section
/-! DEFINITION. Landing handlers (R334, R335): what the landing thread may execute, and its run over one packet of a COPYX. -/

namespace Sys2Proof.Machine

/-- What a word is to the landing thread. -/
inductive LandAct where
  | run (f : State → Host.Outcome State Fault Refusal)
  /-- A load from x[a] + imm. -/
  | load (a : Reg) (imm : BitVec 12) (f : State → Host.Outcome State Fault Refusal)
  | done
  | stop (c : Cause)

/-- Majors 0x01 to 0x11, 0x18 to 0x20, 0x3D and 0x41 to 0x45, and DONE; any other instruction is ENGFAULT (R335). -/
def landLow (i : Instr) : LandAct :=
  match i with
  | .add d a b ma mb => .run (execAdd d a b ma mb)
  | .sub d a b ma mb => .run (execSub d a b ma mb)
  | .and d a b ma mb => .run (execAnd d a b ma mb)
  | .or d a b ma mb => .run (execOr d a b ma mb)
  | .xor d a b ma mb => .run (execXor d a b ma mb)
  | .sll d a b ma mb => .run (execSll d a b ma mb)
  | .srl d a b ma mb => .run (execSrl d a b ma mb)
  | .sra d a b ma mb => .run (execSra d a b ma mb)
  | .min d a b ma mb => .run (execMin d a b ma mb)
  | .max d a b ma mb => .run (execMax d a b ma mb)
  | .minu d a b ma mb => .run (execMinu d a b ma mb)
  | .maxu d a b ma mb => .run (execMaxu d a b ma mb)
  | .slt d a b ma mb => .run (execSlt d a b ma mb)
  | .sltu d a b ma mb => .run (execSltu d a b ma mb)
  | .seq d a b ma mb => .run (execSeq d a b ma mb)
  | .sne d a b ma mb => .run (execSne d a b ma mb)
  | .mul d a b ma mb => .run (execMul d a b ma mb)
  | .mulh d a b ma mb => .run (execMulh d a b ma mb)
  | .mulhu d a b ma mb => .run (execMulhu d a b ma mb)
  | .div d a b ma mb => .run (execDiv d a b ma mb)
  | .divu d a b ma mb => .run (execDivu d a b ma mb)
  | .rem d a b ma mb => .run (execRem d a b ma mb)
  | .remu d a b ma mb => .run (execRemu d a b ma mb)
  | .clz d a ma => .run (execClz d a ma)
  | .ctz d a ma => .run (execCtz d a ma)
  | .popc d a ma => .run (execPopc d a ma)
  | .mkga d a b ma mb => .run (execMkga d a b ma mb)
  | .gcoord d => .run (execGcoord d)
  | .addi d a imm ma => .run (execAddi d a imm ma)
  | .andi d a imm ma => .run (execAndi d a imm ma)
  | .ori d a imm ma => .run (execOri d a imm ma)
  | .xori d a imm ma => .run (execXori d a imm ma)
  | .slti d a imm ma => .run (execSlti d a imm ma)
  | .sltiu d a imm ma => .run (execSltiu d a imm ma)
  | .slli d a sh ma => .run (execSlli d a sh ma)
  | .srli d a sh ma => .run (execSrli d a sh ma)
  | .srai d a sh ma => .run (execSrai d a sh ma)
  | .lui d imm => .run (execLui d imm)
  | .auipc d imm => .run (execAuipc d imm)
  | .jal d imm => .run (execJal d imm)
  | .jalr d a imm ma => .run (execJalr d a imm ma)
  | .bfx d a pos len ma => .run (execBfx d a pos len ma)
  | .bfi d a pos len ma => .run (execBfi d a pos len ma)
  | .sel d a b c mq => .run (execSel d a b c mq)
  | .ctlrd d imm => .run (execCtlrd d imm)
  | .faddS d a b ma mb => .run (execFaddS d a b ma mb)
  | .fsubS d a b ma mb => .run (execFsubS d a b ma mb)
  | .fmulS d a b ma mb => .run (execFmulS d a b ma mb)
  | .fdivS d a b ma mb => .run (execFdivS d a b ma mb)
  | .fsqrtS d a ma => .run (execFsqrtS d a ma)
  | .fminS d a b ma mb => .run (execFminS d a b ma mb)
  | .fmaxS d a b ma mb => .run (execFmaxS d a b ma mb)
  | .fcmpEqS d a b ma mb => .run (execFcmpEqS d a b ma mb)
  | .fcmpLtS d a b ma mb => .run (execFcmpLtS d a b ma mb)
  | .fcmpLeS d a b ma mb => .run (execFcmpLeS d a b ma mb)
  | .fclassS d a ma => .run (execFclassS d a ma)
  | .fsgnjS d a b ma mb => .run (execFsgnjS d a b ma mb)
  | .fsgnjnS d a b ma mb => .run (execFsgnjnS d a b ma mb)
  | .fsgnjxS d a b ma mb => .run (execFsgnjxS d a b ma mb)
  | .fmvXS d a ma => .run (execFmvXS d a ma)
  | .fmvFS d a ma => .run (execFmvFS d a ma)
  | .faddD d a b ma mb => .run (execFaddD d a b ma mb)
  | .fsubD d a b ma mb => .run (execFsubD d a b ma mb)
  | .fmulD d a b ma mb => .run (execFmulD d a b ma mb)
  | .fdivD d a b ma mb => .run (execFdivD d a b ma mb)
  | .fsqrtD d a ma => .run (execFsqrtD d a ma)
  | .fminD d a b ma mb => .run (execFminD d a b ma mb)
  | .fmaxD d a b ma mb => .run (execFmaxD d a b ma mb)
  | .fcmpEqD d a b ma mb => .run (execFcmpEqD d a b ma mb)
  | .fcmpLtD d a b ma mb => .run (execFcmpLtD d a b ma mb)
  | .fcmpLeD d a b ma mb => .run (execFcmpLeD d a b ma mb)
  | .fclassD d a ma => .run (execFclassD d a ma)
  | .fsgnjD d a b ma mb => .run (execFsgnjD d a b ma mb)
  | .fsgnjnD d a b ma mb => .run (execFsgnjnD d a b ma mb)
  | .fsgnjxD d a b ma mb => .run (execFsgnjxD d a b ma mb)
  | .fmvXD d a ma => .run (execFmvXD d a ma)
  | .fmvFD d a ma => .run (execFmvFD d a ma)
  | .fcvtSD d a ma => .run (execFcvtSD d a ma)
  | .fcvtLD d a ma => .run (execFcvtLD d a ma)
  | .fcvtLuD d a ma => .run (execFcvtLuD d a ma)
  | .fcvtDS d a ma => .run (execFcvtDS d a ma)
  | .fcvtLS d a ma => .run (execFcvtLS d a ma)
  | .fcvtLuS d a ma => .run (execFcvtLuS d a ma)
  | .fcvtDL d a ma => .run (execFcvtDL d a ma)
  | .fcvtSL d a ma => .run (execFcvtSL d a ma)
  | .fcvtLuL d a ma => .run (execFcvtLuL d a ma)
  | .fcvtDLu d a ma => .run (execFcvtDLu d a ma)
  | .fcvtSLu d a ma => .run (execFcvtSLu d a ma)
  | .fcvtLLu d a ma => .run (execFcvtLLu d a ma)
  | .fmaS d a b c mq => .run (execFmaS d a b c mq)
  | .fmaD d a b c mq => .run (execFmaD d a b c mq)
  | .ldB d a imm ma => .load a imm (execLdB d a imm ma)
  | .ldH d a imm ma => .load a imm (execLdH d a imm ma)
  | .ldW d a imm ma => .load a imm (execLdW d a imm ma)
  | .ldD d a imm ma => .load a imm (execLdD d a imm ma)
  | .ldzB d a imm ma => .load a imm (execLdzB d a imm ma)
  | .ldzH d a imm ma => .load a imm (execLdzH d a imm ma)
  | .ldzW d a imm ma => .load a imm (execLdzW d a imm ma)
  | .ldfW d a imm ma => .load a imm (execLdfW d a imm ma)
  | .ldfD d a imm ma => .load a imm (execLdfD d a imm ma)
  | .done _ _ => .done
  | _ => .stop .engfault

/-- A mask instruction of major 0x4E, by the same fields as in Decode. -/
def landMask (w : BitVec 32) : LandAct :=
  let d := fld w 7 6
  let a := fld w 13 6
  let b := fld w 19 6
  let ma := bit w 25
  let mb := bit w 26
  let one := !mb && b == 0
  let ok := fun (good : Bool) (f : State → Host.Outcome State Fault Refusal) => if good then LandAct.run f else .stop .rsvfld
  match fld w 27 5 with
  | 0#5 => ok (isM d && isM a && isM b) (execMand d a b ma mb)
  | 1#5 => ok (isM d && isM a && isM b) (execMor d a b ma mb)
  | 2#5 => ok (isM d && isM a && isM b) (execMxor d a b ma mb)
  | 3#5 => ok (isM d && isM a && one) (execMnot d a ma)
  | 4#5 => ok (isM d && isM a) (execMshl d a b ma mb)
  | 5#5 => ok (isM d && isM a) (execMshr d a b ma mb)
  | 6#5 => ok (isM a && one) (execMpop d a ma)
  | 7#5 => ok (isM d && one) (execMmovMX d a ma)
  | 8#5 => ok (isM a && one) (execMmovXM d a ma)
  | 9#5 => ok (isM d && isM a && one) (execMmovMM d a ma)
  | _ => .stop .illop

/-- The fields of a word that a list of register letters names, and the mode bits MA and MB, as a mask. -/
def landZero (d a b ma mb : Bool) : Nat :=
  (if d then 0x1F80 else 0) + (if a then 0x7E000 else 0) + (if b then 0x1F80000 else 0) + (if ma then 0x2000000 else 0) + (if mb then 0x4000000 else 0)

/-- The bits that must be zero in a word of majors 0x4D and 0x4F to 0x53, none of which the landing thread executes; none where FN is unassigned (R189,
R197, R205). -/
def landFields (op : Nat) (w : BitVec 32) : Option Nat :=
  let fn := (fld w 27 5).toNat
  let src1 := landZero false false true false true
  let noDest := landZero true false true false true
  match op with
  | 0x4D => if fn % 8 < 6 ∧ fn < 16 then some src1 else none
  | 0x4F => if fn < 4 then some 0 else if fn < 8 then some (src1 + 0x18000000) else none
  | 0x50 => (match fn with | 0 => some noDest | 2 => some (landZero true false false false false) | 1 => some src1 | 3 => some src1 | _ => none)
  | 0x51 =>
    if 16 ≤ fn then some 0
    else (match fn with
      | 0 => some src1
      | 1 => some 0
      | 2 => some 0
      | 3 => some 0
      | 4 => some 0x1800
      | 5 => some noDest
      | 6 => some noDest
      | 7 => some src1
      | 8 => some (landZero false true true true true)
      | 9 => some src1
      | 10 => some noDest
      | _ => none)
  | 0x52 => some 0
  | _ => (match fn with | 1 => some noDest | 3 => some (landZero true true true true true) | _ => if fn < 6 then some src1 else none)

/-- Is a word of these majors privileged: HALT or DDINIT (R197)? -/
def landPriv (op : Nat) (w : BitVec 32) : Bool := (op == 0x53 && fld w 27 5 == 1) || (op == 0x51 && fld w 27 5 == 10)

/-- What a fetched word is to the landing thread: the causes of R205 steps 1 to 5 in order, and then ENGFAULT for an instruction that it does not
execute (R335). -/
def landWord (s : State) (w : BitVec 32) : LandAct :=
  let op := (fld w 0 7).toNat
  if op = 0 ∨ 0x53 < op then .stop .illop
  else if op = 0x4E then landMask w
  else if 0x4C < op then
    match landFields op w with
    | none => .stop .illop
    | some m =>
      if w.toNat &&& m ≠ 0 then .stop .rsvfld
      else if landPriv op w && !(s.launchOf s.curCore).privileged then .stop .priv
      else .stop .engfault
  else match decodeLow w with
    | .ok i =>
      match Instr.early i s with
      | some (c, _) => .stop c
      | none => landLow i
    | .error c => .stop c

/-- The registers with which a handler starts a packet (R334). The landing thread's WARN, APXCTL and DLMODE are its own. -/
def landStart (q : Cmd) (c : Shape) (uid op pkt : Nat) (p : Packet) (entry : Word) (old : Ctx) : Ctx :=
  let x := [(1, (c.elem (c.index p.first)).1), (2, BitVec.ofNat 64 p.bytes.length), (3, BitVec.ofNat 64 p.first)] ++
    ((upTo 32).map fun i => (32 + i, BitVec.ofNat 64 (leNat ((p.bytes.drop (8 * i)).take 8))))
  { Ctx.reset with
    uid := uid, kind := .landing op pkt, pc := entry, w1 := BitVec.ofNat 64 q.tid
    x := x.foldl (fun v r => vset v r.1 r.2) Ctx.reset.x
    fctl := q.fctl &&& ~~~0xFC00#64, warn := old.warn, apxctl := old.apxctl, dlmode := old.dlmode }

/-- Every value that is on its way to a register of the landing thread arrives. -/
def Ctx.settle (x : Ctx) : Ctx :=
  { x.producers.foldl (fun x p => (x.setX (BitVec.ofNat 6 p.1) p.2).markFull (BitVec.ofNat 6 p.1)) x with producers := [] }

/-- What one instruction of a handler comes to: it goes on, DONE, a cause, a page that is held, or a wait. -/
inductive LandRes where
  | next (s : State)
  | done (s : State)
  | cause (c : Cause) (s : State)
  | held (va : Word) (space peer addr reason : Nat) (c : Cause) (s : State)
  | wait (s : State)

/-- One instruction of the handler on the landing thread of a core, which is the issuing thread (R335). -/
def landOne (core : Nat) (s : State) : LandRes :=
  let x := s.ctx core 4
  match s.check (s.agent core) .fetch 1 4 x.pc with
  | .error (.cause c d) => .cause c (s.noteEcc c d)
  | .error (.held sp peer addr reason c) => .held x.pc sp peer addr reason c s
  | .error .busy | .error (.turn _ _) => .wait s
  | .ok (.mem k) =>
    match s.badIn k 4 with
    | some _ => .cause .eccunc (s.logRange k 4)
    | none =>
      let s := s.fetched k
      let go := fun (f : State → Host.Outcome State Fault Refusal) =>
        match f (s.modThr core 4 fun th => { th with running := true }) with
        | .next t =>
          let y := t.ctx core 4
          match y.pend with
          | p :: _ => LandRes.cause p.cause t
          | [] => if (t.thr core 4).retired = (s.thr core 4).retired then .wait t else .next (t.modCtx core 4 Ctx.settle)
        | _ => .wait s
      match landWord s (BitVec.ofNat 32 (s.readLe k 4)) with
      | .run f => go f
      | .load a imm f => if wfield (x.xr a + imm.signExtend 64) 60 4 = 0 then go f else .cause .engfault s
      | .done => .done s
      | .stop c => .cause c s
  | .ok _ => .cause .fetchfault s

/-- A handler's run with `fuel` instructions left, counted in the context, of the 256 it may retire, its DONE among them; one that would retire more is
ENGFAULT (R335). -/
def landRun (core : Nat) : Nat → State → LandRes
  | 0, s =>
    match landOne core s with
    | .next s => .cause .engfault s
    | .done s => .cause .engfault s
    | r => r
  | fuel + 1, s =>
    match landOne core s with
    | .next s => landRun core fuel (s.modCtx core 4 fun x => { x with opSeq := x.opSeq + 1 })
    | r => r

/-- The landing thread has no unit any more. -/
def State.clearLanding (s : State) (core : Nat) : State :=
  s.modThr core 4 fun th => { th with running := false, ctx := { th.ctx with kind := .none, pend := [], wait := .no } }

/-- The flags that a handler raised belong to its copy (R334). -/
def State.landFlags (s : State) (core op : Nat) : State :=
  let f : BitVec 6 := BitVec.ofNat 6 (wfield (s.ctx core 4).fctl 10 6)
  s.modCopy core op fun o => { o with cmd := { o.cmd with flags := o.cmd.flags ||| f } }

/-- The first n bytes of x32 and the registers above it. -/
def Ctx.payload (x : Ctx) (n : Nat) : List Byte :=
  ((upTo 32).flatMap fun i => leBytes 8 (vget x.x (32 + i) 0).toNat).take n

/-- A handler's DONE (R335): the bytes of x2 and the address of x1, or ENGFAULT. -/
def landOutput (c : Shape) (x : Ctx) : Option (Word × List Byte) :=
  let n := (vget x.x 2 0).toNat
  let at_ := vget x.x 1 0
  if 256 < n ∨ (n ≠ 0 ∧ (at_.toNat < c.base.toNat ∨ c.base.toNat + c.denseBytes < at_.toNat + n)) then none
  else some (at_, x.payload n)

/-- The packet whose handler has begun and waits, if any. -/
def Thread.landingOn (th : Thread) : Option (Nat × Nat) :=
  match th.ctx.kind with
  | .landing op pkt => some (op, pkt)
  | _ => none

/-- A handler that waits leaves its port; one whose request is kept for the end of the quantum goes on as its unit, and will have retired that instruction
(R389). -/
def State.landWait (s : State) (core : Nat) : State :=
  if (s.ctx core 4).wait = .no then s.modThr core 4 fun th => { th with running := false }
  else s.modThr core 4 fun th => { th with running := true, ctx := { th.ctx with opSeq := th.ctx.opSeq + 1 } }

/-- The handler of a packet runs on the core's landing thread, from its start or from where it waited (R334, R335). -/
def State.landHandler (s : State) (core op pkt : Nat) (o : CopyOp) (p : Packet) : State :=
  let q := o.cmd
  let c := Shape.of q.rc
  let entry := BitVec.ofNat 64 (wfield (tgetD (s.core core).chans (fieldOf q.tcw.cx 8 8) 0) 0 48 + 0x4000000000000000)
  let cur := (s.curCore, s.curThread)
  let s :=
    if (s.thr core 4).landingOn = some (op, pkt) then s.modCtx core 4 Ctx.settle
    else
      let (uid, s) := s.newUid
      s.modThr core 4 fun th => { th with ctx := landStart q c uid op pkt p entry th.ctx }
  let back := fun (s : State) => { s with curCore := cur.1, curThread := cur.2 }
  let fail := fun (k : Cause) (s : State) => (((back s).landFlags core op).modCopy core op fun o => o.fail pkt k {}).clearLanding core
  match (s.ctx core 4).pend with
  | p :: _ => fail p.cause s
  | [] =>
  match landRun core (256 - (s.ctx core 4).opSeq) (s.setCur core 4) with
  | .next s => back s
  | .wait s => (back (s.landWait core)).landFlags core op
  | .cause k s => fail k s
  | .held va sp peer addr reason k s =>
    let s := (back (s.modThr core 4 fun th => { th with running := false })).landFlags core op
    let (hid, s) := s.holdCopy core q .fetch va sp peer addr reason k
    let (stamp, s) := s.newAge
    s.modCopy core op fun o => { o with packets := tmod o.packets pkt fun p => { p with hid := some hid, stamp := some stamp } }
  | .done s =>
    match landOutput c (s.ctx core 4) with
    | none => fail .engfault s
    | some (at_, bs) =>
      let s := (((back s).landFlags core op).clearLanding core).modThr core 4 fun th => { th with retired := satN 64 (th.retired + 1) }
      let s := s.modCopy core op fun o => { o with packets := tmod o.packets pkt fun p => { p with landAt := some at_, bytes := bs, pos := 0 } }
      s.landPacket core op pkt

/-- May the packet's handler run now: nothing of it is held, it has not run, and no other packet's has begun? -/
def State.mayHandle (s : State) (core op pkt : Nat) (o : CopyOp) (p : Packet) : Bool :=
  o.cmd.tcw.lands && p.landAt.isNone && p.hid.isNone && (s.ctx core 4).wait == .no && (match (s.thr core 4).landingOn with | some b => b == (op, pkt) || ((s.copyOp core b.1).bind fun o => tget o.packets b.2).isNone | none => true)

/-- The landing handler of a packet (R334). -/
def execLandingHandler (core op pkt : Nat) (s : State) : Host.Outcome State Fault Refusal :=
  match s.copyOp core op with
  | none => .next s
  | some o =>
    match tget o.packets pkt with
    | none => .next s
    | some p => .next (if s.mayHandle core op pkt o p then (s.landHandler core op pkt o p).settleCopy core op else s)

end Sys2Proof.Machine
end

