-- ==== Sys2Proof/Machine/EngineDue.lean ====
section
/-! DEFINITION. The steps that the engines of a core owe (R202, R293, R303, R321, R324, R329, R334, R341), and when a launch that stops has none
left (R411, R413). -/

namespace Sys2Proof.Machine

/-- A step that is due, with what it does. -/
structure Due where
  event : Event
  run : State → Host.Outcome State Fault Refusal

/-- Has a command begun to run (R420)? -/
def State.begun (s : State) (q : Cmd) : Bool :=
  decide (q.pos ≠ 0) || !q.kept.isEmpty || q.fault.isSome || !q.gotA.isEmpty || !q.gotB.isEmpty || !q.gotX.isEmpty ||
  ((s.unitCtx q.uid).any fun x => x.ops.any fun o => o.seq == q.seq && o.state == 1)

/-- The step of a matrix command. -/
def mqRun (top core : Nat) : State → Host.Outcome State Fault Refusal :=
  match top with
  | 0x10 => execMloadb core
  | 0x11 => execMclr core
  | 0x12 => execMdrain core
  | 0x13 => execMmask core
  | 0x14 => execMredb core
  | _ => mqStep top core fun q s => s.mmRun core q

/-- The step of the command at the head of a queue. In a launch that stops, only a command that has begun goes on. -/
def State.dueHead (s : State) (quiet : Bool) (core : Nat) (l : List Cmd) (run : Nat → State → Host.Outcome State Fault Refusal) : List Due :=
  match l with
  | q :: _ =>
    if q.hid.isSome || (quiet && !s.begun q) then []
    else if q.top = 0x14 ∧ q.pos = 1 then
      match s.redbMeet core with
      | some ((c0, _) :: _) => if c0 = core then [⟨.mredbCombine core, execMredbCombine core⟩] else []
      | _ => []
    else match topEvent core q.top with
      | some e => [⟨e, run q.top⟩]
      | none => []
  | [] => []

/-- One of a list, by a free choice. -/
def pickOne {α : Type} (n : Nat) (l : List α) : List α := (l[n % max 1 l.length]?).toList

/-- The reading of a copy, its barrier counts and its end, where it has such a step to make. -/
def State.dueRequest (s : State) (core op : Nat) (o : CopyOp) : List Due :=
  let left := o.ended && !o.cmd.gotA.isEmpty && !s.copyRemote core op false
  if o.freedGap.isSome || (s.mayRead core op o && s.streamTurn core op o) || left || s.copySettled core op o || (decide (o.barWait ≠ 0) && o.barHid.isNone) then
    [⟨.copyRequest core op, execCopyRequest core op⟩] else []

/-- The packet of a copy that comes next, by a free choice (R329). -/
def State.nextPacket (s : State) (core op : Nat) : Nat := Config.nextPacket (Nat.pair s.freshCount (Nat.pair core op))

/-- The step of the landing thread for a copy (R334). -/
def State.dueLanding (s : State) (core op : Nat) (o : CopyOp) : List Due :=
  (pickOne (s.nextPacket core op) (o.packets.filter fun p => s.mayHandle core op p.1 o p.2)).map fun p => ⟨.landingHandler core op p.1, execLandingHandler core op p.1⟩

/-- The steps of a copy in flight at the copy port. -/
def State.dueCopy (s : State) (core op : Nat) (o : CopyOp) : List Due :=
  s.dueRequest core op o ++
  (pickOne (s.nextPacket core op) (o.packets.filter fun p => o.mayLand p.2)).map fun p => ⟨.packetLand core op p.1, execPacketLand core op p.1⟩

/-- The step of the vector queue of a thread (R293). -/
def State.dueVector (s : State) (quiet : Bool) (c t : Nat) : List Due :=
  match (s.vecPort c t).bind fun p => (s.queueOf p).head? with
  | some q => if q.hid.isSome || (quiet && !s.begun q) then [] else [⟨.vectorStep c t none, execVectorStep c t none⟩]
  | none => []

/-- The exchanges of the PUBLs that wait: on the threads of a core, and on the launch's first core in contexts that are not running (R95, R258). -/
def State.duePubl (s : State) (c : Nat) (k : Core) : List Due :=
  ((upTo 4).filter fun t => (k.thr t).running && (match (k.thr t).ctx.wait with | .publ _ => true | _ => false)).map (fun t =>
    ⟨.publExchange c t, execPublExchange c t⟩) ++
  (if s.lcoreCore k.asidN 0 = some c ∧ (s.savedPubl c).isSome then [⟨.publExchange c 4, execPublExchange c 4⟩] else [])

/-- The steps of a core's engines: of the landing thread, the VE, the ME and the copy port, the order of R91 in one cycle. While the current-ramp limiter of its die
withholds issue, the VE and the ME make none (R437). -/
def State.dueCoreEngines (s : State) (ramp : Bool) (c : Nat) (k : Core) : List Due :=
  let p := s.part k.asidN
  let quiet := p.stopping || p.frozen
  (k.copies.flatMap fun e => s.dueLanding c e.1 e.2) ++
  (if ramp then []
    else (upTo 4).flatMap (s.dueVector quiet c) ++ s.dueHead quiet c k.vsq (fun top => tcwStep top c) ++ s.dueHead quiet c k.mq (fun top => mqRun top c)) ++
  s.dueHead quiet c k.cq (fun top => cqStep top c) ++ (k.copies.flatMap fun e => s.dueCopy c e.1 e.2) ++ (if quiet then [] else s.duePubl c k)

/-- Does the ME of a core run a command: one that has begun and neither waits for a page nor for its three partners (R321, R327)? -/
def State.meRuns (s : State) (k : Core) : Bool := k.mq.head?.any fun q => s.begun q && q.hid.isNone && q.top != 0x14

/-- The steps that a core which is to move still makes (R327, R408): those of the ME's running command and of the packet on the landing thread. -/
def State.dueLast (s : State) (c : Nat) (k : Core) : List Due :=
  (if s.meRuns k then s.dueHead true c k.mq (fun top => mqRun top c) else []) ++
  (match (k.thr 4).landingOn with
    | some (op, pkt) =>
      (match (tget k.copies op).bind fun o => (tget o.packets pkt).map fun p => (o, p) with
        | some (o, p) => if s.mayHandle c op pkt o p then [⟨.landingHandler c op pkt, execLandingHandler c op pkt⟩] else []
        | none => [])
    | none => [])

/-- Does the step change anything now? -/
def Due.stirs (d : Due) (s : State) : Bool :=
  match d.run s with
  | .next t => decide (t ≠ s)
  | _ => false

/-- Have the running engine commands of a launch that stops completed (R411, R413)? One that waits for a page is still to be settled; one that
waits for what a stopped unit would have sent has nothing left to do. -/
def State.enginesQuiet (s : State) (asid : Nat) : Bool :=
  s.cores.all fun (c, k) =>
    k.asid != some asid ||
      (!((k.mq ++ k.vsq ++ k.threads.toList.flatMap Thread.vectors).any fun q => q.hid.isSome && s.begun q) &&
      !(k.copies.any fun e => e.2.cmd.hid.isSome || e.2.barHid.isSome || (e.2.gaps.any fun g => g.hid.isSome) || e.2.packets.any fun p => p.2.hid.isSome) &&
      !((s.dueCoreEngines false c k).any fun d => d.stirs s))

/-- The steps of the engines of the cores with keys from `lo` on, below `hi`, in the order of their LCOREs (R91). -/
def State.dueEngines (s : State) (lo hi : Option Nat) : List Event :=
  (sortLex (fun (e : Nat × Core) => [s.issueKey e.1]) (s.cores.filter fun e => lo.all (fun k => decide (k ≤ s.issueKey e.1)) && hi.all (fun k => decide (s.issueKey e.1 < k)))).flatMap
    fun (c, k) =>
      if k.asid.isNone || !k.holds then []
      else (if k.migrating.isSome then s.dueLast c k else s.dueCoreEngines (s.die (coreDie c)).ramp c k).map (·.event)

/-- Chains that hardware moves now (R324). -/
def State.dueChains (s : State) : List Event :=
  s.cores.flatMap fun (c, k) =>
    if k.mq.length < 2 || (s.die (coreDie c)).ramp then []
    else (upTo 4).filterMap fun i =>
      let t := bentCore c i
      if Config.chainMoves (Nat.pair s.freshCount (Nat.pair c i)) && (s.chainMoves c t).isSome then some (.chainMigrate c t) else none

end Sys2Proof.Machine
end

