-- ==== Sys2Proof/Machine/Hash.lean ====
section
/-! DEFINITION. SHA-256 (FIPS 180-4) and the verification of RSASSA-PSS with the parameters of R434 (RFC 8017). -/

namespace Sys2Proof.Machine

/-! ## SHA-256 -/

/-- The root of degree d of v, rounded down, found bit by bit from 2^n on. -/
def rootBits (d v : Nat) : Nat → Nat → Nat
  | 0, r => r
  | n + 1, r => rootBits d v n (if (r + 2 ^ n) ^ d ≤ v then r + 2 ^ n else r)

/-- The first n primes, all below 312. -/
def shaPrimes (n : Nat) : List Nat :=
  ((upTo 312).filter fun p => decide (2 ≤ p) && (upTo 18).all fun q => decide (q < 2) || p % q != 0 || p == q).take n

/-- The first 32 bits of the fraction of the root of degree d of a prime. -/
def rootFraction (d p : Nat) : BitVec 32 := BitVec.ofNat 32 (rootBits d (p * 2 ^ (32 * d)) 38 0)

/-- The round constants: fractions of the cube roots of the first 64 primes. -/
def shaK : List (BitVec 32) := (shaPrimes 64).map (rootFraction 3)

/-- The initial hash value: fractions of the square roots of the first 8 primes. -/
def shaH0 : List (BitVec 32) := (shaPrimes 8).map (rootFraction 2)

/-- A big-endian number from bytes. -/
def beNat (l : List Byte) : Nat := l.foldl (fun n b => 256 * n + b.toNat) 0

/-- n bytes of a number, big-endian. -/
def beBytes (n v : Nat) : List Byte := (leBytes n v).reverse

/-- Exclusive or of three rotations to the right; the last is a shift with `sh`. -/
def shaSigma (x : BitVec 32) (i j k : Nat) (sh : Bool) : BitVec 32 :=
  x.rotateRight i ^^^ x.rotateRight j ^^^ (if sh then x >>> k else x.rotateRight k)

/-- What a round works on: the eight working variables from a on, and the sixteen words of the schedule that are next. -/
structure ShaState where
  v : List (BitVec 32)
  w : List (BitVec 32)
deriving DecidableEq, Repr

/-- One round: the working variables move on by one place, and the window of the schedule by one word. -/
def ShaState.round (k : BitVec 32) (s : ShaState) : ShaState :=
  let v := nth 0 s.v
  let w := nth 0 s.w
  let pick := (v 4 &&& v 5) ||| (~~~(v 4) &&& v 6)
  let most := (v 0 &&& v 1) ||| (v 2 &&& (v 0 ||| v 1))
  let step := v 7 + shaSigma (v 4) 6 11 25 false + pick + k + w 0
  let a := step + shaSigma (v 0) 2 13 22 false + most
  let next := w 0 + shaSigma (w 1) 7 18 3 true + w 9 + shaSigma (w 14) 17 19 10 true
  { v := a :: s.v.take 3 ++ (v 3 + step) :: (s.v.drop 4).take 3, w := s.w.drop 1 ++ [next] }

/-- The compression of one block of 64 bytes. -/
def shaBlock (h : List (BitVec 32)) (blk : List Byte) : List (BitVec 32) :=
  let words := (upTo 16).map fun i => BitVec.ofNat 32 (beNat ((blk.drop (4 * i)).take 4))
  let out : ShaState := shaK.foldl (fun (s : ShaState) k => s.round k) { v := h, w := words }
  (upTo 8).map fun i => nth 0 h i + nth 0 out.v i

/-- The blocks of a padded message. -/
def shaBlocks : Nat → List (BitVec 32) → List Byte → List (BitVec 32)
  | 0, h, _ => h
  | n + 1, h, l => shaBlocks n (shaBlock h (l.take 64)) (l.drop 64)

/-- The message with its padding: a one bit, zeros, and the length in bits. -/
def shaPad (m : List Byte) : List Byte :=
  let zeros := roundUp (m.length + 9) 64 - (m.length + 9)
  m ++ 0x80 :: (List.replicate zeros 0 ++ beBytes 8 (8 * m.length))

/-- The SHA-256 digest of bytes, as 32 bytes. -/
def sha256 (m : List Byte) : List Byte :=
  (shaBlocks (roundUp (m.length + 9) 64 / 64) shaH0 (shaPad m)).flatMap fun w => beBytes 4 w.toNat

/-! ## RSASSA-PSS -/

/-- n squarings modulo m. -/
def squares (m : Nat) : Nat → Nat → Nat
  | 0, x => x
  | n + 1, x => squares m n (x * x % m)

/-- RSAVP1 with the public exponent 65,537 = 2^16 + 1. -/
def rsaPublic (m x : Nat) : Nat := squares m 16 (x % m) * x % m

/-- MGF1 with SHA-256: n bytes. -/
def mgf1 (seed : List Byte) (n : Nat) : List Byte :=
  ((upTo (ceilDiv n 32)).flatMap fun i => sha256 (seed ++ beBytes 4 i)).take n

/-- EMSA-PSS-VERIFY of RFC 8017 with a hash and a salt of 32 bytes, on a message's digest and the 384-byte encoded message of a 3,072-bit modulus. -/
def pssConsistent (mHash em : List Byte) : Bool :=
  let masked := em.take 351
  let h := (em.drop 351).take 32
  let db := (masked.zip (mgf1 h 351)).map fun p => p.1 ^^^ p.2
  let db := BitVec.ofNat 8 ((nth 0 db 0).toNat % 128) :: db.drop 1
  nth 0 em 383 == 0xBC && decide ((nth 0 masked 0).toNat < 128) && (db.take 318).all (· == 0) && nth 0 db 318 == 1 &&
    sha256 (List.replicate 8 0 ++ mHash ++ db.drop 319) == h

/-- RSASSA-PSS-VERIFY of a message under a 3,072-bit modulus (R434). -/
def pssVerify (modulus message signature : List Byte) : Bool :=
  let n := beNat modulus
  let s := beNat signature
  signature.length == 384 && decide (2 ^ 3071 ≤ n) && decide (n < 2 ^ 3072) && decide (s < n) &&
    pssConsistent (sha256 message) (beBytes 384 (rsaPublic n s))

end Sys2Proof.Machine
end

