-- ==== Sys2Proof/Machine/Launch.lean ====
section
/-! DEFINITION. The start of a launch (R55, R109, R372, R373, R408, R415), its end (R200, R413), and the watchdog (R411). -/

namespace Sys2Proof.Machine

/-! ## Start -/

/-- Is a bent of the part, numbered die * 288 + bent index, enabled (R4)? Which bents a part has disabled is its own: the state says so, and the state after
reset is that of a part with none (log 83, DESIGN CHOICE). -/
def State.bentEnabled (s : State) (b : Nat) : Bool := decide (b < 1152) && !s.pkg.harvested.contains b

/-- Has a bay (die * 72 + bay) an enabled bent, and with it a bay pool and a vault (R4)? -/
def State.bayEnabled (s : State) (b : Nat) : Bool := (upTo 4).any fun i => s.bentEnabled (b / 72 * 288 + 4 * (b % 72) + i)

/-- Do two shares of one bay overlap in its pool or its vault? -/
def Share.meets (a b : Share) : Bool :=
  (a.psize != 0 && b.psize != 0 && overlap a.pbase a.psize b.pbase b.psize) ||
  (a.vsize != 0 && b.vsize != 0 && overlap a.vbase a.vsize b.vbase b.vsize)

/-- Does a share fit: inside the 4 MiB of its pool and the 12 MiB of its vault's general part, and clear of what any running launch has of the bay: two
partitions never share bytes (R21)? -/
def State.shareFits (s : State) (bay : Nat) (e : Share) : Bool :=
  decide (e.pbase + e.psize ≤ 64) && decide (e.vbase + e.vsize ≤ 192) && !s.parts.any fun p => (tget p.2.launch.shares bay).any e.meets

/-- May the launch start: the package is not in minimal mode, the ASID and the bents are free, the bents and the bays of its shares are enabled, and every
die is locked; and its shares fit (R4, R21, R109, R372)? -/
def State.launchReady (s : State) (r : LaunchReq) : Bool :=
  !s.pkg.minimal && !s.running r.asid && ((r.bents ++ r.reserve).all fun b => s.bentEnabled b && decide ((s.die (b / 288)).gtu.state = .locked)) &&
    (r.launch.shares.all fun e => (e.2.psize == 0 && e.2.vsize == 0) || (s.bayEnabled e.1 && s.shareFits e.1 e.2)) && (r.cores ++ r.spares).all fun c => (s.core c).asid.isNone

/-- A core as the launch finds it: everything at its reset value but what R395 keeps until the part is repaired. -/
def Core.vacate (k : Core) : Core := { Core.reset with me := { Me.reset with fenced := k.me.fenced, bondBad := k.me.bondBad } }

/-- A core that starts in a launch; `l` is its LCORE, or none for a core of a reserve bent. -/
def Core.join (k : Core) (asid : Nat) (l : Option Nat) (slott : Word) (cycle : Nat) : Core :=
  { k.vacate with asid := some asid, lcore := l.getD 0, holds := l.isSome, slott := slott, startCycle := cycle }

/-- Storage of a core that reads zero at launch: its scratchpad and its B-window (R55). -/
def State.clearCore (s : State) (c : Nat) : State := (s.zeroRange (scratchKey c 0) 0x20000).zeroRange (windowKey c 0) 0x40000

/-- The shares of a launch in a bay read zero (R55). -/
def State.clearShare (s : State) (bay : Nat) (e : Share) : State :=
  (s.zeroRange (poolKey (bay / 72) (bay % 72) (e.pbase * 65536)) (e.psize * 65536)).zeroRange
    (vaultKey (bay / 72) (bay % 72) (0x400000 + e.vbase * 65536)) (e.vsize * 65536)

/-- The partition of a launch request. -/
def LaunchReq.partition (r : LaunchReq) (cycle : Nat) : Partition :=
  let l : Launch := { r.launch with mask := r.bents ++ r.reserve, lcores := (upTo r.cores.length).zip r.cores }
  let p := Partition.start l
  { p with
    wdLast := cycle
    sched := { p.sched with queues := r.queues.map fun q => { qid := q.1, qcb := q.2, pendSince := none } }
    dbg := { p.dbg with rplctl := r.rplctl, rplbase := r.rplbase, rpllen := r.rpllen } }

/-- MEASi := SHA-256(MEASi ‖ digest) (R433). -/
def Pkg.extend (p : Pkg) (i : Nat) (digest : List Byte) : Pkg := { p with meas := vset p.meas i (sha256 (vget p.meas i [] ++ digest)) }

/-- A launch starts; the code digest of a privileged one is measured (R433). -/
def State.startLaunch (s : State) (r : LaunchReq) : State :=
  let slott : Word := if r.launch.deterministic then 0 else r.slott
  let s := { s with parts := tput s.parts r.asid (r.partition s.cycle) }
  let s := ((upTo r.cores.length).zip r.cores).foldl (fun s p => s.modCore p.2 fun k => k.join r.asid (some p.1) slott s.cycle) s
  let s := r.spares.foldl (fun s c => s.modCore c fun k => k.join r.asid none slott s.cycle) s
  let s := (r.cores ++ r.spares).foldl State.clearCore s
  let s := r.launch.shares.foldl (fun s e => s.clearShare e.1 e.2) s
  let s := r.clear.foldl (fun s e => s.zeroRange (hbmKey e.1) e.2) s
  let s := if r.launch.privileged then s.modPkg fun p => p.extend 3 r.code else s
  let s := if wfield r.rplctl 62 2 = 1 then s.modPkg fun p => { p with resumes := tdel p.resumes (r.rplbase.toNat / 4096) } else s
  if r.diagram = 0 then s else ((ddInitWith r.diagram).run.run s).2

/-- The first launch request that may start does (R372). -/
def execLaunchStart (s : State) : Host.Outcome State Fault Refusal :=
  .next (match s.pkg.launchReqs.find? fun r => s.launchReady r with
    | none => s
    | some r => (s.modPkg fun p => { p with launchReqs := p.launchReqs.erase r }).startLaunch r)

/-! ## End -/

/-- The core whose request an ATE holds. -/
def AteReq.core (r : AteReq) : Nat := (r.rank - 1) / 8

/-- Does the request name a join slot of its core? -/
def AteOp.joins : AteOp → Bool
  | .barwait _ _ _ _ _ _ => true
  | .joinw _ _ _ _ _ => true
  | _ => false

/-- The launch of a request that the hardware sent: a done message or a completion. -/
def AteOp.asid? : AteOp → Option Nat
  | .done _ _ _ _ a _ => some a
  | .dec _ a _ _ _ _ => some a
  | .count _ a _ _ _ _ => some a
  | _ => none

/-- Are stores, atomics or done messages of a launch still on their way? What its units issued is performed before its storage is another's. -/
def State.launchTraffic (s : State) (asid : Nat) : Bool :=
  (s.timedBufs.any fun b => (b.incoming ++ b.stores ++ b.loads ++ b.fwd).any fun a => a.peer.isNone && (s.core a.core).asid == some asid) ||
  (s.bays.any fun b => b.2.ate.input.any fun r => r.op.asid? == some asid || (r.rank != 0 && r.rank < 40000 && (s.core r.core).asid == some asid && !r.op.joins)) ||
  (s.cores.any fun p => p.2.asid == some asid && (!p.2.loop.isEmpty || !p.2.arrivals.isEmpty))

/-- Everything of a launch leaves the machine: its contexts, its slots, what is held or registered for it, its partition. The warnings of units that a HALT drops
do not join the summary: R200 names no such end (log 93, DESIGN CHOICE). -/
def State.removeLaunch (s : State) (asid : Nat) : State :=
  let mine := fun (c : Nat) => (s.core c).asid == some asid
  let s := s.dropDds asid
  { s with
    cores := tmap s.cores fun _ k => if k.asid = some asid then k.vacate else k
    bays := tmap s.bays fun _ (b : Bay) =>
      { b with ate := { b.ate with
        input := b.ate.input.filter fun r => r.op.asid? != some asid && !(r.rank != 0 && r.rank < 40000 && mine r.core)
        waiters := b.ate.waiters.filter fun w => !mine w.core
        deps := b.ate.deps.filter fun d => d.2.1 ≠ asid } }
    dies := s.dies.map fun (d : Die) =>
      { d with
        slots := d.slots.filter fun e => e.2.asid ≠ asid, held := d.held.filter fun h => h.asid ≠ asid
        stalled := d.stalled.filter fun h => h.asid ≠ asid, notifs := d.notifs.filter fun n => n.asid ≠ asid }
    parts := tdel s.parts asid
    pkg := { s.pkg with remotes := s.pkg.remotes.filter fun (r : RemoteReq) => r.asid ≠ asid } }

/-- Does the unit wait in a CHBLK or CHUNBLK toward another core, which is applied at a window close (R272, R390)? -/
def State.chanWaits (s : State) (uid : Nat) : Bool :=
  s.cores.any fun p => (p.2.inbound ++ p.2.det.parked).any fun m => (m.kind == 1 || m.kind == 2) && m.fromUid == uid

/-- Is the unit stalled for a refusal slot or a join slot (R181, R261), which in a deterministic launch only a window close frees? -/
def Core.stalls (k : Core) (x : Ctx) : Bool :=
  match x.stall with
  | .no => false
  | .send _ => decide (256 ≤ k.refSlots)
  | .join => (tfree k.joins 64).isNone

/-- Is thread 0 of the core quantum-blocked (R390, R403)? -/
def State.quantumBlocked (s : State) (c : Nat) : Bool :=
  let k := s.core c
  let th := k.thr 0
  if th.stopped.isSome || th.noting then true
  else if th.running then th.ctx.wait == .quantum || (th.ctx.wait == .answer && s.chanWaits th.ctx.uid) || k.stalls th.ctx
  else !(s.mayTake c 0 && (!k.ready.isEmpty || !k.deque.isEmpty))

/-- Has every core of a launch that stops issued its last instruction, so that every HALT that retired is known (R413)? A core of a deterministic launch
issues up to the end of the HALT's quantum, or to where it is blocked. -/
def State.allHalted (s : State) (asid : Nat) : Bool :=
  (s.launchCores asid).all fun c => s.halted c || ((s.part asid).launch.deterministic && s.quantumBlocked c)

/-- Has a launch that ends nothing left to finish? A frozen one issues nothing. -/
def State.launchSettled (s : State) (asid : Nat) : Bool :=
  ((s.part asid).frozen || s.allHalted asid) && s.enginesQuiet asid && !s.launchTraffic asid

/-- The status of the HALT that decides (R413): the earliest by time, or by quantum in a deterministic launch, then by LCORE. -/
def Partition.haltStatus (p : Partition) : Word :=
  match (sortLex (fun (h : HaltRec) => [if p.launch.deterministic then h.quantum else h.time.toNat, h.lcore]) p.halts).head? with
  | some h => h.status
  | none => 0

/-- A launch that has halted ends (R413): its status and its warning summary go to the host (R200). -/
def execLaunchEnd (asid : Nat) (s : State) : Host.Outcome State Fault Refusal :=
  let p := s.part asid
  .next (
    if !s.running asid ∨ !p.stopping ∨ p.frozen ∨ !s.launchSettled asid then s
    else (s.removeLaunch asid).modPkg fun k => { k with hostOut := k.hostOut ++ [.launchEnd asid p.haltStatus p.warnSum] })

/-- The Dreith service ends a frozen launch (R411). -/
def execEndFrozenLaunch (asid : Nat) (s : State) : Host.Outcome State Fault Refusal :=
  .next (if !s.running asid ∨ !(s.part asid).frozen ∨ !s.launchSettled asid then s else s.removeLaunch asid)

/-! ## Watchdog -/

/-- Has PERIOD passed with no progress, while no context of the launch lies in a slot (R411)? A microsecond is 1,200 cycles. -/
def State.watchdogDue (s : State) (asid : Nat) : Bool :=
  let p := s.part asid
  let period := wfield p.wdcfg 0 32
  period != 0 && p.active && decide (p.wdLast + 1200 * period ≤ s.cycle) && !s.dies.toList.any fun (d : Die) => d.slots.any fun e => e.2.asid == asid

/-- WATCHDOG: the launch is frozen, and a notice of KIND 6 is written (R411). -/
def execWatchdog (asid : Nat) (s : State) : Host.Outcome State Fault Refusal :=
  .next (
    if s.running asid && s.watchdogDue asid then
      (s.modPart asid fun p => { p with frozen := true }).pushRec (coreDie ((s.lcoreCore asid 0).getD 0))
        { kind := 6, slot := 0, cause := Cause.watchdog.code, asid := asid, lcore := 0, tid := 0 }
    else s)

/-- Steps due at the starts and ends of launches. -/
def State.dueLaunch (s : State) : List Event :=
  (if s.pkg.launchReqs.any fun r => s.launchReady r then [.launchStart] else []) ++
  s.parts.flatMap fun (a, p) =>
    (if p.stopping && !p.frozen && s.launchSettled a then [.launchEnd a] else []) ++
    (if s.watchdogDue a then [.watchdog a] else [])

end Sys2Proof.Machine
end

