-- ==== Sys2Proof/Machine/Timed.lean ====
section
/-! DEFINITION. Timed accesses: STVA, LDNB and TWAIT (R115 to R123, R241), their checks (R121, R131), and what a home does with them. -/

namespace Sys2Proof.Machine

/-! ## Issue -/

/-- The checks of R121 and R131 on a timed access with time t. One that goes on after a hold has passed them (R44). -/
def State.timedReach (s : State) (kind : AccKind) (n : Nat) (va t : Word) : Except Miss Hit :=
  let sp := wfield va 60 4
  if s.cur.redo.isSome then s.reach kind n n va else
  let r := s.check (s.agent s.curCore) kind n n va
  let before : Bool := match r with
    | .error (.cause c _) => c == .priv || c == alignCause kind
    | _ => false
  let extra := decide ((s.gtime s.curCore).toNat + 2 ^ 28 < t.toNat) || sp == 6 || sp == 7 || (sp == 5 && !s.pkg.skewxValid)
  if before then r
  else if extra then .error (.cause .access { d0 := va, d1 := BitVec.ofNat 64 n })
  else
    let unlocked := !s.locked s.curCore && wfield s.cur.dlmode 3 1 == 0
    let r : Except Miss Hit := match r with
      | .error .busy => (match s.streamKey va with | some k => .ok (.mem k) | none => .error .busy)
      | r => r
    match r with
    | .error (.cause .eccunc d) => if unlocked then .error (.cause .timelost {}) else .error (.cause .eccunc d)
    | .error (.cause c d) => .error (.cause c d)
    | .error .busy => .error .busy
    | r => if unlocked then .error (.cause .timelost {}) else r

/-- The timed access as it leaves the issuing thread: what R124, R125 and R132 say it carries. -/
def State.timedOf (s : State) (store : Bool) (n : Nat) (va t data : Word) (d : Reg) (loc : Nat) : Timed :=
  let c := s.curCore
  { store := store, loc := loc, size := n, data := data, t := t
    skew := if wfield va 60 4 = 5 then s.pkg.skewxBound else s.pkg.skewb
    uid := s.cur.uid, tid := s.cur.tid, core := c, thread := s.curThread.val, reg := d, va := va, dlmode := s.cur.dlmode
    throttle := s.throttled c, unlocked := !s.locked c, arr := 0, onTime := false, order := s.nextAge, op := s.cur.opSeq, peer := none }

/-- Sends a timed access to its home's input, by the loopback port where it names the core's own coordinates, or to the peer (R58, R115, R132). -/
def State.sendTimed (s : State) (a : Timed) (h : Hit) : State :=
  let s := { s with nextAge := s.nextAge + 1 }
  match h with
  | .mem k =>
    if s.ownName a.va && !s.streaming k then s.loopSend k a.size (.timed { a with loc := k })
    else s.modTimed (homeOf k) fun b => { b with incoming := b.incoming ++ [{ a with loc := k }] }
  | _ =>
    let id := s.pkg.nextRemote
    let q : RemoteReq :=
      { remoteReq a.store false true a.va a.size a.reg a.data with
        id := id, asid := s.curK.asidN, uid := a.uid, core := a.core, thread := a.thread, port := s.portOf s.curK.asidN a.va, timed := some a }
    s.modPkg fun p => { p with remotes := p.remotes ++ [q], nextRemote := id + 1 }

/-- The uncorrectable granule that a timed access would meet where it now leads (R73). -/
def State.timedBad (s : State) (store : Bool) (n : Nat) : Hit → Option (Nat × Nat)
  | .mem k => (if store then s.badPartly k n else s.badIn k n).map fun g => (g, k)
  | _ => none

/-- A timed access that passes its checks: data breakpoints (R416), the watermark stall (R97) and its place behind the unit's earlier accesses (R80, R82),
and a granule that has failed already, which it meets precisely (R73); then it leaves the thread. -/
def timedAccess (store : Bool) (n : Nat) (va t data : Word) (d : Reg) (s : State) : Res :=
  let kind := if store then AccKind.store else .load
  match s.timedReach kind n va t with
  | .error m => m.res kind va s
  | .ok h =>
    if s.bpData (!store) store va n then .trap .bkpt {} s
    else if s.interlocked store va n || s.mustFollow s.cur.uid store va n h || (s.ownName va && s.curK.loopFull) then .stay s
    else match s.timedBad store n h with
      | some (g, k) => s.eccTrap g k n
      | none =>
        let a := s.timedOf store n va t data d 0
        let s := (s.touchTlb s.curCore va).sendTimed a h
        .retire (if store then (s.addOp va 5 0).2 else (s.sampledAt s.curCore 0).modCur fun x => { x.markEmpty d with ldnbs := if d = 0 then x.ldnbs else x.ldnbs ++ [d.toNat] })

/-- LDNB (R241). -/
def ldnb (n : Nat) (d a b : Reg) (ma mb : Bool) (s : State) : Host.Outcome State Fault Refusal :=
  issue [(a, ma), (b, mb)] (some d) (fun s => timedAccess false n (s.cur.xr a) (s.cur.xr b) 0 d s) s

/-- STVA (R241): A address, B data, C time. -/
def stva (n : Nat) (a b c : Reg) (mq : Bool) (s : State) : Host.Outcome State Fault Refusal :=
  issue [(a, mq), (b, mq), (c, mq)] none (fun s => timedAccess true n (s.cur.xr a) (s.cur.xr c) (s.cur.xr b) 0 s) s

def execLdnbB (d a b : Reg) (ma mb : Bool) (s : State) : Host.Outcome State Fault Refusal := ldnb 1 d a b ma mb s
def execLdnbH (d a b : Reg) (ma mb : Bool) (s : State) : Host.Outcome State Fault Refusal := ldnb 2 d a b ma mb s
def execLdnbW (d a b : Reg) (ma mb : Bool) (s : State) : Host.Outcome State Fault Refusal := ldnb 4 d a b ma mb s
def execLdnbD (d a b : Reg) (ma mb : Bool) (s : State) : Host.Outcome State Fault Refusal := ldnb 8 d a b ma mb s
def execStvaB (a b c : Reg) (mq : Bool) (s : State) : Host.Outcome State Fault Refusal := stva 1 a b c mq s
def execStvaH (a b c : Reg) (mq : Bool) (s : State) : Host.Outcome State Fault Refusal := stva 2 a b c mq s
def execStvaW (a b c : Reg) (mq : Bool) (s : State) : Host.Outcome State Fault Refusal := stva 4 a b c mq s
def execStvaD (a b c : Reg) (mq : Bool) (s : State) : Host.Outcome State Fault Refusal := stva 8 a b c mq s

/-- TWAIT (R123): it completes at once where T is reached; else the thread's issue is held until its wake. -/
def execTwait (a : Reg) (ma : Bool) (s : State) : Host.Outcome State Fault Refusal :=
  issue [(a, ma)] none (fun s =>
    let t := s.cur.xr a
    if t.toNat ≤ (s.gtime s.curCore).toNat then .retire s else .stay (s.modCur fun x => { x with wait := .twait t })) s

/-- The thread's clock has reached T: TWAIT completes (R123). -/
def execTwaitWake (core thread : Nat) (s : State) : Host.Outcome State Fault Refusal :=
  match (s.ctx core thread).wait with
  | .twait t =>
    if (s.thr core thread).running ∧ t.toNat ≤ (s.gtime core).toNat then .next (s.retireAt core thread ((s.ctx core thread).pc + 4)) else .next s
  | _ => .next s

/-! ## At the home -/

/-- The access as it enters the timed buffer: its arrival, and the bits the home sets (R116, R124, R131). -/
def State.enterTimed (s : State) (h : Nat) (a : Timed) : Timed :=
  { a with
    arr := s.homeTime h, onTime := decide ((s.homeTime h).toNat ≤ a.t.toNat + a.skew)
    throttle := a.throttle || s.throttled (homeCore h), unlocked := a.unlocked || !s.locked (homeCore h) }

/-- Is the home a scratchpad that is being streamed: it acts on nothing before the move (R133, R408)? -/
def State.homeMoves (s : State) (h : Nat) : Bool := (s.core h).migrating.isSome

/-- The first waiting access of a kind whose part of the buffer has room (R122). -/
def State.timedEntrant (s : State) (h : Nat) (store : Bool) : Option Timed :=
  let b := s.timedBuf h
  if s.homeMoves h ∨ homeCap h ≤ (if store then b.stores else b.loads).length then none else b.incoming.find? fun a => a.store == store

/-- An STVA enters its home's timed buffer (R116); one that is not on time is applied at once, behind what is due at the ticks that have passed (R118, R124). -/
def execStvaArrival (home : Nat) (s : State) : Host.Outcome State Fault Refusal :=
  match s.timedEntrant home true with
  | none => .next s
  | some a =>
    let a' := s.enterTimed home a
    let s := s.modTimed home fun b => { b with incoming := b.incoming.erase a, stores := if a'.onTime then b.stores ++ [a'] else b.stores }
    .next (if a'.onTime then s else (s.runHome home true).applyTimed home a')

/-- An LDNB enters its home's timed buffer (R117). -/
def execLdnbArrival (home : Nat) (s : State) : Host.Outcome State Fault Refusal :=
  match s.timedEntrant home false with
  | none => .next s
  | some a => .next (s.modTimed home fun b => { b with incoming := b.incoming.erase a, loads := b.loads ++ [s.enterTimed home a] })

/-- The home ticks of one cycle (R118). -/
def execHomeTick (home : Nat) (s : State) : Host.Outcome State Fault Refusal := .next (if s.homeMoves home then s else s.runHome home true)

/-! ## Outcomes at the issuing core -/

/-- Is a DLMISS of the unit pending? -/
def Ctx.missPending (x : Ctx) : Bool := x.pend.any fun p => p.cause == .dlmiss

/-- The core's statistics and record after an outcome (R126 to R129). `rec`: the miss is recorded; `more`: a DLMISS is already pending. -/
def Core.countMiss (k : Core) (a : Timed) (rec more : Bool) : Core :=
  let st := if a.throttle then wput k.dlstat 24 24 (satN 24 (wfield k.dlstat 24 24 + 1)) else wput k.dlstat 0 24 (satN 24 (wfield k.dlstat 0 24 + 1))
  let k := { k with dlstat := st }
  if !rec then k
  else if wfield k.dlrecs 63 1 = 1 then { k with dlrecs := wput k.dlrecs 62 1 1 }
  else
    { k with
      dlrecs := pack [(63, 1, 1), (62, 1, b2n more ||| wfield k.dlrecs 62 1), (61, 1, b2n a.throttle), (60, 1, b2n a.unlocked), (0, 48, a.tid)]
      dlrect := a.t, dlrech := a.arr, dlreca := a.va }

/-- DLMISS against the issuing task (R129): at most one is pending. A running unit's may be routed at once (R271); of a suspended unit it waits until
the task runs again. -/
def State.raiseMiss (s : State) (asid uid tid : Nat) : State :=
  match s.taskUid asid uid tid with
  | none => s.modPart asid fun p => { p with missed := if p.missed.contains tid then p.missed else p.missed ++ [tid] }
  | some u =>
    if (s.unitCtx u).any Ctx.missPending then s
    else
      let pend := fun (s : State) => s.modUnit u fun x => { x with pend := x.pend ++ [{ cause := .dlmiss, det := {} }] }
      match s.findUnit u with
      | some (c, t) =>
        match s.routeCause c t .dlmiss (s.ctx c t).pc with
        | some s => s
        | none => pend s
      | none => pend s

/-- Is a DLMISS pending against the task? -/
def State.missWaits (s : State) (asid uid tid : Nat) : Bool :=
  match s.taskUid asid uid tid with
  | some u => (s.unitCtx u).any Ctx.missPending
  | none => (s.part asid).missed.contains tid

/-- An STVA outcome reaches the issuing core (R124 to R129, R131). -/
def execDeadlineOutcome (core : Nat) (s : State) : Host.Outcome State Fault Refusal :=
  match (s.core core).outcomes with
  | [] => .next s
  | o :: rest =>
    let a := o.acc
    let asid := (s.core core).asidN
    let mode := wfield a.dlmode 0 2
    let mode := if mode = 0 ∧ (s.launchOf core).deterministic then 1 else mode
    let more := s.missWaits asid a.uid a.tid
    let s := s.modCore core fun k => ({ k with outcomes := rest } : Core).countUnlocked a.unlocked
    let s := s.setOp a.uid a.op 2 none
    if !o.missed then .next s
    else
      let s := s.modCore core fun k => k.countMiss a (mode != 0) more
      .next (if 2 ≤ mode then s.raiseMiss asid a.uid a.tid else s)

/-- Homes that hold or await a timed access. -/
def State.timedHomes (s : State) : List Nat :=
  let busy := fun (b : TimedBuf) => !(b.incoming.isEmpty && b.stores.isEmpty && b.loads.isEmpty)
  (s.cores.filterMap fun p => if busy p.2.timed then some p.1 else none) ++
  (s.bays.flatMap fun p => (if busy p.2.pool then [10000 + 2 * p.1] else []) ++ (if busy p.2.vault then [10001 + 2 * p.1] else [])) ++
  ((upTo 4).filterMap fun d => if busy (s.die d).mc then some (20000 + d) else none)

/-- The steps that are due at homes. -/
def State.dueTimed (s : State) : List Event :=
  s.timedHomes.flatMap fun h =>
    let b := s.timedBuf h
    (if (s.timedEntrant h true).isSome then [.stvaArrival h] else []) ++ (if (s.timedEntrant h false).isSome then [.ldnbArrival h] else []) ++
    (if !s.homeMoves h && (b.stores ++ b.loads).any (s.timedDue h) then [.homeTick h] else [])

/-- Outcomes, and TWAITs whose time has come. -/
def State.dueOutcomes (s : State) : List Event :=
  s.cores.flatMap fun (c, k) =>
    (if k.outcomes.isEmpty then [] else [.deadlineOutcome c]) ++
    ((upTo 5).filterMap fun t =>
      match (k.thr t).ctx.wait with
      | .twait w => if (k.thr t).running ∧ w.toNat ≤ (s.gtime c).toNat then some (.twaitWake c t) else none
      | _ => none)

end Sys2Proof.Machine
end

