-- ==== Sys2Proof/Machine/MemEvents.lean ====
section
/-! DEFINITION. What happens to accesses without an instruction of their thread: page walks (R29), the fault-hold queue and its commands (R41 to
R46), translation invalidation (R49, R50), completions of remote accesses (R35, R36, R132), and inbound RMA (R103, R427). -/

namespace Sys2Proof.Machine

/-! ## Walks -/

/-- A walk for a core ends (R29): a valid translation is cached for it, and the non-leaf entries beside the walkers (R31); a failing one leaves nothing else. -/
def execPageWalk (core asid va : Nat) (s : State) : Host.Outcome State Fault Refusal :=
  .next (if s.running asid && (s.core core).asid == some asid && decide (va < 2 ^ 48) then s.cacheWalk core asid va else s)

/-! ## Notifications -/

/-- Is the notification ring full (R42)? -/
def Die.nringFull (d : Die) : Bool := decide (512 ≤ (d.nwr + 1024 - d.nrd) % 1024)

/-- The first notification whose record waits is written into the ring, and the hold class is raised (R42). -/
def execNotificationRecord (die : Nat) (s : State) : Host.Outcome State Fault Refusal :=
  let d := s.die die
  match d.notifs.find? fun n => !n.written with
  | none => .next s
  | some n =>
    if 4 ≤ die ∨ d.nringFull then .next s
    else
      let count := (d.held.filter fun h => h.hid == n.hid).length
      .next ((s.modDie die fun e =>
        { e with
          nring := tput e.nring (e.nwr % 512) (notifBits die n count)
          nwr := (e.nwr + 1) % 1024
          notifs := e.notifs.map fun (m : Notif) => if m.hid = n.hid then { m with written := true } else m }).raiseIrq die 17)

/-! ## Releasing and killing what is held -/

/-- The cores that lie on a die. -/
def State.coresOn (s : State) (die : Nat) : List Nat := (s.cores.map (·.1)).filter fun c => coreDie c == die

/-- Applies f to every core of a die. -/
def State.mapDie (s : State) (die : Nat) (f : Core → Core) : State :=
  { s with cores := tmap s.cores fun c k => if coreDie c = die then f k else k }

/-- A command without the hold, where it has this one. -/
def Cmd.freeHold (q : Cmd) (uid hid : Nat) : Cmd := if q.uid = uid ∧ q.hid = some hid then { q with hid := none } else q

/-- A copy without the hold, on its source pages, its packets and its barrier count. -/
def CopyOp.freeHold (o : CopyOp) (uid hid : Nat) : CopyOp :=
  if o.cmd.uid ≠ uid then o
  else
    { o with
      barHid := if o.barHid = some hid then none else o.barHid
      gaps := o.gaps.map fun g => if g.hid = some hid then { g with hid := none } else g
      packets := tmap o.packets fun _ (p : Packet) => if p.hid = some hid then { p with hid := none } else p }

/-- Every engine access of a unit that waits under a hold id on a die may be made again (R44). -/
def State.freeHold (s : State) (die uid hid : Nat) : State :=
  let s := s.mapDie die fun k =>
    { k with
      mq := k.mq.map fun q => q.freeHold uid hid
      vsq := k.vsq.map fun q => q.freeHold uid hid
      copies := tmap k.copies fun _ o => o.freeHold uid hid
      threads := k.threads.map fun th => { th with past := th.past.map fun q => q.freeHold uid hid } }
  s.modUnit uid fun x => { x with vq := x.vq.map fun q => q.freeHold uid hid, ops := x.ops.map fun (o : InFlight) => if o.hid = hid then { o with hid := 0 } else o }

/-- The queue that a number among the holders of R41 names, but for the copy port (`Port.holder`). -/
def holderPort (core queue uid : Nat) : Port :=
  match queue with
  | 0 => .mq core
  | 1 => .vsq core
  | 3 => .vq uid
  | n => .past core (n - 4)

/-- The first access of a copy that stalls for an entry, by the order of stalling: of a source page, or of a packet with its number. -/
def CopyOp.firstStall (o : CopyOp) : Option (Nat × Option Nat) :=
  argMin (fun e => e.1) (((o.gaps.filter fun g => g.hid == some noEntry).map fun g => (g.stamp, none)) ++
    ((o.packets.filter fun p => p.2.hid == some noEntry).map fun p => (p.2.stamp.getD 0, some p.1)))

/-- It waits under a hold id now, or, with none, is made again. -/
def CopyOp.setStall (o : CopyOp) (hid : Option Nat) : CopyOp :=
  match o.firstStall with
  | some (_, some i) => { o with packets := tmod o.packets i fun (p : Packet) => { p with hid := hid } }
  | some (n, none) => { o with gaps := o.gaps.map fun g => if g.stamp = n then { g with hid := hid } else g }
  | none => if o.barHid = some noEntry then { o with barHid := hid } else o

/-- The engine access that stalled first under a holder waits under a hold id now, or, with none, is made again (R46). -/
def State.setStalled (s : State) (core queue uid : Nat) (hid : Option Nat) : State :=
  if queue = 2 then
    match argMin (fun e => (e.2.firstStall.map (·.1)).getD s.nextAge)
        ((s.core core).copies.filter fun e => e.2.cmd.uid == uid && (e.2.firstStall.isSome || e.2.barHid == some noEntry)) with
    | some e => s.modCopy core e.1 fun o => o.setStall hid
    | none => s
  else
    let p := holderPort core queue uid
    match s.queueOf p with
    | q :: _ => if q.uid = uid ∧ q.hid = some noEntry then s.putHead p { q with hid := hid } else s
    | [] => s

/-- The state in which a request goes to the peer again. -/
def State.resend (s : State) (req : Nat) : State :=
  s.modPkg fun p => { p with remotes := p.remotes.map fun (r : RemoteReq) => if r.id = req then { r with held := false } else r }

/-- A thread that was held issues on, from condition 9 of R40 (R44). -/
def State.releaseThread (s : State) (uid : Nat) : State := s.modUnit uid fun x => if x.wait = .held then { x with wait := .no } else x

/-- A held access is reissued from condition 9 on (R44): the thread goes on with its instruction, the engine makes its access again, the request goes to
the peer again. -/
def State.reissue (s : State) (die : Nat) (h : Held) : State :=
  match h.who with
  | .thread uid => s.releaseThread uid
  | .engine _ _ uid => s.freeHold die uid h.hid
  | .request req => s.resend req

/-- The detail words of a killed access (R393). -/
def Held.detail (h : Held) (cause : Cause) : Detail :=
  match cause with
  | .fetchfault => { d0 := h.va }
  | .access => { d0 := h.va, d1 := BitVec.ofNat 64 h.size }
  | _ => { d0 := h.va, d1 := BitVec.ofNat 64 h.reason }

/-- An elementwise command whose held page is killed ends with the cause, once the elements before the held one are written: those that it has read, where the
held access is a read (R40, R45). -/
def Cmd.killElem (q : Cmd) (c : Cause) (d : Detail) : Cmd :=
  { q with hid := none, redo := none, fault := some (c, d), kept := if q.redo.any (·.write) then [] else q.kept }

/-- The command at the head of a queue ends with the cause of its killed page: an MM spoils its region (R315), MLOADB leaves the units it has
read (R316), an MREDB ends all four (R321), and an elementwise one writes what it has read before the killed element (R318, R296). -/
def State.killHead (s : State) (p : Port) (q0 : Cmd) (c : Cause) (d : Detail) : State :=
  let q := { q0 with hid := none, redo := none }
  let e : EMiss := { m := .cause c d, kind := .engRead, va := 0 }
  match p with
  | .mq core =>
    if isMm q.top || q.top == 0x15 then s.mmMiss core q (s.sizeOf q q.tcw) e
    else if q.top = 0x12 then s.putHead p (q0.killElem c d)
    else if q.top = 0x14 then
      let s := s.putHead p q
      match s.redbMeet core with
      | some l => s.endRedb l (some (c, d))
      | none => s.missHead p q e
    else s.missHead p q e
  | .cq _ => s.missHead p q e
  | _ => s.putHead p (q0.killElem c d)

/-- Kills the head of a queue if it waits under the hold. -/
def State.killPort (s : State) (p : Port) (uid hid : Nat) (c : Cause) (d : Detail) : State :=
  match s.queueOf p with
  | q :: _ => if q.uid = uid ∧ q.hid = some hid then s.killHead p q c d else s
  | [] => s

/-- A copy whose accesses under a hold are killed (R337): a source page ends the reading there, a packet ends with every later one, and a barrier count is not
applied. -/
def CopyOp.kill (o : CopyOp) (uid hid : Nat) (c : Cause) (d : Detail) : CopyOp :=
  let o := match argMin Gap.first (o.gaps.filter fun g => g.hid == some hid) with
    | some g => o.failSource g.first c d
    | none => o
  let o := match argMin (fun (p : Nat × Packet) => p.2.first) (o.packets.filter fun p => p.2.hid == some hid) with
    | some p => o.fail p.1 c d
    | none => o
  (if o.barHid = some hid then { (o.failFrom 0 c d) with barWait := 0 } else o).freeHold uid hid

/-- Kills the accesses of a copy of a core that wait under the hold. -/
def State.killCopy (s : State) (core op uid hid : Nat) (c : Cause) (d : Detail) : State :=
  match s.copyOp core op with
  | none => s
  | some o =>
    if o.cmd.uid = uid ∧ (o.barHid = some hid ∨ (o.gaps.any fun g => g.hid == some hid) ∨ o.packets.any fun p => p.2.hid == some hid) then
      (s.modCopy core op fun o => o.kill uid hid c d).settleCopy core op
    else s

/-- Kills every engine access of a unit that waits under a hold id on a die. -/
def State.killEngine (s : State) (die uid hid : Nat) (c : Cause) (d : Detail) : State :=
  let s := (s.coresOn die).foldl (fun s k =>
    let s := (s.killPort (.mq k) uid hid c d).killPort (.vsq k) uid hid c d
    let s := (upTo 4).foldl (fun s t => s.killPort (.past k t) uid hid c d) s
    ((s.core k).copies.map (·.1)).foldl (fun s op => s.killCopy k op uid hid c d) s) s
  s.killPort (.vq uid) uid hid c d

/-- A request to a peer leaves the list. -/
def State.dropRemote (s : State) (req : Nat) : State := s.modPkg fun p => { p with remotes := p.remotes.filter fun (q : RemoteReq) => q.id ≠ req }

/-- A request to a peer that is given up: a copy ends with the cause; a load, an LDNB or an STVA, whose thread has gone on, stops its unit at the next
boundary, and an STVA reports no outcome (R133). -/
def State.dropRequest (s : State) (r : RemoteReq) (c : Cause) (d : Detail) : State :=
  let s := s.dropRemote r.id
  match r.copy with
  | some (op, pkt) => (s.modCopy r.core op fun o => if r.write then o.fail pkt c d else o.failSource o.read c d).settleCopy r.core op
  | none =>
    let s := match r.timed with
      | some a => if a.store then s.setOp a.uid a.op 3 (some c) else s.modUnit a.uid fun x => { x.markFull a.reg with ldnbs := x.ldnbs.erase a.reg.toNat }
      | none => s.modUnit r.uid fun x => x.markFull r.dest
    s.pendCause r.uid c d

/-- A held access is turned into a stop (R45). -/
def State.killHeld (s : State) (die : Nat) (cause : Cause) (h : Held) : State :=
  let d := h.detail cause
  match h.who with
  | .thread uid =>
    match s.findUnit uid with
    | some (c, t) => if (s.ctx c t).wait = .held then (s.modCtx c t fun x => { x with wait := .no }).takeStop c t 0 (some cause) d else s
    | none => s
  | .engine _ _ uid => s.killEngine die uid h.hid cause d
  | .request req =>
    match s.pkg.remotes.find? fun (r : RemoteReq) => r.id == req with
    | some r => s.dropRequest r cause d
    | none => s

/-- Closes a notification and does with each of its entries, in the order in which they joined, what the command asks. -/
def State.closeNotif (s : State) (die : Nat) (n : Notif) (kill : Bool) : State :=
  let hs := (s.die die).held.filter fun h => h.hid == n.hid
  let s := s.modDie die fun d => { d with held := d.held.filter fun h => h.hid ≠ n.hid, notifs := d.notifs.filter fun m => m.hid ≠ n.hid }
  hs.foldl (fun s h => if kill then s.killHeld die n.cause h else s.reissue die h) s

/-- FHCMD OP 0x1 and 0x2 (R43). -/
def State.fhHid (s : State) (die hid : Nat) (kill : Bool) : State :=
  match (s.die die).notifs.find? fun n => n.hid == hid with
  | some n => s.closeNotif die n kill
  | none => s.modDie die fun d => { d with fhErr := true }

/-- FHCMD OP 0x3 and 0x4: every notification of the launch that is open now (R43). -/
def State.fhAsid (s : State) (die asid : Nat) (kill : Bool) : State :=
  ((s.die die).notifs.filter fun n => n.asid == asid).foldl (fun s n => s.closeNotif die n kill) s

def execFhReplayHid (die hid : Nat) (s : State) : Host.Outcome State Fault Refusal := .next (s.fhHid die hid false)
def execFhKillHid (die hid : Nat) (s : State) : Host.Outcome State Fault Refusal := .next (s.fhHid die hid true)
def execFhReplayAsid (die asid : Nat) (s : State) : Host.Outcome State Fault Refusal := .next (s.fhAsid die asid false)
def execFhKillAsid (die asid : Nat) (s : State) : Host.Outcome State Fault Refusal := .next (s.fhAsid die asid true)

/-- The reason for which a stalled access is still not translated, if any (R29). -/
def State.stillFails (s : State) (die : Nat) (h : Held) : Option Nat :=
  match (walk s die h.asid h.addr).res with
  | .fail r => some r
  | .ecc _ => none
  | .page _ _ w x => if h.kind.writes && !w then some 4 else if h.kind = .fetch && !x then some 5 else none

/-- The agent of a stalled access goes on: under an entry's hold id, or with its access made again. -/
def State.unstall (s : State) (who : Holder) (hid : Option Nat) : State :=
  match who with
  | .thread uid => if hid.isNone then s.releaseThread uid else s
  | .engine core queue uid => s.setStalled core queue uid hid
  | .request req => if hid.isNone then s.resend req else s

/-- The oldest stalled access is tried again when an entry is free (R46): it is made where its translation is now valid or the peer may answer anew, and takes
the entry, under the reason that it meets now, where it is not. -/
def execFaultHoldRetry (die : Nat) (s : State) : Host.Outcome State Fault Refusal :=
  let d := s.die die
  match d.stalled with
  | [] => .next s
  | h :: rest =>
    if 4096 ≤ d.held.length then .next s
    else
      let s := s.modDie die fun e => { e with stalled := rest }
      .next (match (if h.space = 4 then s.stillFails die h else none) with
        | some r =>
          let (hid, s) := (s.noteWalk die (walk s die h.asid h.addr)).parkEntry die { h with reason := r, cause := reasonCause r (h.kind = .fetch) }
          s.unstall h.who (some hid)
        | none => s.unstall h.who none)

/-! ## Invalidation -/

/-- Does a cached translation map a byte of [va, va + n) of a launch? -/
def Tlb.meets (e : Tlb) (asid va n : Nat) : Bool :=
  let sh := (levelShift e.level).1
  e.asid == asid && overlap (e.page * 2 ^ sh) (2 ^ sh) va n

/-- Does a walk-cache entry lie on the path to a byte of [va, va + n) of a launch? -/
def PathEntry.meets (e : PathEntry) (asid va n : Nat) : Bool :=
  let sh := (levelShift e.level).1
  e.asid == asid && overlap (e.pre * 2 ^ sh) (2 ^ sh) va n

/-- Does an invalidation cover what a launch's translation of [va, va + n) gave? -/
def InvCmd.covers (i : InvCmd) (asid va n : Nat) : Bool := i.scope == 3 || (i.asid == asid && (i.scope == 2 || overlap i.va i.bytes va n))

/-- Does it cover a cached translation, or a cached entry (R49)? -/
def InvCmd.coversTlb (i : InvCmd) (e : Tlb) : Bool := i.scope == 3 || (if i.scope = 2 then e.asid == i.asid else e.meets i.asid i.va i.bytes)
def InvCmd.coversPath (i : InvCmd) (e : PathEntry) : Bool := i.scope == 3 || (if i.scope = 2 then e.asid == i.asid else e.meets i.asid i.va i.bytes)

/-- Does it name a die? -/
def InvCmd.names (i : InvCmd) (die : Nat) : Bool := fieldOf i.dies die 1 == 1

/-- The die of a bay's TLB (`tlbBay`). -/
def tlbDie (bay : Nat) : Nat := if bay < 288 then bay / 72 else 0

/-- Removes what an invalidation covers from the translation caches of the dies it names, and the translations that copies there keep (R49). -/
def State.removeTlb (s : State) (i : InvCmd) : State :=
  let s := s.cores.foldl (fun s p =>
    if i.names (coreDie p.1) then s.modCore p.1 fun k =>
      { k with
        tlb := k.tlb.filter fun e => !i.coversTlb e
        copies := tmap k.copies fun _ (o : CopyOp) => if i.scope = 3 ∨ i.asid = o.cmd.asid then { o with barLoc := none } else o }
    else s) s
  let s := { s with bays := tmap s.bays fun b (e : Bay) => if i.names (tlbDie b) then { e with tlb := e.tlb.filter fun t => !i.coversTlb t } else e }
  (upTo 4).foldl (fun s d => if i.names d then s.modDie d fun e => { e with walks := e.walks.filter fun t => !i.coversPath t } else s) s

/-- Is a store of a system core from before the command still on its way (R50)? -/
def State.sysStoresOut (s : State) (i : InvCmd) : Bool :=
  s.bays.any fun b => b.2.ate.input.any fun r => decide (r.arrival ≤ i.cycle) && match r.op with | .sys _ _ store _ _ => store | _ => false

/-- An invalidation is accepted on a die and removes its translations from the dies named (R49), once the stores before it are performed (R50). -/
def State.invalidate (s : State) (die scope asid va bytes dies : Nat) : State :=
  let seq := ((s.die die).invIssued + 1) % 65536
  let i : InvCmd := { seq := seq, scope := scope, asid := asid, va := va, bytes := bytes, dies := dies, stamp := s.nextAge, cycle := s.cycle
                      rma := s.pkg.rmaIn.length, removed := true }
  let i := { i with removed := !s.sysStoresOut i }
  let s := s.modDie die fun d => { d with invIssued := seq, invPend := d.invPend ++ [i] }
  if i.removed then s.removeTlb i else s

/-- Bytes of a page of size code 0, 1 or 2 (R49). -/
def pageBytes (size : Nat) : Nat := match size with | 0 => 0x10000 | 1 => 0x200000 | _ => 0x40000000

/-- TLBINVC SCOPE 0x1 (R49): address bits below the page size are ignored; SIZE 3 makes the command an ignored one. -/
def execTlbinvPage (die asid va dies size : Nat) (s : State) : Host.Outcome State Fault Refusal :=
  let n := pageBytes size
  .next (if 3 ≤ size then s else s.invalidate die 1 asid (va / n * n) n dies)

def execTlbinvAsid (die asid dies : Nat) (s : State) : Host.Outcome State Fault Refusal := .next (s.invalidate die 2 asid 0 0 dies)

def execTlbinvAll (die dies : Nat) (s : State) : Host.Outcome State Fault Refusal := .next (s.invalidate die 3 0 0 0 dies)

/-- Is an access on its way that obtained a translation before the command removed it (R50): a timed access, a request at an ATE or at the end of a
quantum to device memory, or an inbound RMA request accepted before it (R51)? -/
def State.invWaits (s : State) (i : InvCmd) : Bool :=
  decide (0 < i.rma) ||
  let asidOf := fun (a : Timed) => match a.peer with | some p => p | none => (s.core (s.holderOf a.core)).asidN
  (s.timedBufs.any fun b => (b.incoming ++ b.stores ++ b.loads ++ b.fwd).any fun a =>
    keySpace a.loc == 7 && decide (a.order < i.stamp) && i.covers (asidOf a) (a.va.toNat % 2 ^ 48) a.size) ||
  (s.bays.any fun b => b.2.ate.input.any fun r => keySpace r.op.loc == 7 && decide (r.arrival ≤ i.cycle)) ||
  s.parts.any fun p => (i.scope == 3 || i.asid == p.1) && p.2.qreqs.any fun r => match r.op with | .bqtake loc _ => keySpace loc == 7 | _ => false

/-- Has the oldest accepted command something to do: to remove its translations, or to complete? -/
def State.invDue (s : State) (i : InvCmd) : Bool := if i.removed then !s.invWaits i else !s.sysStoresOut i

/-- The oldest accepted command completes once every access that used a removed translation has been performed (R49, R50); but for those on their way an
access is made in one step with its translation. One that waits for earlier stores removes its translations first. -/
def execTlbinvComplete (die : Nat) (s : State) : Host.Outcome State Fault Refusal :=
  match (s.die die).invPend with
  | [] => .next s
  | i :: rest =>
    .next (
      if !s.invDue i then s
      else if i.removed then s.modDie die fun d => { d with invPend := rest, invDone := i.seq }
      else
        let i := { i with removed := true, stamp := s.nextAge, cycle := s.cycle }
        (s.modDie die fun d => { d with invPend := i :: rest }).removeTlb i)

/-! ## Remote accesses -/

/-- The cause a peer reports by its code (R29, R36). -/
def peerCause (code : Nat) : Cause := if code = Cause.prot.code then .prot else if code = Cause.access.code then .access else .xlate

/-- A peer's answer to a timed access (R132): the value of an LDNB and then, or for an STVA after 8 bytes of its arrival time, a byte with bit 0
on time, bit 1 the unlocked bit, bit 2 the throttled bit. -/
def State.timedAnswer (s : State) (a : Timed) (data : List Byte) : State :=
  let n := if a.store then 8 else a.size
  let f := (nth 0 data n).toNat
  let a := { a with onTime := f % 2 = 1, unlocked := a.unlocked || fieldOf f 1 1 == 1, throttle := a.throttle || fieldOf f 2 1 == 1, arr := BitVec.ofNat 64 (leNat (data.take 8)) }
  if a.store then s.sendOutcome a
  else (s.modCore (s.holderOf a.core) fun k => k.countUnlocked a.unlocked).deliver a.uid a.reg (sext (leNat (data.take a.size)) (8 * a.size))

/-- A peer's answer to an element access of a copy. -/
def State.copyAnswer (s : State) (r : RemoteReq) (op pkt : Nat) (data : List Byte) : State :=
  let s := if r.write then
      let s := s.modCopy r.core op fun o => { o with packets := tmod o.packets pkt fun p => { p with acks := p.acks - 1 } }
      match s.copyOp r.core op with
      | none => s
      | some o =>
        match tget o.packets pkt with
        | some p =>
          if p.acks = 0 ∧ p.writes ≤ p.pos then (let (lo, hi, n) := p.range (Shape.of o.cmd.rc); s.packetDone r.core op pkt o lo hi n) else s
        | none => s
    else s.modCopy r.core op fun o =>
      let w := (Shape.of o.cmd.ra).w
      o.gotElem (if 8 ≤ w then leNat (data.take r.size) else fieldOf (leNat data) r.value.toNat w)
  s.settleCopy r.core op

/-- Has the thread gone on past the access: a load into an x register (R193, R240)? -/
def RemoteReq.goneOn (r : RemoteReq) : Bool := !r.write && !r.fp && decide (r.size ≤ 8)

/-- A peer's answer to the access of a thread (R35): a load's value is on its way to its x register; a thread that waits gets an f register's value, the
bytes of a wide read, or a store's acknowledgement. -/
def State.scalarAnswer (s : State) (r : RemoteReq) (data : List Byte) : State :=
  let v := leNat (data.take r.size)
  if r.write then s.answer r.uid id
  else if 8 < r.size then s.modUnit r.uid fun x => { x with wide := takeFill 0 r.size data, wait := .no }
  else if r.fp then s.answer r.uid fun x => x.setF r.dest (BitVec.ofNat 64 v)
  else s.deliver r.uid r.dest (loadValue r.signed r.size v)

/-- The access of a thread that waits is held: the thread issues it again when it is replayed, and has the instruction not yet executed until then (R44,
R47). -/
def State.holdWaiting (s : State) (r : RemoteReq) (park : State → Holder → State) : State :=
  let s := s.dropRemote r.id
  match s.findUnit r.uid with
  | some (c, t) =>
    if (s.thr c t).running then
      let x := s.ctx c t
      let word := match s.check (s.agent c) .fetch 1 4 x.pc with | .ok (.mem k) => some (BitVec.ofNat 32 (s.readLe k 4)) | _ => none
      park (s.modCtx c t fun x => { x with wait := .held, redo := word.map fun w => { word := w, va := r.va, addr := r.va.toNat } }) (.thread r.uid)
    else s.modUnit r.uid fun x => { x with wait := .no }
  | none => s.modUnit r.uid fun x => { x with wait := .no }

/-- A remote access that failed is held at the requesting die (R36). -/
def State.holdRemote (s : State) (r : RemoteReq) (reason : Nat) (cause : Cause) : State :=
  let kind : AccKind := if r.copy.isSome then (if r.write then .engWrite else .engRead) else if r.write then .store else .load
  let park := fun (s : State) (who : Holder) =>
    (s.parkSized (coreDie r.core) r.asid kind r.va.toNat 5 (wfield r.va 48 8) (wfield r.va 0 48) reason r.size cause who).2
  if r.copy.isSome ∨ r.timed.isSome ∨ r.goneOn then
    park (s.modPkg fun p => { p with remotes := p.remotes.map fun (q : RemoteReq) => if q.id = r.id then { q with held := true } else q }) (.request r.id)
  else s.holdWaiting r park

/-- Has an access to a peer come to its turn: scalar accesses of a launch by one port are delivered, and answered, in order (R67)? A timed one is answered when
the peer has performed it (R132), whatever went before. -/
def State.remoteTurn (s : State) (r : RemoteReq) : Bool :=
  r.copy.isSome || r.timed.isSome || !s.pkg.remotes.any fun q =>
    q.copy.isNone && q.timed.isNone && !q.held && decide (q.id < r.id) && q.asid == r.asid && q.port == r.port && wfield q.va 48 8 == wfield r.va 48 8

/-- A remote access comes back (R35, R36): status 0 it was performed; 1 a negative completion of the peer's translation with its cause, held with
reason 6; otherwise a transport failure, held with reason 7. The peer's own reason is not kept: reason 6 stands for it. -/
def execRemoteCompletion (req status _reason cause : Nat) (data : List Byte) (s : State) : Host.Outcome State Fault Refusal :=
  match s.pkg.remotes.find? fun (r : RemoteReq) => r.id == req && !r.held && s.remoteTurn r with
  | none => .next s
  | some r =>
    .next (
      if status = 0 then
        let s := s.dropRemote req
        match r.copy, r.timed with
        | some (op, pkt), _ => s.copyAnswer r op pkt data
        | none, some a => s.timedAnswer a data
        | none, none => s.scalarAnswer r data
      else if status = 1 then s.holdRemote r 6 (peerCause cause)
      else s.holdRemote r 7 .access)

/-! ## Inbound -/

/-- What an inbound access reaches, as (key, length) pieces of at most 64 KiB that no page bounds cross, translated by the launch's tables beside die 0 (R34,
R103; log 62); or the reason of a failure, 8 for an entry that cannot be read, with its granule. -/
def State.rmaWalk (s : State) (asid : Nat) (write : Bool) : Nat → Nat → Nat → Except (Nat × Option Nat) (List (Nat × Nat))
  | 0, _, _ => .ok []
  | fuel + 1, va, n =>
    if n = 0 then .ok []
    else
      let m := min n (65536 - va % 65536)
      match (walk s 0 asid (va % 2 ^ 48)).res with
      | .fail e => .error (e, none)
      | .ecc g => .error (8, some g)
      | .page level frame w _ =>
        if write && !w then .error (4, none)
        else (s.rmaWalk asid write fuel (va + m) (n - m)).map fun l => (hbmKey (frame + va % 2 ^ (levelShift level).1), m) :: l

def State.rmaPieces (s : State) (asid va : Nat) (write : Bool) (n : Nat) : Except (Nat × Option Nat) (List (Nat × Nat)) :=
  if !s.running asid then .error (0, none) else s.rmaWalk asid write (n / 65536 + 2) va n

/-- Pieces cut at the bounds of lines of 64 bytes. -/
def lineParts (ps : List (Nat × Nat)) : List (Nat × Nat) :=
  ps.flatMap fun p => (linesOf p.1 p.2).map fun l => (max p.1 l, min (p.1 + p.2) (l + 64) - max p.1 l)

/-- Bytes are written to parts of lines, in order: at once, or, where an ATE holds the line, in their turn there (R69). -/
def State.rmaWrite (s : State) : List (Nat × Nat) → List Byte → State
  | [], _ => s
  | (k, n) :: r, bs =>
    let now := bs.take n
    (if s.lineHeld k then s.sendPut (ateRankOther 3 0) 0 0 k n (leNat now) (2 ^ (8 * n) - 1) none else s.writeBytes k now).rmaWrite r (bs.drop n)

/-- The first inbound request is done with: the invalidations that it was under way for wait for one less (R51). -/
def State.rmaPop (s : State) : State :=
  let s := s.modPkg fun p => { p with rmaIn := p.rmaIn.drop 1 }
  { s with dies := s.dies.map fun (d : Die) => { d with invPend := d.invPend.map fun (i : InvCmd) => { i with rma := i.rma - 1 } } }

/-- Writes or reads the pieces of an inbound access: a write is acknowledged, and leaves its place, once it is performed. -/
def State.rmaMemory (s : State) (r : RmaReq) (ps : List (Nat × Nat)) : State :=
  match ps.findSome? fun p => if r.write then s.badPartly p.1 p.2 else s.badIn p.1 p.2 with
  | some _ => (ps.foldl (fun s p => s.logRange p.1 p.2) s.rmaPop).send (.rmaFail r.asid r.va 8)
  | none =>
    if r.write then
      let t := s.rmaWrite (lineParts ps) r.data
      if t.putsOut 0 0 then t.modPkg fun p => { p with rmaIn := { r with sent := true } :: p.rmaIn.drop 1 } else t.rmaPop.send (.rmaWritten r.asid r.va)
    else ((ps.foldl (fun s p => s.correct p.1 p.2) s.rmaPop).dropTurns 0 0).send
      (.rmaRead r.asid r.va (ps.flatMap fun p => (upTo p.2).map fun i => s.seenByte 0 0 (p.1 + i)) false)

/-- A peer's timed access enters at its home (R132): under the greater of the two bounds, and with the unlocked bit where this package's bound is not valid. -/
def State.rmaTimed (s : State) (r : RmaReq) (m : RmaTime) (k : Nat) : State :=
  let a : Timed :=
    { store := r.write, loc := k, size := r.size, data := BitVec.ofNat 64 (leNat r.data), t := m.t, skew := max m.bound s.pkg.skewxBound, uid := 0, tid := 0, core := 0, thread := 0
      reg := 0, va := r.va, dlmode := 0, throttle := m.throttle, unlocked := !s.pkg.skewxValid, arr := 0, onTime := false, order := s.nextAge, op := 0, peer := some r.asid }
  { s with nextAge := s.nextAge + 1 }.modTimed (homeOf k) fun b => { b with incoming := b.incoming ++ [a] }

/-- The first inbound RMA access is applied at its home (R103), or answered with the reason of its translation, held nowhere (R36). A read of a line that an ATE
holds waits for its turn there, and a write goes on when it is performed there (R69). -/
def execRmaInbound (s : State) : Host.Outcome State Fault Refusal :=
  match s.pkg.rmaIn with
  | [] => .next s
  | r :: _ =>
    let t := if s.running r.asid then s.walkedAt r.asid (r.va.toNat % 2 ^ 48) r.size else s
    .next (
      if r.sent then (if s.putsOut 0 0 then s else s.rmaPop.send (.rmaWritten r.asid r.va))
      else match s.rmaPieces r.asid r.va.toNat r.write r.size with
        | .error (e, g) => (g.elim t.rmaPop fun g => t.rmaPop.logRange g 1).send (.rmaFail r.asid r.va e)
        | .ok ps =>
          match r.timed, ps with
          | some m, (k, _) :: _ => t.rmaPop.rmaTimed r m k
          | _, _ =>
            match (if r.write then none else (lineParts ps).find? fun p => s.turnWait 0 0 p.1 false) with
            | some p => s.askTurn (ateRankOther 3 0) 0 0 p.1 none
            | none => t.rmaMemory r ps)

/-- A request that uses a part of UET the device does not support is answered so (R427). -/
def execUetUnsupported (req : Nat) (s : State) : Host.Outcome State Fault Refusal :=
  .next (s.send (.notSupported req))

/-! ## What is due -/

/-- Steps due at the fault-hold queues, the invalidations and the inbound accesses. -/
def State.dueMem (s : State) : List Event :=
  ((upTo 4).flatMap fun i =>
    let d := s.die i
    (if !d.nringFull && d.notifs.any fun n => !n.written then [.notificationRecord i] else []) ++
    (if !d.stalled.isEmpty && decide (d.held.length < 4096) then [.faultHoldRetry i] else []) ++
    (if d.invPend.head?.any s.invDue then [.tlbinvComplete i] else [])) ++
  (if s.pkg.rmaIn.isEmpty then [] else [.rmaInbound])

end Sys2Proof.Machine
end

