-- ==== Sys2Proof/Machine/Message.lean ====
section
/-! DEFINITION. Messages and channels (R266 to R272, R265): SEND, REPLY, CHSET, CHBLK, CHUNBLK, MBQ, and what a message or a refusal does
when it arrives. -/

namespace Sys2Proof.Machine

/-- LEN and OFF of a message descriptor (R266). -/
def descLen (w : Word) : Nat := wfield w 32 9
def descOff (w : Word) : Nat := wfield w 0 17

/-- Check 1 of R267. -/
def descBad (w : Word) : Bool :=
  wfield w 41 23 != 0 || wfield w 17 15 != 0 || descLen w < 16 || 256 < descLen w || descLen w % 16 != 0

/-- The LCORE of the sender of the message that the handler handles (R268). -/
def State.replyTo (s : State) : Option Nat :=
  match s.cur.kind with
  | .handler _ _ _ _ _ slc => some slc
  | .refusal slot _ _ _ => (tget s.curK.refusals slot).map (·.slc)
  | _ => none

/-- The core named by an LCORE operand; none where the operand names none (R267 check 3). -/
def State.namedCore (s : State) (w : Word) : Option Nat :=
  if wfield w 16 48 ≠ 0 then none else s.lcoreCore s.curK.asidN (wfield w 0 16)

/-- A message that has been read leaves the thread once a refusal slot is free (R181, R267); until then it waits as it was read. Its window is that of the
quantum in which the instruction retires (R184). -/
def sendOut (m : Msg) (s : State) : Res :=
  if 256 ≤ s.curK.refSlots then .stay (s.modCur fun x => { x with stall := .send m })
  else
    let m := { m with window := s.curWindow s.curCore }
    .retire ((s.countQuota s.curCore m).leave s.curCore m true)

/-- SEND and REPLY on their first issue (R267, R268): `target` none where there is no such core. -/
def sendNew (chan : Nat) (target : Option Nat) (desc : Word) (s : State) : Res :=
  let c := s.curCore
  let x := s.cur
  let n := descLen desc
  let off := descOff desc
  let w := s.curWindow c
  if descBad desc then .trap .msgsize {} s
  else if off % 16 ≠ 0 ∨ 0x20000 < off + n - 16 then .trap .access { d0 := BitVec.ofNat 64 off, d1 := BitVec.ofNat 64 (n - 16) } s
  else match target with
    | none => .trap .chinval {} s
    | some t =>
      if chan = 255 then .trap .chinval {} s
      else if s.overQuota c w n then .trap .qfull {} s
      else if x.isHandler ∧ 8 ≤ x.sends.length then .trap .sendovf {} s
      else if s.interlocked false (BitVec.ofNat 64 off) (n - 16) || (!x.isHandler && s.accessesOut x.uid) then .stay s
      else match s.aliasBytes c off (n - 16) with
        | .error (e, d) => .trap e d (if e = .eccunc then s.aliasNote c off (n - 16) else s)
        | .ok bs =>
          let m : Msg :=
            { kind := 0, chan := chan, stid := x.tid, seq := 0, slc := s.curK.lcore, payload := bs
              fromCore := c, fromThread := s.curThread.val, fromUid := x.uid, target := t, window := w }
          let s' := s.aliasNote c off (n - 16)
          if x.isHandler then .retire ((s'.countQuota c m).modCur fun x => { x with sends := x.sends ++ [m] }) else sendOut m s'

/-- SEND and REPLY: one that waits for a refusal slot goes on with the message it has read. -/
def sendMsg (chan : Nat) (target : Option Nat) (desc : Word) (s : State) : Res :=
  match s.cur.stall with
  | .send m => sendOut m s
  | _ => sendNew chan target desc s

def execSend (a b : Reg) (chan : BitVec 8) (ma mb : Bool) (s : State) : Host.Outcome State Fault Refusal :=
  issue [(a, ma), (b, mb)] none (fun s => sendMsg chan.toNat (s.namedCore (s.cur.xr a)) (s.cur.xr b) s) s

def execReply (b : Reg) (chan : BitVec 8) (mb : Bool) (s : State) : Host.Outcome State Fault Refusal :=
  issue [(b, mb)] none (fun s => sendMsg chan.toNat (s.replyTo.bind fun l => s.lcoreCore s.curK.asidN l) (s.cur.xr b) s) s

/-- The routes after a CHSET (R270). -/
def Core.setRoutes (k : Core) (chan : Nat) (v : Bool) (routes : Word) : Core :=
  let up := fun (old : Option Nat) (bit : Bool) => if !v then (if old = some chan then none else old) else if bit then some chan else if old = some chan then none else old
  { k with routeDdfull := up k.routeDdfull (routes.getLsbD 0), routeDlmiss := up k.routeDlmiss (routes.getLsbD 1) }

/-- CHSET (R269). In a deterministic launch a channel that opens releases its waiting messages at the next close (R184). -/
def execChset (a b : Reg) (chan : BitVec 8) (ma mb : Bool) (s : State) : Host.Outcome State Fault Refusal :=
  issue [(a, ma), (b, mb)] none (fun s =>
    let e := s.cur.xr a
    let r := s.cur.xr b
    let n := chan.toNat
    let v := wfield e 63 1 = 1
    if wfield e 48 11 ≠ 0 ∨ (v ∧ wfield e 0 48 % 4 ≠ 0) then .trap .chinval {} s
    else if wfield r 2 62 ≠ 0 ∨ (wfield r 0 2 ≠ 0 ∧ (n = 255 ∨ !v)) then .trap .chinval {} s
    else
      .retire ((s.modCurK fun k => ({ k with chans := tput k.chans n e } : Core).setRoutes n v r).resortChan s.curCore n)) s

/-- CHBLK and CHUNBLK (R272): the request goes to the target like a message, and the instruction waits for its application; in a
deterministic launch a request toward the own core is applied at once. -/
def chanBlock (b : Bool) (a : Reg) (chan : BitVec 8) (ma : Bool) (s : State) : Host.Outcome State Fault Refusal :=
  issue [(a, ma)] none (fun s =>
    let c := s.curCore
    match s.namedCore (s.cur.xr a) with
    | none => .trap .chinval {} s
    | some t =>
      if (s.launchOf c).deterministic ∧ t = c then .retire (s.applyBlk c chan.toNat b)
      else
        let m : Msg :=
          { kind := if b then 1 else 2, chan := chan.toNat, stid := s.cur.tid, seq := 0, slc := s.curK.lcore, payload := []
            fromCore := c, fromThread := s.curThread.val, fromUid := s.cur.uid, target := t, window := s.curWindow c }
        let s := if (s.launchOf c).deterministic then s.leave c m false
          else s.modCore t fun k => { k with inbound := k.inbound ++ [m] }
        .stay s.awaitAnswer) s

def execChblk (a : Reg) (chan : BitVec 8) (ma : Bool) (s : State) : Host.Outcome State Fault Refusal := chanBlock true a chan ma s
def execChunblk (a : Reg) (chan : BitVec 8) (ma : Bool) (s : State) : Host.Outcome State Fault Refusal := chanBlock false a chan ma s

/-- Messages of a channel placed and not dispatched. -/
def Core.waitingOf (k : Core) (chan : Nat) : Nat := ((k.ready ++ k.heldMsgs).filter fun e => match e.item with | .msg c _ _ => c == chan | _ => false).length

/-- The mailbox view of MBQ in a deterministic launch, just after a window close (R265). -/
def Core.mbView (k : Core) : MbView :=
  let chansOf := ((k.ready ++ k.heldMsgs).filterMap fun e => match e.item with | .msg c _ _ => some c | _ => none)
  let ordinary := k.det.parked.filter Msg.parks
  { wait := chansOf.foldl (fun t c => tput t c (k.waitingOf c)) []
    park := ordinary.foldl (fun t m => tput t m.chan (tgetD t m.chan 0 + 1)) []
    free := k.mbSize - k.mbUsed
    slots := k.refSlots }

/-- MBQ (R265). -/
def execMbq (d a : Reg) (ma : Bool) (s : State) : Host.Outcome State Fault Refusal :=
  issue [(a, ma)] (some d) (fun s =>
    let q := s.cur.xr a
    let chan := wfield q 0 8
    if wfield q 8 56 ≠ 0 then .trap .chinval {} s
    else
      let det := (s.launchOf s.curCore).deterministic
      let k := s.curK
      let v := if det then k.det.view else k.mbView
      .retire (s.produce d (pack [(48, 16, satN 16 (tgetD v.wait chan 0)), (32, 16, v.free / 16),
        (16, 16, if det then satN 16 (tgetD v.park chan 0) else 0), (0, 9, v.slots)]))) s

/-! ## Arrivals -/

/-- Does the core receive now: it holds a context and is not streaming (R25, R408)? -/
def Core.receives (k : Core) : Bool := k.holds && k.migrating.isNone

/-- A request carried like a message is applied, and its sender goes on (R272). -/
def State.applyRequest (s : State) (c : Nat) (m : Msg) : State := (s.applyBlk c m.chan (m.kind == 1)).answer m.fromUid id

/-- A message or channel request reaches a core (R173, R177, R181, R272). In a deterministic launch it is parked (R185). A core without context and scarf refuses it with reason 1 and a notice is sent (R410). -/
def execMessageArrival (core : Nat) (s : State) : Host.Outcome State Fault Refusal :=
  let k := s.core core
  match k.inbound with
  | [] => .next s
  | m :: rest =>
    let s' := s.modCore core fun k => { k with inbound := rest }
    if k.migrating.isSome ∨ (!k.holds ∧ k.scarf.isSome) then .next s
    else if !k.holds then
      .next ((s'.noticeOf m.fromCore .migrate m.stid).sendRefusal (s.core m.fromCore).asidN m.slc (m.refusal 1 k.lcore 0))
    else if (s.launchOf core).deterministic then
      .next (s'.modCore core fun k => { k with det := { k.det with parked := k.det.parked ++ [m] } })
    else if m.kind = 0 then .next (s'.acceptMsg core m 0)
    else .next (s'.applyRequest core m)

/-- A refusal reaches the sender core (R181); in a deterministic launch it is parked (R185). -/
def execRefusalArrival (core : Nat) (s : State) : Host.Outcome State Fault Refusal :=
  let k := s.core core
  match k.refIn with
  | [] => .next s
  | r :: rest =>
    if !k.receives then .next s
    else
      let s := s.modCore core fun k => { k with refIn := rest }
      if (s.launchOf core).deterministic then .next (s.modCore core fun k => { k with det := { k.det with parkedRef := k.det.parkedRef ++ [r] } })
      else .next (s.acceptRefusal core r)

/-! ## Window closes -/

/-- Quanta per window (R184). -/
def Launch.winQuanta (l : Launch) : Nat := max 1 (wfield l.qwin 32 8)

/-- The window of a request that is a contribution (R452). -/
def AteOp.window? : AteOp → Option Nat
  | .barriv _ w => some w
  | .jdec _ _ _ _ w => some w
  | .bytes _ _ _ _ w => some w
  | .done _ _ _ _ _ w => some w
  | _ => none

/-- Is a contribution of window w or an earlier one still on its way (R184, R452): at an ATE, or due from a copy command that counts its bytes at a
barrier object (R336)? -/
def State.contributing (s : State) (asid w : Nat) : Bool :=
  (s.bays.any fun p => p.2.ate.input.any fun r => match r.op.window? with | some v => decide (v ≤ w) | none => false) ||
  (s.cores.any fun p => p.2.asid == some asid &&
    ((p.2.cq ++ p.2.copies.map (·.2.cmd)).any fun q => q.tcw.bar && decide (q.win ≤ w)))

/-- The messages of a launch that have not reached their receivers: buffered at a handler (R180), waiting for room (R185), or on their way. -/
def State.unsent (s : State) (asid : Nat) : List Msg :=
  (s.launchCtxs asid).flatMap (·.sends) ++ s.cores.flatMap fun p => if p.2.asid = some asid then p.2.det.waiting ++ p.2.inbound else []

/-- Is a message of window w or an earlier one for the core not yet parked (R184)? -/
def State.unparked (s : State) (asid c w : Nat) : Bool :=
  ((s.unsent asid).any fun m => m.target == c && decide (m.window ≤ w)) || ((s.core c).refIn.any fun r => decide (r.window ≤ w))

/-- May another core still refuse, at its close of a window before w, a message of core c, one that is still buffered at a handler of c among them? The
refusal would be of window w or earlier (R185). -/
def State.mayRefuse (s : State) (asid c w : Nat) : Bool :=
  let parked := (s.launchCores asid).flatMap fun i => (s.core i).det.parked
  (parked ++ s.unsent asid).any fun m => m.kind == 0 && m.target != c && m.slc == (s.core c).lcore && decide (m.window < w)

/-- May the core close its next window (R184)? -/
def State.mayClose (s : State) (c : Nat) : Bool :=
  let k := s.core c
  let w := k.det.closed
  let l := s.launchOf c
  l.deterministic && k.receives && ((s.launchCores k.asidN).all fun i => decide ((w + 1) * l.winQuanta ≤ (s.core i).det.ended)) &&
    k.det.owed.isEmpty && !s.contributing k.asidN w && !s.unparked k.asidN c w && !s.mayRefuse k.asidN c w

/-- A wake made ready: its value enters the saved register and its peg the ready queue; the join slot is free (R261, R275). -/
def State.wakeJoin (s : State) (c slot : Nat) : State :=
  match tget (s.core c).joins slot with
  | none => s
  | some j =>
    match j.value with
    | none => s
    | some v =>
      let i := j.dest.toNat
      let p : Peg := { j.peg with w := if 1 ≤ i ∧ i ≤ 5 then vset j.peg.w (i + 2) v else j.peg.w, enqt := s.gtime c }
      (s.modCore c fun k => { k with joins := tdel k.joins slot }).readyItem c (s.gtime c) (.peg p)

/-- What a close takes in turn: a message or a refusal. -/
inductive Parked where
  | msg (m : Msg)
  | ref (r : RefusalMsg)
deriving DecidableEq, Repr

/-- The order of R185: (SLC, SEQ), a message before a refusal. -/
def Parked.order : Parked → List Nat
  | .msg m => [m.slc, m.seq, 0]
  | .ref r => [r.slc, r.seq, 1]

/-- A message is taken at a close. A routed DDFULL gives its unit the failure value once its message is placed (R271, R443). -/
def State.closeMsg (s : State) (c : Nat) (m : Msg) (window : Nat) : State :=
  let k := s.core c
  let placed := (k.refuses m.chan).isNone && (s.ringWrite c m.bytes).isSome
  let s := s.acceptMsg c m window
  if m.kind = 3 ∧ leNat (m.payload.take 8) = Cause.ddfull.code ∧ placed then
    s.answer m.fromUid fun x => (x.setX m.dest 0xFFFFFFFFFFFFFFFF).markFull m.dest
  else s

/-- The close of window w of a core (R184, R185, R276, R272): the wakes of the window in ascending address, then the channel requests, then
the messages and refusals, then the messages that had waited for their channels to open; MBQ's view is taken, and the room of the window's messages is
released. -/
def State.closeWindow (s : State) (c : Nat) : State :=
  let w := (s.core c).det.closed
  let wakes := sortLex (fun p => [p.2.va.toNat]) ((s.core c).joins.filter fun p => p.2.value.isSome && decide (p.2.window ≤ w))
  let s := wakes.foldl (fun s p => s.wakeJoin c p.1) s
  let mine := (s.core c).det.parked.filter fun m => decide (m.window ≤ w)
  let refs := (s.core c).det.parkedRef.filter fun r => decide (r.window ≤ w)
  let s := s.modCore c fun k =>
    { k with det := { k.det with parked := k.det.parked.filter fun m => !decide (m.window ≤ w), parkedRef := k.det.parkedRef.filter fun r => !decide (r.window ≤ w) } }
  let reqs := sortLex (fun m => [m.slc, m.seq]) (mine.filter fun m => m.kind == 1 || m.kind == 2)
  let s := reqs.foldl (fun s m => s.applyRequest c m) s
  let waiting := (s.core c).heldMsgs.filter fun e => match e.item.chan? with | some ch => (s.core c).chanOpen ch | none => false
  let s := s.modCore c fun k =>
    { k with
      heldMsgs := k.heldMsgs.filter fun e => !waiting.contains e, ready := k.ready ++ waiting, queued := k.queued + waiting.length
      det := { k.det with
        owed := waiting.filterMap fun e => match e.item with | .msg _ hdr _ => some hdr | _ => none
        owedRef := k.det.owedRef ++ waiting.filterMap fun e => match e.item with | .refusal i => some i | _ => none } }
  let items := sortLex Parked.order ((mine.filter Msg.parks).map .msg ++ refs.map .ref)
  let s := items.foldl (fun s p => match p with | .msg m => s.closeMsg c m (w + 1) | .ref r => s.acceptRefusal c r) s
  (s.modCore c fun k => { k with det := { k.det with closed := w + 1, view := k.mbView } }).releasePark (s.core c).asidN

def execWindowClose (core : Nat) (s : State) : Host.Outcome State Fault Refusal :=
  .next (if s.mayClose core then s.closeWindow core else s)

/-- A wake from a join record reaches its core (R261); in a deterministic launch it waits for its window (R276). -/
def execJoinWake (core slot : Nat) (s : State) : Host.Outcome State Fault Refusal :=
  .next (if (s.core core).receives && !(s.launchOf core).deterministic then s.wakeJoin core slot else s)

/-- A wake from a barrier object (R275, R276). -/
def execBarrierWake (core slot : Nat) (s : State) : Host.Outcome State Fault Refusal :=
  .next (if (s.core core).receives && !(s.launchOf core).deterministic then s.wakeJoin core slot else s)

/-- Steps due at mailboxes and join slots. -/
def State.dueMailbox (s : State) : List Event :=
  s.cores.flatMap fun (c, k) =>
    if k.migrating.isSome then []
    else
      let det := (s.launchOf c).deterministic
      (if k.inbound.isEmpty || (!k.holds && k.scarf.isSome) then [] else [.messageArrival c]) ++
      (if k.refIn.isEmpty || !k.holds then [] else [.refusalArrival c]) ++
      (if det || !k.holds then [] else k.joins.filterMap fun p =>
        if p.2.value.isSome then some (if p.2.barrier then .barrierWake c p.1 else .joinWake c p.1) else none) ++
      (if k.asid.isSome && s.mayClose c then [.windowClose c] else [])

end Sys2Proof.Machine
end

