-- ==== Sys2Proof/Machine/Task.lean ====
section
/-! DEFINITION. Tasks and barriers (R259 to R264, R273 to R275): SPAWN, JOINW, JDEC, DONE, YIELD, SUSP, STEALCTL, BARRIV, BARWAIT; done
messages (R172); register fills (R193); and how idle threads find work (R163, R168, R169). -/

namespace Sys2Proof.Machine

/-! ## Spawning -/

/-- Is the address in a space with a home ATE (R68)? -/
def homeSpace (va : Word) : Bool := 1 ≤ wfield va 60 4 && wfield va 60 4 ≤ 4

/-- STEALCTL (R259). -/
def execStealctl (d a : Reg) (ma : Bool) (s : State) : Host.Outcome State Fault Refusal :=
  issue [(a, ma)] (some d) (fun s =>
    let v := s.cur.xr a
    if wfield v 58 6 ≠ 0 ∨ 4 ≤ wfield v 52 4 then .trap .stealdom {} s
    else
      let old := s.cur.tmpl
      setRetire d (pack [(48, 16, old.toNat)]) (s.modCur fun x => { x with tmpl := BitVec.ofNat 16 (wfield v 48 16) })) s

/-- Pushes a peg at the newest end of the issuing core's deque, unless it is full, and answers its task id (R260 check 5, R167). -/
def pushPeg (d : Reg) (w : Vector Word 8) (s : State) : Res :=
  let k := s.curK
  if 64 + k.spill ≤ k.deque.length then .trap .deqovf {} s
  else if !s.cur.lowFull || s.accessesOut s.cur.uid then .stay s
  else
    let p : Peg := { w := w, enqt := s.gtime s.curCore, enqLcore := k.lcore, stolen := false }
    setRetire d (BitVec.ofNat 64 p.tid) ((s.modCurK fun k => { k with deque := p :: k.deque }).settleDeque s.curCore)

/-- SPAWN of a new task (R260): the template's domain, the id counter, the peg. -/
def spawnNew (d : Reg) (entry parent : Word) (s : State) : Res :=
  let x := s.cur
  let l := s.launchOf s.curCore
  if parent ≠ 0 ∧ !homeSpace parent then .trap .trussbad { d0 := parent } s
  else if l.widest < fieldOf x.tmpl.toNat 4 4 then .trap .stealdom {} s
  else if 64 + s.curK.spill ≤ s.curK.deque.length then .trap .deqovf {} s
  else if !x.lowFull then .stay s
  else match s.freshTid s.curCore with
    | (none, _) => .trap .deqovf {} s
    | (some tid, s') =>
      if s.accessesOut x.uid then .stay s
      else pushPeg d #v[entry, pack [(48, 16, x.tmpl.toNat), (0, 48, tid)], parent, x.xr 1, x.xr 2, x.xr 3, x.xr 4, x.xr 5] s'

/-- The peg image of 64 bytes. -/
def pegOf (bs : List Byte) : Vector Word 8 := Vector.ofFn fun i => BitVec.ofNat 64 (leNat ((bs.drop (8 * i.val)).take 8))

/-- SPAWN of a peg image (R260). -/
def spawnResume (d : Reg) (img : Word) (s : State) : Res :=
  wideLoad 64 64 img (fun bs s =>
    let w := pegOf bs
    if (s.launchOf s.curCore).widest < wfield (vget w 1 0) 52 4 then .trap .stealdom {} s else pushPeg d w s) s

/-- SPAWN (R260). -/
def execSpawn (d a b : Reg) (ma mb : Bool) (s : State) : Host.Outcome State Fault Refusal :=
  issue [(a, ma), (b, mb)] (some d) (fun s =>
    let v := s.cur.xr b
    match wfield v 0 4 with
    | 0 => spawnNew d (s.cur.xr a) v s
    | 1 => spawnResume d (s.cur.xr a) s
    | _ => .trap .trussbad { d0 := v } s) s

/-! ## Requests to a home ATE -/

/-- The checks of a request of a thread to a home ATE other than a scalar atomic (R171, R246), whose own alignment rule has been met: its key. One
at an address of the system window that names nothing is ignored (R39): BARRIV's, which alone may lie there. -/
def ateReach (va : Word) (n : Nat) (go : Nat → State → Res) (s : State) : Res :=
  scalarAccess .atomic false false 1 8 va (fun h s =>
    match h with
    | .mem k =>
      match s.badIn k n with
      | some g => s.eccTrap g k n
      | none => go k (s.correct k n)
    | .window _ => if s.accessesOut s.cur.uid then .stay s else .retire s
    | _ => .trap .access { d0 := va, d1 := 8 } s) s

/-- A request to an ATE by the issuing thread. -/
def State.ateRequest (s : State) (op : AteOp) : State := s.ateSend (ateRank s.curCore s.curThread.val) op

/-- JOINW and BARWAIT after their checks (R261, R275): x1 to x5 are full, a join slot is taken, and the request leaves. -/
def joinRequest (d : Reg) (barrier : Bool) (va phase : Word) (k : Nat) (s : State) : Res :=
  let x := s.cur
  if !x.lowFull || s.accessesOut x.uid then .stay s
  else match tfree s.curK.joins 64 with
    | none => .stay (s.modCur fun x => { x with stall := .join })
    | some i =>
      let j : JoinSlot := { peg := s.suspendPeg s.curCore x, dest := d, va := va, barrier := barrier, phase := phase, value := none, window := 0 }
      let s := s.modCurK fun c => { c with joins := tput c.joins i j }
      let op := if barrier then AteOp.barwait k phase x.uid s.curCore i d else .joinw k x.uid s.curCore i d
      .stay (s.ateRequest op).awaitAnswer

/-- JOINW (R261). -/
def execJoinw (d a : Reg) (ma : Bool) (s : State) : Host.Outcome State Fault Refusal :=
  issue [(a, ma)] (some d) (fun s =>
    let va := s.cur.xr a
    if s.cur.isHandler then .trap .chinval {} s
    else if va.toNat % 16 ≠ 0 ∨ !homeSpace va then .trap .trussbad { d0 := va } s
    else ateReach va 16 (joinRequest d false va 0) s) s

/-- JDEC (R262). -/
def execJdec (a b : Reg) (ma mb : Bool) (s : State) : Host.Outcome State Fault Refusal :=
  issue [(a, ma), (b, mb)] none (fun s =>
    let va := s.cur.xr a
    let status := s.cur.xr b
    if va.toNat % 16 ≠ 0 ∨ !homeSpace va then .trap .trussbad { d0 := va } s
    else ateReach va 16 (fun k s =>
      if s.accessesOut s.cur.uid then .stay s
      else .stay (s.ateRequest (.jdec k va status s.cur.uid (s.curWindow s.curCore))).awaitAnswer) s) s

/-- BARRIV (R274): retires once its request has left. In the order of R40, BARBAD stands for the misalignment of condition 5. -/
def execBarriv (a : Reg) (ma : Bool) (s : State) : Host.Outcome State Fault Refusal :=
  issue [(a, ma)] none (fun s =>
    let va := s.cur.xr a
    let sp := wfield va 60 4
    if va.toNat % 32 ≠ 0 ∧ sp < 8 ∧ (sp = 7 → (s.launchOf s.curCore).privileged) then .trap .barbad { d0 := va } s
    else ateReach va 32 (fun k s =>
      if s.accessesOut s.cur.uid then .stay s
      else .retire (s.ateRequest (.barriv k (s.curWindow s.curCore)))) s) s

/-- BARWAIT (R275), as JOINW: a misaligned address takes BARBAD, and any other one in a space with no home ATE TRUSSBAD (R261; an address that is both takes
BARBAD: log 78, DEDUCED). -/
def execBarwait (d a b : Reg) (ma mb : Bool) (s : State) : Host.Outcome State Fault Refusal :=
  issue [(a, ma), (b, mb)] (some d) (fun s =>
    let va := s.cur.xr a
    let ph := s.cur.xr b
    if s.cur.isHandler then .trap .chinval {} s
    else if va.toNat % 32 ≠ 0 then .trap .barbad { d0 := va } s
    else if !homeSpace va then .trap .trussbad { d0 := va } s
    else ateReach va 32 (joinRequest d true va ph) s) s

/-! ## Ends of units -/

/-- The formula task of a cell is done (R148): its dependants' counters go down. The DONE of a task whose generation was discarded is not accepted: the
cell no longer names it (R160). -/
def State.formulaDone (s : State) (asid cell gen tid : Nat) : State :=
  let d := (s.part asid).sdir
  if gen = d.pgen + 1 ∧ (tget d.cells cell).any (fun c => c.task == some tid) then (s.modSdir asid fun d => d.taskDone cell).tryNotice asid else s

/-- A handler's buffered messages leave in issue order, its message is consumed or its refusal's slot is free (R178, R180, R181). -/
def State.finishHandler (s : State) (c : Nat) (x : Ctx) : State :=
  let s := match x.kind with
    | .refusal slot _ _ _ => s.modCore c fun k => { k with refusals := tdel k.refusals slot }
    | _ => s
  let s := x.sends.foldl (fun s m => s.leave c m true) s
  match x.kind with
  | .handler _ hdr _ _ _ _ => s.consumeMsg c hdr
  | _ => s

/-- Has a handler's DONE free refusal slots for its buffered messages (R181)? -/
def Core.sendRoom (k : Core) (x : Ctx) : Bool :=
  let own := match x.kind with | .refusal _ _ _ _ => 1 | _ => 0
  decide (k.refSlots + x.sends.length ≤ 256 + own)

/-- What DONE does to the unit once nothing holds it (R263 step 4): `rec` is the key of the parent's record. -/
def State.doneUnit (s : State) (status : Word) (rec : Option Nat) : State :=
  let c := s.curCore
  let t := s.curThread.val
  let x := s.cur
  let asid := s.curK.asidN
  let msg := fun k => AteOp.done k x.w2 status x.tid asid (s.curWindow c)
  let s := s.retire
  let s := match x.kind with
    | .formula cell gen => s.formulaDone asid cell gen x.tid
    | .task => match rec with
      | some k => s.ateSend (ateRank c t) (msg k)
      | none => s
    | _ => s.finishHandler c x
  s.endUnit c t 0

/-- DONE waits for what the unit has under way (R263 step 2), for the release of R100, in a handler for refusal slots, and in a formula task for every command
that the task has enqueued, by an earlier unit too (R148). -/
def doneWhenSettled (status : Word) (rec : Option Nat) (s : State) : Res :=
  let x := s.cur
  if x.unsettled || s.outcomesDue s.curK.asidN x.tid || s.accessesOut x.uid || (x.isHandler && !s.curK.sendRoom x) ||
    (x.kind.formula?.isSome && s.taskBusy s.curK.asidN x.tid) then .stay s
  else .stay (s.doneUnit status rec)

/-- The record of an outstanding root, written as a region-0x3 address (R171). -/
def State.rootRecord (s : State) (asid : Nat) (va : Word) : Bool :=
  wfield va 40 24 = 0x700030 && (s.part asid).sched.roots.any fun r => r.loc == hbmKey (wfield va 0 40)

/-- DONE (R263). -/
def execDone (a : Reg) (ma : Bool) (s : State) : Host.Outcome State Fault Refusal :=
  issue [(a, ma)] none (fun s =>
    let x := s.cur
    let status := x.xr a
    if x.kind = .task ∧ x.w2 ≠ 0 then
      if s.rootRecord s.curK.asidN x.w2 then doneWhenSettled status (some (hbmKey (wfield x.w2 0 40))) s
      else if x.w2.toNat % 16 ≠ 0 ∨ !homeSpace x.w2 then .trap .trussbad { d0 := x.w2 } s
      else match s.check (s.agent s.curCore) .atomic 8 8 x.w2 with
        | .error m => m.res .atomic x.w2 s
        | .ok (.mem k) => doneWhenSettled status (some k) (s.touchTlb s.curCore x.w2)
        | .ok _ => .trap .access { d0 := x.w2, d1 := 8 } s
    else doneWhenSettled status none s) s

/-- YIELD (R264): the peg enters the ready queue younger than every entry there. -/
def execYield (s : State) : Host.Outcome State Fault Refusal :=
  issue [] none (fun s =>
    let x := s.cur
    let c := s.curCore
    if x.isHandler then .trap .chinval {} s
    else if !x.lowFull || s.outcomesDue s.curK.asidN x.tid || s.accessesOut x.uid then .stay s
    else
      let p := s.suspendPeg c x
      let t := s.curThread.val
      .stay ((s.retire.suspendUnit c t 2).readyItem c (s.gtime c) (.peg p))) s

/-- SUSP (R264): one 64-byte store of the peg, then the unit ends. -/
def execSusp (a : Reg) (ma : Bool) (s : State) : Host.Outcome State Fault Refusal :=
  issue [(a, ma)] none (fun s =>
    let x := s.cur
    let c := s.curCore
    let t := s.curThread.val
    let va := x.xr a
    let sp := wfield va 60 4
    if x.isHandler then .trap .chinval {} s
    else
      let r := s.reach .store 64 64 va
      let first : Bool := match r with | .error (.cause .priv _) => true | .error (.cause .stalign _) => true | _ => false
      if !first && (sp == 0 || sp == 5 || sp == 6 || sp == 7) then .trap .access { d0 := va, d1 := 64 } s
      else match r with
        | .error m => m.res .store va s
        | .ok (.mem k) =>
          if s.interlocked true va 64 || !x.lowFull || s.outcomesDue s.curK.asidN x.tid || s.accessesOut x.uid || (s.ownName va && s.curK.loopFull) then .stay s
          else match s.badPartly k 64 with
            | some g => s.eccTrap g k 64
            | none =>
              let p := s.suspendPeg c x
              let s := (s.touchTlb c va).wideStore va k (p.w.toList.flatMap fun w => leBytes 8 w.toNat)
              .stay (s.retire.suspendUnit c t 1)
        | .ok _ => .trap .access { d0 := va, d1 := 64 } s) s

/-! ## Register fills -/

/-- A value reaches its register, which becomes full (R193, R196). -/
def Ctx.fill (x : Ctx) (r : Nat) (v : Word) : Ctx :=
  { (x.setX (BitVec.ofNat 6 r) v).markFull (BitVec.ofNat 6 r) with fills := x.fills + 1 }

/-- A producer in flight writes its value (R193). -/
def execRegisterFill (uid reg : Nat) (s : State) : Host.Outcome State Fault Refusal :=
  .next (s.modUnit uid fun x =>
    match x.producers.find? fun p => p.1 == reg with
    | some p => { x with producers := x.producers.erase p, ldnbs := x.ldnbs.erase reg }.fill reg p.2
    | none => x)

/-- An ended watch fills its register with the word's value (R249). -/
def execWatchFill (uid reg : Nat) (s : State) : Host.Outcome State Fault Refusal :=
  .next (s.modUnit uid fun x =>
    match x.watchFills.find? fun p => p.reg == reg with
    | some p => { x with watchFills := x.watchFills.erase p }.fill reg p.value
    | none => x)

/-! ## Work for idle threads -/

/-- An idle task thread takes its next unit of work (R163). -/
def execTakeWork (core thread : Nat) (s : State) : Host.Outcome State Fault Refusal := .next (s.takeWork core thread)

/-- One steal attempt (R169). -/
def execSteal (core thread victim : Nat) (s : State) : Host.Outcome State Fault Refusal := .next (s.stealFrom core thread victim)

/-- The victim of the next attempt: an order that is not architected (R169). -/
def State.victim (s : State) (asid c t : Nat) : Nat :=
  let cs := s.launchCores asid
  nth c cs (Config.stealVictim (Nat.pair s.freshCount (5 * c + t)) % max 1 cs.length)

/-- What an idle thread of a core does: it takes work of its own core, pulls, or, last, steals. -/
def State.dueThread (s : State) (c t : Nat) (thief : Bool) : Option Event :=
  let k := s.core c
  if !s.mayTake c t then none
  else if !k.ready.isEmpty || !k.deque.isEmpty then (if thief then none else some (.takeWork c t))
  else if (s.launchOf c).deterministic then
    (if thief || (s.part k.asidN).sched.pulls.any fun p => p.1 == c then none else some (.takeWork c t))
  else if thief then some (.steal c t (s.victim k.asidN c t)) else none

/-- What idle threads make due: the owners of one cycle are served before the thieves (R168), both in ascending (die, row, column). -/
def State.dueTasks (s : State) : List Event :=
  ([false, true].flatMap fun thief => s.cores.flatMap fun (c, _) => (upTo 4).filterMap fun t => s.dueThread c t thief) ++ s.dueAtes

end Sys2Proof.Machine
end

