-- ==== Sys2Proof/Machine/Trap.lean ====
section
/-! DEFINITION. What system software does with stopped units (R397, R398, R402 to R404), descheduling (R407), and double faults of the system
cores (R406). -/

namespace Sys2Proof.Machine

/-! ## Stops that waited -/

/-- The oldest stopped thread of a die, which waits for a free slot (R397). -/
def State.oldestStopped (s : State) (die : Nat) : Option (Nat × Nat) :=
  argMin (fun p => ((s.thr p.1 p.2).stopped.map (·.age)).getD 0) (s.threadsWhere fun c _ th => coreDie c == die && th.stopped.isSome)

/-- A stopped thread takes the lowest free slot, when it is the oldest that waits (R397). -/
def execUnitStop (core thread : Nat) (s : State) : Host.Outcome State Fault Refusal :=
  .next (
    match (s.thr core thread).stopped, tfree (s.die (coreDie core)).slots 4096 with
    | some st, some i => if s.oldestStopped (coreDie core) = some (core, thread) then s.fillSlot core thread i st else s
    | _, _ => s)

/-- A record that waits is written once the entry whose turn it is has been taken (R398). -/
def execStopRecord (die : Nat) (s : State) : Host.Outcome State Fault Refusal :=
  match (s.die die).stopWait with
  | [] => .next s
  | r :: rest => .next (if (s.die die).ringBlocked ∨ 4 ≤ die then s else (s.modDie die fun d => { d with stopWait := rest }).writeRec die r)

/-! ## Commands on slots -/

/-- A command is refused: ERR is set on the die whose CXCMD was used, and nothing else changes (R403). -/
def State.cxErr (s : State) (die : Nat) : State := s.modDie die fun d => { d with cxErr := true }

/-- Resumes a slot on the core that holds LCORE `l` (R403); in a deterministic launch at the next end of that core's quantum. -/
def State.resumeSlot (s : State) (die slot l : Nat) : State :=
  match tget (s.die die).slots slot with
  | none => s.cxErr die
  | some sl =>
    match s.lcoreCore sl.asid l with
    | none => s.cxErr die
    | some c =>
      if sl.kind = 1 then s.cxErr die
      else if (s.part sl.asid).launch.deterministic then
        s.modDie die fun d => { d with slots := tmod d.slots slot fun e => { e with resumeAt := some (s.core c).det.quantum, resumeOn := l } }
      else s.resumeTo die slot (s.holderOf c)

/-- CXCMD OP 0x1 (R403). -/
def execCxcmdResume (die slot : Nat) (s : State) : Host.Outcome State Fault Refusal :=
  .next (match tget (s.die die).slots slot with
    | none => s.cxErr die
    | some sl => s.resumeSlot die slot sl.lcore)

/-- CXCMD OP 0x2 (R402, R403): the ASID must be the launch of the slot's context. -/
def execCxcmdResumeOn (die slot lcore asid : Nat) (s : State) : Host.Outcome State Fault Refusal :=
  .next (if ((tget (s.die die).slots slot).any fun sl => sl.asid == asid) && s.running asid then s.resumeSlot die slot lcore else s.cxErr die)

/-- The status of the done message of a discarded task (R403). -/
def discardStatus : Word := 0xFF00000200000000

/-- The done message of a discarded task (R403): checked and translated as for DONE; a failure is a die event with its cause. One to a scratchpad that is
being streamed waits for the move at its ATE (R25). -/
def State.discardDone (s : State) (die : Nat) (sl : Slot) : State :=
  let x := sl.ctx
  let c := s.slotCore sl
  let send := fun (k : Nat) (s : State) => s.ateSend (ateRank c sl.thread) (.done k x.w2 discardStatus x.tid sl.asid (s.curWindow c))
  let fails := fun (e : Cause) (s : State) => s.notice die e sl.asid sl.lcore x.tid
  if x.kind ≠ .task ∨ x.w2 = 0 then s
  else if s.rootRecord sl.asid x.w2 then send (hbmKey (wfield x.w2 0 40)) s
  else if x.w2.toNat % 16 ≠ 0 ∨ !homeSpace x.w2 then fails .trussbad s
  else match s.check (s.agent c) .atomic 8 8 x.w2 with
    | .ok (.mem k) => send k s
    | .ok _ => fails .access s
    | .error (.cause e d) => fails e (s.noteEcc e d)
    | .error (.held _ _ _ _ e) => fails e s
    | .error .busy | .error (.turn _ _) => (s.streamKey x.w2).elim s fun k => send k s

/-- CXCMD OP 0x3 (R403): the slot is free, its snapshots and watches with it, and its warnings join the launch's summary (R200). Its engine commands and
vector instructions go on, and what they count goes on from where it stood (R228). -/
def execCxcmdDiscard (die slot : Nat) (s : State) : Host.Outcome State Fault Refusal :=
  .next (match tget (s.die die).slots slot with
    | none => s.cxErr die
    | some sl =>
      if sl.kind = 1 ∨ sl.kind = 2 then s.cxErr die
      else ((s.modDie die fun d => { d with slots := tdel d.slots slot }).sumWarn sl.asid sl.ctx).leaveVectors (s.slotCore sl) sl.thread (sl.ctx.onCore (s.slotCore sl)) |>.discardDone die sl)

/-- Frees the slot of an aborted handler and clears its channel's block; `drop` says that its message or refusal is consumed (R404). -/
def State.releaseAborted (s : State) (die slot : Nat) (drop : Bool) : State :=
  match tget (s.die die).slots slot with
  | none => s.cxErr die
  | some sl =>
    if sl.kind ≠ 1 then s.cxErr die
    else
      let c := s.slotCore sl
      let s := s.modDie die fun d => { d with slots := tdel d.slots slot }
      match sl.ctx.kind with
      | .handler chan hdr _ _ _ _ =>
        let s := if drop then
          (s.modCore c fun k => { k with heldMsgs := k.heldMsgs.filter fun e => match e.item with | .msg _ h _ => h != hdr | _ => true }).consumeMsg c hdr else s
        s.applyBlk c chan false
      | .refusal i _ _ _ =>
        let s := if drop then
          s.modCore c fun k =>
            { k with refusals := tdel k.refusals i, heldMsgs := k.heldMsgs.filter fun e => match e.item with | .refusal j => j != i | _ => true } else s
        s.applyBlk c 255 false
      | _ => s

def execCxcmdReleaseHandler (die slot : Nat) (s : State) : Host.Outcome State Fault Refusal := .next (s.releaseAborted die slot false)
def execCxcmdDropMessage (die slot : Nat) (s : State) : Host.Outcome State Fault Refusal := .next (s.releaseAborted die slot true)

/-! ## Descheduling -/

/-- A thread that waits stops now, with the first cause that is due at its boundary if there is one (R396, R407); any other stops at its next
boundary. -/
def State.deschedule (s : State) (c t : Nat) : State :=
  if !(s.thr c t).running then s
  else
    let s := s.modCtx c t fun x => { x with desched := true }
    if (s.ctx c t).wait = .no then s else (s.boundaryOf c t).getD s

/-- CXCMD OP 0x6 (R402, R407). -/
def execCxcmdDeschedule (die asid lcore thread : Nat) (s : State) : Host.Outcome State Fault Refusal :=
  .next (
    if 4 ≤ thread ∨ !s.running asid then s.cxErr die
    else match s.lcoreCore asid lcore with
      | some c => s.deschedule c thread
      | none => s.cxErr die)

/-! ## Double faults -/

/-- A notice of a system core: a record on die 0, and its class at every other system core (R406). -/
def State.sysNotice (s : State) (sc : Nat) (c : Cause) : State :=
  s.pushRec 0 { kind := 5, slot := 0, cause := c.code, asid := 0, lcore := 0, tid := 0, sc := some sc }

/-- sstatus.SIE, SPIE and SPP (the RISC-V privileged architecture: log 84, PRESUMED). -/
def SysCore.sstatus (c : SysCore) (sie spie spp : Nat) : Word := wput (wput (wput c.mstatus 1 1 sie) 5 1 spie) 8 1 spp

/-- May a supervisor interrupt be taken: below supervisor mode, or in it with SIE = 1? -/
def SysCore.open (c : SysCore) : Bool := !c.halted && (c.mode == 0 || (c.mode == 1 && wfield c.mstatus 1 1 == 1))

/-- The entry into the handler of interrupt `cls`: sepc, scause, stval, sstatus and the mode are saved and set, and the pc goes to stvec, at its entry for the
interrupt where stvec is vectored. -/
def SysCore.enter (c : SysCore) (cls : Nat) : SysCore :=
  { c with
    sepc := c.pc, scause := BitVec.ofNat 64 (2 ^ 63 + cls), stval := 0, mode := 1
    mstatus := c.sstatus 0 (wfield c.mstatus 1 1) c.mode
    pc := wput c.stvec 0 2 0 + (if wfield c.stvec 0 2 = 1 then BitVec.ofNat 64 (4 * cls) else 0) }

/-- SRET: back to the interrupted mode and pc. -/
def SysCore.sret (c : SysCore) : SysCore :=
  { c with mode := wfield c.mstatus 8 1, pc := c.sepc, mstatus := c.sstatus (wfield c.mstatus 5 1) 1 0 }

/-- A system core takes the least of the interrupts that are pending and enabled, which is pending no more (R399). -/
def SysCore.take (c : SysCore) : SysCore :=
  match argMin (fun (p : Nat × Nat) => p.1) (c.pending.filter fun p => wfield c.sie p.1 1 == 1) with
  | some (cls, _) => if c.open then { c.enter cls with pending := c.pending.filter fun p => p.1 ≠ cls } else c
  | none => c

/-- What a system core's software has done by the next cycle: a handler has returned, and after an escalation the service runs again. Its instructions stand in an
image that the spec does not give, so the time is the model's choice (log 84, DESIGN CHOICE). -/
def SysCore.settle (c : SysCore) : SysCore :=
  if c.halted then c
  else if c.mode = 3 ∧ c.sie ≠ 0 then { c with mode := 1, pc := c.mepc, mstatus := c.sstatus 1 0 0 }
  else if c.mode = 1 ∧ wfield c.mstatus 1 1 = 0 ∧ c.sie ≠ 0 then c.sret else c

/-- The system cores return from their handlers and take their interrupts. -/
def State.takeIrqs (s : State) : State :=
  if s.pkg.sysCores.all fun c => c.pending.isEmpty && c.settle == c then s
  else s.modPkg fun p => { p with sysCores := p.sysCores.map fun c => c.settle.take }

/-- A second fault of a system core in its handler's first accesses: the ROM's escalation handler is entered in machine mode (R406). An escalation while FROZEN
is 1 halts the core. -/
def execDoubleFault (sc scause scode : Nat) (stval saddr : BitVec 64) (s : State) : Host.Outcome State Fault Refusal :=
  let c := vget s.pkg.sysCores sc SysCore.reset
  let put := fun (c : SysCore) => s.modPkg fun p => { p with sysCores := vset p.sysCores sc c }
  .next (
    if 8 ≤ sc ∨ c.halted then s
    else if c.frozen then (put { c with halted := true }).sysNotice sc .machinechk
    else
      (put { c with frozen := true, oint := decide (2 ^ 63 ≤ scause), ocode := scause % 256, scode := scode % 256, dfaddr := stval, dfsaddr := saddr, escalated := true
                    mode := 3, mepc := c.pc, mstatus := wput c.mstatus 11 2 c.mode }).sysNotice
        sc .double)

/-- A read of DFCAUSE returns it and clears FROZEN (R406). -/
def execDfcauseRead (sc : Nat) (s : State) : Host.Outcome State Fault Refusal :=
  .next (
    if 8 ≤ sc then s
    else s.modPkg fun p =>
      let c := vget p.sysCores sc SysCore.reset
      { p with sysCores := vset p.sysCores sc { c with loaded := c.dfcause, frozen := false } })

/-- Stops and records that can go on now. -/
def State.dueTrap (s : State) : List Event :=
  (upTo 4).flatMap fun d =>
    (match s.oldestStopped d, tfree (s.die d).slots 4096 with
      | some (c, t), some _ => [.unitStop c t]
      | _, _ => []) ++
    (if (s.die d).stopWait.isEmpty || (s.die d).ringBlocked then [] else [.stopRecord d])

end Sys2Proof.Machine
end

