-- ==== Sys2Proof/Machine/Migrate.lean ====
section
/-! DEFINITION. Migration of a core's context (R408 to R410): the command, the move of everything that belongs to the context, scarfs, and what they
forward (R25). -/

namespace Sys2Proof.Machine

/-! ## The move -/

/-- A context that leaves its core: an instruction that has not left the thread is withdrawn, and its held pages are (R47, R258, R408). -/
def Ctx.withdrawn (x : Ctx) : Ctx :=
  { x with
    vq := x.vq.map fun (q : Cmd) => { q with hid := none, redo := none }, wait := if x.wait.kept then x.wait else .no, redo := none, stall := .no
    ops := x.ops.map fun (o : InFlight) => { o with hid := 0 } }

/-- A copy whose held pages are withdrawn. -/
def CopyOp.withdrawn (o : CopyOp) : CopyOp :=
  { o with
    barHid := none, gaps := o.gaps.map fun g => { g with hid := none, redo := none }
    packets := tmap o.packets fun _ (p : Packet) => { p with hid := none, redo := none } }

/-- Held accesses of a core that leaves are withdrawn: they are made afresh at the target (R47, R408). Units that wait unaccepted at the SDIR leave their
places there (R258). -/
def State.withdrawCore (s : State) (c : Nat) : State :=
  let ctxs := (s.core c).threads.toList.map fun th => th.ctx
  let reqs := (s.pkg.remotes.filter fun r => r.core == c).map (·.id)
  let s := ctxs.foldl (fun s x => s.leaveQueue (s.core c).asidN x) s
  let s := s.modDie (coreDie c) fun d => d.withdraw fun h =>
    match h.who with
    | .thread u => ctxs.any fun x => x.uid == u
    | .engine k _ _ => k == c
    | .request r => reqs.contains r
  let free := fun (q : Cmd) => { q with hid := none, redo := none }
  s.modCore c fun k =>
    { k with
      mq := k.mq.map free, vsq := k.vsq.map free, cq := k.cq.map free, sfu := []
      copies := tmap k.copies fun _ o => o.withdrawn
      threads := k.threads.map fun (th : Thread) => { th with past := th.past.map free, ctx := th.ctx.withdrawn } }

/-- The accesses that the contexts of a core have issued come before any that they issue on the core they move to (R102). -/
def State.markMoved (s : State) (m : Move) : State :=
  let up := fun (x : Ctx) => { x with after := s.nextAge }
  let asid := (s.core m.src).asid
  let lcore := (s.core m.src).lcore
  let s := s.modCore m.src fun k =>
    { k with
      threads := k.threads.map fun (th : Thread) => { th with ctx := up th.ctx }
      ready := k.ready.map fun e => match e.item with | .ctx x => { e with item := .ctx (up x) } | _ => e }
  { s with
    nextAge := s.nextAge + 1
    dies := s.dies.map fun (d : Die) =>
      { d with slots := tmap d.slots fun _ (sl : Slot) => if some sl.asid = asid ∧ sl.lcore = lcore then { sl with ctx := up sl.ctx } else sl } }

/-- The context of a core now lives on another: storage, queues and everything that names the core; a scarf stands at the source, and scarfs
that named the source name the target (R408, R409). The fence of a matrix engine stays (R395). -/
def State.moveCore (s : State) (m : Move) : State :=
  let s := (s.withdrawCore m.src).markMoved m
  let asid := (s.core m.src).asidN
  let lcore := (s.core m.src).lcore
  let s := (s.copyRange (scratchKey m.src 0) (scratchKey m.dst 0) 0x20000).copyRange (windowKey m.src 0) (windowKey m.dst 0) 0x40000
  let s := s.moveAtes m
  let s : State :=
    { s with
      cores := tmap s.cores fun _ k => { k.moved m with scarf := if k.scarf = some m.src then some m.dst else k.scarf }
      dies := s.dies.map fun (d : Die) => { d with slots := tmap d.slots fun _ (e : Slot) => { e with ctx := e.ctx.moved m }, mc := d.mc.moved m }
      turns := s.turns.map fun t => { t with line := m.key (64 * t.line) / 64 }
      pkg := { s.pkg with remotes := s.pkg.remotes.map (RemoteReq.moved m) } }
  let s := s.modPart asid fun p => p.moved m lcore
  let k := s.core m.src
  let t := s.core m.dst
  let s := s.setCore m.dst { k with migrating := none, scarf := none, holds := true, me := { k.me with fenced := t.me.fenced, bondBad := t.me.bondBad } }
  s.setCore m.src { k.vacate with asid := some asid, scarf := some m.dst }

/-! ## The command -/

/-- Do the cores of a target's bent belong to the launch, and are they all free: a reserve bent (R408)? -/
def State.reserveBent (s : State) (asid t : Nat) : Bool :=
  (upTo 4).all fun i =>
    let c := bentCore t i
    let k := s.core c
    k.asid == some asid && !k.holds && k.scarf.isNone && !s.cores.any fun p => p.2.migrating == some c

/-- The moves that a migration of the core with an LCORE to a target comes to: one core, or the four of its bent together in a gang launch or
while an MREDB is pending (R408). -/
def State.movesOf (s : State) (asid lcore c target : Nat) : List Move :=
  let four := (upTo 4).filterMap fun i => (s.lcoreCore asid (lcore - lcore % 4 + i)).map fun k => ({ src := k, dst := bentCore target i } : Move)
  if (s.part asid).launch.gang || four.any fun m => (s.core m.src).mq.any fun q => q.top == 0x14 then four else [{ src := c, dst := target }]

/-- A precise cause of the fetch or decode of the instruction at a thread's boundary (R396): conditions 3 and 4 of R40, and R205 steps 1 to 5. -/
def State.preciseStop (s : State) (c t : Nat) : Option State :=
  let x := s.ctx c t
  let pc := x.pc
  if x.wait ≠ .no ∨ x.redo.isSome then none
  else if pc.toNat % 4 ≠ 0 then some (s.takeStop c t 0 (some .fetchalign) { d0 := pc })
  else if wfield pc 60 4 ≠ 4 then some (s.takeStop c t 0 (some .fetchfault) { d0 := pc })
  else match s.check (s.agent c) .fetch 1 4 pc with
    | .ok (.mem k) =>
      let u := s.setCur c t
      match landWord u (BitVec.ofNat 32 (s.readLe k 4)) with
      | .stop e => if e = .engfault then none else some { (u.earlyTrap e (if e = .mixtrap then { d0 := 1 } else {})) with curCore := s.curCore, curThread := s.curThread }
      | _ => none
    | _ => none

/-- A thread whose core is to move reaches its boundary, and the stops that are due there come first (R396, R408). -/
def State.reachBoundary (s : State) (c t : Nat) : State :=
  if !(s.thr c t).running || !(s.ctx c t).stopDue || (s.ctx c t).redo.isSome then s
  else match s.preciseStop c t with
    | some s => s
    | none => (s.boundaryOf c t).getD s

/-- CXCMD OP 0x7 (R402, R408): the source stops issuing once its threads have reached their boundaries, and what reaches it waits. -/
def execCxcmdMigrate (die asid lcore target : Nat) (s : State) : Host.Outcome State Fault Refusal :=
  .next (
    match (if s.running asid then s.lcoreCore asid lcore else none) with
    | none => s.cxErr die
    | some c =>
      let l := s.movesOf asid lcore c target
      if Config.gatewayBase ≤ target ∨ !s.reserveBent asid target ∨ l.any fun m => (s.core m.src).migrating.isSome || !(s.core m.src).holds then s.cxErr die
      else
        let s := l.foldl (fun s m => (upTo 4).foldl (fun s t => s.reachBoundary m.src t) s) s
        (l.foldl (fun s m => s.modCore m.src fun k => { k with migrating := some m.dst, migDie := die }) s).modDie die fun d => { d with cxBusy := true })

/-- The moves under way to the bent of a target. -/
def State.movesTo (s : State) (t : Nat) : List Move :=
  s.cores.filterMap fun p => p.2.migrating.bind fun u => if sameDomain 0 t u then some { src := p.1, dst := u } else none

/-- The first failing granule that streaming a core meets (R410). -/
def State.streamBad (s : State) (c : Nat) : Option Nat := (s.badIn (scratchKey c 0) 0x20000).or (s.badIn (windowKey c 0) 0x40000)

/-- Is any migration that a die started still in progress? -/
def State.stillBusy (s : State) (die : Nat) : Bool := s.cores.any fun p => p.2.migrating.isSome && p.2.migDie == die

/-- Has a core that is to move something to finish first: the running command of its ME, or the packet on its landing thread (R327, R408)? -/
def State.mustFinish (s : State) (c : Nat) : Bool := !(s.dueLast c (s.core c)).isEmpty

/-- The accesses that waited for a core's context are applied there, in the order of arrival (R25, R408). -/
def State.serveArrivals (s : State) (c : Nat) : State :=
  (s.core c).arrivals.foldl State.loopServe (s.modCore c fun k => { k with arrivals := [] })

/-- The contexts arrive: first the timed accesses that are due there, before any other access (R133), and then those that waited (R408). -/
def State.arriveAll (s : State) (l : List Move) : State :=
  let s := l.foldl State.moveCore s
  let s := l.foldl (fun s m => s.runHome m.dst false) s
  l.foldl (fun s m => s.serveArrivals m.dst) s

/-- A move that fails is cancelled: the source goes on in place, and a notice is sent (R410). -/
def State.cancelMove (s : State) (m : Move) : State :=
  ((s.modCore m.src fun k => { k with migrating := none }).noticeOf m.src .migrate 0).serveArrivals m.src

/-- A migration ends: the contexts stand at their targets, or, where it failed, the sources resume in place (R408, R410). -/
def execMigrationComplete (core : Nat) (ok : Bool) (s : State) : Host.Outcome State Fault Refusal :=
  match (s.core core).migrating with
  | none => .next s
  | some t =>
    let die := (s.core core).migDie
    let l := s.movesTo t
    if ok && l.any fun m => s.mustFinish m.src then .next s
    else
      let bad := l.filterMap fun m => s.streamBad m.src
      let s :=
        if ok && bad.isEmpty then s.arriveAll l
        else (l.foldl State.cancelMove (bad.foldl (fun s g => s.logUncorrectable g false) s)).modDie die fun d => { d with mfail := true }
      .next (s.modDie die fun d => { d with cxBusy := s.stillBusy die })

/-! ## Scarfs -/

/-- The first thing that waits at a vacated core goes to the core that its scarf names (R25, R409). -/
def State.forwardOne (s : State) (c t : Nat) : State :=
  let k := s.core c
  match k.inbound, k.refIn, k.outcomes with
  | m :: r, _, _ => (s.modCore c fun k => { k with inbound := r }).modCore t fun k => { k with inbound := k.inbound ++ [{ m with target := t }] }
  | [], m :: r, _ => (s.modCore c fun k => { k with refIn := r }).modCore t fun k => { k with refIn := k.refIn ++ [m] }
  | [], [], o :: r => (s.modCore c fun k => { k with outcomes := r }).modCore t fun k => { k with outcomes := k.outcomes ++ [o] }
  | [], [], [] => s

/-- Items that wait for a scarf. -/
def Core.scarfQueue (k : Core) : Nat := k.inbound.length + k.refIn.length + k.outcomes.length

/-- A scarf forwards one item. -/
def execScarfForward (core : Nat) (s : State) : Host.Outcome State Fault Refusal :=
  let k := s.core core
  match k.scarf with
  | some t => .next (if k.holds then s else s.forwardOne core t)
  | none => .next s

/-- CXCMD OP 0x8 (R402, R409): what waits at the scarf is forwarded first; then the scarf is gone and the core's scratchpad and window are zero. -/
def execCxcmdClearScarf (die target : Nat) (s : State) : Host.Outcome State Fault Refusal :=
  let k := s.core target
  match k.scarf with
  | some t =>
    let s := (upTo k.scarfQueue).foldl (fun s _ => s.forwardOne target t) s
    .next ((s.modCore target fun k => { k with scarf := none }).clearCore target)
  | none => .next (s.cxErr die)

/-- Migrations that complete, and scarfs with something to forward. -/
def State.dueMigrate (s : State) : List Event :=
  s.cores.flatMap fun (c, k) =>
    (match k.migrating with
      | some t =>
        let l := s.movesTo t
        if (l.head?.any fun m => m.src == c) && !l.any fun m => s.mustFinish m.src then [.migrationComplete c true] else []
      | none => []) ++
    (if k.scarf.isSome && !k.holds && decide (k.scarfQueue ≠ 0) then [.scarfForward c] else [])

end Sys2Proof.Machine
end

