-- ==== Sys2Proof/Machine/Platform.lean ====
section
/-! DEFINITION. Start-up (R430 to R434), the Dreith sessions (R428), the power controller and energy (R436, R438), and the management
sideband (R429). -/

namespace Sys2Proof.Machine

/-! ## The sideband's events -/

/-- An event of the sideband: raised as an in-band interrupt, or kept while they are disabled (R429). -/
def I3c.event (p : I3c) (e : Nat) : I3c := if p.ibiOn then { p with raised := p.raised ++ [e] } else { p with kept := p.kept ++ [e] }

/-- An event of the sideband. -/
def State.i3cEvent (s : State) (e : Nat) : State := s.modPkg fun p => { p with i3c := p.i3c.event e }

/-! ## Images and measurements -/

/-- An image in a slot is accepted (R434): its key's digest is the fused one, its signature verifies, and its body's digest is as the header says. -/
def imageVerifies (img : List Byte) : Bool :=
  let len := leNat ((img.drop 8).take 8)
  let body := (img.drop 4096).take len
  let key := (img.drop 448).take 384
  key.length == 384 && sha256 key == Config.fusedKeyDigest && pssVerify key (img.take 64) ((img.drop 64).take 384) && body.length == len &&
    sha256 body == (img.drop 16).take 32

/-- The image of a slot: false A, true B. -/
def Pkg.image (p : Pkg) (slot : Bool) : List Byte := if slot then p.imageB else p.imageA

/-- The slot the ROM tries first (R431): the preferred one, or after a failed start the one which that start did not run first. -/
def Pkg.firstSlot (p : Pkg) : Bool := if p.lastFailed then !p.lastFirst else p.bootsel

/-- The ROM runs an image: IMG and FALLBK, and the measurements of the image and of BOOTWHY (R431, R433). The boot ends with SKEWB computed, from 1 to 32
ticks: from asymmetries and a resolution that the spec does not give (R108, log 74). -/
def Pkg.runImage (p : Pkg) (slot fell : Bool) : Pkg :=
  let p := { p with img := slot, fallbk := fell, skewb := Config.skewBound p.starts % 32 + 1 }
  let p := p.extend 0 (((p.image slot).drop 16).take 32)
  p.extend 1 (leBytes 8 p.bootwhy.toNat)

/-- The boot ROM's choice (R431): the first image, else the other; none where neither verifies. -/
def Pkg.chosen (p : Pkg) : Option (Bool × Bool) :=
  let f := p.firstSlot
  if imageVerifies (p.image f) then some (f, false) else if imageVerifies (p.image !f) then some (!f, true) else none

/-- The boot ROM starts (R431, R432). A start in which no image verifies fails, but for minimal mode. -/
def State.boot (s : State) : State :=
  let p := s.pkg
  let f := p.firstSlot
  let next := { p with lastFirst := f, lastFailed := false }
  match p.chosen with
  | some (slot, fell) => { s with pkg := next.runImage slot fell }
  | none =>
    let s := { s with pkg := next }
    if p.minimal then s else s.post [.startFailure 1]

/-! ## Reset -/

/-- The package's registers after a full reset: those marked kept stay, with the images, what flash holds of earlier starts (R430, R432), and which bents the
part has disabled (R4). -/
def Pkg.afterReset (p : Pkg) (rsrc : Nat) : Pkg :=
  { Pkg.reset with
    harvested := p.harvested
    starts := satN 8 (p.starts + 1)
    lastf := p.lastf
    fails := p.fails
    rsrc := rsrc
    minimal := decide (p.fails = 3)
    lastFirst := p.lastFirst
    lastFailed := p.lastFailed
    bootsel := p.bootsel
    imageA := p.imageA
    imageB := p.imageB
    hostOut := p.hostOut
    i3c := { I3c.reset with raised := p.i3c.raised } }

/-- A full reset, after which the boot ROM starts (R430). What is broken in a core stays so (R395), and memory is no register. -/
def State.fullReset (s : State) (rsrc : Nat) : State :=
  let kept := s.cores.filterMap fun (c, k) => if k.me.fenced || k.me.bondBad then some (c, k.vacate) else none
  let t : State :=
    { State.reset with
      mem := s.mem, bad := s.bad, weak := s.weak, cores := kept, pkg := s.pkg.afterReset rsrc
      nextUid := s.nextUid, nextAge := s.nextAge, freshCount := s.freshCount }
  t.boot

/-- The sideband tells that minimal mode has been entered (R429). -/
def State.tellMinimal (s : State) : State := if s.pkg.minimal then s.i3cEvent 2 else s

/-- Power-on: a full reset with RSRC 0, and nothing in memory (R430; log 2). -/
def execPowerOn (s : State) : Host.Outcome State Fault Refusal := .next (State.fullReset { s with mem := [], bad := [], weak := [] } 0).tellMinimal

/-- A write of 1 to RSTCMD (R430). -/
def execRstcmd (s : State) : Host.Outcome State Fault Refusal := .next (s.fullReset 1).tellMinimal

/-- The service, which has extended MEAS2 with its configuration (R433), writes READY (R431, R432). From then on the system cores take the classes of R399, in supervisor mode; the spec gives `sie` no reset value and does not say when
software sets it (log 84, DESIGN CHOICE). -/
def execReady (s : State) : Host.Outcome State Fault Refusal :=
  .next (if s.pkg.readyWritten then s
    else (s.modPkg fun p =>
      let p := p.extend 2 Config.serviceDigest
      { p with
        readyWritten := true, lastFailed := false, fails := if p.minimal then p.fails else 0
        sysCores := p.sysCores.map fun (c : SysCore) => { c with sie := 0x3F0000, mode := 1, mstatus := c.sstatus 1 0 0 } }).i3cEvent 4)

/-- A start fails (R431, R432): 1 no image verified, 2 a self-test, 3 READY not written in time. The sill die performs a full reset, and the third
in a row comes up in minimal mode. -/
def execStartFailure (why : Nat) (s : State) : Host.Outcome State Fault Refusal :=
  .next (
    if s.pkg.readyWritten ∨ s.pkg.minimal ∨ why = 0 ∨ 3 < why then s
    else
      let s := s.modPkg fun p => { p with lastf := why, fails := min 3 (p.fails + 1), lastFailed := true }
      ((s.fullReset 3).i3cEvent 1).tellMinimal)

/-- 60 s in cycles (R431, R104). -/
def startLimit : Nat := 72000000000

/-- A start whose READY has not come within 60 s of the reset (R431). -/
def State.dueStart (s : State) : List Event :=
  if !s.pkg.readyWritten && !s.pkg.minimal && decide (startLimit ≤ s.cycle) then [.startFailure 3] else []

/-! ## The service: sessions, boot and attestation -/

/-- Does the service offer the interface now (R428, R432)? -/
def Pkg.offers (p : Pkg) (id : Nat) : Bool := if p.minimal then id == 1 || id == 6 else decide (1 ≤ id) && decide (id ≤ 7)

/-- The highest version within both ranges (R428). -/
def Pkg.version (p : Pkg) (id lo hi : Nat) : Option Nat :=
  let own := Config.ifaceRange id
  let v := min hi own.2
  if p.offers id && decide (lo ≤ v) && decide (own.1 ≤ v) then some v else none

/-- OPEN (R428): status 3 beyond 64 sessions, status 1 with no common version of the core protocol. -/
def execSessionOpen (ifaces : List (Nat × Nat × Nat)) (s : State) : Host.Outcome State Fault Refusal :=
  let p := s.pkg
  let got := ifaces.map fun i => (i.1, p.version i.1 i.2.1 i.2.2)
  let reply := fun (status id : Nat) (l : List (Nat × Option Nat)) => HostOut.openReply status id l Config.isafeat Config.certificate
  .next (
    if 64 ≤ p.sessions.length then s.send (reply 3 0 [])
    else if !(got.any fun g => g.1 == 1 && g.2.isSome) then s.send (reply 1 0 got)
    else
      (s.modPkg fun p => { p with sessions := p.sessions ++ [{ id := p.nextSession, ifaces := got }], nextSession := p.nextSession + 1 }).send
        (reply 0 p.nextSession got))

/-- CLOSE (R428). -/
def execSessionClose (session : Nat) (s : State) : Host.Outcome State Fault Refusal :=
  .next (s.modPkg fun p => { p with sessions := p.sessions.filter fun x => x.id != session })

/-- The 304 bytes that a quote signs (R434). -/
def Pkg.quoteMessage (p : Pkg) (nonce : List Byte) : List Byte :=
  leBytes 4 1 ++ takeFill 0 32 nonce ++ p.meas.toList.flatMap (takeFill 0 32) ++ leBytes 8 p.bootwhy.toNat ++ List.replicate 4 0

/-- The interface of a request (R428). -/
def HostAsk.iface : HostAsk → Nat
  | .launch _ | .kick _ _ _ => 2
  | .memory _ => 3
  | .power _ _ => 5
  | .bootwhy | .reset => 6
  | .debug _ _ => 7

/-- The service carries out a request (R377, R428, R432). -/
def State.carryOut (s : State) (session : Nat) : HostAsk → State
  | .launch r => s.modPkg fun p => { p with launchReqs := p.launchReqs ++ [r] }
  | .kick asid qid tail => s.post [.kick asid qid tail]
  | .memory ws => s.post (ws.map fun w => .systemCoreAccess 0 true w.1 8 w.2)
  | .power addr value => s.post [.registerWrite addr value]
  | .bootwhy => s.send (.bootwhy session s.pkg.bootwhy)
  | .reset => s.post [.rstcmd]
  | .debug addr value => s.post [.registerWrite addr value]

/-- The service looks at the oldest request of the host: one through an interface that its session lacks takes status 2 (R428). -/
def State.serveHost (s : State) : State :=
  match s.pkg.hostReqs with
  | [] => s
  | r :: rest => (s.modPkg fun p => { p with hostReqs := rest }).request r.session r.ask.iface fun s => s.carryOut r.session r.ask

/-- A quote (R433, R434). -/
def execQuote (session : Nat) (nonce : List (BitVec 8)) (s : State) : Host.Outcome State Fault Refusal :=
  let m := s.pkg.quoteMessage nonce
  .next (s.request session 6 fun s => s.send (.quote m (takeFill 0 384 (Config.identitySign m s.freshCount))))

/-- An extend (R433): of MEAS0 to MEAS3 by the ROM and the service, and of MEAS4 to MEAS7 at the request of a session, which minimal mode does not have
among the host's (R432). -/
def execExtend (session i : Nat) (digest : List (BitVec 8)) (s : State) : Host.Outcome State Fault Refusal :=
  .next (
    if 8 ≤ i then s
    else if i < 4 then s.modPkg fun p => p.extend i digest
    else s.request session 6 fun s => if s.pkg.minimal then s else s.modPkg fun p => p.extend i digest)

/-- The host's clear command (R432). -/
def execClearFails (session : Nat) (s : State) : Host.Outcome State Fault Refusal :=
  .next (s.request session 6 fun s => s.modPkg fun p => { p with fails := 0 })

/-- Puts bytes at an offset of an image slot; a gap reads zero. -/
def imagePut (img : List Byte) (offset : Nat) (bytes : List Byte) : List Byte :=
  takeFill 0 offset img ++ bytes ++ img.drop (offset + bytes.length)

/-- The host writes an image slot (R432). -/
def execImageSlotWrite (session slot offset : Nat) (bytes : List (BitVec 8)) (s : State) : Host.Outcome State Fault Refusal :=
  .next (s.request session 6 fun s => match slot with
    | 0 => s.modPkg fun p => { p with imageA := imagePut p.imageA offset bytes }
    | 1 => s.modPkg fun p => { p with imageB := imagePut p.imageB offset bytes }
    | _ => s)

/-! ## Power and energy -/

/-- PWRCAP as it acts (R436). -/
def Pkg.cap (p : Pkg) : Nat := max 600 (min 2000 (wfield p.pwrcap 0 16))

/-- Which limits an evaluation finds exceeded: package power, current, temperature of 105 °C in 0.125 °C (R436). -/
structure PowerOver where
  pkg : Bool
  cur : Bool
  temp : Bool
deriving DecidableEq, Repr

def powerOver (cap pkgW pkgA dieA dieT : Nat) : PowerOver :=
  { pkg := decide (cap < pkgW), cur := decide (4000 < pkgA) || decide (1000 < dieA), temp := decide (840 < dieT) }

/-- Under 90 % of every limit (R436). -/
def powerUnder (cap pkgW pkgA dieA dieT : Nat) : Bool :=
  decide (10 * pkgW < 9 * cap) && decide (10 * pkgA < 9 * 4000) && decide (10 * dieA < 9 * 1000) && decide (10 * dieT < 9 * 840)

/-- The step after an evaluation; `long` says that the die has stayed under 90 % of every limit for 16 µs (R436). -/
def nextStep (step floor dieA : Nat) (exc long : Bool) : Nat :=
  let up := if 1050 < dieA then 7 else if exc then min 7 (step + 1) else if long && decide (floor < step) then step - 1 else step
  max up floor

/-- One evaluation of a die (R436). The 16 microseconds under the limits are counted anew after each step that is lowered (log 55, DEDUCED). -/
def Die.evaluate (d : Die) (o : PowerOver) (low : Bool) (dieA : Nat) : Die :=
  let step := wfield d.thrs 0 3
  let exc := o.pkg || o.cur || o.temp
  let under := if low then min 16 (d.under + 1) else 0
  let long := decide (16 ≤ under)
  let next := nextStep step d.floor dieA exc long
  let chg := if next = step then wfield d.thrs 48 16 else satN 16 (wfield d.thrs 48 16 + 1)
  let byFloor := decide (d.floor ≠ 0) && decide (next = d.floor) && (decide (step < d.floor) || !exc)
  { d with
    thrs := pack [(48, 16, chg), (11, 1, b2n byFloor), (10, 1, b2n o.temp), (9, 1, b2n o.cur), (8, 1, b2n o.pkg), (0, 3, next)]
    under := if next < step then 0 else under }

/-- The power controller compares a die with its limits (R436), with the sideband's events (R429). In minimal mode the compute dies are unpowered. -/
def execPowerEval (die pkgW pkgA dieA dieT : Nat) (s : State) : Host.Outcome State Fault Refusal :=
  .next (
    if 4 ≤ die ∨ s.pkg.minimal then s
    else
      let cap := s.pkg.cap
      let o := powerOver cap pkgW pkgA dieA dieT
      let hot := o.temp && wfield (s.die die).thrs 10 1 == 0
      let full := decide (cap ≤ pkgW)
      let capped := full && !s.pkg.atCap
      let s := s.modDie die fun d => d.evaluate o (powerUnder cap pkgW pkgA dieA dieT) dieA
      let s := s.modPkg fun p => { p with atCap := full }
      let s := if hot then s.i3cEvent 3 else s
      if capped then s.i3cEvent 5 else s)

/-- ENK of a launch, its core-rail part, and when (R438, R439): they never decrease, and saturate. -/
def execEnergyUpdate (asid coreUj totalUj : Nat) (s : State) : Host.Outcome State Fault Refusal :=
  let grow := fun (old : Word) (v : Nat) => BitVec.ofNat 64 (max old.toNat (satN 64 v))
  let time := match s.lcoreCore asid 0 with | some c => s.gtime c | none => s.pkg.gmCount
  .next (s.modPart asid fun p => { p with enk := grow p.enk totalUj, enkCore := grow p.enkCore coreUj, enkTime := time })

/-! ## The sideband -/

/-- The port acts on the bus: not after an HDR entry (R429). -/
def State.onBus (s : State) (f : State → State) : Host.Outcome State Fault Refusal := .next (if s.pkg.i3c.hdr then s else f s)

/-- Changes the port. -/
def State.modI3c (s : State) (f : I3c → I3c) : State := s.modPkg fun p => { p with i3c := f p.i3c }

/-- A transfer that the port accepts. -/
def State.acked (s : State) : State := s.modI3c fun p => { p with nacked := false }

/-- A transfer to the port's dynamic address; without one nothing answers to it. -/
def State.addressed (s : State) (f : State → State) : Host.Outcome State Fault Refusal :=
  s.onBus fun s => if s.pkg.i3c.dynAddr.isSome then f s.acked else s.modI3c fun p => { p with nacked := true }

/-- A private write of a command: its response, and its effect (R429). -/
def State.i3cCommand (s : State) (response : List Byte) (f : State → State) : Host.Outcome State Fault Refusal :=
  s.addressed fun s => (f s).modI3c fun p => { p with response := response }

/-- The 16 bytes of STATUS (R429). -/
def State.i3cStatusBytes (s : State) (watts temp : Nat) : List Byte :=
  leBytes 8 s.pkg.bootwhy.toNat ++ leBytes 2 watts ++ leBytes 2 temp ++
  leBytes 2 (packNat ((upTo 4).map fun d => (4 * d, 4, wfield (s.die d).thrs 0 3))) ++
  leBytes 2 (packNat [(0, 1, b2n s.pkg.readyWritten), (1, 1, b2n s.pkg.minimal)])

def execI3cStatus (watts temp : Nat) (s : State) : Host.Outcome State Fault Refusal := s.i3cCommand (s.i3cStatusBytes watts temp) id

def execI3cTemps (t0 t1 t2 t3 : Nat) (s : State) : Host.Outcome State Fault Refusal := s.i3cCommand ([t0, t1, t2, t3].flatMap fun t => leBytes 2 t) id

def execI3cSetcap (watts : Nat) (s : State) : Host.Outcome State Fault Refusal :=
  s.i3cCommand [] fun s => s.modPkg fun p => { p with pwrcap := BitVec.ofNat 64 (watts % 65536) }

def execI3cSetfloor (arg : BitVec 8) (s : State) : Host.Outcome State Fault Refusal :=
  s.i3cCommand [] fun s => s.modDie (fieldOf arg.toNat 4 2) fun d => { d with floor := fieldOf arg.toNat 0 3 }

/-- RESET: a full reset for the byte 0xA5; any other byte is ignored (R429, R430). -/
def execI3cReset (arg : BitVec 8) (s : State) : Host.Outcome State Fault Refusal :=
  s.addressed fun s => if arg = 0xA5 then (s.fullReset 2).tellMinimal else s

/-- BOOTSEL: 0 or 1 to BOOTSEL.PREF (R429). -/
def execI3cBootsel (arg : BitVec 8) (s : State) : Host.Outcome State Fault Refusal :=
  s.i3cCommand [] fun s => if arg.toNat < 2 then s.modPkg fun p => { p with bootsel := decide (arg = 1) } else s

def execI3cUnknownCommand (s : State) : Host.Outcome State Fault Refusal := s.i3cCommand [0xFF] id

/-- A private read returns the response of the last command (R429). -/
def execI3cPrivateRead (s : State) : Host.Outcome State Fault Refusal := s.addressed fun s => s.modI3c fun p => { p with out := p.response }

def execI3cHdrEntry (s : State) : Host.Outcome State Fault Refusal := s.onBus fun s => s.modI3c fun p => { p with hdr := true }

/-- The HDR exit pattern (R429). -/
def execI3cHdrExit (s : State) : Host.Outcome State Fault Refusal := .next (s.modI3c fun p => { p with hdr := false })

/-- Assigns a dynamic address to a port that has none and that the command names (R429); `out` is what the port sends. -/
def State.assign (s : State) (named : Bool) (addr : Nat) (out : List Byte) : Host.Outcome State Fault Refusal :=
  s.onBus fun s =>
    if s.pkg.i3c.dynAddr.isSome || !named then s.modI3c fun p => { p with nacked := true }
    else s.acked.modI3c fun p => { p with dynAddr := some addr, out := if out.isEmpty then p.out else out }

/-- ENTDAA: the port sends its provisioned id with BCR and DCR, and takes the address (R429). -/
def execEntdaa (addr : Nat) (s : State) : Host.Outcome State Fault Refusal := s.assign true addr (beBytes 6 Config.provisionedId.toNat ++ [0x06, 0x00])

/-- SETDASA: `addr` holds the static address that the command names, over 7 bits of the dynamic one; the port's static address is 0x5C (R429). -/
def execSetdasa (addr : Nat) (s : State) : Host.Outcome State Fault Refusal := s.assign (addr / 128 == 0x5C) (addr % 128) []

def execRstdaa (s : State) : Host.Outcome State Fault Refusal := s.onBus fun s => s.acked.modI3c fun p => { p with dynAddr := none }

/-- ENEC: the oldest kept event is raised when in-band interrupts are enabled again (R429). -/
def I3c.enable (p : I3c) : I3c :=
  if p.ibiOn then p else { p with ibiOn := true, raised := p.raised ++ p.kept.take 1, kept := p.kept.drop 1 }

def execEnec (s : State) : Host.Outcome State Fault Refusal := s.onBus fun s => s.acked.modI3c I3c.enable
def execDisec (s : State) : Host.Outcome State Fault Refusal := s.onBus fun s => s.acked.modI3c fun p => { p with ibiOn := false }
def execSetmwl (len : Nat) (s : State) : Host.Outcome State Fault Refusal := s.onBus fun s => s.acked.modI3c fun p => { p with mwl := len % 65536 }
def execSetmrl (len : Nat) (s : State) : Host.Outcome State Fault Refusal := s.onBus fun s => s.acked.modI3c fun p => { p with mrl := len % 65536 }

/-- The answer of a CCC that reads. -/
def State.cccRead (s : State) (out : List Byte) : Host.Outcome State Fault Refusal := s.addressed fun s => s.modI3c fun p => { p with out := out }

def execGetpid (s : State) : Host.Outcome State Fault Refusal := s.cccRead (beBytes 6 Config.provisionedId.toNat)
def execGetbcr (s : State) : Host.Outcome State Fault Refusal := s.cccRead [0x06]
def execGetdcr (s : State) : Host.Outcome State Fault Refusal := s.cccRead [0x00]

/-- GETSTATUS reports that a kept event is pending (R429); the field's place in the low byte is the I3C specification's. -/
def execGetstatus (s : State) : Host.Outcome State Fault Refusal := s.cccRead [0x00, BitVec.ofNat 8 (b2n (!s.pkg.i3c.kept.isEmpty))]

def execGetmwl (s : State) : Host.Outcome State Fault Refusal := s.cccRead (beBytes 2 s.pkg.i3c.mwl)

/-- GETMRL: the length, and the one byte of an in-band interrupt's payload (R429). -/
def execGetmrl (s : State) : Host.Outcome State Fault Refusal := s.cccRead (beBytes 2 s.pkg.i3c.mrl ++ [0x01])

def execRstact (action : Nat) (s : State) : Host.Outcome State Fault Refusal := s.onBus fun s => s.acked.modI3c fun p => { p with rstact := action % 256 }

/-- Every other CCC is NACKed (R429). -/
def execCccUnsupported (_code : Nat) (s : State) : Host.Outcome State Fault Refusal := s.onBus fun s => s.modI3c fun p => { p with nacked := true }

end Sys2Proof.Machine
end

