-- ==== Sys2Proof/Machine/SheetEvents.lean ====
section
/-! DEFINITION. What the sheet directory does by itself: closing a generation (R144, R145), handing out formula tasks (R146), publishing
(R149), binding snapshots (R150), and ending the wait of a reclaim (R155). -/

namespace Sys2Proof.Machine

/-! ## Closing -/

/-- Has the recalculating generation still to close, with every CST accepted into it complete (R144)? -/
def Sdir.closable (d : Sdir) : Bool := d.recalc && !d.closedGen && !d.csts.any fun p => p.gen == d.pgen + 1

/-- ABANDONs that waited for the CSTs of the recalculating generation: the first discards it, and a later one finds nothing (R159). Where a buffer does not
translate, each stops with the cause and nothing is discarded (R137). -/
def State.serveAbandons (s : State) (asid : Nat) : State :=
  let d := (s.part asid).sdir
  let k := d.pgen + 1
  let s := s.modSdir asid fun d => { d with abandonq := [] }
  match s.abandonFault asid with
  | some (c, det) => d.abandonq.foldl (fun s p => (Ans.cause c det s).deliver p.1 p.2) (s.noteEcc c det)
  | none =>
    let s := s.abandon asid
    match d.abandonq with
    | [] => s
    | (u, r) :: rest => rest.foldl (fun s p => (Ans.x 0 s).deliver p.1 p.2) ((Ans.x (BitVec.ofNat 64 k) s).deliver u r)

/-- The recalculating generation closes, unless an ABANDON has waited for this moment. -/
def State.genClose (s : State) (asid : Nat) : State :=
  let d := (s.part asid).sdir
  if !d.closable then s
  else if d.abandonq.isEmpty then (s.closeGen asid).tryNotice asid
  else (s.serveAbandons asid).pump asid

def execGenClose (asid : Nat) (s : State) : Host.Outcome State Fault Refusal := .next (s.genClose asid)

/-! ## Formula tasks -/

/-- The READY cell whose task is handed out next: descending DIST, then ascending id (R146). -/
def Sdir.nextReady (d : Sdir) : Option Nat :=
  (d.cells.filter fun e => e.2.state == .ready).foldl (fun best e =>
    match best with
    | none => some e
    | some b => if b.2.dist < e.2.dist then some e else best) (none : Option (Nat × Cell)) |>.map (·.1)

/-- The starting snapshot of a formula task, in slot 0 (R146, R281). -/
def formulaSnaps (k order : Nat) : Vector (Option Snap) 4 :=
  #v[some { gen := some k, mode := 2, want := k, dest := 0, pc := 0, order := order }, none, none, none]

/-- The peg of a formula task (R146). -/
def formulaPeg (l : Launch) (id k tid : Nat) (c : Cell) (buf now : Word) : Peg :=
  { w := #v[c.bind.entry.getD 0, pack [(48, 8, l.ftmpl.toNat), (0, 48, tid)], 0, BitVec.ofNat 64 id, buf, BitVec.ofNat 64 k, BitVec.ofNat 64 c.bytes,
      BitVec.ofNat 64 c.bind.prec.length]
    enqt := now, enqLcore := 0, stolen := false }

/-- A formula task whose hand-out failed is parked as faulted (R137, R158, R166): it fills a slot of KIND 2 on the die of LCORE 0 (log 24). -/
def State.parkFormula (s : State) (asid id k tid : Nat) (p : Peg) (cause : Cause) (det : Detail) : State :=
  let core := (s.lcoreCore asid 0).getD 0
  let die := coreDie core
  match tfree (s.die die).slots 4096 with
  | none => s
  | some i =>
    let (uid, s) := s.newUid
    let x := Ctx.start (s.part asid).launch uid (.formula id k) (vget p.w 0 0) (vget p.w 1 0) 0 (p.w.toList.drop 3) (BitVec.ofNat 16 (wfield (vget p.w 1 0) 48 16))
    let x := { x with snaps := formulaSnaps k s.nextAge, enqt := p.enqt }
    let slot : Slot := { ctx := x, kind := 2, cause := cause.code, more := false, det := det, asid := asid, lcore := 0, core := core, thread := 0, resumeAt := none, resumeOn := 0 }
    let s := { s with nextAge := s.nextAge + 1 }.modDie die fun d => { d with slots := tput d.slots i slot }
    (s.modCell asid id fun c => { c with state := .faulted, task := some tid }).pushRec die
      { kind := 2, slot := i, cause := cause.code, asid := asid, lcore := 0, tid := tid }

/-- Has a hand-out room: a task-queue entry (R387), and a slot should it fail? -/
def State.handoutRoom (s : State) (asid : Nat) : Bool :=
  decide ((s.part asid).sched.taskq.length < 1024) && (tfree (s.die (coreDie ((s.lcoreCore asid 0).getD 0))).slots 4096).isSome

/-- One hand-out (R146): the buffer is prepared, the task gets an id and its peg joins the task queue. A reclaim that must wait is noted
and the hand-out is tried again. The peg of a task that is parked instead names the buffer all the same. R393 gives DEQOVF
no detail word: D0 and D1 are zero (log 7, DESIGN CHOICE). -/
def State.handout (s : State) (asid : Nat) : State :=
  let d := (s.part asid).sdir
  let k := d.pgen + 1
  match (if s.handoutRoom asid then d.nextReady else none) with
  | none => s
  | some id =>
    match tget d.cells id with
    | none => s
    | some c =>
      let l := (s.part asid).launch
      let tid := l.idBase + 0xFFFE * 2 ^ 32 + d.tidCount
      let now := s.pkg.gmCount
      let next := fun (s : State) => s.modSdir asid fun d => { d with tidCount := d.tidCount + 1 }
      match s.prepare asid id k with
      | .publication => s
      | .reclaim s => s
      | .cause e det =>
        let s := s.noteEcc e det
        if 2 ^ 32 ≤ d.tidCount then s.parkFormula asid id k 0 (formulaPeg l id k 0 c (c.target k) now) e det
        else (next s).parkFormula asid id k tid (formulaPeg l id k tid c (c.target k) now) e det
      | .ready buf s =>
        if 2 ^ 32 ≤ d.tidCount then s.parkFormula asid id k 0 (formulaPeg l id k 0 c buf now) .deqovf {}
        else
          let (age, s) := s.newAge
          let s := s.modSdir asid fun d => { d with tidCount := d.tidCount + 1, parked := d.parked ++ [(tid, formulaSnaps k age)] }
          (s.modCell asid id fun c => { c with state := .running, task := some tid }).modSched asid fun q =>
            { q with taskq := q.taskq ++ [{ age := age, root := false, peg := formulaPeg l id k tid c buf now }] }

/-- Is a hand-out due: one that completes, or a wait to begin? -/
def State.handoutDue (s : State) (asid : Nat) : Bool :=
  let d := (s.part asid).sdir
  match (if s.handoutRoom asid then d.nextReady else none) with
  | none => false
  | some id =>
    s.prepMoves asid id (d.pgen + 1)

def execFormulaHandout (asid : Nat) (s : State) : Host.Outcome State Fault Refusal := .next (s.handout asid)

/-! ## Publication -/

/-- May the noticed generation be published (R149)? -/
def State.publishable (s : State) (asid : Nat) : Bool :=
  let d := (s.part asid).sdir
  d.released && (match d.notice with | some (_, tp) => decide (tp.toNat ≤ s.pkg.gmCount.toNat) | none => false)

/-- The publication, where it may be made; requests that waited for it are then accepted (R144). -/
def State.publishNow (s : State) (asid : Nat) : State := if s.publishable asid then (s.publish asid).pump asid else s

/-- A die (0 to 3), or the sill die (4), acknowledges the notice; after the last the release is sent, and a generation whose TP is reached is published before
anything else is accepted (R149, R441). -/
def execPublicationAck (asid who : Nat) (s : State) : Host.Outcome State Fault Refusal :=
  .next ((s.modSdir asid fun d =>
    if d.notice.isNone || d.acks.contains who || decide (4 < who) then d
    else { d with acks := d.acks ++ [who], released := d.released || decide (5 ≤ d.acks.length + 1) }).publishNow asid)

def execPublication (asid : Nat) (s : State) : Host.Outcome State Fault Refusal := .next (s.publishNow asid)

/-! ## Reclaims -/

/-- Can an accepted CST that waited for a reclaim go on (R155)? -/
def State.cstsReady (s : State) (asid : Nat) : Bool :=
  (s.part asid).sdir.csts.any fun p => s.prepMoves asid p.cell p.gen

/-- The wait of a reclaim ends: SNAPWAIT ticks have passed, or the snapshots have closed (R155). -/
def execSnapwaitExpiry (asid : Nat) (s : State) : Host.Outcome State Fault Refusal := .next (s.progressCsts asid)

/-! ## What is due -/

/-- Waiting snapshots that bind now, by unit and slot. -/
def State.dueBinds (s : State) (asid : Nat) : List Event :=
  (s.placed asid).flatMap fun p =>
    (upTo 4).filterMap fun i =>
      match vget p.2.snaps i none with
      | some n => if n.gen.isNone && (s.snapNow p.1 n).isSome then some (.snapBind p.2.uid i) else none
      | none => none

/-- Steps due at the sheet directories. In a deterministic launch generations close and tasks are handed out at ends of quantum only
(R391). -/
def State.dueSheet (s : State) : List Event :=
  s.parts.flatMap fun (a, p) =>
    let d := p.sdir
    let det := p.launch.deterministic
    (if !det && d.closable then [.genClose a] else []) ++
    (if !det && s.handoutDue a then [.formulaHandout a] else []) ++
    (if d.notice.isSome && !d.released then ((upTo 5).filter fun w => !d.acks.contains w).map (.publicationAck a) else []) ++
    (if s.publishable a then [.publication a] else []) ++
    (if s.cstsReady a then [.snapwaitExpiry a] else []) ++
    s.dueBinds a

end Sys2Proof.Machine
end

