-- ==== Sys2Proof/Machine/Quantum.lean ====
section
/-! DEFINITION. The end of a quantum of a deterministic launch (R389 to R391), and the recording and replay of what was served (R425, R426). -/

namespace Sys2Proof.Machine

/-! ## Who is blocked -/

/-- Is a done message of the launch, or what a completion that it brought does, still on its way? A task-queue entry that it makes ready joins before the
pulls of the quantum (R391). -/
def State.doneWaits (s : State) (asid : Nat) : Bool := s.bays.any fun b => b.2.ate.input.any fun r => r.op.asid? == some asid

/-- Has every core of the launch ended the quantum, or is it blocked in it (R390), with no completion on its way (R391)? -/
def State.quantumOver (s : State) (asid : Nat) : Bool :=
  let q := (s.part asid).sched.quanta
  !s.doneWaits asid && (s.launchCores asid).all fun c => (s.core c).migrating.isNone && (decide (q < (s.core c).det.ended) || s.quantumBlocked c)

/-! ## Serving -/

/-- What a quantum-served request comes to: an answer with the value a digest takes; kept for a later end; gone with no answer. -/
inductive Served where
  | ans (v : Word) (a : Ans)
  | keep (s : State)
  | gone (s : State)

/-- An answer with its value. -/
def Ans.served (a : Ans) : Served :=
  match a with
  | .x v s => .ans v (.x v s)
  | .m r v s => .ans (v.zeroExtend 64) (.m r v s)
  | .done s => .ans 0 (.done s)
  | .cause c d s => .ans 0 (.cause c d s)

/-- A request of the SDIR in a deterministic launch. -/
def SdirAns.served (uid : Nat) : SdirAns → Served
  | .ans a => a.served
  | .wait s => if (s.unitCtx uid).any fun x => x.wait == .quantum then .keep s else .gone s
  | .hold s => .keep s
  | .later s => .gone s

/-- An access to DDLIM or DDORD (R353, R389). -/
def State.serveCtl (s : State) (r : QReq) (major num : Nat) (v : Word) : Ans :=
  let old := s.ctlGet r.core r.thread num
  let put := fun (op : CtlOp) =>
    match s.ctlPut false r.core r.thread num op v with
    | .done s => Ans.x old s
    | .cause c => .cause c {} s
    | .wait => .x old s
  match major with
  | 0x3E => put .write
  | 0x3F => put .set
  | 0x40 => put .clear
  | _ => .x old s

/-- Performs one request. -/
def State.serveReq (s : State) (asid : Nat) (r : QReq) : Served :=
  match r.op with
  | .pull => .gone s
  | .cell fn a b desc => (s.cellServe asid r fn a b desc).served r.uid
  | .bqtake loc _ =>
    let (v, s) := s.takeBlock loc
    .ans v (.x v s)
  | .dd fn a b c =>
    match s.ddServeReq asid r fn a b c with
    | .ans a => a.served
    | .miss e t => if e.m = .busy then .keep t else .gone (t.holdReq asid r e)
    | .routed t => .gone t
  | .ctl major num v => (s.serveCtl r major num v).served

/-- What one core's digest is taken over so far: LCORE and words. -/
abbrev Digests := List (Nat × List Word)

/-- Words appended to a core's list. -/
def Digests.add (d : Digests) (lcore : Nat) (ws : List Word) : Digests :=
  if d.any fun e => e.1 == lcore then d.map fun e => if e.1 = lcore then (e.1, e.2 ++ ws) else e else d ++ [(lcore, ws)]

/-- Serves the requests of quanta up to q in ascending LCORE, each core's in program order; those of an earlier quantum that were kept are in no
digest again (R391, R425). -/
def serveAll (asid q : Nat) : List QReq → State → Digests → State × Digests
  | [], s, d => (s, d)
  | r :: rest, s, d =>
    if !(s.part asid).qreqs.contains r then serveAll asid q rest s d
    else
      let (k, a) := r.op.digestWords
      let note := fun (v : Word) => if r.quantum = q then d.add r.lcore [k, a, v] else d
      let s := s.modPart asid fun p => { p with qreqs := p.qreqs.erase r }
      match s.serveReq asid r with
      | .ans v x => serveAll asid q rest (x.deliver r.uid r.dest) (note v)
      | .keep s => serveAll asid q rest (s.modPart asid fun p => { p with qreqs := p.qreqs ++ [r] }) (note 0)
      | .gone s => serveAll asid q rest s (note 0)

/-! ## What else happens at an end of quantum -/

/-- Hand-outs of formula tasks while they complete (R146, R391). -/
def State.handouts (s : State) (asid : Nat) : Nat → State
  | 0 => s
  | fuel + 1 => if s.handoutDue asid then (s.handout asid).handouts asid fuel else s

/-- Selections while there are any (R383, R391). -/
def State.selections (s : State) (asid : Nat) : Nat → State
  | 0 => s
  | fuel + 1 =>
    let s := s.refreshHeads asid
    match s.selectSlot asid with
    | some i => (s.selectHead asid i).selections asid fuel
    | none => s

/-- Descriptors between HEAD and TAIL of the mapped queues: no more selections than these can be made. -/
def State.headsLeft (s : State) (asid : Nat) : Nat :=
  ((upTo 16).map fun i => let h := s.hqs asid i; (h.tail + 2 ^ 32 - h.head) % 2 ^ 32).foldl (· + ·) 0

/-- The pulls of quanta up to q, in ascending LCORE (R389, R391). -/
def State.servePulls (s : State) (asid q : Nat) (d : Digests) : State × Digests :=
  let ps := sortLex (fun p => [(s.core p.1).lcore]) ((s.part asid).sched.pulls.filter fun p => decide (p.2.1 ≤ q))
  ps.foldl (fun (a : State × Digests) p =>
    (a.1.servePull asid p.1, if p.2.1 = q then a.2.add (s.core p.1).lcore [1, 0, 0] else a.2)) (s, d)

/-- RPLCTL.MODE as it acts (R425): 0 off, 1 record, 2 replay. -/
def Debug.mode (g : Debug) : Nat := let m := wfield g.rplctl 62 2; if m = 3 then 0 else m

/-- ONDIV and DIV. -/
def Debug.ondiv (g : Debug) : Bool := wfield g.rplctl 61 1 == 1
def Debug.div (g : Debug) : Bool := wfield g.rplctl 60 1 == 1

/-- Is the launch in a replay that still compares (R426)? -/
def Debug.compares (g : Debug) : Bool := g.mode == 2 && !g.rplfree

/-- The page at which a launch's recording lies names what is kept with it. -/
def Debug.page (g : Debug) : Nat := g.rplbase.toNat / 4096

/-- May a resume on the core with an LCORE take effect at the end of quantum q: in a replay, has the recording one there by then? -/
def State.resumeNow (s : State) (asid q lcore : Nat) : Bool :=
  let g := (s.part asid).dbg
  !g.compares || (tgetD s.pkg.resumes g.page []).any fun e => decide (e.1 ≤ q) && e.2 == lcore

/-- A resume takes effect at the end of quantum q; a recording keeps that quantum (R403). It names no entry for it: the model keeps the quanta beside the
entries (log 85, DESIGN CHOICE). -/
def State.resumeAtEnd (s : State) (asid q die slot lcore core : Nat) : State :=
  let g := (s.part asid).dbg
  let s := if g.mode = 1 then s.modPkg fun p => { p with resumes := tput p.resumes g.page (tgetD p.resumes g.page [] ++ [(q, lcore)]) } else s
  s.resumeTo die slot (s.holderOf core)

/-- Resumes that wait for the end of a quantum that their core has now ended (R403). -/
def State.quantumResumes (s : State) (asid q : Nat) : State :=
  (upTo 4).foldl (fun s d =>
    ((s.die d).slots.filter fun e => e.2.asid == asid).foldl (fun s e =>
      match e.2.resumeAt, s.lcoreCore asid e.2.resumeOn with
      | some r, some c => if r < (s.core c).det.ended && s.resumeNow asid q e.2.resumeOn then s.resumeAtEnd asid q d e.1 e.2.resumeOn c else s
      | _, _ => s) s) s

/-- Kicks applied in arrival order (R391). -/
def State.applyKicks (s : State) (asid : Nat) (ks : List (Nat × Nat)) : State := ks.foldl (fun s k => s.applyKick asid k.1 k.2) s

/-! ## Digests -/

/-- One byte of the reflected CRC-64 of ECMA-182. -/
def crcByte (r : Nat) (b : Byte) : Nat := (upTo 8).foldl (fun r _ => if r % 2 = 1 then (r / 2) ^^^ 0xC96C5795D7870F42 else r / 2) (r ^^^ b.toNat)

/-- CRC-64 of ECMA-182, reflected, with initial value and final XOR all ones (R425). -/
def crc64 (bs : List Byte) : Nat := (bs.foldl crcByte (2 ^ 64 - 1)) ^^^ (2 ^ 64 - 1)

/-- The digest of some words, each of 8 bytes. -/
def digestOf (ws : List Word) : Nat := crc64 (ws.flatMap fun w => leBytes 8 w.toNat)

/-- LCORE under which kicks are recorded. -/
def kickLcore : Nat := 0xFFFF

/-- The words of some kicks, as pairs of QID and TAIL. -/
def kickWords (ks : List (Nat × Nat)) : List Word := ks.flatMap fun k => [BitVec.ofNat 64 k.1, BitVec.ofNat 64 k.2]

/-- An entry of a recording (R425). -/
structure RplEntry where
  digest : Nat
  lcore : Nat
  quantum : Nat
deriving DecidableEq, Repr

/-- Key of entry i of the recording. -/
def Debug.rplKey (g : Debug) (i : Nat) : Nat := hbmKey (g.rplbase.toNat + 16 * i)

/-- The entries of a recording from number i on that belong to quantum q. -/
def State.recorded (s : State) (g : Debug) (q : Nat) : Nat → Nat → List RplEntry
  | 0, _ => []
  | fuel + 1, i =>
    if g.rpllen.toNat ≤ i then []
    else
      let w := s.readLe (g.rplKey i) 8
      let e : RplEntry := { digest := s.readLe (g.rplKey i + 8) 8, lcore := fieldOf w 48 16, quantum := fieldOf w 0 48 }
      if e.quantum = q then e :: s.recorded g q fuel (i + 1) else []

/-- The ways to take some of a list's elements in some order, up to a number of them, the fewest first. -/
def arrangements {α : Type} [DecidableEq α] : Nat → List α → List (List α)
  | 0, _ => [[]]
  | n + 1, l => [] :: l.flatMap fun a => (arrangements n (l.erase a)).map (a :: ·)

/-- The kicks applied at this end of quantum, and those kept (R391, R426): in a replay those of the held kicks, in the order, that have the digest which the
recording names; all where none have it, and none where it names none. -/
def State.kicksNow (s : State) (asid q cores : Nat) : List (Nat × Nat) × List (Nat × Nat) :=
  let p := s.part asid
  let ks := p.sched.kicks
  if !p.dbg.compares then (ks, [])
  else match (s.recorded p.dbg q (cores + 1) p.dbg.rplpos).find? fun e => e.lcore == kickLcore with
    | none => ([], ks)
    | some e =>
      match ((upTo ks.length).map fun n => ks.take (n + 1)).find? (fun l => digestOf (kickWords l) == e.digest) with
      | some l => (l, ks.drop l.length)
      | none =>
        match (arrangements ks.length ks).find? fun l => digestOf (kickWords l) == e.digest with
        | some l => (l, l.foldl List.erase ks)
        | none => (ks, [])

/-- The digests of quantum q in ascending LCORE. -/
def Digests.entries (d : Digests) (q : Nat) : List RplEntry :=
  sortLex (fun (e : RplEntry) => [e.lcore]) (d.map fun e => { digest := digestOf e.2, lcore := e.1, quantum := q })

/-- The digest of an LCORE; an absent entry counts as 0. -/
def digestAt (l : List RplEntry) (lcore : Nat) : Nat := ((l.find? fun e => e.lcore == lcore).map (·.digest)).getD 0

/-- The first LCORE at which two lists differ. -/
def firstMismatch (rec obs : List RplEntry) : Option Nat :=
  (sortLex (fun l => [l]) ((rec ++ obs).map (·.lcore))).find? fun l => digestAt rec l != digestAt obs l

/-- Appends entries to the recording until its area is full (R425). -/
def State.record (s : State) (asid : Nat) (es : List RplEntry) : State :=
  es.foldl (fun s e =>
    let g := (s.part asid).dbg
    if g.rpllen.toNat ≤ g.rplpos then s
    else
      let s := s.writeBytes (g.rplKey g.rplpos) (leBytes 8 (e.lcore % 65536 * 2 ^ 48 + e.quantum % 2 ^ 48) ++ leBytes 8 e.digest)
      s.modPart asid fun p => { p with dbg := { p.dbg with rplpos := p.dbg.rplpos + 1 } }) s

/-- The registers after a mismatch at an LCORE (R426). -/
def Debug.diverged (g : Debug) (q lcore rec obs : Nat) : Debug :=
  { g with
    rpldiv := pack [(48, 16, lcore), (0, 48, q)], rplexp := BitVec.ofNat 64 rec, rplobs := BitVec.ofNat 64 obs
    rplctl := wput g.rplctl 60 1 1, rplfree := g.ondiv }

/-- REPLAYDIV against the core with an LCORE (R426): thread 0's unit stops at its boundary, or a notice is sent. -/
def State.replayDiv (s : State) (asid lcore : Nat) (stop : Bool) : State :=
  match s.lcoreCore asid lcore with
  | some c =>
    let x := s.ctx c 0
    if stop then (if (s.thr c 0).running then s.takeStop c 0 0 (some .replaydiv) {} else s) else s.noticeOf c .replaydiv (if (s.thr c 0).running then x.tid else 0)
  | none => if stop then s else s.notice (coreDie ((s.lcoreCore asid 0).getD 0)) .replaydiv asid lcore 0

/-! ## The end of a quantum -/

/-- Everything that an end of quantum does but the comparison (R391). -/
def State.quantumWork (s : State) (asid q : Nat) : State × Digests :=
  let cores := s.launchCores asid
  let reqs := sortLex (fun (r : QReq) => [r.quantum, r.lcore]) ((s.part asid).qreqs.filter fun r => decide (r.quantum ≤ q))
  let (s, d) := serveAll asid q reqs s []
  let s := cores.foldl (fun s c => if (s.core c).det.ended ≤ q then s.endCoreQuantum c else s) s
  let s := (s.genClose asid).handouts asid 1024
  let (now, later) := s.kicksNow asid q cores.length
  let s := (s.modSched asid fun k => { k with kicks := later, quanta := q + 1 }).applyKicks asid now
  let d := if now.isEmpty then d else d.add kickLcore (kickWords now)
  let s := s.quantumResumes asid q
  let s := s.selections asid (s.headsLeft asid + 1)
  s.servePulls asid q d

/-- The launch's end of a quantum (R391), with its recording or comparison (R425, R426). After a mismatch with ONDIV = 0 nothing is delivered: the
state stays as it was, but for the record of the mismatch and the stop. -/
def State.endQuantum (s : State) (asid : Nat) : State :=
  let q := (s.part asid).sched.quanta
  let g := (s.part asid).dbg
  let (t, d) := s.quantumWork asid q
  let obs := d.entries q
  if g.mode = 1 then t.record asid obs
  else if !g.compares then t
  else
    let rec' := s.recorded g q ((s.launchCores asid).length + 1) g.rplpos
    let setG := fun (f : Debug → Debug) (s : State) => s.modPart asid fun p => { p with dbg := f p.dbg }
    match firstMismatch rec' obs with
    | none => setG (fun g => { g with rplpos := g.rplpos + rec'.length }) t
    | some l =>
      let mark := setG fun g => g.diverged q l (digestAt rec' l) (digestAt obs l)
      if g.ondiv then (mark t).replayDiv asid l false else (mark s).replayDiv asid l true

/-- May the quantum end: a running deterministic launch whose cores have all ended it, and no mismatch that waits for system software? -/
def State.quantumDue (s : State) (asid : Nat) : Bool :=
  let p := s.part asid
  s.running asid && p.launch.deterministic && p.active && !(p.dbg.compares && p.dbg.div) && s.quantumOver asid

def execQuantumEnd (asid : Nat) (s : State) : Host.Outcome State Fault Refusal := .next (if s.quantumDue asid then s.endQuantum asid else s)

/-- Ends of quantum that are due. -/
def State.dueQuantum (s : State) : List Event := s.parts.filterMap fun p => if s.quantumDue p.1 then some (.quantumEnd p.1) else none

end Sys2Proof.Machine
end

