-- ==== Sys2Proof/Machine/System.lean ====
section
/-! DEFINITION. The instructions of major 0x53: ECALL, HALT, SLEEP (R412 to R414), BKPT (R417), PERFRD (R423) and ENRD (R439). -/

namespace Sys2Proof.Machine

/-- ECALL (R412): the unit stops as a KIND 4 slot past the instruction, with the request word in D0 and x[D] empty. -/
def execEcall (d a : Reg) (ma : Bool) (s : State) : Host.Outcome State Fault Refusal :=
  issue [(a, ma)] (some d) (fun s =>
    if s.cur.isHandler then .trap .chinval {} s
    else
      let v := s.cur.xr a
      .stay ((s.retire.empty d).takeStop s.curCore s.curThread.val 4 none { d0 := v })) s

/-- HALT (R413): the launch stops, and the status waits for the launch's end with the time and the quantum of the HALT. -/
def execHalt (a : Reg) (ma : Bool) (s : State) : Host.Outcome State Fault Refusal :=
  if !(s.launchOf s.curCore).privileged then .next (s.trap .priv)
  else
    issue [(a, ma)] none (fun s =>
      let k := s.curK
      let r : HaltRec := { quantum := k.det.quantum, time := s.gtime s.curCore, cycle := s.cycle, lcore := k.lcore, status := s.cur.xr a }
      .retire (s.modPart k.asidN fun p => { p with halts := p.halts ++ [r], stopping := true })) s

/-- The wake conditions of SLEEP that hold (R414): the bound has been reached, an entry has joined the ready queue, a register has filled. -/
def State.wakeBits (s : State) (c : Nat) (x : Ctx) (bound : Word) (queued fills : Nat) : Nat :=
  b2n (bound != 0 && decide (bound.toNat ≤ (s.gtime c).toNat)) + 2 * b2n (decide (queued < (s.core c).queued)) + 4 * b2n (decide (fills < x.fills))

/-- SLEEP (R414): in a deterministic launch it completes at once with 0. -/
def execSleep (d a : Reg) (ma : Bool) (s : State) : Host.Outcome State Fault Refusal :=
  issue [(a, ma)] (some d) (fun s =>
    let bound := s.cur.xr a
    if (s.launchOf s.curCore).deterministic then setRetire d 0 s
    else
      let w := s.wakeBits s.curCore s.cur bound s.curK.queued s.cur.fills
      if w ≠ 0 then setRetire d (BitVec.ofNat 64 w) s
      else .stay (s.modCur fun x => { x with wait := .sleep d bound s.curK.queued x.fills })) s

/-- A wake condition of a sleeping thread holds: SLEEP writes one bit for each that does and completes (R414). -/
def execSleepWake (core thread : Nat) (s : State) : Host.Outcome State Fault Refusal :=
  let x := s.ctx core thread
  match x.wait with
  | .sleep d bound queued fills =>
    let w := s.wakeBits core x bound queued fills
    if (s.thr core thread).running ∧ w ≠ 0 then
      .next ((s.modCtx core thread fun x => x.setX d (BitVec.ofNat 64 w)).retireAt core thread (x.pc + 4))
    else .next s
  | _ => .next s

/-- Sleeping threads with a wake condition that holds. -/
def State.dueSleeps (s : State) : List Event :=
  (s.threadsWhere fun c _ th =>
    match th.ctx.wait with
    | .sleep _ bound queued fills => th.running && s.wakeBits c th.ctx bound queued fills != 0
    | _ => false).map fun p => .sleepWake p.1 p.2

/-- BKPT (R417): the unit stops at it; nothing retires. -/
def execBkpt (s : State) : Host.Outcome State Fault Refusal := .next (s.trap .bkpt)

/-- The counter that a selector of PERFRD names (R423). -/
def State.perf (s : State) (c t sel : Nat) : Option Word :=
  let k := s.core c
  let th := k.thr t
  let mon := fun (m : Nat) => vget (s.part k.asidN).dbg.mons m Monitor.reset
  let n := fun (v : Nat) => some (BitVec.ofNat 64 v)
  match sel with
  | 0x000 => n th.retired
  | 0x001 => n (s.cycle - k.startCycle)
  | 0x002 => n th.run
  | 0x003 => n th.search
  | 0x004 => n th.waitSum
  | 0x005 => n th.units
  | 0x006 => n k.stealOk
  | 0x007 => n k.stealFail
  | 0x008 => n k.msgPlaced
  | 0x009 => n k.msgRefused
  | 0x00A => n k.idleSlots
  | _ =>
    if sel < 0x100 ∨ 0x180 ≤ sel then none
    else
      let m := mon ((sel - 0x100) / 32)
      match (sel - 0x100) % 32 with
      | 0 => n m.min
      | 1 => n m.max
      | 2 => n (satN 32 m.count)
      | i => if i < 16 then none else n (satN 32 (vget m.bins (i - 16) 0))

/-- PERFRD (R423). -/
def execPerfrd (d a : Reg) (ma : Bool) (s : State) : Host.Outcome State Fault Refusal :=
  issue [(a, ma)] (some d) (fun s =>
    match s.perf s.curCore s.curThread.val (s.cur.xr a).toNat with
    | some v => setRetire d v s
    | none => .trap .rsvfld {} s) s

/-- ENRD (R439). -/
def execEnrd (d a : Reg) (ma : Bool) (s : State) : Host.Outcome State Fault Refusal :=
  issue [(a, ma)] (some d) (fun s =>
    let p := s.part s.curK.asidN
    match (s.cur.xr a).toNat with
    | 0 => setRetire d p.enk s
    | 1 => setRetire d p.enkCore s
    | 2 => setRetire d p.enkTime s
    | _ => .trap .rsvfld {} s) s

end Sys2Proof.Machine
end

