-- ==== Sys2Proof/Machine/TimeEvents.lean ====
section
/-! DEFINITION. The discipline of the clocks: the exchanges of the dies (R106 to R111) and the external grandmaster (R112 to R114). -/

namespace Sys2Proof.Machine

/-- clamp(v, -n, n). -/
def clampTo (n v : Int) : Int := max (-n) (min n v)

/-- OFFS of an exchange (R106): halved with rounding toward minus infinity. -/
def exchangeOffs (t1 t2 t3 t4 : Nat) : Int := (((t4 : Int) - t3) - ((t2 : Int) - t1)) / 2

/-- DELAY of an exchange (R106). -/
def exchangeDelay (t1 t2 t3 t4 : Nat) : Int := (((t2 : Int) - t1) + ((t4 : Int) - t3)) / 2

/-- Enters HOLDOVER: the count runs on with no adjustment (R109). -/
def Gtu.holdover (g : Gtu) : Gtu :=
  { g with state := .holdover, losses := satN 16 (g.losses + 1), good := 0, bad := 0, slew := 0, since := 0 }

/-- A failed exchange (R109): the new GTU and whether TIMELOST is raised. -/
def Gtu.failed (g : Gtu) : Gtu × Option Cause :=
  let g := { g with good := 0, bad := g.bad + 1, slew := 0, since := 0 }
  if (g.state = .relock ∨ g.state = .locked) ∧ 4 ≤ g.bad then (g.holdover, some .timelost) else (g, none)

/-- Enters RELOCK from FREE or HOLDOVER: a count that is behind steps forward at once, and one that is ahead slews (R107). -/
def Gtu.relock (g : Gtu) (offs : Int) : Gtu :=
  { g with
    state := .relock, good := 0, since := 0
    count := if offs < 0 then g.count + BitVec.ofInt 64 (-offs) else g.count
    slew := if offs < 0 then 0 else clampTo 62 (-offs) }

/-- A successful exchange that measured `offs`, with the bound SKEWB (R107, R109). -/
def Gtu.exchanged (g : Gtu) (skewb : Nat) (offs delay : Int) : Gtu × Option Cause :=
  let g := { g with offs := offs, delay := delay, bad := 0 }
  match g.state with
  | .free => (g.relock offs, none)
  | .holdover => (g.relock offs, none)
  | .relock =>
    let good := if 4 * offs.natAbs ≤ skewb then g.good + 1 else 0
    if 16 ≤ good then ({ g with state := .locked, good := 0, slew := clampTo 8 (-offs), since := 0 }, none)
    else ({ g with good := good, slew := clampTo 62 (-offs), since := 0 }, none)
  | .locked =>
    if skewb < 2 * offs.natAbs then (g.holdover, some .skewexc) else ({ g with slew := clampTo 8 (-offs), since := 0 }, none)

/-- A die event of a time cause (R111). -/
def State.timeEvent (s : State) (die : Nat) (c : Option Cause) : State :=
  match c with
  | some c => s.notice die c 0 0 0
  | none => s

/-- The homes on a die act at the home ticks that a forward step of its count passed (R131). -/
def State.runHomes (s : State) (die : Nat) : State :=
  (s.timedHomes.filter fun h => !isGateway (homeCore h) && coreDie (homeCore h) == die).foldl (State.runHome · · false) s

/-- The period of 16,000 grandmaster ticks now running (R106). -/
def State.exchangePeriod (s : State) : Nat := s.pkg.gmCount.toNat / 16000

/-- A die's exchange with the grandmaster, or its failure (R106, R109). The die sends at its own count; `out` ticks later the grandmaster receives, by its
count; it replies after `turn` ticks, and `back` ticks later the die receives: the delays as the correction for asymmetry leaves them. Where the count steps
forward, the timed accesses whose time it passes are processed at once (R131). In minimal mode the dies are unpowered (R432). -/
def execTimeExchange (die : Nat) (ok : Bool) (out back turn : Nat) (s : State) : Host.Outcome State Fault Refusal :=
  if 4 ≤ die ∨ s.pkg.minimal then .next s
  else
    let s := { s with freshCount := s.freshCount + 1 }
    let old := { (s.die die).gtu with period := s.exchangePeriod }
    let t1 := old.count.toNat
    let t2 := s.pkg.gmCount.toNat + out
    let t3 := t2 + turn
    let t4 := t1 + out + turn + back
    let (g, c) := if ok then old.exchanged s.pkg.skewb (exchangeOffs t1 t2 t3 t4) (exchangeDelay t1 t2 t3 t4) else old.failed
    let s := (s.modDie die fun d => { d with gtu := g }).timeEvent die c
    .next (if g.count = old.count then s else s.runHomes die)

/-- The exchanges that are due: one of each die in every period (R106). What the link does is free within the bound of R108: what the correction for
asymmetry leaves moves OFFS by a quarter of SKEWB at most (log 73). -/
def State.dueExchanges (s : State) : List Event :=
  if s.pkg.minimal then []
  else (upTo 4).filterMap fun d =>
    if (s.die d).gtu.period = s.exchangePeriod then none
    else
      let n := Nat.pair s.freshCount d
      let out := Config.linkDelay n
      some (.timeExchange d (Config.exchangeOk n) out (out + Config.linkResidue n % (s.pkg.skewb / 2 + 1)) (Config.turnaround n))

/-! ## The external grandmaster -/

/-- The host asks for discipline to an external grandmaster through a port (R112). -/
def execExternalDisciplineRequest (session port domain allowance : Nat) (s : State) : Host.Outcome State Fault Refusal :=
  .next (s.request session 4 fun s =>
    if 16 ≤ port ∨ s.pkg.minimal then s
    else s.modPkg fun p => { p with ext := true, extPort := port, extDomain := domain, extAllow := allowance, ptp := Ptp.reset })

/-- A PTP time in nanoseconds as architected time (R113). -/
def ptpTicks (epoch : Word) (ns : Nat) : Int := 16 * ((ns : Int) - 10 ^ 9 * (epoch.toNat : Int))

/-- 1 ms in ticks (R112). -/
def msTicks : Int := 16000000

/-- The grandmaster under a measured external offset, its count minus the external time (R112): it slews, and steps forward only. -/
def Pkg.disciplined (p : Pkg) (offset : Int) : Pkg :=
  if offset < -msTicks then { p with gmCount := p.gmCount + BitVec.ofInt 64 (-offset), gmSlew := 0, gmSince := 0 }
  else { p with gmSlew := clampTo 8 (-offset), gmSince := 0 }

/-- Does a measured offset exceed the bound last published (R114)? -/
def Pkg.exceeds (p : Pkg) (offset : Int) : Bool := p.skewxBound != 0 && decide (p.skewxBound < offset.natAbs)

/-- The gateway cores' scratchpads act at the home ticks that a forward step of the grandmaster's count passed (R131). -/
def State.runGateways (s : State) : State := (s.timedHomes.filter fun h => isGateway (homeCore h)).foldl (State.runHome · · false) s

/-- An external offset has been measured (R112, R114): the grandmaster follows it; one beyond the published bound clears VALID and raises SKEWEXC. -/
def State.measured (s : State) (offset : Int) : State :=
  let p := s.pkg
  let past := p.exceeds offset
  let q : Pkg :=
    { p.disciplined offset with
      skewxValid := p.skewxValid && !past
      ptp := { p.ptp with offset := some offset, measured := true, exceeded := p.ptp.exceeded || past } }
  let s' := State.timeEvent { s with pkg := q } 0 (if past && p.skewxValid then some .skewexc else none)
  if q.gmCount = p.gmCount then s' else s'.runGateways

/-- With the last Sync's origin time and the path delay known, its offset is measured. -/
def State.measureSync (s : State) : State :=
  match s.pkg.ptp.syncOut, s.pkg.ptp.delay with
  | some t1, some d => s.measured (s.pkg.ptp.syncIn - t1 - d)
  | _, _ => s

def State.modPtp (s : State) (f : Ptp → Ptp) : State := s.modPkg fun p => { p with ptp := f p.ptp }

/-- A message of IEEE 1588-2019 arrives at a port, with its message type (0 Sync, 8 Follow_Up, 9 Delay_Resp, 11 Announce: PRESUMED from that standard, log
77), domain, sequence number, the identity of its master, its time stamp in nanoseconds with corrections, its two-step flag, and an Announce's data set in
the order of comparison (R112). Messages of other ports, domains and types have no effect. Announce: the best master is followed. Sync: it is time-stamped,
and a delay request leaves; its origin time is its own, or its Follow_Up's. Delay_Resp: the path delay, end to end. -/
def execPtpMessage (kind port domain seq source origin : Nat) (twoStep : Bool) (rank : List Nat) (s : State) : Host.Outcome State Fault Refusal :=
  let p := s.pkg
  let q := p.ptp
  let now : Int := p.gmCount.toNat
  let t := ptpTicks p.epoch origin
  let mine := q.best.any fun b => b.2 == source
  .next (
    if !p.ext ∨ port ≠ p.extPort ∨ domain ≠ p.extDomain then s
    else if kind = 11 then
      match q.best with
      | none => s.modPtp fun q => { q with best := some (rank, source) }
      | some b =>
        if b.2 = source then s.modPtp fun q => { q with best := some (rank, source) }
        else if lexLt rank b.1 then s.modPtp fun q => { q with best := some (rank, source), syncSeq := none, syncOut := none, reqOut := none, delay := none }
        else s
    else if !mine then s
    else if kind = 0 then
      (s.modPtp fun q =>
        { q with syncSeq := some seq, syncIn := now, syncOut := if twoStep then none else some t, reqSeq := (q.reqSeq + 1) % 65536, reqOut := some now }).measureSync
    else if kind = 8 then (if q.syncSeq = some seq ∧ q.syncOut = none then (s.modPtp fun q => { q with syncOut := some t }).measureSync else s)
    else if kind = 9 then
      match q.reqOut, q.syncOut with
      | some t3, some t1 =>
        if seq ≠ q.reqSeq then s
        else
          let s := s.modPtp fun q => { q with delay := some (((q.syncIn - t1) + (t - t3)) / 2), reqOut := none }
          if q.delay.isNone then s.measureSync else s
      | _, _ => s
    else s)

/-- A synchronisation interval ends: the new BOUND, from the last measured offset; it holds from an interval in which an offset was measured and none lay beyond
the bound, and no more from one in which one did (R114). -/
def execSyncInterval (s : State) : Host.Outcome State Fault Refusal :=
  .next (if !s.pkg.ext then s
    else match s.pkg.ptp.offset with
      | none => s
      | some o =>
        s.modPkg fun p =>
          { p with
            skewxBound := satN 32 (o.natAbs + p.extAllow + p.skewb), skewxValid := if p.ptp.measured then !p.ptp.exceeded else p.skewxValid
            ptp := { p.ptp with measured := false, exceeded := false } })

/-- No synchronisation message has come within the announce timeout (R114): the master that fell silent is followed no more, and the next announcement of
another is the best (R112). -/
def execAnnounceTimeout (s : State) : Host.Outcome State Fault Refusal :=
  .next (if s.pkg.ext then
      (s.modPkg fun p =>
        { p with skewxValid := false, ptp := { p.ptp with measured := false, best := none, syncSeq := none, syncOut := none, reqOut := none, delay := none } }).timeEvent 0 (some .timelost)
    else s)

end Sys2Proof.Machine
end

