-- ==== Sys2Proof/Machine/Dispatch.lean ====
section
/-! DEFINITION. The dispatcher: one arm for each row of the opcode table. -/

namespace Sys2Proof.Machine

def exec (i : Instr) (s : State) : Host.Outcome State Fault Refusal :=
  match i with
  | .add d a b ma mb => Sys2Proof.Machine.execAdd d a b ma mb s
  | .sub d a b ma mb => Sys2Proof.Machine.execSub d a b ma mb s
  | .and d a b ma mb => Sys2Proof.Machine.execAnd d a b ma mb s
  | .or d a b ma mb => Sys2Proof.Machine.execOr d a b ma mb s
  | .xor d a b ma mb => Sys2Proof.Machine.execXor d a b ma mb s
  | .sll d a b ma mb => Sys2Proof.Machine.execSll d a b ma mb s
  | .srl d a b ma mb => Sys2Proof.Machine.execSrl d a b ma mb s
  | .sra d a b ma mb => Sys2Proof.Machine.execSra d a b ma mb s
  | .min d a b ma mb => Sys2Proof.Machine.execMin d a b ma mb s
  | .max d a b ma mb => Sys2Proof.Machine.execMax d a b ma mb s
  | .minu d a b ma mb => Sys2Proof.Machine.execMinu d a b ma mb s
  | .maxu d a b ma mb => Sys2Proof.Machine.execMaxu d a b ma mb s
  | .slt d a b ma mb => Sys2Proof.Machine.execSlt d a b ma mb s
  | .sltu d a b ma mb => Sys2Proof.Machine.execSltu d a b ma mb s
  | .seq d a b ma mb => Sys2Proof.Machine.execSeq d a b ma mb s
  | .sne d a b ma mb => Sys2Proof.Machine.execSne d a b ma mb s
  | .mul d a b ma mb => Sys2Proof.Machine.execMul d a b ma mb s
  | .mulh d a b ma mb => Sys2Proof.Machine.execMulh d a b ma mb s
  | .mulhu d a b ma mb => Sys2Proof.Machine.execMulhu d a b ma mb s
  | .div d a b ma mb => Sys2Proof.Machine.execDiv d a b ma mb s
  | .divu d a b ma mb => Sys2Proof.Machine.execDivu d a b ma mb s
  | .rem d a b ma mb => Sys2Proof.Machine.execRem d a b ma mb s
  | .remu d a b ma mb => Sys2Proof.Machine.execRemu d a b ma mb s
  | .clz d a ma => Sys2Proof.Machine.execClz d a ma s
  | .ctz d a ma => Sys2Proof.Machine.execCtz d a ma s
  | .popc d a ma => Sys2Proof.Machine.execPopc d a ma s
  | .mkga d a b ma mb => Sys2Proof.Machine.execMkga d a b ma mb s
  | .gcoord d => Sys2Proof.Machine.execGcoord d s
  | .addi d a imm ma => Sys2Proof.Machine.execAddi d a imm ma s
  | .andi d a imm ma => Sys2Proof.Machine.execAndi d a imm ma s
  | .ori d a imm ma => Sys2Proof.Machine.execOri d a imm ma s
  | .xori d a imm ma => Sys2Proof.Machine.execXori d a imm ma s
  | .slti d a imm ma => Sys2Proof.Machine.execSlti d a imm ma s
  | .sltiu d a imm ma => Sys2Proof.Machine.execSltiu d a imm ma s
  | .slli d a sh ma => Sys2Proof.Machine.execSlli d a sh ma s
  | .srli d a sh ma => Sys2Proof.Machine.execSrli d a sh ma s
  | .srai d a sh ma => Sys2Proof.Machine.execSrai d a sh ma s
  | .lui d imm => Sys2Proof.Machine.execLui d imm s
  | .auipc d imm => Sys2Proof.Machine.execAuipc d imm s
  | .jal d imm => Sys2Proof.Machine.execJal d imm s
  | .jalr d a imm ma => Sys2Proof.Machine.execJalr d a imm ma s
  | .bfx d a pos len ma => Sys2Proof.Machine.execBfx d a pos len ma s
  | .bfi d a pos len ma => Sys2Proof.Machine.execBfi d a pos len ma s
  | .sel d a b c mq => Sys2Proof.Machine.execSel d a b c mq s
  | .beq a b imm ma mb => Sys2Proof.Machine.execBeq a b imm ma mb s
  | .bne a b imm ma mb => Sys2Proof.Machine.execBne a b imm ma mb s
  | .blt a b imm ma mb => Sys2Proof.Machine.execBlt a b imm ma mb s
  | .bge a b imm ma mb => Sys2Proof.Machine.execBge a b imm ma mb s
  | .bltu a b imm ma mb => Sys2Proof.Machine.execBltu a b imm ma mb s
  | .bgeu a b imm ma mb => Sys2Proof.Machine.execBgeu a b imm ma mb s
  | .ldB d a imm ma => Sys2Proof.Machine.execLdB d a imm ma s
  | .ldH d a imm ma => Sys2Proof.Machine.execLdH d a imm ma s
  | .ldW d a imm ma => Sys2Proof.Machine.execLdW d a imm ma s
  | .ldD d a imm ma => Sys2Proof.Machine.execLdD d a imm ma s
  | .ldzB d a imm ma => Sys2Proof.Machine.execLdzB d a imm ma s
  | .ldzH d a imm ma => Sys2Proof.Machine.execLdzH d a imm ma s
  | .ldzW d a imm ma => Sys2Proof.Machine.execLdzW d a imm ma s
  | .ldfW d a imm ma => Sys2Proof.Machine.execLdfW d a imm ma s
  | .ldfD d a imm ma => Sys2Proof.Machine.execLdfD d a imm ma s
  | .stB rs a imm ms ma => Sys2Proof.Machine.execStB rs a imm ms ma s
  | .stH rs a imm ms ma => Sys2Proof.Machine.execStH rs a imm ms ma s
  | .stW rs a imm ms ma => Sys2Proof.Machine.execStW rs a imm ms ma s
  | .stD rs a imm ms ma => Sys2Proof.Machine.execStD rs a imm ms ma s
  | .stfW rs a imm ms ma => Sys2Proof.Machine.execStfW rs a imm ms ma s
  | .stfD rs a imm ms ma => Sys2Proof.Machine.execStfD rs a imm ms ma s
  | .ldnbB d a b ma mb => Sys2Proof.Machine.execLdnbB d a b ma mb s
  | .ldnbH d a b ma mb => Sys2Proof.Machine.execLdnbH d a b ma mb s
  | .ldnbW d a b ma mb => Sys2Proof.Machine.execLdnbW d a b ma mb s
  | .ldnbD d a b ma mb => Sys2Proof.Machine.execLdnbD d a b ma mb s
  | .twait a ma => Sys2Proof.Machine.execTwait a ma s
  | .stvaB a b c mq => Sys2Proof.Machine.execStvaB a b c mq s
  | .stvaH a b c mq => Sys2Proof.Machine.execStvaH a b c mq s
  | .stvaW a b c mq => Sys2Proof.Machine.execStvaW a b c mq s
  | .stvaD a b c mq => Sys2Proof.Machine.execStvaD a b c mq s
  | .amoaddW d a b ma mb => Sys2Proof.Machine.execAmoaddW d a b ma mb s
  | .amoaddD d a b ma mb => Sys2Proof.Machine.execAmoaddD d a b ma mb s
  | .amoaddWAcq d a b ma mb => Sys2Proof.Machine.execAmoaddWAcq d a b ma mb s
  | .amoaddDAcq d a b ma mb => Sys2Proof.Machine.execAmoaddDAcq d a b ma mb s
  | .amoaddWRel d a b ma mb => Sys2Proof.Machine.execAmoaddWRel d a b ma mb s
  | .amoaddDRel d a b ma mb => Sys2Proof.Machine.execAmoaddDRel d a b ma mb s
  | .amoaddWSc d a b ma mb => Sys2Proof.Machine.execAmoaddWSc d a b ma mb s
  | .amoaddDSc d a b ma mb => Sys2Proof.Machine.execAmoaddDSc d a b ma mb s
  | .amoandW d a b ma mb => Sys2Proof.Machine.execAmoandW d a b ma mb s
  | .amoandD d a b ma mb => Sys2Proof.Machine.execAmoandD d a b ma mb s
  | .amoandWAcq d a b ma mb => Sys2Proof.Machine.execAmoandWAcq d a b ma mb s
  | .amoandDAcq d a b ma mb => Sys2Proof.Machine.execAmoandDAcq d a b ma mb s
  | .amoandWRel d a b ma mb => Sys2Proof.Machine.execAmoandWRel d a b ma mb s
  | .amoandDRel d a b ma mb => Sys2Proof.Machine.execAmoandDRel d a b ma mb s
  | .amoandWSc d a b ma mb => Sys2Proof.Machine.execAmoandWSc d a b ma mb s
  | .amoandDSc d a b ma mb => Sys2Proof.Machine.execAmoandDSc d a b ma mb s
  | .amoorW d a b ma mb => Sys2Proof.Machine.execAmoorW d a b ma mb s
  | .amoorD d a b ma mb => Sys2Proof.Machine.execAmoorD d a b ma mb s
  | .amoorWAcq d a b ma mb => Sys2Proof.Machine.execAmoorWAcq d a b ma mb s
  | .amoorDAcq d a b ma mb => Sys2Proof.Machine.execAmoorDAcq d a b ma mb s
  | .amoorWRel d a b ma mb => Sys2Proof.Machine.execAmoorWRel d a b ma mb s
  | .amoorDRel d a b ma mb => Sys2Proof.Machine.execAmoorDRel d a b ma mb s
  | .amoorWSc d a b ma mb => Sys2Proof.Machine.execAmoorWSc d a b ma mb s
  | .amoorDSc d a b ma mb => Sys2Proof.Machine.execAmoorDSc d a b ma mb s
  | .amoxorW d a b ma mb => Sys2Proof.Machine.execAmoxorW d a b ma mb s
  | .amoxorD d a b ma mb => Sys2Proof.Machine.execAmoxorD d a b ma mb s
  | .amoxorWAcq d a b ma mb => Sys2Proof.Machine.execAmoxorWAcq d a b ma mb s
  | .amoxorDAcq d a b ma mb => Sys2Proof.Machine.execAmoxorDAcq d a b ma mb s
  | .amoxorWRel d a b ma mb => Sys2Proof.Machine.execAmoxorWRel d a b ma mb s
  | .amoxorDRel d a b ma mb => Sys2Proof.Machine.execAmoxorDRel d a b ma mb s
  | .amoxorWSc d a b ma mb => Sys2Proof.Machine.execAmoxorWSc d a b ma mb s
  | .amoxorDSc d a b ma mb => Sys2Proof.Machine.execAmoxorDSc d a b ma mb s
  | .amominW d a b ma mb => Sys2Proof.Machine.execAmominW d a b ma mb s
  | .amominD d a b ma mb => Sys2Proof.Machine.execAmominD d a b ma mb s
  | .amominWAcq d a b ma mb => Sys2Proof.Machine.execAmominWAcq d a b ma mb s
  | .amominDAcq d a b ma mb => Sys2Proof.Machine.execAmominDAcq d a b ma mb s
  | .amominWRel d a b ma mb => Sys2Proof.Machine.execAmominWRel d a b ma mb s
  | .amominDRel d a b ma mb => Sys2Proof.Machine.execAmominDRel d a b ma mb s
  | .amominWSc d a b ma mb => Sys2Proof.Machine.execAmominWSc d a b ma mb s
  | .amominDSc d a b ma mb => Sys2Proof.Machine.execAmominDSc d a b ma mb s
  | .amomaxW d a b ma mb => Sys2Proof.Machine.execAmomaxW d a b ma mb s
  | .amomaxD d a b ma mb => Sys2Proof.Machine.execAmomaxD d a b ma mb s
  | .amomaxWAcq d a b ma mb => Sys2Proof.Machine.execAmomaxWAcq d a b ma mb s
  | .amomaxDAcq d a b ma mb => Sys2Proof.Machine.execAmomaxDAcq d a b ma mb s
  | .amomaxWRel d a b ma mb => Sys2Proof.Machine.execAmomaxWRel d a b ma mb s
  | .amomaxDRel d a b ma mb => Sys2Proof.Machine.execAmomaxDRel d a b ma mb s
  | .amomaxWSc d a b ma mb => Sys2Proof.Machine.execAmomaxWSc d a b ma mb s
  | .amomaxDSc d a b ma mb => Sys2Proof.Machine.execAmomaxDSc d a b ma mb s
  | .amoswapW d a b ma mb => Sys2Proof.Machine.execAmoswapW d a b ma mb s
  | .amoswapD d a b ma mb => Sys2Proof.Machine.execAmoswapD d a b ma mb s
  | .amoswapWAcq d a b ma mb => Sys2Proof.Machine.execAmoswapWAcq d a b ma mb s
  | .amoswapDAcq d a b ma mb => Sys2Proof.Machine.execAmoswapDAcq d a b ma mb s
  | .amoswapWRel d a b ma mb => Sys2Proof.Machine.execAmoswapWRel d a b ma mb s
  | .amoswapDRel d a b ma mb => Sys2Proof.Machine.execAmoswapDRel d a b ma mb s
  | .amoswapWSc d a b ma mb => Sys2Proof.Machine.execAmoswapWSc d a b ma mb s
  | .amoswapDSc d a b ma mb => Sys2Proof.Machine.execAmoswapDSc d a b ma mb s
  | .amofaddW d a b ma mb => Sys2Proof.Machine.execAmofaddW d a b ma mb s
  | .amofaddD d a b ma mb => Sys2Proof.Machine.execAmofaddD d a b ma mb s
  | .amofaddWAcq d a b ma mb => Sys2Proof.Machine.execAmofaddWAcq d a b ma mb s
  | .amofaddDAcq d a b ma mb => Sys2Proof.Machine.execAmofaddDAcq d a b ma mb s
  | .amofaddWRel d a b ma mb => Sys2Proof.Machine.execAmofaddWRel d a b ma mb s
  | .amofaddDRel d a b ma mb => Sys2Proof.Machine.execAmofaddDRel d a b ma mb s
  | .amofaddWSc d a b ma mb => Sys2Proof.Machine.execAmofaddWSc d a b ma mb s
  | .amofaddDSc d a b ma mb => Sys2Proof.Machine.execAmofaddDSc d a b ma mb s
  | .amocasW d a b c mq => Sys2Proof.Machine.execAmocasW d a b c mq s
  | .amocasD d a b c mq => Sys2Proof.Machine.execAmocasD d a b c mq s
  | .amocasWAcq d a b c mq => Sys2Proof.Machine.execAmocasWAcq d a b c mq s
  | .amocasDAcq d a b c mq => Sys2Proof.Machine.execAmocasDAcq d a b c mq s
  | .amocasWRel d a b c mq => Sys2Proof.Machine.execAmocasWRel d a b c mq s
  | .amocasDRel d a b c mq => Sys2Proof.Machine.execAmocasDRel d a b c mq s
  | .amocasWSc d a b c mq => Sys2Proof.Machine.execAmocasWSc d a b c mq s
  | .amocasDSc d a b c mq => Sys2Proof.Machine.execAmocasDSc d a b c mq s
  | .fence scope kind => Sys2Proof.Machine.execFence scope kind s
  | .fenceLoop => Sys2Proof.Machine.execFenceLoop s
  | .femark d a ma => Sys2Proof.Machine.execFemark d a ma s
  | .fewait a ma => Sys2Proof.Machine.execFewait a ma s
  | .ctlrd d imm => Sys2Proof.Machine.execCtlrd d imm s
  | .ctlwr d a imm ma => Sys2Proof.Machine.execCtlwr d a imm ma s
  | .ctlset d a imm ma => Sys2Proof.Machine.execCtlset d a imm ma s
  | .ctlclr d a imm ma => Sys2Proof.Machine.execCtlclr d a imm ma s
  | .faddS d a b ma mb => Sys2Proof.Machine.execFaddS d a b ma mb s
  | .fsubS d a b ma mb => Sys2Proof.Machine.execFsubS d a b ma mb s
  | .fmulS d a b ma mb => Sys2Proof.Machine.execFmulS d a b ma mb s
  | .fdivS d a b ma mb => Sys2Proof.Machine.execFdivS d a b ma mb s
  | .fsqrtS d a ma => Sys2Proof.Machine.execFsqrtS d a ma s
  | .fminS d a b ma mb => Sys2Proof.Machine.execFminS d a b ma mb s
  | .fmaxS d a b ma mb => Sys2Proof.Machine.execFmaxS d a b ma mb s
  | .fcmpEqS d a b ma mb => Sys2Proof.Machine.execFcmpEqS d a b ma mb s
  | .fcmpLtS d a b ma mb => Sys2Proof.Machine.execFcmpLtS d a b ma mb s
  | .fcmpLeS d a b ma mb => Sys2Proof.Machine.execFcmpLeS d a b ma mb s
  | .fclassS d a ma => Sys2Proof.Machine.execFclassS d a ma s
  | .fsgnjS d a b ma mb => Sys2Proof.Machine.execFsgnjS d a b ma mb s
  | .fsgnjnS d a b ma mb => Sys2Proof.Machine.execFsgnjnS d a b ma mb s
  | .fsgnjxS d a b ma mb => Sys2Proof.Machine.execFsgnjxS d a b ma mb s
  | .fmvXS d a ma => Sys2Proof.Machine.execFmvXS d a ma s
  | .fmvFS d a ma => Sys2Proof.Machine.execFmvFS d a ma s
  | .faddD d a b ma mb => Sys2Proof.Machine.execFaddD d a b ma mb s
  | .fsubD d a b ma mb => Sys2Proof.Machine.execFsubD d a b ma mb s
  | .fmulD d a b ma mb => Sys2Proof.Machine.execFmulD d a b ma mb s
  | .fdivD d a b ma mb => Sys2Proof.Machine.execFdivD d a b ma mb s
  | .fsqrtD d a ma => Sys2Proof.Machine.execFsqrtD d a ma s
  | .fminD d a b ma mb => Sys2Proof.Machine.execFminD d a b ma mb s
  | .fmaxD d a b ma mb => Sys2Proof.Machine.execFmaxD d a b ma mb s
  | .fcmpEqD d a b ma mb => Sys2Proof.Machine.execFcmpEqD d a b ma mb s
  | .fcmpLtD d a b ma mb => Sys2Proof.Machine.execFcmpLtD d a b ma mb s
  | .fcmpLeD d a b ma mb => Sys2Proof.Machine.execFcmpLeD d a b ma mb s
  | .fclassD d a ma => Sys2Proof.Machine.execFclassD d a ma s
  | .fsgnjD d a b ma mb => Sys2Proof.Machine.execFsgnjD d a b ma mb s
  | .fsgnjnD d a b ma mb => Sys2Proof.Machine.execFsgnjnD d a b ma mb s
  | .fsgnjxD d a b ma mb => Sys2Proof.Machine.execFsgnjxD d a b ma mb s
  | .fmvXD d a ma => Sys2Proof.Machine.execFmvXD d a ma s
  | .fmvFD d a ma => Sys2Proof.Machine.execFmvFD d a ma s
  | .fcvtSD d a ma => Sys2Proof.Machine.execFcvtSD d a ma s
  | .fcvtLD d a ma => Sys2Proof.Machine.execFcvtLD d a ma s
  | .fcvtLuD d a ma => Sys2Proof.Machine.execFcvtLuD d a ma s
  | .fcvtDS d a ma => Sys2Proof.Machine.execFcvtDS d a ma s
  | .fcvtLS d a ma => Sys2Proof.Machine.execFcvtLS d a ma s
  | .fcvtLuS d a ma => Sys2Proof.Machine.execFcvtLuS d a ma s
  | .fcvtDL d a ma => Sys2Proof.Machine.execFcvtDL d a ma s
  | .fcvtSL d a ma => Sys2Proof.Machine.execFcvtSL d a ma s
  | .fcvtLuL d a ma => Sys2Proof.Machine.execFcvtLuL d a ma s
  | .fcvtDLu d a ma => Sys2Proof.Machine.execFcvtDLu d a ma s
  | .fcvtSLu d a ma => Sys2Proof.Machine.execFcvtSLu d a ma s
  | .fcvtLLu d a ma => Sys2Proof.Machine.execFcvtLLu d a ma s
  | .fmaS d a b c mq => Sys2Proof.Machine.execFmaS d a b c mq s
  | .fmaD d a b c mq => Sys2Proof.Machine.execFmaD d a b c mq s
  | .spawn d a b ma mb => Sys2Proof.Machine.execSpawn d a b ma mb s
  | .joinw d a ma => Sys2Proof.Machine.execJoinw d a ma s
  | .jdec a b ma mb => Sys2Proof.Machine.execJdec a b ma mb s
  | .done a ma => Sys2Proof.Machine.execDone a ma s
  | .yield => Sys2Proof.Machine.execYield s
  | .susp a ma => Sys2Proof.Machine.execSusp a ma s
  | .stealctl d a ma => Sys2Proof.Machine.execStealctl d a ma s
  | .mbq d a ma => Sys2Proof.Machine.execMbq d a ma s
  | .send a b chan ma mb => Sys2Proof.Machine.execSend a b chan ma mb s
  | .reply b chan mb => Sys2Proof.Machine.execReply b chan mb s
  | .chset a b chan ma mb => Sys2Proof.Machine.execChset a b chan ma mb s
  | .chblk a chan ma => Sys2Proof.Machine.execChblk a chan ma s
  | .chunblk a chan ma => Sys2Proof.Machine.execChunblk a chan ma s
  | .barriv a ma => Sys2Proof.Machine.execBarriv a ma s
  | .barwait d a b ma mb => Sys2Proof.Machine.execBarwait d a b ma mb s
  | .cdef a b ma mb => Sys2Proof.Machine.execCdef a b ma mb s
  | .cbind a b ma mb => Sys2Proof.Machine.execCbind a b ma mb s
  | .cunbind a ma => Sys2Proof.Machine.execCunbind a ma s
  | .cst a b ma mb => Sys2Proof.Machine.execCst a b ma mb s
  | .csnap d a ma => Sys2Proof.Machine.execCsnap d a ma s
  | .cld d a b ma mb => Sys2Proof.Machine.execCld d a b ma mb s
  | .commit d => Sys2Proof.Machine.execCommit d s
  | .abandon d => Sys2Proof.Machine.execAbandon d s
  | .cstat d a ma => Sys2Proof.Machine.execCstat d a ma s
  | .vadd d a b ma mb => Sys2Proof.Machine.execVadd d a b ma mb s
  | .vsub d a b ma mb => Sys2Proof.Machine.execVsub d a b ma mb s
  | .vmul d a b ma mb => Sys2Proof.Machine.execVmul d a b ma mb s
  | .vmax d a b ma mb => Sys2Proof.Machine.execVmax d a b ma mb s
  | .vmin d a b ma mb => Sys2Proof.Machine.execVmin d a b ma mb s
  | .vabs d a ma => Sys2Proof.Machine.execVabs d a ma s
  | .vneg d a ma => Sys2Proof.Machine.execVneg d a ma s
  | .vcvt d a ma => Sys2Proof.Machine.execVcvt d a ma s
  | .vred d a ma => Sys2Proof.Machine.execVred d a ma s
  | .vcmp d a b ma mb => Sys2Proof.Machine.execVcmp d a b ma mb s
  | .vmov d a ma => Sys2Proof.Machine.execVmov d a ma s
  | .vshf d a b ma mb => Sys2Proof.Machine.execVshf d a b ma mb s
  | .vwait => Sys2Proof.Machine.execVwait s
  | .vfma d a b c mq => Sys2Proof.Machine.execVfma d a b c mq s
  | .vsel d a b c mq => Sys2Proof.Machine.execVsel d a b c mq s
  | .vexp d a ma => Sys2Proof.Machine.execVexp d a ma s
  | .vlog d a ma => Sys2Proof.Machine.execVlog d a ma s
  | .vrcp d a ma => Sys2Proof.Machine.execVrcp d a ma s
  | .vrsq d a ma => Sys2Proof.Machine.execVrsq d a ma s
  | .vtanh d a ma => Sys2Proof.Machine.execVtanh d a ma s
  | .vsigm d a ma => Sys2Proof.Machine.execVsigm d a ma s
  | .vexpA d a ma => Sys2Proof.Machine.execVexpA d a ma s
  | .vlogA d a ma => Sys2Proof.Machine.execVlogA d a ma s
  | .vrcpA d a ma => Sys2Proof.Machine.execVrcpA d a ma s
  | .vrsqA d a ma => Sys2Proof.Machine.execVrsqA d a ma s
  | .vtanhA d a ma => Sys2Proof.Machine.execVtanhA d a ma s
  | .vsigmA d a ma => Sys2Proof.Machine.execVsigmA d a ma s
  | .mand d a b ma mb => Sys2Proof.Machine.execMand d a b ma mb s
  | .mor d a b ma mb => Sys2Proof.Machine.execMor d a b ma mb s
  | .mxor d a b ma mb => Sys2Proof.Machine.execMxor d a b ma mb s
  | .mnot d a ma => Sys2Proof.Machine.execMnot d a ma s
  | .mshl d a b ma mb => Sys2Proof.Machine.execMshl d a b ma mb s
  | .mshr d a b ma mb => Sys2Proof.Machine.execMshr d a b ma mb s
  | .mpop d a ma => Sys2Proof.Machine.execMpop d a ma s
  | .mmovMX d a ma => Sys2Proof.Machine.execMmovMX d a ma s
  | .mmovXM d a ma => Sys2Proof.Machine.execMmovXM d a ma s
  | .mmovMM d a ma => Sys2Proof.Machine.execMmovMM d a ma s
  | .enqM d a b ma mb q3 => Sys2Proof.Machine.execEnqM d a b ma mb q3 s
  | .enqV d a b ma mb => Sys2Proof.Machine.execEnqV d a b ma mb s
  | .enqC d a b ma mb => Sys2Proof.Machine.execEnqC d a b ma mb s
  | .qmig d a ma => Sys2Proof.Machine.execQmig d a ma s
  | .publ a ma => Sys2Proof.Machine.execPubl a ma s
  | .wmrd d a ma => Sys2Proof.Machine.execWmrd d a ma s
  | .baddq a b ma mb => Sys2Proof.Machine.execBaddq a b ma mb s
  | .bqtake d a ma => Sys2Proof.Machine.execBqtake d a ma s
  | .ddvar d a ma => Sys2Proof.Machine.execDdvar d a ma s
  | .ddrestrict d a b ma mb => Sys2Proof.Machine.execDdrestrict d a b ma mb s
  | .ddexist d a b ma mb => Sys2Proof.Machine.execDdexist d a b ma mb s
  | .ddcount d a b ma mb => Sys2Proof.Machine.execDdcount d a b ma mb s
  | .ddmask d a b ma mb => Sys2Proof.Machine.execDdmask d a b ma mb s
  | .ddref a ma => Sys2Proof.Machine.execDdref a ma s
  | .ddderef a ma => Sys2Proof.Machine.execDdderef a ma s
  | .ddswap d a ma => Sys2Proof.Machine.execDdswap d a ma s
  | .ddcollect d => Sys2Proof.Machine.execDdcollect d s
  | .ddstat d a ma => Sys2Proof.Machine.execDdstat d a ma s
  | .ddinit a ma => Sys2Proof.Machine.execDdinit a ma s
  | .ddapply d a b op ma mb => Sys2Proof.Machine.execDdapply d a b op ma mb s
  | .ddite d a b c mq => Sys2Proof.Machine.execDdite d a b c mq s
  | .ecall d a ma => Sys2Proof.Machine.execEcall d a ma s
  | .halt a ma => Sys2Proof.Machine.execHalt a ma s
  | .sleep d a ma => Sys2Proof.Machine.execSleep d a ma s
  | .bkpt => Sys2Proof.Machine.execBkpt s
  | .perfrd d a ma => Sys2Proof.Machine.execPerfrd d a ma s
  | .enrd d a ma => Sys2Proof.Machine.execEnrd d a ma s
  | .mmBf16 core => Sys2Proof.Machine.execMmBf16 core s
  | .mmF16 core => Sys2Proof.Machine.execMmF16 core s
  | .mmE4m3 core => Sys2Proof.Machine.execMmE4m3 core s
  | .mmE5m2 core => Sys2Proof.Machine.execMmE5m2 core s
  | .mmE4m3e5m2 core => Sys2Proof.Machine.execMmE4m3e5m2 core s
  | .mmMx4 core => Sys2Proof.Machine.execMmMx4 core s
  | .mmMx6a core => Sys2Proof.Machine.execMmMx6a core s
  | .mmMx6b core => Sys2Proof.Machine.execMmMx6b core s
  | .mmI8 core => Sys2Proof.Machine.execMmI8 core s
  | .mmT2i8 core => Sys2Proof.Machine.execMmT2i8 core s
  | .mloadb core => Sys2Proof.Machine.execMloadb core s
  | .mclr core => Sys2Proof.Machine.execMclr core s
  | .mdrain core => Sys2Proof.Machine.execMdrain core s
  | .mmask core => Sys2Proof.Machine.execMmask core s
  | .mredb core => Sys2Proof.Machine.execMredb core s
  | .mredbCombine core => Sys2Proof.Machine.execMredbCombine core s
  | .mmbm core => Sys2Proof.Machine.execMmbm core s
  | .tcwVadd core => Sys2Proof.Machine.execTcwVadd core s
  | .tcwVsub core => Sys2Proof.Machine.execTcwVsub core s
  | .tcwVmul core => Sys2Proof.Machine.execTcwVmul core s
  | .tcwVmax core => Sys2Proof.Machine.execTcwVmax core s
  | .tcwVmin core => Sys2Proof.Machine.execTcwVmin core s
  | .tcwVabs core => Sys2Proof.Machine.execTcwVabs core s
  | .tcwVneg core => Sys2Proof.Machine.execTcwVneg core s
  | .tcwVcvt core => Sys2Proof.Machine.execTcwVcvt core s
  | .tcwVred core => Sys2Proof.Machine.execTcwVred core s
  | .tcwVcmp core => Sys2Proof.Machine.execTcwVcmp core s
  | .tcwVmov core => Sys2Proof.Machine.execTcwVmov core s
  | .tcwVshf core => Sys2Proof.Machine.execTcwVshf core s
  | .tcwVexp core => Sys2Proof.Machine.execTcwVexp core s
  | .tcwVlog core => Sys2Proof.Machine.execTcwVlog core s
  | .tcwVrcp core => Sys2Proof.Machine.execTcwVrcp core s
  | .tcwVrsq core => Sys2Proof.Machine.execTcwVrsq core s
  | .tcwVtanh core => Sys2Proof.Machine.execTcwVtanh core s
  | .tcwVsigm core => Sys2Proof.Machine.execTcwVsigm core s
  | .tcwVexpA core => Sys2Proof.Machine.execTcwVexpA core s
  | .tcwVlogA core => Sys2Proof.Machine.execTcwVlogA core s
  | .tcwVrcpA core => Sys2Proof.Machine.execTcwVrcpA core s
  | .tcwVrsqA core => Sys2Proof.Machine.execTcwVrsqA core s
  | .tcwVtanhA core => Sys2Proof.Machine.execTcwVtanhA core s
  | .tcwVsigmA core => Sys2Proof.Machine.execTcwVsigmA core s
  | .tcwVfma core => Sys2Proof.Machine.execTcwVfma core s
  | .tcwVsel core => Sys2Proof.Machine.execTcwVsel core s
  | .copy core => Sys2Proof.Machine.execCopy core s
  | .copyx core => Sys2Proof.Machine.execCopyx core s
  | .vectorStep core thread bad => Sys2Proof.Machine.execVectorStep core thread bad s
  | .chainMigrate origin target => Sys2Proof.Machine.execChainMigrate origin target s
  | .copyRequest core op => Sys2Proof.Machine.execCopyRequest core op s
  | .packetLand core op pkt => Sys2Proof.Machine.execPacketLand core op pkt s
  | .landingHandler core op pkt => Sys2Proof.Machine.execLandingHandler core op pkt s
  | .publExchange core thread => Sys2Proof.Machine.execPublExchange core thread s
  | .registerFill uid reg => Sys2Proof.Machine.execRegisterFill uid reg s
  | .watchFill uid reg => Sys2Proof.Machine.execWatchFill uid reg s
  | .pageWalk core asid va => Sys2Proof.Machine.execPageWalk core asid va s
  | .notificationRecord die => Sys2Proof.Machine.execNotificationRecord die s
  | .faultHoldRetry die => Sys2Proof.Machine.execFaultHoldRetry die s
  | .fhReplayHid die hid => Sys2Proof.Machine.execFhReplayHid die hid s
  | .fhKillHid die hid => Sys2Proof.Machine.execFhKillHid die hid s
  | .fhReplayAsid die asid => Sys2Proof.Machine.execFhReplayAsid die asid s
  | .fhKillAsid die asid => Sys2Proof.Machine.execFhKillAsid die asid s
  | .tlbinvPage die asid va dies size => Sys2Proof.Machine.execTlbinvPage die asid va dies size s
  | .tlbinvAsid die asid dies => Sys2Proof.Machine.execTlbinvAsid die asid dies s
  | .tlbinvAll die dies => Sys2Proof.Machine.execTlbinvAll die dies s
  | .tlbinvComplete die => Sys2Proof.Machine.execTlbinvComplete die s
  | .remoteCompletion req status reason cause data => Sys2Proof.Machine.execRemoteCompletion req status reason cause data s
  | .rmaInbound => Sys2Proof.Machine.execRmaInbound s
  | .uetUnsupported req => Sys2Proof.Machine.execUetUnsupported req s
  | .ateAccept bay => Sys2Proof.Machine.execAteAccept bay s
  | .doneMessage bay => Sys2Proof.Machine.execDoneMessage bay s
  | .joinWake core slot => Sys2Proof.Machine.execJoinWake core slot s
  | .barrierWake core slot => Sys2Proof.Machine.execBarrierWake core slot s
  | .messageArrival core => Sys2Proof.Machine.execMessageArrival core s
  | .refusalArrival core => Sys2Proof.Machine.execRefusalArrival core s
  | .takeWork core thread => Sys2Proof.Machine.execTakeWork core thread s
  | .steal core thread victim => Sys2Proof.Machine.execSteal core thread victim s
  | .taskQueuePull asid => Sys2Proof.Machine.execTaskQueuePull asid s
  | .windowClose core => Sys2Proof.Machine.execWindowClose core s
  | .quantumEnd asid => Sys2Proof.Machine.execQuantumEnd asid s
  | .stvaArrival home => Sys2Proof.Machine.execStvaArrival home s
  | .ldnbArrival home => Sys2Proof.Machine.execLdnbArrival home s
  | .homeTick home => Sys2Proof.Machine.execHomeTick home s
  | .deadlineOutcome core => Sys2Proof.Machine.execDeadlineOutcome core s
  | .twaitWake core thread => Sys2Proof.Machine.execTwaitWake core thread s
  | .sleepWake core thread => Sys2Proof.Machine.execSleepWake core thread s
  | .timeExchange die ok out back turn => Sys2Proof.Machine.execTimeExchange die ok out back turn s
  | .ptpMessage kind port domain seq source origin twoStep rank => Sys2Proof.Machine.execPtpMessage kind port domain seq source origin twoStep rank s
  | .syncInterval => Sys2Proof.Machine.execSyncInterval s
  | .announceTimeout => Sys2Proof.Machine.execAnnounceTimeout s
  | .genClose asid => Sys2Proof.Machine.execGenClose asid s
  | .formulaHandout asid => Sys2Proof.Machine.execFormulaHandout asid s
  | .publicationAck asid who => Sys2Proof.Machine.execPublicationAck asid who s
  | .publication asid => Sys2Proof.Machine.execPublication asid s
  | .snapBind uid slot => Sys2Proof.Machine.execSnapBind uid slot s
  | .snapwaitExpiry asid => Sys2Proof.Machine.execSnapwaitExpiry asid s
  | .dispatchSelection asid => Sys2Proof.Machine.execDispatchSelection asid s
  | .kick asid qid tail => Sys2Proof.Machine.execKick asid qid tail s
  | .queueMap asid slot qcb => Sys2Proof.Machine.execQueueMap asid slot qcb s
  | .queueUnmap asid slot => Sys2Proof.Machine.execQueueUnmap asid slot s
  | .launchStart => Sys2Proof.Machine.execLaunchStart s
  | .launchEnd asid => Sys2Proof.Machine.execLaunchEnd asid s
  | .unitStop core thread => Sys2Proof.Machine.execUnitStop core thread s
  | .stopRecord die => Sys2Proof.Machine.execStopRecord die s
  | .cxcmdResume die slot => Sys2Proof.Machine.execCxcmdResume die slot s
  | .cxcmdResumeOn die slot lcore asid => Sys2Proof.Machine.execCxcmdResumeOn die slot lcore asid s
  | .cxcmdDiscard die slot => Sys2Proof.Machine.execCxcmdDiscard die slot s
  | .cxcmdReleaseHandler die slot => Sys2Proof.Machine.execCxcmdReleaseHandler die slot s
  | .cxcmdDropMessage die slot => Sys2Proof.Machine.execCxcmdDropMessage die slot s
  | .cxcmdDeschedule die asid lcore thread => Sys2Proof.Machine.execCxcmdDeschedule die asid lcore thread s
  | .cxcmdMigrate die asid lcore target => Sys2Proof.Machine.execCxcmdMigrate die asid lcore target s
  | .cxcmdClearScarf die target => Sys2Proof.Machine.execCxcmdClearScarf die target s
  | .migrationComplete core ok => Sys2Proof.Machine.execMigrationComplete core ok s
  | .scarfForward core => Sys2Proof.Machine.execScarfForward core s
  | .doubleFault sc scause scode stval saddr => Sys2Proof.Machine.execDoubleFault sc scause scode stval saddr s
  | .dfcauseRead sc => Sys2Proof.Machine.execDfcauseRead sc s
  | .watchdog asid => Sys2Proof.Machine.execWatchdog asid s
  | .monitorSample asid mon value => Sys2Proof.Machine.execMonitorSample asid mon value s
  | .monitorClr asid mon => Sys2Proof.Machine.execMonitorClr asid mon s
  | .trccfgWrite asid value => Sys2Proof.Machine.execTrccfgWrite asid value s
  | .scrubRead die granule => Sys2Proof.Machine.execScrubRead die granule s
  | .eccstatClr die => Sys2Proof.Machine.execEccstatClr die s
  | .apxmonClr core => Sys2Proof.Machine.execApxmonClr core s
  | .dqcfgWrite core value => Sys2Proof.Machine.execDqcfgWrite core value s
  | .mbcfgWrite core value => Sys2Proof.Machine.execMbcfgWrite core value s
  | .rfcfgWrite core value => Sys2Proof.Machine.execRfcfgWrite core value s
  | .ddordWrite asid n value => Sys2Proof.Machine.execDdordWrite asid n value s
  | .ddlimWrite asid value => Sys2Proof.Machine.execDdlimWrite asid value s
  | .registerWrite addr value => Sys2Proof.Machine.execRegisterWrite addr value s
  | .powerEval die pkgW pkgA dieA dieT => Sys2Proof.Machine.execPowerEval die pkgW pkgA dieA dieT s
  | .energyUpdate asid coreUj totalUj => Sys2Proof.Machine.execEnergyUpdate asid coreUj totalUj s
  | .powerOn => Sys2Proof.Machine.execPowerOn s
  | .rstcmd => Sys2Proof.Machine.execRstcmd s
  | .ready => Sys2Proof.Machine.execReady s
  | .startFailure why => Sys2Proof.Machine.execStartFailure why s
  | .sessionOpen ifaces => Sys2Proof.Machine.execSessionOpen ifaces s
  | .sessionClose session => Sys2Proof.Machine.execSessionClose session s
  | .quote session nonce => Sys2Proof.Machine.execQuote session nonce s
  | .extend session n digest => Sys2Proof.Machine.execExtend session n digest s
  | .clearFails session => Sys2Proof.Machine.execClearFails session s
  | .imageSlotWrite session slot offset bytes => Sys2Proof.Machine.execImageSlotWrite session slot offset bytes s
  | .i3cStatus watts temp => Sys2Proof.Machine.execI3cStatus watts temp s
  | .i3cTemps t0 t1 t2 t3 => Sys2Proof.Machine.execI3cTemps t0 t1 t2 t3 s
  | .i3cSetcap watts => Sys2Proof.Machine.execI3cSetcap watts s
  | .i3cSetfloor arg => Sys2Proof.Machine.execI3cSetfloor arg s
  | .i3cReset arg => Sys2Proof.Machine.execI3cReset arg s
  | .i3cBootsel arg => Sys2Proof.Machine.execI3cBootsel arg s
  | .i3cUnknownCommand => Sys2Proof.Machine.execI3cUnknownCommand s
  | .i3cPrivateRead => Sys2Proof.Machine.execI3cPrivateRead s
  | .i3cHdrEntry => Sys2Proof.Machine.execI3cHdrEntry s
  | .entdaa addr => Sys2Proof.Machine.execEntdaa addr s
  | .setdasa addr => Sys2Proof.Machine.execSetdasa addr s
  | .rstdaa => Sys2Proof.Machine.execRstdaa s
  | .enec => Sys2Proof.Machine.execEnec s
  | .disec => Sys2Proof.Machine.execDisec s
  | .setmwl len => Sys2Proof.Machine.execSetmwl len s
  | .setmrl len => Sys2Proof.Machine.execSetmrl len s
  | .getpid => Sys2Proof.Machine.execGetpid s
  | .getbcr => Sys2Proof.Machine.execGetbcr s
  | .getdcr => Sys2Proof.Machine.execGetdcr s
  | .getstatus => Sys2Proof.Machine.execGetstatus s
  | .getmwl => Sys2Proof.Machine.execGetmwl s
  | .getmrl => Sys2Proof.Machine.execGetmrl s
  | .rstact action => Sys2Proof.Machine.execRstact action s
  | .cccUnsupported code => Sys2Proof.Machine.execCccUnsupported code s
  | .systemCoreAccess sc write addr size value => Sys2Proof.Machine.execSystemCoreAccess sc write addr size value s
  | .externalDisciplineRequest session port domain allowance => Sys2Proof.Machine.execExternalDisciplineRequest session port domain allowance s
  | .i3cHdrExit => Sys2Proof.Machine.execI3cHdrExit s
  | .endFrozenLaunch asid => Sys2Proof.Machine.execEndFrozenLaunch asid s

end Sys2Proof.Machine
end

