-- ==== Sys2Proof/Machine/Due.lean ====
section
/-! DEFINITION. What the hardware does next by itself: the steps that are due in a state, each by the rule that starts it. -/

namespace Sys2Proof.Machine

/-- Fills that producers and ended watches have sent to registers (R193, R249), where they arrive now: the spec gives the time of a fill only for
an unloaded package (R54; log 30). -/
def Ctx.dueFills (x : Ctx) (now : Nat) : List Event :=
  ((x.producers.filter fun p => Config.fillArrives (Nat.pair now (Nat.pair x.uid p.1))).map fun p => .registerFill x.uid p.1) ++
  ((x.watchFills.filter fun p => Config.fillArrives (Nat.pair now (Nat.pair x.uid p.reg))).map fun p => .watchFill x.uid p.reg)

/-- The fills due in every context: on the threads, in the ready queues and in the slots. -/
def State.dueFills (s : State) : List Event :=
  (s.cores.flatMap fun (_, k) =>
    (k.threads.toList.flatMap fun th => if th.running || th.stopped.isSome then th.ctx.dueFills s.freshCount else []) ++
    (k.ready.flatMap fun e => match e.item with | .ctx x => x.dueFills s.freshCount | _ => [])) ++
  (s.dies.toList.flatMap fun (d : Die) => d.slots.flatMap fun e => e.2.ctx.dueFills s.freshCount)

/-- The steps due when a cycle begins: values that arrive, and what the homes perform at the new time (R116 to R118). -/
def State.dueEarly (s : State) : List Event := s.dueFills ++ s.dueExchanges ++ s.dueTimed ++ s.dueOutcomes

/-- The steps due when the cores have issued, in the order in which they are performed (log 3). -/
def State.due (s : State) : List Event :=
  s.dueMailbox ++ s.dueTasks ++ s.dueSheet ++ s.dueSleeps ++ s.dueMem ++ s.dueChains ++
  s.dueSched ++ s.dueLaunch ++ s.dueTrap ++ s.dueMigrate ++ s.dueQuantum ++ s.dueStart

/-- A reading of the part's sensors at the present time: 0 the package's power in W; of die d, 4 + 3d its core-rail voltage in mV, and the two after it its
temperature in 0.125 °C and the current that its work asks for in A (R423, R436, R437; log 82). -/
def State.sensor (s : State) (n : Nat) : Nat := Config.sensor (Nat.pair s.cycle n)

/-- RATE of RAMPCTL as it acts, in amperes per microsecond of the package: for each die the same number of quarters of an ampere (R437). -/
def Pkg.rampRate (p : Pkg) : Nat := max 50 (min 1000 (wfield p.rampctl 0 10))

/-- The current of a die after a microsecond in which its work asks for `want`, in quarters of an ampere (R437): a rise stops at the limit, where issue is withheld;
a fall does while filler is issued (FILL = 1). -/
def Die.draw (d : Die) (rate want : Nat) (fill : Bool) : Die :=
  { d with amps := max (min want (d.amps + rate)) (if fill then d.amps - rate else 0), rising := decide (d.amps + rate < want) }

/-- The core-rail currents of the dies at a new microsecond. What their work asks for is a reading of the part (log 82); a die of a part in minimal mode has no
power (R432). -/
def State.setCurrents (s : State) : State :=
  (upTo 4).foldl (fun s d => s.modDie d fun e =>
    if s.pkg.minimal then { e with amps := 0, rising := false }
    else e.draw s.pkg.rampRate (4 * s.sensor (4 + 3 * d + 2)) (wfield s.pkg.rampctl 16 1 == 1)) s

/-- The core-rail current of a die, and of the package: the sum of its dies' (R436), in amperes. -/
def State.dieAmps (s : State) (d : Nat) : Nat := (s.die d).amps / 4
def State.pkgAmps (s : State) : Nat := ((upTo 4).foldl (fun n d => n + (s.die d).amps) 0) / 4

/-- Once per microsecond, which is 1,200 cycles (R104): the dies are compared with their limits (R436), the energy of every launch is updated (R438), and
the monitors take samples of the rails (R423). -/
def State.dueSensors (s : State) : List Event :=
  ((upTo 4).map fun d => .powerEval d (s.sensor 0) s.pkgAmps (s.dieAmps d) (s.sensor (4 + 3 * d + 1))) ++
  ((s.parts.filter fun p => p.2.active).map fun p =>
    let uj := Config.energy (Nat.pair s.cycle p.1)
    .energyUpdate p.1 (Config.energy (Nat.pair s.cycle (p.1 + 4096)) % (uj + 1)) uj) ++
  (s.parts.flatMap fun p => (upTo 4).flatMap fun n =>
    let m := vget p.2.dbg.mons n Monitor.reset
    let take := fun (src die v : Nat) => if m.counts src die then [Event.monitorSample p.1 n v] else []
    ((upTo 4).flatMap fun d => (upTo 3).flatMap fun k => take (4 + k) d (if k = 2 then s.dieAmps d else s.sensor (4 + 3 * d + k))) ++ take 7 0 (s.sensor 0))

/-- Cycles in 64 ms and in 12 hours (R74, R104). -/
def scrubSram : Nat := 76800000
def scrubHbm : Nat := 51840000000000

/-- The patrol scrubber of every die reads the words of its SRAM each 64 ms, and the bursts of its stacks each 12 hours (R74); a read of a granule without an
error changes nothing. When within that time a granule is read is the model's choice (log 89). -/
def State.dueScrubs (s : State) : List Event :=
  ((s.bad ++ s.weak).filter fun g => if s.granuleSize g = 64 then s.cycle % scrubHbm == 0 else s.cycle % scrubSram == 0).map fun g => .scrubRead (keyDie g) g

/-- What comes once in a while: the sensors, and the scrubbers. -/
def State.dueSlow (s : State) : List Event :=
  (if s.cycle % 1200 = 0 then s.dueSensors else []) ++ (if s.cycle % scrubSram = 0 ∧ !(s.bad.isEmpty && s.weak.isEmpty) then s.dueScrubs else [])

/-- The samples of the cycle that ends are before any later CLR (R424). -/
def State.endSamples (s : State) : State :=
  if s.parts.all fun p => p.2.dbg.mons.toList.all fun m => m.now.isEmpty then s
  else { s with parts := tmap s.parts fun _ p => { p with dbg := { p.dbg with mons := p.dbg.mons.map fun (m : Monitor) => { m with now := [] } } } }

/-- A new cycle: the clocks move, the system cores take their interrupts, and what the homes perform comes before the first core that issues and the engines
of the cores before it; with none to issue, what is due at the end of the cycle follows. -/
def State.newCycle (s : State) : State :=
  let s := s.endSamples.tickCycle
  let s := (if s.cycle % 1200 = 0 then s.setCurrents else s).setRamps.serveHost
  match s.seek none with
  | some t =>
    let t := t.takeIrqs
    t.post (t.dueEarly ++ t.dueEngines none (some (t.issueKey t.curCore)) ++ t.dueSlow)
  | none =>
    let t := ((s.passIdle none none).drainLoops none none).takeIrqs
    t.post (t.dueEarly ++ t.dueEngines none none ++ t.due ++ t.dueSlow)

/-- After an issue: a slot whose instruction only waited is donated or idles (R183, R194). Otherwise the engines of the core follow, and of the cores before
the next one that issues in the cycle (R91); after the last one everything else that is due, and then the next cycle. What the instruction asked for
is performed before all of these. -/
def State.advance (s : State) (waited : Bool) : State :=
  let out := fun (s : State) => { s with freshCount := s.freshCount + 1 }
  if s.curCore = noCore then out s.newCycle
  else match (if waited then s.donee s.curCore s.curThread.val s.cycle else none) with
    | some t => out (s.setCur s.curCore t)
    | none =>
      let s := if waited then s.modCurK fun k => { k with idleSlots := satN 64 (k.idleSlots + 1) } else s
      let lo := some (s.issueKey s.curCore)
      match s.seek lo with
      | some t => out (t.post (t.dueEngines lo (some (t.issueKey t.curCore))))
      | none =>
        let t := ((s.passIdle lo none).drainLoops lo none).setCur noCore 0
        out (t.post (t.dueEngines lo none ++ t.due))

end Sys2Proof.Machine
end

