-- ==== Sys2Proof/Machine/Step.lean ====
section
/-! DEFINITION. One step of the machine. A step that the hardware, system software or the host owes is performed first; otherwise the
thread whose turn it is fetches, decodes and performs one instruction, and time passes. -/

namespace Sys2Proof.Machine

/-- Time passes after what the issuing thread of `s` did. -/
def afterIssue (s : State) : Host.Outcome State Fault Refusal → Host.Outcome State Fault Refusal
  | .next s' => .next (s'.advance (s.waited s'))
  | .fault r => .fault r
  | .refused r => .refused r

/-- The instruction of the issuing thread, after the stops of R396: its decode causes, its early causes, the boundary stops, a fetch
breakpoint. -/
noncomputable def runWord (w : BitVec 32) (s : State) : Host.Outcome State Fault Refusal :=
  match decode w with
  | .error c => .next (s.trap c { d0 := w.zeroExtend 64 })
  | .ok i =>
    match Instr.early i s with
    | some (c, d) => .next (s.earlyTrap c d)
    | none =>
      match s.boundary with
      | some s' => .next s'
      | none => if s.bpFetch then .next (s.trap .bkpt) else exec i s

/-- One step. A step that is due takes the next count for its free values. -/
noncomputable def step (s : State) : Host.Outcome State Fault Refusal :=
  match s.agenda with
  | e :: rest => exec e.toInstr { s with agenda := rest, freshCount := s.freshCount + 1 }
  | [] =>
    match s.fetch with
    | .idle => .next (s.advance false)
    | .stop s' => .next (s'.advance (s.waited s'))
    | .word w s' => afterIssue s (runWord w s')

/-! ## Placing one instruction -/

/-- The key from which the issuing thread would fetch, if it can. -/
def State.fetchKey (s : State) : Option Nat :=
  match s.fetch with
  | .word _ _ => (match s.check (s.agent s.curCore) .fetch 1 4 s.cur.pc with | .ok (.mem k) => some k | _ => none)
  | _ => none

/-- Physical addresses of the level-0 table, the level-1 table and the code of the launch that `hosted` makes; one leaf maps the first GiB to itself. -/
def hostedTable : Nat := 0x10000
def hostedNext : Nat := 0x11000
def hostedCode : Nat := 0x100000

/-- The launch that stands for a load of a program from outside: ASID 0 on core 0 of die 0 alone, privileged. -/
def hostedLaunch : Launch := { Launch.reset with mask := [0], ptbase := hostedTable, privileged := true, lcores := [(0, 0)] }

/-- A state in which thread 0 of core 0 runs a task at `hostedCode` of space 0x4, as if the Dreith service had started a launch there (R372; log 29). -/
def State.hosted (s : State) : State :=
  let x : Ctx := { Ctx.reset with uid := s.nextUid, kind := .task, pc := BitVec.ofNat 64 (0x4000000000000000 + hostedCode) }
  let k := (Core.reset.join 0 (some 0) 0xE4E4E4E4 s.cycle).setThr 0 { Thread.reset with running := true, ctx := x, units := 1 }
  let s := { s with cores := tput s.cores 0 k, parts := tput s.parts 0 (Partition.start hostedLaunch), curCore := 0, curThread := 0, nextUid := s.nextUid + 1 }
  let s := (s.modPkg fun p => { p with readyWritten := true }).modDie 0 fun d => { d with gtu := { d.gtu with state := .locked } }
  (s.pokeBytes (hbmKey hostedTable) (leBytes 8 (hostedNext + 1))).pokeBytes (hbmKey hostedNext) (leBytes 8 0xF)

/-- The state with an instruction's bits where the next step fetches, little-endian (R187). Where nothing can fetch, a launch is placed first. -/
def State.withFetchWord (s : State) (nbits w : Nat) : State :=
  let s := { s with agenda := [] }
  let s := if s.fetchKey.isSome then s else s.hosted
  s.pokeBytes (s.fetchKey.getD 0) (leBytes 4 (w % 2 ^ nbits % 2 ^ 32))

end Sys2Proof.Machine
end

