-- ==== Sys2Proof/Safety.lean ====
section
/-! DEFINITION. What a run is, what counts as a safe one, and the terms in which statements say what an instruction leaves unchanged. -/

namespace Sys2Proof.Machine

/-- `s` reaches `t` by steps that each answer a next state. -/
inductive Reaches : State → State → Prop where
  | refl (s : State) : Reaches s s
  | tail {s t u : State} : Reaches s t → step t = .next u → Reaches s u

/-- A state is safe when no run from it meets a fault or a refusal: every state it reaches has a next state. -/
def Safe (s : State) : Prop := ∀ t, Reaches s t → ∃ u, step t = .next u

/-- `t` is `s` after an instruction of the issuing thread has retired and the thread goes on at `pc` (R187), and NOTHING ELSE has changed: in the
thread's context only the program counter and what a retirement clears, with a STEP stop pending where the unit is stepped (R418, R419); of the thread
its count of retired instructions (R423); of the core its quantum count, in a deterministic launch (R390); of the partition the time of the last
progress (R411). Every register and flag, every other thread, memory and every other structure is as it was. -/
structure Retired (s t : State) (pc : Word) : Prop where
  cur : t.cur = { s.cur with pc := pc, brkPass := false, wait := .no, served := false, redo := none, stall := .no, badLate := 0, pend := t.cur.pend }
  pend : t.cur.pend =
    if s.curThread = 4 then (s.cur.retired pc).pend else (s.cur.retired pc).pendStep (s.stepped s.curK.asidN s.cur.tid)
  thread : t.thr s.curCore s.curThread.val =
    { s.thr s.curCore s.curThread.val with retired := satN 64 ((s.thr s.curCore s.curThread.val).retired + 1), ctx := t.cur }
  threads : ∀ c u, (c, u) ≠ (s.curCore, s.curThread.val) → t.thr c u = s.thr c u
  core : ∀ c, { t.core c with threads := (s.core c).threads, det := (s.core c).det } = s.core c
  det : ∀ c, c ≠ s.curCore ∨ (s.launchOf s.curCore).deterministic = false ∨ s.curThread ≠ 0 → (t.core c).det = (s.core c).det
  part : ∀ a, tget t.parts a = (tget s.parts a).map fun p =>
    { p with wdLast := if a = s.curK.asidN ∧ s.curThread ≠ 4 then s.cycle else p.wdLast }
  rest : { t with cores := s.cores, parts := s.parts } = s

/-- Every listed x register of the issuing unit is full (R194, R195). -/
def FullAt (s : State) (rs : List Reg) : Prop := ∀ r ∈ rs, s.cur.isFull r = true

/-- An instruction ran: it answers a next state in which the update `f` of the issuing unit's context, and nothing else, has happened, and the unit
goes on at `pc`. -/
def RunsTo (o : Host.Outcome State Fault Refusal) (s : State) (f : Ctx → Ctx) (pc : Word) : Prop :=
  ∃ t, o = .next t ∧ Retired (s.modCur f) t pc

end Sys2Proof.Machine
end

