-- ==== Sys2Proof/Certificates/Slice0/Obligations.lean ====
section
/-! DEFINITION. The statements for the provers, each a formalisation of rules of the spec. -/

open Sys2Proof Sys2Proof.Machine

/-! ## Integer, logic and bit-field instructions -/

/-- ADD to REMU but the divisions, and the compares: with sources and destination full, x[d] becomes the result of R232 and nothing else changes.
A write to x0 is discarded, so `setX` with d = 0 changes no register (R190). -/
def TwoSourceIntegerInstructionsWriteTheirResult : Prop :=
  ∀ (s : State) (d a b : Reg) (ma mb : Bool), FullAt s [a, b, d] →
    ∀ x y : Word, x = s.cur.xr a → y = s.cur.xr b →
    let gives := fun (i : Instr) (v : Word) => RunsTo (exec i s) s (fun c => c.setX d v) (s.cur.pc + 4)
    gives (.add d a b ma mb) (x + y) ∧ gives (.sub d a b ma mb) (x - y) ∧
    gives (.and d a b ma mb) (x &&& y) ∧ gives (.or d a b ma mb) (x ||| y) ∧ gives (.xor d a b ma mb) (x ^^^ y) ∧
    gives (.sll d a b ma mb) (x <<< (y.toNat % 64)) ∧ gives (.srl d a b ma mb) (x >>> (y.toNat % 64)) ∧
    gives (.sra d a b ma mb) (x.sshiftRight (y.toNat % 64)) ∧
    gives (.min d a b ma mb) (if y.toInt < x.toInt then y else x) ∧ gives (.max d a b ma mb) (if x.toInt < y.toInt then y else x) ∧
    gives (.minu d a b ma mb) (if y.toNat < x.toNat then y else x) ∧ gives (.maxu d a b ma mb) (if x.toNat < y.toNat then y else x) ∧
    gives (.slt d a b ma mb) (if x.toInt < y.toInt then 1 else 0) ∧ gives (.sltu d a b ma mb) (if x.toNat < y.toNat then 1 else 0) ∧
    gives (.seq d a b ma mb) (if x = y then 1 else 0) ∧ gives (.sne d a b ma mb) (if x = y then 0 else 1) ∧
    gives (.mul d a b ma mb) (x * y) ∧ gives (.mulh d a b ma mb) (BitVec.ofInt 64 (x.toInt * y.toInt / 2 ^ 64)) ∧
    gives (.mulhu d a b ma mb) (BitVec.ofNat 64 (x.toNat * y.toNat / 2 ^ 64))

/-- DIV, DIVU, REM, REMU (R233): a divisor of zero stops the unit with INTDZ; otherwise the destination is empty until its producer's value, the
quotient rounded toward zero or the remainder with the sign of the dividend, is written (R193); x0 takes no producer. -/
def Obligations.DivisionsStopOnZeroAndProduceTheirResult : Prop :=
  ∀ (s : State) (d a b : Reg) (ma mb : Bool), FullAt s [a, b, d] →
    ∀ x y : Word, x = s.cur.xr a → y = s.cur.xr b →
    let gives := fun (i : Instr) (v : Word) =>
      RunsTo (exec i s) s (fun c => if d = 0 then c else { c.markEmpty d with producers := c.producers ++ [(d.toNat, v)] }) (s.cur.pc + 4)
    Cause.intdz.code = 0x1D ∧
    (y = 0 → ∀ i ∈ [Instr.div d a b ma mb, .divu d a b ma mb, .rem d a b ma mb, .remu d a b ma mb], exec i s = .next (s.trap .intdz)) ∧
    (y ≠ 0 →
      gives (.div d a b ma mb) (BitVec.ofInt 64 (x.toInt.tdiv y.toInt)) ∧ gives (.rem d a b ma mb) (BitVec.ofInt 64 (x.toInt.tmod y.toInt)) ∧
      gives (.divu d a b ma mb) (BitVec.ofNat 64 (x.toNat / y.toNat)) ∧ gives (.remu d a b ma mb) (BitVec.ofNat 64 (x.toNat % y.toNat)))

/-- CLZ, CTZ and POPC (R232): v zero bits stand above (below) the highest (lowest) one bit, 64 for a zero word; POPC counts the one bits. -/
def CountInstructionsCountBits : Prop :=
  ∀ (s : State) (d a : Reg) (ma : Bool), FullAt s [a, d] → ∀ x : Word, x = s.cur.xr a →
    let gives := fun (i : Instr) (v : Nat) => RunsTo (exec i s) s (fun c => c.setX d (BitVec.ofNat 64 v)) (s.cur.pc + 4)
    (∃ v ≤ 64, (∀ i < v, x.getLsbD (63 - i) = false) ∧ (v < 64 → x.getLsbD (63 - v) = true) ∧ gives (.clz d a ma) v) ∧
    (∃ v ≤ 64, (∀ i < v, x.getLsbD i = false) ∧ (v < 64 → x.getLsbD v = true) ∧ gives (.ctz d a ma) v) ∧
    gives (.popc d a ma) ((List.range 64).countP fun i => x.getLsbD i)

/-- The immediate forms (R234), with the signed 12-bit immediate or the 6-bit amount of their words, and LUI, AUIPC, GCOORD (R234, R235). -/
def ImmediateIntegerInstructionsWriteTheirResult : Prop :=
  ∀ (s : State) (d a : Reg) (imm : BitVec 12) (sh : BitVec 6) (up : BitVec 19) (ma : Bool), FullAt s [a, d] →
    ∀ x : Word, x = s.cur.xr a →
    let gives := fun (i : Instr) (v : Word) => RunsTo (exec i s) s (fun c => c.setX d v) (s.cur.pc + 4)
    let c := imm.signExtend 64
    gives (.addi d a imm ma) (x + c) ∧ gives (.andi d a imm ma) (x &&& c) ∧ gives (.ori d a imm ma) (x ||| c) ∧ gives (.xori d a imm ma) (x ^^^ c) ∧
    gives (.slti d a imm ma) (if x.toInt < c.toInt then 1 else 0) ∧ gives (.sltiu d a imm ma) (if x.toNat < c.toNat then 1 else 0) ∧
    gives (.slli d a sh ma) (x <<< sh.toNat) ∧ gives (.srli d a sh ma) (x >>> sh.toNat) ∧ gives (.srai d a sh ma) (x.sshiftRight sh.toNat) ∧
    gives (.lui d up) (up.signExtend 64 * 4096) ∧ gives (.auipc d up) (s.cur.pc + up.signExtend 64 * 4096) ∧
    gives (.gcoord d) (if 4608 ≤ s.curCore then BitVec.allOnes 64
      else BitVec.ofNat 64 (s.curCore / 1152 % 4 * 65536 + s.curCore % 1152 / 32 % 64 * 256 + s.curCore % 32))

/-- SEL, BFX and BFI (R236, R237): a field that fits in the word; BFX zero-extends it, BFI replaces it in x[d]. A field past bit 63 is mixed mode
0x01: it stops with MIXTRAP where WARN.TE is set, is cut at bit 63 otherwise, and the use is recorded in WARN (R207). -/
def SelectionAndBitFieldInstructions : Prop :=
  ∀ (s : State) (d a b c : Reg) (pos len : BitVec 6) (m : Bool),
    let gives := fun (i : Instr) (v : Word) => RunsTo (exec i s) s (fun x => x.setX d v) (s.cur.pc + 4)
    (FullAt s [a, b, c, d] → gives (.sel d a b c m) (if s.cur.xr c = 0 then s.cur.xr b else s.cur.xr a)) ∧
    (FullAt s [a, d] → pos.toNat + len.toNat + 1 ≤ 64 →
      gives (.bfx d a pos len m) ((s.cur.xr a >>> pos.toNat) &&& BitVec.ofNat 64 (2 ^ (len.toNat + 1) - 1)) ∧
      gives (.bfi d a pos len m)
        ((s.cur.xr d &&& ~~~(BitVec.ofNat 64 (2 ^ (len.toNat + 1) - 1) <<< pos.toNat)) |||
          ((s.cur.xr a &&& BitVec.ofNat 64 (2 ^ (len.toNat + 1) - 1)) <<< pos.toNat))) ∧
    (64 < pos.toNat + len.toNat + 1 → s.cur.warn.getLsbD 63 = true →
      exec (.bfx d a pos len m) s = .next (s.mixTrap 1) ∧ exec (.bfi d a pos len m) s = .next (s.mixTrap 1)) ∧
    (FullAt s [a, d] → 64 < pos.toNat + len.toNat + 1 → s.cur.warn.getLsbD 63 = false →
      RunsTo (exec (.bfx d a pos len m) s) s (fun x => { x with warn := mixWarn x.warn 1 }.setX d (s.cur.xr a >>> pos.toNat)) (s.cur.pc + 4) ∧
      RunsTo (exec (.bfi d a pos len m) s) s (fun x => { x with warn := mixWarn x.warn 1 }.setX d
        ((s.cur.xr d &&& BitVec.ofNat 64 (2 ^ pos.toNat - 1)) ||| (s.cur.xr a <<< pos.toNat))) (s.cur.pc + 4))

/-- MKGA (R235): a coordinate word whose reserved bits are zero and whose row lies in the mesh, and an offset inside a scratchpad, give the
global address of that byte; any other coordinate word or offset stops with ACCESS, whose D0 is the coordinate word and D1 zero (the model's choice,
log 7). -/
def MkgaFormsAGlobalAddress : Prop :=
  ∀ (s : State) (d a b : Reg) (ma mb : Bool), FullAt s [a, b, d] →
    let word := fun (die row col : Nat) => s.cur.xr a = BitVec.ofNat 64 (die * 65536 + row * 256 + col)
    (∀ die row col off : Nat, die < 4 → row ≤ 35 → col < 32 → off < 131072 → word die row col → s.cur.xr b = BitVec.ofNat 64 off →
      RunsTo (exec (.mkga d a b ma mb) s) s
        (fun c => c.setX d (BitVec.ofNat 64 (2 ^ 60 + die * 2 ^ 32 + row * 2 ^ 26 + col * 2 ^ 21 + off))) (s.cur.pc + 4)) ∧
    ((∀ die row col : Nat, die < 4 → row ≤ 35 → col < 32 → ¬ word die row col) ∨ 131072 ≤ (s.cur.xr b).toNat →
      exec (.mkga d a b ma mb) s = .next (s.trap .access { d0 := s.cur.xr a }))

/-- The integer instructions that compute from registers, an immediate or the program counter write exactly their result (R231 to R235). -/
def Obligations.IntegerInstructionsWriteTheirResult : Prop := TwoSourceIntegerInstructionsWriteTheirResult ∧ ImmediateIntegerInstructionsWriteTheirResult

/-- Counting bits, selecting, bit fields and forming a global address (R232, R235 to R237). -/
def Obligations.BitFieldSelectAndAddressInstructions : Prop := CountInstructionsCountBits ∧ SelectionAndBitFieldInstructions ∧ MkgaFormsAGlobalAddress


/-! ## Branches and jumps -/

/-- The six branches (R238): the thread goes on at pc + 4 * OFF where the comparison holds, else at pc + 4; nothing else changes. -/
def BranchesGoWhereTheirComparisonSays : Prop :=
  ∀ (s : State) (a b : Reg) (off : BitVec 11) (ma mb : Bool), FullAt s [a, b] →
    ∀ x y : Word, x = s.cur.xr a → y = s.cur.xr b →
    let goes := fun (i : Instr) (taken : Prop) =>
      (taken → RunsTo (exec i s) s id (s.cur.pc + 4 * off.signExtend 64)) ∧ (¬ taken → RunsTo (exec i s) s id (s.cur.pc + 4))
    goes (.beq a b off ma mb) (x = y) ∧ goes (.bne a b off ma mb) (x ≠ y) ∧
    goes (.blt a b off ma mb) (x.toInt < y.toInt) ∧ goes (.bge a b off ma mb) (y.toInt ≤ x.toInt) ∧
    goes (.bltu a b off ma mb) (x.toNat < y.toNat) ∧ goes (.bgeu a b off ma mb) (y.toNat ≤ x.toNat)

/-- JAL and JALR (R238): the link pc + 4 is written, and the thread goes on at pc + 4 * IMM19, or at x[A] + imm read before the link is written. A
misaligned JALR target stops with FETCHALIGN, x[D] unchanged. -/
def JumpsLinkAndTransferControl : Prop :=
  ∀ (s : State) (d a : Reg) (off : BitVec 19) (imm : BitVec 12) (ma : Bool),
    (FullAt s [d] → RunsTo (exec (.jal d off) s) s (fun c => c.setX d (s.cur.pc + 4)) (s.cur.pc + 4 * off.signExtend 64)) ∧
    (FullAt s [a, d] → ∀ target : Word, target = s.cur.xr a + imm.signExtend 64 →
      (target.toNat % 4 = 0 → RunsTo (exec (.jalr d a imm ma) s) s (fun c => c.setX d (s.cur.pc + 4)) target) ∧
      (target.toNat % 4 ≠ 0 → exec (.jalr d a imm ma) s = .next (s.trap .fetchalign { d0 := target })))

/-- A fault of a fetch at a target is taken by that fetch, with pc at the target; a target outside space 0x4 is one, FETCHFAULT where its space exists and is
open to the launch (R238). -/
def TargetsAreCheckedByTheirFetch : Prop :=
  ∀ (s : State),
    let pc := s.cur.pc
    let fetch := s.check (s.agent s.curCore) .fetch 1 4 pc
    (pc.toNat % 4 = 0 → pc.toNat / 2 ^ 60 ≠ 4 → ∃ c d, fetch = .error (.cause c d) ∧ (pc.toNat / 2 ^ 60 < 7 → c = .fetchfault ∧ d = { d0 := pc })) ∧
    (∀ c d, fetch = .error (.cause c d) → s.issuable s.curCore s.curThread.val = true → s.cur.redo = none → s.boundary = none → s.cur.wait ≠ .held →
      s.fetch = .stop ((if c = .fetchalign ∨ c = .fetchfault then s else s.noteEcc c d).trap c d))

/-- x0 reads as zero, is always full, and a write to it is discarded (R190). -/
def X0ReadsZeroAndDiscardsWrites : Prop :=
  ∀ (c : Ctx) (v : Word) (r : Reg), c.xr 0 = 0 ∧ c.isFull 0 = true ∧ c.setX 0 v = c ∧ (c.markEmpty 0).isFull 0 = true ∧
    (r ≠ 0 → (c.setX r v).xr r = v ∧ (c.markEmpty r).isFull r = false ∧ (c.markFull r).isFull r = true) ∧
    (∀ q, q ≠ r → (c.setX r v).xr q = c.xr q ∧ (c.markEmpty r).isFull q = c.isFull q ∧ (c.markFull r).isFull q = c.isFull q)

/-- The empty-source rule (R194), for the instructions of every register-register, immediate and branch form: a marked source that is empty
stops the unit with EMPTYRD, D0 naming the first such register in the order A, B, which is the model's choice (log 7); where no marked source is empty but a source or the destination
is, the instruction waits: the state is unchanged and it is tested again. -/
def EmptySourcesStopOrWait : Prop :=
  ∀ (s : State) (d a b : Reg) (imm : BitVec 12) (off : BitVec 11) (ma mb : Bool),
    let two : List Instr := [.add d a b ma mb, .sub d a b ma mb, .and d a b ma mb, .or d a b ma mb, .xor d a b ma mb, .sll d a b ma mb,
      .srl d a b ma mb, .sra d a b ma mb, .mul d a b ma mb, .div d a b ma mb, .mkga d a b ma mb]
    let branches : List Instr := [.beq a b off ma mb, .bne a b off ma mb, .blt a b off ma mb, .bgeu a b off ma mb]
    let one : List Instr := [.addi d a imm ma, .andi d a imm ma, .clz d a ma, .ldD d a imm ma, .jalr d a imm ma]
    (ma = true → s.cur.isFull a = false → ∀ i ∈ two ++ branches ++ one, exec i s = .next (s.trap .emptyrd { d0 := a.zeroExtend 64 })) ∧
    (ma = false ∨ s.cur.isFull a = true → mb = true → s.cur.isFull b = false →
      ∀ i ∈ two ++ branches, exec i s = .next (s.trap .emptyrd { d0 := b.zeroExtend 64 })) ∧
    (ma = false ∨ s.cur.isFull a = true → mb = false ∨ s.cur.isFull b = true →
      (s.cur.isFull a = false ∨ s.cur.isFull b = false → ∀ i ∈ two ++ branches, exec i s = .next s) ∧
      (s.cur.isFull a = false → ∀ i ∈ one, exec i s = .next s) ∧
      (s.cur.isFull d = false → ∀ i ∈ two ++ one, exec i s = .next s))

/-- Branches, JAL and JALR, and the faults of their targets' fetches (R238). -/
def Obligations.BranchesAndJumpsTransferControl : Prop :=
  BranchesGoWhereTheirComparisonSays ∧ JumpsLinkAndTransferControl ∧ TargetsAreCheckedByTheirFetch

/-- The register file: x0 and empty registers (R190, R194). -/
def Obligations.RegistersReadEmptyAndZero : Prop := X0ReadsZeroAndDiscardsWrites ∧ EmptySourcesStopOrWait


/-! ## Loads and stores -/

/-- The update of a producer's destination (R193): empty until its value, which is on its way, is written; x0 takes none. -/
def producing (d : Reg) (v : Word) (c : Ctx) : Ctx :=
  if d = 0 then c else { c.markEmpty d with producers := c.producers ++ [(d.toNat, v)] }

/-- An access of the issuing thread that passes the checks of R40, meets no breakpoint, watermark, queued vector access or earlier access of its unit that
it must follow (R80, R82, R97, R102, R294, R416), and reaches memory at a key. -/
def ReachesMemory (s : State) (kind : AccKind) (ld st : Bool) (n : Nat) (ea : Word) (k : Nat) : Prop :=
  s.reachScalar kind n n ea = .ok (.mem k) ∧ s.bpData ld st ea n = false ∧ s.interlocked kind.writes ea n = false ∧
    s.mustFollow s.cur.uid st ea n (.mem k) = false

/-- The access is performed at once: no streaming scratchpad, no line that an ATE holds, and not by the loopback port (R25, R58, R69). -/
def AtOnce (s : State) (ea : Word) (k : Nat) : Prop := s.streaming k = false ∧ s.lineHeld k = false ∧ s.ownName ea = false

/-- The ways by which an access leaves its thread and is performed later: to a scratchpad that is being streamed (R25), through the loopback port while
that has room (R58), or forwarded to the ATE that holds its line (R69). -/
def LeavesBy (s : State) (ea : Word) (k n : Nat) (op : AteOp) (act : LoopAct) (t : State) : Prop :=
  (s.streaming k = true ∧ t = s.arrive k n act) ∨
  (s.streaming k = false ∧ s.ownName ea = true ∧ s.curK.loopFull = false ∧ t = s.loopSend k n act) ∨
  (s.streaming k = false ∧ s.ownName ea = false ∧ s.lineHeld k = true ∧ t = s.ateSend (ateRank s.curCore s.curThread.val) op)

/-- LD, LDZ and LDF (R239): the n bytes at x[A] + imm, little-endian (R77), sign- or zero-extended, go to the destination, whose x register is
empty until the value is written (R193); memory and every other register stay, the translation may be cached (R32), correctable errors are
corrected (R72), and the latency is a sample (R423). A load that is performed later leaves its thread, which goes on with x[D] empty, or waits for
an f register; a full loopback port holds it (R58). -/
def LoadsReadMemory : Prop :=
  ∀ (s : State) (d a : Reg) (imm : BitVec 12) (ma : Bool) (ea : Word) (k : Nat), ea = s.cur.xr a + imm.signExtend 64 →
    let s1 := s.touchTlb s.curCore ea
    let reaches := fun (n : Nat) => ReachesMemory s .load true false n ea k ∧ s1.badIn k n = none
    let loads := fun (i : Instr) (n : Nat) (f : Nat → Ctx → Ctx) =>
      reaches n → AtOnce s1 ea k → RunsTo (exec i s) ((s1.correct k n).sampledAt s.curCore 0) (f (s.readLe k n)) (s.cur.pc + 4)
    let by_ := fun (n : Nat) (sg fp : Bool) (t : State) =>
      LeavesBy s1 ea k n (.read k n sg s.cur.uid d fp) (.load sg d fp) t
    let later := fun (i : Instr) (n : Nat) (sg : Bool) =>
      reaches n → ∀ t, by_ n sg false t → RunsTo (exec i s) (t.sampledAt s.curCore 0) (fun x => x.markEmpty d) (s.cur.pc + 4)
    let holds := fun (i : Instr) (n : Nat) =>
      reaches n → s1.streaming k = false → s1.ownName ea = true → s1.curK.loopFull = true → exec i s = .next s1
    (FullAt s [a, d] → loads (.ldB d a imm ma) 1 (fun v => producing d ((BitVec.ofNat 8 v).signExtend 64)) ∧
    loads (.ldH d a imm ma) 2 (fun v => producing d ((BitVec.ofNat 16 v).signExtend 64)) ∧
    loads (.ldW d a imm ma) 4 (fun v => producing d ((BitVec.ofNat 32 v).signExtend 64)) ∧
    loads (.ldD d a imm ma) 8 (fun v => producing d (BitVec.ofNat 64 v)) ∧
    loads (.ldzB d a imm ma) 1 (fun v => producing d (BitVec.ofNat 64 v)) ∧
    loads (.ldzH d a imm ma) 2 (fun v => producing d (BitVec.ofNat 64 v)) ∧
    loads (.ldzW d a imm ma) 4 (fun v => producing d (BitVec.ofNat 64 v)) ∧
    (∀ p ∈ [(Instr.ldB d a imm ma, 1, true), (.ldH d a imm ma, 2, true), (.ldW d a imm ma, 4, true), (.ldD d a imm ma, 8, true),
        (.ldzB d a imm ma, 1, false), (.ldzH d a imm ma, 2, false), (.ldzW d a imm ma, 4, false)], later p.1 p.2.1 p.2.2 ∧ holds p.1 p.2.1)) ∧
    (FullAt s [a] → loads (.ldfW d a imm ma) 4 (fun v c => c.setF d (BitVec.ofNat 64 v)) ∧
    loads (.ldfD d a imm ma) 8 (fun v c => c.setF d (BitVec.ofNat 64 v)) ∧
    (∀ p ∈ [(Instr.ldfW d a imm ma, 4), (.ldfD d a imm ma, 8)],
      (reaches p.2 → ∀ t, by_ p.2 false true t → exec p.1 s = .next (t.sampledAt s.curCore 0).awaitAnswer) ∧ holds p.1 p.2))

/-- ST and STF (R239): the low n bytes of the source are written at x[A] + imm, little-endian (R77), with what a write sets off (R73, R249, R381);
every other byte of memory stays, and no register changes. A store that is performed later leaves its thread, which goes on; a full loopback port holds
it (R58). -/
def StoresWriteMemory : Prop :=
  ∀ (s : State) (r a : Reg) (imm : BitVec 11) (ms ma : Bool) (ea : Word) (k : Nat), ea = s.cur.xr a + imm.signExtend 64 →
    Memory.wf s.mem = true →
    let s1 := s.touchTlb s.curCore ea
    let stores := fun (i : Instr) (n : Nat) (v : Word) =>
      ReachesMemory s .store false true n ea k → s1.badPartly k n = none →
        (AtOnce s1 ea k → ∃ t, exec i s = .next t ∧ Retired (s1.writeLe k n v.toNat) t (s.cur.pc + 4) ∧
          t.readLe k n = v.toNat % 256 ^ n ∧ (∀ j, j < k ∨ k + n ≤ j → t.byteAt j = s.byteAt j) ∧ Memory.wf t.mem = true ∧
          (∀ q, t.cur.xr q = s.cur.xr q) ∧ t.cur.f = s.cur.f ∧ t.cur.m = s.cur.m ∧ t.cur.fctl = s.cur.fctl ∧ t.cur.warn = s.cur.warn) ∧
        (∀ t, LeavesBy s1 ea k n (.write k n v s.cur.uid) (.store v) t →
          RunsTo (exec i s) t id (s.cur.pc + 4)) ∧
        (s1.streaming k = false → s1.ownName ea = true → s1.curK.loopFull = true → exec i s = .next s1)
    (FullAt s [a, r] → stores (.stB r a imm ms ma) 1 (s.cur.xr r) ∧ stores (.stH r a imm ms ma) 2 (s.cur.xr r) ∧
      stores (.stW r a imm ms ma) 4 (s.cur.xr r) ∧ stores (.stD r a imm ms ma) 8 (s.cur.xr r)) ∧
    (FullAt s [a] → stores (.stfW r a imm ms ma) 4 (s.cur.fr r) ∧ stores (.stfD r a imm ms ma) 8 (s.cur.fr r))

/-- The order of the checks of R40 that need no translation: a reserved space is ACCESS, the system window from an unprivileged partition PRIV, a
misaligned access LDALIGN or STALIGN, and a load or store whose check fails stops its unit there; a table entry or page that cannot be corrected is
logged (R73). An access that goes on after a hold starts from condition 9 (R44), so the first three are of one that does not. -/
def FailedChecksStopTheAccess : Prop :=
  ∀ (s : State) (d a : Reg) (immL : BitVec 12) (immS : BitVec 11) (ma : Bool) (va : Word), FullAt s [a, d] →
    (8 ≤ va.toNat / 2 ^ 60 → ∀ k n, s.reach k n n va = .error (.cause .access { d0 := va, d1 := BitVec.ofNat 64 n })) ∧
    (va.toNat / 2 ^ 60 = 7 → (s.launchOf s.curCore).privileged = false → ∀ k n, s.reach k n n va = .error (.cause .priv { d0 := va })) ∧
    (s.cur.redo = none → va.toNat / 2 ^ 60 < 7 → ∀ n, va.toNat % n ≠ 0 →
      s.reach .load n n va = .error (.cause .ldalign { d0 := va, d1 := BitVec.ofNat 64 n }) ∧
      s.reach .store n n va = .error (.cause .stalign { d0 := va, d1 := BitVec.ofNat 64 n }) ∧
      s.reach .atomic n n va = .error (.cause .atomalign { d0 := va, d1 := BitVec.ofNat 64 n })) ∧
    (∀ c det, va = s.cur.xr a + immL.signExtend 64 → s.reach .load 8 8 va = .error (.cause c det) →
      exec (.ldD d a immL ma) s = .next ((s.noteEcc c det).trap c det) ∧ exec (.ldfD d a immL ma) s = .next ((s.noteEcc c det).trap c det)) ∧
    (∀ c det, va = s.cur.xr a + immS.signExtend 64 → s.reach .store 8 8 va = .error (.cause c det) →
      exec (.stD d a immS ma ma) s = .next ((s.noteEcc c det).trap c det) ∧ exec (.stfD d a immS ma ma) s = .next ((s.noteEcc c det).trap c det))

/-! ## Timed accesses -/

/-- LDNB and STVA (R115, R241): an access that passes the checks of R121 leaves for its home, by the loopback port where it names its core's own
coordinates (R58), or for a peer (R132), carrying the bits of R124 and R125; LDNB
empties its destination, and STVA has an entry in the in-flight table (R420). TWAIT goes on where the clock has reached its time,
and otherwise waits (R123). -/
def Obligations.TimedAccessesLeaveForTheirHome : Prop :=
  ∀ (s : State) (d a b c : Reg) (ma mb : Bool) (va t data : Word) (h : Hit),
    let leaves := fun (store : Bool) (n : Nat) (r : Reg) =>
      (s.touchTlb s.curCore va).sendTimed (s.timedOf store n va t data r 0) h
    let passes := fun (store : Bool) (n : Nat) => s.timedReach (if store then .store else .load) n va t = .ok h ∧
      s.bpData (!store) store va n = false ∧ s.interlocked store va n = false ∧ s.mustFollow s.cur.uid store va n h = false ∧
      (s.ownName va && s.curK.loopFull) = false ∧ s.timedBad store n h = none
    (va = s.cur.xr a → t = s.cur.xr b → data = 0 → FullAt s [a, b, d] →
      ∀ p ∈ [(Instr.ldnbB d a b ma mb, 1), (.ldnbH d a b ma mb, 2), (.ldnbW d a b ma mb, 4), (.ldnbD d a b ma mb, 8)], passes false p.2 →
        RunsTo (exec p.1 s) ((leaves false p.2 d).sampledAt s.curCore 0)
          (fun x => { x.markEmpty d with ldnbs := if d = 0 then x.ldnbs else x.ldnbs ++ [d.toNat] }) (s.cur.pc + 4)) ∧
    (va = s.cur.xr a → data = s.cur.xr b → t = s.cur.xr c → FullAt s [a, b, c] →
      ∀ p ∈ [(Instr.stvaB a b c ma, 1), (.stvaH a b c ma, 2), (.stvaW a b c ma, 4), (.stvaD a b c ma, 8)], passes true p.2 →
        RunsTo (exec p.1 s) ((leaves true p.2 0).addOp va 5 0).2 id (s.cur.pc + 4)) ∧
    (FullAt s [a] →
      ((s.cur.xr a).toNat ≤ (s.gtime s.curCore).toNat → RunsTo (exec (.twait a ma) s) s id (s.cur.pc + 4)) ∧
      ((s.gtime s.curCore).toNat < (s.cur.xr a).toNat →
        exec (.twait a ma) s = .next (s.modCur fun x => { x with wait := .twait (s.cur.xr a) })))

/-- What a home does with a timed access (R116, R117, R118): an STVA that arrives by T + SKEWB enters its buffer, a later one is applied at once, behind
what is due at the ticks that have passed; an LDNB enters; at a home tick the due accesses leave the buffer and are performed, of one tick the store before the load (R118), but while the
scratchpad is being streamed (R133). One whose line an ATE holds has its turn there (R69); one performed while the die is not locked has the unlocked bit
(R131). TWAIT's thread goes on once its clock has reached T (R123). -/
def HomesPerformTimedAccesses : Prop :=
  ∀ (s : State) (h : Nat) (a l : Timed),
    let arrived := s.enterTimed h a
    let left := s.modTimed h fun b => { b with stores := b.stores.filter fun x => !s.timedDue h x, loads := b.loads.filter fun x => !s.timedDue h x }
    (s.timedEntrant h true = some a → arrived.onTime = true →
      exec (.stvaArrival h) s = .next (s.modTimed h fun b => { b with incoming := b.incoming.erase a, stores := b.stores ++ [arrived] })) ∧
    (s.timedEntrant h true = some a → arrived.onTime = false →
      exec (.stvaArrival h) s = .next (((s.modTimed h fun b => { b with incoming := b.incoming.erase a }).runHome h true).applyTimed h arrived)) ∧
    (s.timedEntrant h false = some a →
      exec (.ldnbArrival h) s = .next (s.modTimed h fun b => { b with incoming := b.incoming.erase a, loads := b.loads ++ [arrived] })) ∧
    (s.homeMoves h = true → exec (.homeTick h) s = .next s) ∧
    (∀ b, s.timedBuf h = b → s.homeMoves h = false →
      (b.stores ++ b.loads = [a] → s.timedDue h a = true → exec (.homeTick h) s = .next (left.applyTimed h a)) ∧
      (b.stores = [a] → b.loads = [l] → a.store = true → l.store = false → a.tick = l.tick → s.timedDue h a = true → s.timedDue h l = true →
        exec (.homeTick h) s = .next ((left.applyTimed h a).applyTimed h l))) ∧
    (∀ core thread t, (s.ctx core thread).wait = .twait t → (s.thr core thread).running = true → t.toNat ≤ (s.gtime core).toNat →
      exec (.twaitWake core thread) s = .next (s.retireAt core thread ((s.ctx core thread).pc + 4))) ∧
    (s.lineHeld a.loc = true →
      s.applyTimed h a = (s.modTimed h fun b => { b with fwd := b.fwd ++ [a] }).ateSend a.rank (.timed a.loc a.order)) ∧
    (s.lineHeld a.loc = false → ∀ u, u = { a with unlocked := a.unlocked || !s.locked (homeCore h) } →
      s.applyTimed h a = if a.store then s.applyStva u else s.performLdnb u) ∧
    (s.badPartly a.loc a.size = none → s.applyStva a = (s.writeLe a.loc a.size (a.data.toNat % 2 ^ (8 * a.size))).sendOutcome a) ∧
    (a.peer = none → s.badIn a.loc a.size = none → ∀ m, m = s.correct a.loc a.size → s.performLdnb a =
      (m.modCore (m.holderOf a.core) fun k => k.countUnlocked a.unlocked).deliver a.uid a.reg (sext (s.readLe a.loc a.size) (8 * a.size)))

/-- The outcome of an STVA (R124 to R129): the unlocked bit is counted, the in-flight entry is done, and a miss is counted in DLSTAT by mode: the throttled
count where a power throttle touched the access, the plain count otherwise; nothing is recorded in mode 0, which a deterministic launch reads as 1
(R126), and a cause follows from mode 2 on, one per task (R129). -/
def DeadlineOutcomesAreCounted : Prop :=
  ∀ (s : State) (core : Nat) (o : StvaOutcome) (rest : List StvaOutcome), (s.core core).outcomes = o :: rest →
    let a := o.acc
    let asid := (s.core core).asidN
    let mode := if a.dlmode.toNat % 4 = 0 ∧ (s.launchOf core).deterministic = true then 1 else a.dlmode.toNat % 4
    let s1 := (s.modCore core fun k => ({ k with outcomes := rest } : Core).countUnlocked a.unlocked).setOp a.uid a.op 2 none
    let s2 := s1.modCore core fun k => k.countMiss a (mode != 0) (s.missWaits asid a.uid a.tid)
    (o.missed = false → exec (.deadlineOutcome core) s = .next s1) ∧
    (o.missed = true → mode < 2 → exec (.deadlineOutcome core) s = .next s2) ∧
    (o.missed = true → 2 ≤ mode → exec (.deadlineOutcome core) s = .next (s2.raiseMiss asid a.uid a.tid))

/-! ## Atomics -/

/-- The eight forms of one atomic operation (R197, R243), word and doubleword, in the four orders of R89: its FN, size in bytes and order with each. -/
def amoSet (fn : Nat) (w d wAcq dAcq wRel dRel wSc dSc : Instr) : List (Instr × Nat × Nat × AmoOrder) :=
  [(w, fn, 4, .relaxed), (d, fn, 8, .relaxed), (wAcq, fn, 4, .acq), (dAcq, fn, 8, .acq), (wRel, fn, 4, .rel), (dRel, fn, 8, .rel), (wSc, fn, 4, .sc),
    (dSc, fn, 8, .sc)]

/-- The atomics that read and write, each with its FN of R197, its size in bytes and its order (R243, R89). -/
def amoForms (d a b : Reg) (ma mb : Bool) : List (Instr × Nat × Nat × AmoOrder) :=
  amoSet 0 (.amoaddW d a b ma mb) (.amoaddD d a b ma mb) (.amoaddWAcq d a b ma mb) (.amoaddDAcq d a b ma mb)
    (.amoaddWRel d a b ma mb) (.amoaddDRel d a b ma mb) (.amoaddWSc d a b ma mb) (.amoaddDSc d a b ma mb) ++
  amoSet 1 (.amoandW d a b ma mb) (.amoandD d a b ma mb) (.amoandWAcq d a b ma mb) (.amoandDAcq d a b ma mb)
    (.amoandWRel d a b ma mb) (.amoandDRel d a b ma mb) (.amoandWSc d a b ma mb) (.amoandDSc d a b ma mb) ++
  amoSet 2 (.amoorW d a b ma mb) (.amoorD d a b ma mb) (.amoorWAcq d a b ma mb) (.amoorDAcq d a b ma mb)
    (.amoorWRel d a b ma mb) (.amoorDRel d a b ma mb) (.amoorWSc d a b ma mb) (.amoorDSc d a b ma mb) ++
  amoSet 3 (.amoxorW d a b ma mb) (.amoxorD d a b ma mb) (.amoxorWAcq d a b ma mb) (.amoxorDAcq d a b ma mb)
    (.amoxorWRel d a b ma mb) (.amoxorDRel d a b ma mb) (.amoxorWSc d a b ma mb) (.amoxorDSc d a b ma mb) ++
  amoSet 4 (.amominW d a b ma mb) (.amominD d a b ma mb) (.amominWAcq d a b ma mb) (.amominDAcq d a b ma mb)
    (.amominWRel d a b ma mb) (.amominDRel d a b ma mb) (.amominWSc d a b ma mb) (.amominDSc d a b ma mb) ++
  amoSet 5 (.amomaxW d a b ma mb) (.amomaxD d a b ma mb) (.amomaxWAcq d a b ma mb) (.amomaxDAcq d a b ma mb)
    (.amomaxWRel d a b ma mb) (.amomaxDRel d a b ma mb) (.amomaxWSc d a b ma mb) (.amomaxDSc d a b ma mb) ++
  amoSet 6 (.amoswapW d a b ma mb) (.amoswapD d a b ma mb) (.amoswapWAcq d a b ma mb) (.amoswapDAcq d a b ma mb)
    (.amoswapWRel d a b ma mb) (.amoswapDRel d a b ma mb) (.amoswapWSc d a b ma mb) (.amoswapDSc d a b ma mb) ++
  amoSet 7 (.amofaddW d a b ma mb) (.amofaddD d a b ma mb) (.amofaddWAcq d a b ma mb) (.amofaddDAcq d a b ma mb)
    (.amofaddWRel d a b ma mb) (.amofaddDRel d a b ma mb) (.amofaddWSc d a b ma mb) (.amofaddDSc d a b ma mb)

/-- The compare-and-swaps, each with its size and order (R245, R89). -/
def casForms (d a b c : Reg) (m : Bool) : List (Instr × Nat × AmoOrder) :=
  [
    (.amocasW d a b c m, 4, .relaxed), (.amocasD d a b c m, 8, .relaxed), (.amocasWAcq d a b c m, 4, .acq), (.amocasDAcq d a b c m, 8, .acq),
    (.amocasWRel d a b c m, 4, .rel), (.amocasDRel d a b c m, 8, .rel), (.amocasWSc d a b c m, 4, .sc), (.amocasDSc d a b c m, 8, .sc)]


/-- An atomic (R242 to R246) that passes its checks and whose order lets it leave (R89) goes to its home's atomic engine; its destination is
empty until the old value is written (R193), and its latency is a sample (R423). A release or sequentially consistent atomic waits for the thread's
outstanding accesses. At an address of the system window that no rule names it reads zero and writes nothing (R39). -/
def Obligations.AtomicsLeaveForTheirHome : Prop :=
  ∀ (s : State) (d a b c : Reg) (ma mb : Bool) (k : Nat),
    let s1 := s.touchTlb s.curCore (s.cur.xr a)
    let leaves := fun (i : Instr) (n : Nat) (o : AmoOrder) (op : AteOp) => ReachesMemory s .atomic true true n (s.cur.xr a) k → s1.badIn k n = none →
      (o = .rel ∨ o = .sc → s1.accessesOut s.cur.uid = false) →
        RunsTo (exec i s) (((s1.correct k n).sampledAt s.curCore 1).ateSend (ateRank s.curCore s.curThread.val) op) (fun x => x.markEmpty d) (s.cur.pc + 4)
    let waits := fun (i : Instr) (n : Nat) (o : AmoOrder) => ReachesMemory s .atomic true true n (s.cur.xr a) k → s1.badIn k n = none →
      o = .rel ∨ o = .sc → s1.accessesOut s.cur.uid = true → exec i s = .next s1
    let silent := fun (i : Instr) (n : Nat) (o : AmoOrder) => ∀ w, s.reachScalar .atomic n n (s.cur.xr a) = .ok (.window w) →
      s.bpData true true (s.cur.xr a) n = false → s.interlocked true (s.cur.xr a) n = false → s.mustFollow s.cur.uid true (s.cur.xr a) n (.window w) = false →
      s1.orderWaits o = false → RunsTo (exec i s) s1 (producing d 0) (s.cur.pc + 4)
    (FullAt s [a, b, d] → ∀ e ∈ amoForms d a b ma mb, waits e.1 e.2.2.1 e.2.2.2 ∧ silent e.1 e.2.2.1 e.2.2.2 ∧
      leaves e.1 e.2.2.1 e.2.2.2 (.amo e.2.1 e.2.2.1 k (s.cur.xr b) s.cur.uid d)) ∧
    (FullAt s [a, b, c, d] → ∀ e ∈ casForms d a b c ma, waits e.1 e.2.1 e.2.2 ∧ silent e.1 e.2.1 e.2.2 ∧
      leaves e.1 e.2.1 e.2.2 (.cas e.2.1 k (s.cur.xr b) (s.cur.xr c) s.cur.uid d))

/-- An atomic engine performs one request, the one whose turn it is, by itself (R70, R243, R245): the location takes the new value, every other byte
stays, and the old value, sign-extended but for AMOFADD, is on its way to the destination, which x0 discards; AMOCAS writes only where the old value
is the expected one. -/
def Obligations.AtomicEnginesReadModifyWrite : Prop :=
  ∀ (s : State) (bay fn n k : Nat) (opnd exp new : Word) (uid : Nat) (d : Reg) (r : AteReq),
    s.atePick bay = some r → n = 4 ∨ n = 8 → Memory.wf s.mem = true →
    let w := 8 * n
    let old := s.readLe k n
    let x := opnd.toNat % 2 ^ w
    let accepted := (s.modBay bay fun y => { y with ate := { y.ate with input := y.ate.input.erase r, nextAt := s.cycle + 1 } }).setHot bay
      ((s.bay bay).ate.touched k)
    let returns := fun (t m : State) (v : Word) => t = if d = 0 then m else m.modUnit uid fun c => { c with producers := c.producers ++ [(d.toNat, v)] }
    let extended := BitVec.ofInt 64 (toSigned w old)
    let writes := fun (t : State) (v : Nat) => returns t (accepted.writeLe k n v) (if fn = 7 then BitVec.ofNat 64 old else extended) ∧
      t.readLe k n = v % 2 ^ w ∧ ∀ j, j < k ∨ k + n ≤ j → t.byteAt j = s.byteAt j
    (r.op = .amo fn n k opnd uid d → fn ≤ 7 → ∃ t, exec (.ateAccept bay) s = .next t ∧
      writes t (match fn with
        | 0 => (old + x) % 2 ^ w
        | 1 => old &&& x
        | 2 => old ||| x
        | 3 => old ^^^ x
        | 4 => if toSigned w x < toSigned w old then x else old
        | 5 => if toSigned w old < toSigned w x then x else old
        | 6 => x
        | _ => fAddAtomic (if n = 4 then fp32 else fp64) old x)) ∧
    (r.op = .cas n k exp new uid d → fn = 0 → ∃ t, exec (.ateAccept bay) s = .next t ∧
      (old = exp.toNat % 2 ^ w → writes t (new.toNat % 2 ^ w)) ∧ (old ≠ exp.toNat % 2 ^ w → returns t accepted extended))

/-- The fences (R87, R88, R90, R248): a fence whose preceding group has nothing outstanding retires and changes nothing else; one that orders loads waits
for the thread's loads, one that orders stores for its stores, FENCE.LOOP for both; a reserved scope is RSVFLD. -/
def FencesWaitForTheirPrecedingGroup : Prop :=
  ∀ (s : State) (scope : BitVec 3) (kind : BitVec 4),
    let loads := kind.getLsbD 3 || kind.getLsbD 2
    let stores := kind.getLsbD 1 || kind.getLsbD 0
    let waits := (loads && s.loadsOut s.cur.uid) || (stores && s.storesOut s.cur.uid)
    (6 ≤ scope.toNat → exec (.fence scope kind) s = .next (s.trap .rsvfld)) ∧
    (scope.toNat < 6 → (waits = true → exec (.fence scope kind) s = .next s) ∧
      (waits = false → RunsTo (exec (.fence scope kind) s) s id (s.cur.pc + 4))) ∧
    (s.loadsOut s.cur.uid = true ∨ s.storesOut s.cur.uid = true → exec .fenceLoop s = .next s) ∧
    (s.loadsOut s.cur.uid = false → s.storesOut s.cur.uid = false → RunsTo (exec .fenceLoop s) s id (s.cur.pc + 4))

/-- FEMARK and FEWAIT (R249, R250): a mark empties x[D] and watches the 8-byte word of the core's scratchpad that a load there would reach, once such a load
could be made; x0 is RSVFLD, a misaligned or outside
address ACCESS, a fifth watch QFULL. FEWAIT retires once its register is full. The first write that meets a watched word ends the watch, and the fill
that follows gives the register the word's value, with what else is written to the word in that cycle, and marks it full. -/
def WatchesEmptyARegisterUntilAWrite : Prop :=
  ∀ (s : State) (d a : Reg) (ma : Bool) (va : Word), va = s.cur.xr a → FullAt s [a, d] →
    (d = 0 → exec (.femark d a ma) s = .next (s.trap .rsvfld)) ∧
    (d ≠ 0 → 131072 ≤ va.toNat ∨ va.toNat % 8 ≠ 0 → exec (.femark d a ma) s = .next (s.trap .access { d0 := va, d1 := 8 })) ∧
    (d ≠ 0 → va.toNat < 131072 → va.toNat % 8 = 0 → ∀ k, s.check (s.agent s.curCore) .load 8 8 va = .ok (.mem k) →
      (4 ≤ s.cur.watches.length → exec (.femark d a ma) s = .next (s.trap .qfull)) ∧
      (s.cur.watches.length < 4 → s.interlocked false va 8 = true ∨ s.mustFollow s.cur.uid false va 8 (.mem k) = true → exec (.femark d a ma) s = .next s) ∧
      (s.cur.watches.length < 4 → s.interlocked false va 8 = false → s.mustFollow s.cur.uid false va 8 (.mem k) = false → RunsTo (exec (.femark d a ma) s) s
        (fun x => { x.markEmpty d with watches := x.watches ++ [{ reg := d, off := keyOff k }] }) (s.cur.pc + 4))) ∧
    RunsTo (exec (.fewait a ma) s) s id (s.cur.pc + 4) ∧
    (∀ (x : Ctx) (off n now : Nat) (word : Nat → Word),
      (∀ w ∈ x.watches, w.off < off + n → off < w.off + 8 → w ∉ (x.fireWatches off n now word).watches ∧
        ({ reg := w.reg.toNat, off := w.off, value := word w.off, cycle := now } : WatchFill) ∈ (x.fireWatches off n now word).watchFills) ∧
      (∀ f ∈ x.watchFills, f.cycle = now → f.off < off + n → off < f.off + 8 →
        ({ f with value := word f.off } : WatchFill) ∈ (x.fireWatches off n now word).watchFills) ∧
      (∀ f ∈ x.watchFills, f.cycle ≠ now → f ∈ (x.fireWatches off n now word).watchFills))

/-- Loads and stores, and the checks that stop them (R40, R77, R193, R239). -/
def Obligations.LoadsAndStoresReachMemory : Prop := LoadsReadMemory ∧ StoresWriteMemory ∧ FailedChecksStopTheAccess

/-- The homes of timed accesses and the outcomes they report (R116 to R118, R123 to R129). -/
def Obligations.HomesPerformTimedAccessesAndReportOutcomes : Prop := HomesPerformTimedAccesses ∧ DeadlineOutcomesAreCounted

/-- Fences and watched words (R87, R88, R90, R248 to R250). -/
def Obligations.FencesAndWatches : Prop := FencesWaitForTheirPrecedingGroup ∧ WatchesEmptyARegisterUntilAWrite


/-! ## Scalar floating point -/

/-- The rational number that a finite value stands for (R209). -/
def fvRat (neg : Bool) (m : Nat) (e : Int) : ℚ := (if neg then -1 else 1) * (m : ℚ) * (2 : ℚ) ^ e

/-- The cause of an instruction that raised `flags` (R219): of the raised flags whose trap is enabled, the one with the lowest cause code. -/
def trapOf (fctl : Word) (flags : BitVec 6) : Option Cause :=
  if flags.getLsbD 4 && fctl.getLsbD 28 then some .fpinv
  else if flags.getLsbD 3 && fctl.getLsbD 27 then some .fpdz
  else if flags.getLsbD 2 && fctl.getLsbD 26 then some .fpovf
  else if flags.getLsbD 1 && fctl.getLsbD 25 then some .fpunf
  else if flags.getLsbD 0 && fctl.getLsbD 24 then some .fpinx
  else if flags.getLsbD 5 && fctl.getLsbD 29 then some .fpsat
  else none

/-- The instructions that round one exact result into an f register (R253, R255, R256): the format of the result, that of the sources, and
the exact result of the three source values under FCTL.RM. -/
def roundingForms (d a b c : Reg) (ma mb mq : Bool) : List (Instr × Fmt × Fmt × (Nat → Fv → Fv → Fv → Exact)) :=
  [(.faddS d a b ma mb, fp32, fp32, fun rm x y _ => x.add rm y), (.faddD d a b ma mb, fp64, fp64, fun rm x y _ => x.add rm y),
    (.fsubS d a b ma mb, fp32, fp32, fun rm x y _ => x.add rm y.neg), (.fsubD d a b ma mb, fp64, fp64, fun rm x y _ => x.add rm y.neg),
    (.fmulS d a b ma mb, fp32, fp32, fun _ x y _ => x.mul y), (.fmulD d a b ma mb, fp64, fp64, fun _ x y _ => x.mul y),
    (.fdivS d a b ma mb, fp32, fp32, fun _ x y _ => x.div y), (.fdivD d a b ma mb, fp64, fp64, fun _ x y _ => x.div y),
    (.fsqrtS d a ma, fp32, fp32, fun _ x _ _ => x.sqrt), (.fsqrtD d a ma, fp64, fp64, fun _ x _ _ => x.sqrt),
    (.fmaS d a b c mq, fp32, fp32, fun rm x y z => Fv.fma rm x y z), (.fmaD d a b c mq, fp64, fp64, fun rm x y z => Fv.fma rm x y z),
    (.fcvtSD d a ma, fp32, fp64, fun _ x _ _ => { v := x }), (.fcvtDS d a ma, fp64, fp32, fun _ x _ _ => { v := x })]

/-- FADD to FSQRT, FMA and the conversions between formats (R217, R219, R253, R255, R256): the exact result of the sources, subnormals read as FCTL.DAZ
says, is rounded once into f[D] under FCTL.RM and FTZ; its flags accrue in FCTL. Where a raised flag's trap is enabled the unit stops with its cause,
f[D] unchanged. -/
def FloatingPointResultsAreRoundedOnce : Prop :=
  ∀ (s : State) (d a b c : Reg) (ma mb mq : Bool), ∀ e ∈ roundingForms d a b c ma mb mq,
    let rm := s.cur.fctl.toNat % 8
    let source := fun (r : Reg) => e.2.2.1.read (s.cur.fctl.getLsbD 3) ((s.cur.fr r).toNat % 2 ^ (1 + e.2.2.1.e + e.2.2.1.m))
    let exact := e.2.2.2 rm (source a) (source b) (source c)
    let rounded := e.2.1.encode rm false (s.cur.fctl.getLsbD 4) exact.v exact.sticky
    let flags := (exact.fx.or rounded.2).bits
    let accrued := fun (x : Ctx) => { x with fctl := x.fctl ||| (flags.zeroExtend 64 <<< 10) }
    (trapOf s.cur.fctl flags = none → RunsTo (exec e.1 s) s (fun x => (accrued x).setF d (BitVec.ofNat 64 rounded.1)) (s.cur.pc + 4)) ∧
    (∀ cause, trapOf s.cur.fctl flags = some cause → exec e.1 s = .next ((s.modCur accrued).trap cause))

/-- The exact results are exact (R217): on finite values the sum, the product and the fused product and sum stand for the sum, product and
a * b + c of the rational numbers that their sources stand for; a product of zero and infinity is invalid whatever is added (R256); the order of two finite values is that of their numbers. -/
def ExactResultsAreExact : Prop :=
  ∀ (rm : Nat) (n k j : Bool) (m o q : Nat) (e p r : Int),
    let x := fvRat n m e
    let y := fvRat k o p
    let z := fvRat j q r
    let is := fun (v : Exact) (w : ℚ) => v.fx = {} ∧ v.sticky = false ∧ ∃ t c g, v.v = .fin t c g ∧ fvRat t c g = w
    is ((Fv.fin n m e).add rm (.fin k o p)) (x + y) ∧ is ((Fv.fin n m e).mul (.fin k o p)) (x * y) ∧
    is (Fv.fma rm (.fin n m e) (.fin k o p) (.fin j q r)) (x * y + z) ∧
    (∀ v : Fv, Fv.fma rm (.fin n 0 e) (.inf k) v = Exact.invalid ∧ Fv.fma rm (.inf k) (.fin n 0 e) v = Exact.invalid) ∧
    (Fv.lt false (.fin n m e) (.fin k o p) = true ↔ x < y) ∧ (Fv.eq (.fin n m e) (.fin k o p) = true ↔ x = y)

/-- The formats of R210. -/
def allFormats : List Fmt := [fp64, fp32, fp16, bf16, e4m3, e5m2, e2m3, e3m2, e2m1, fa36]

/-- Convert rounds correctly (R216, R218): where a finite value does not overflow, the result is a finite encoding of the format, and no
encoding's value is nearer under RNE and RMM, of two as near RNE takes the even encoding and RMM the one farther from zero; none is nearer to the value
on the side of zero under RTZ, larger and not above it under RDN, smaller and not below
it under RUP; NX tells whether the result differs. -/
def ConvertRoundsCorrectly : Prop :=
  ∀ f ∈ allFormats, ∀ (rm : Nat) (sat neg : Bool) (m : Nat) (e : Int), rm < 5 →
    let v := fvRat neg m e
    let r := f.encode rm sat false (.fin neg m e)
    r.2.of = false →
      ∃ n k p, f.read false r.1 = .fin n k p ∧ r.1 < 2 ^ (1 + f.e + f.m) ∧
        let w := fvRat n k p
        (r.2.nx = true ↔ w ≠ v) ∧
        ∀ bits < 2 ^ (1 + f.e + f.m), ∀ n' k' p', f.read false bits = .fin n' k' p' →
          let u := fvRat n' k' p'
          (rm = 0 ∨ rm = 4 → |v - w| ≤ |v - u|) ∧
          (rm = 0 → u ≠ w → |v - w| = |v - u| → r.1 % 2 = 0) ∧ (rm = 4 → u ≠ w → |v - w| = |v - u| → |u| < |w|) ∧
          (rm = 1 → |w| ≤ |v| ∧ (|u| ≤ |v| → |u| ≤ |w|)) ∧
          (rm = 2 → w ≤ v ∧ (u ≤ v → u ≤ w)) ∧ (rm = 3 → v ≤ w ∧ (v ≤ u → w ≤ u))

/-- A value of a format converts to itself and raises no flag, and a NaN to the format's canonical NaN (R211, R218). -/
def ValuesOfAFormatConvertToThemselves : Prop :=
  ∀ f ∈ allFormats, ∀ (rm : Nat) (ftz : Bool), ∀ bits < 2 ^ (1 + f.e + f.m),
    (f.read false bits ≠ .nan → f.encode rm false false (f.read false bits) = (bits, {})) ∧
    (f.read false bits = .nan → f.encode rm false ftz (f.read false bits) = (f.cnan, {}))

/-- The instructions of majors 0x41 and 0x42 that do not round, in one format, with the marks of their words. -/
structure PlainFloat where
  f : Fmt
  min : Instr
  max : Instr
  eq : Instr
  lt : Instr
  le : Instr
  cls : Instr
  sgnj : Instr
  sgnjn : Instr
  sgnjx : Instr
  mvx : Instr
  mvf : Instr

/-- The two sets of R253. -/
def plainFloats (d a b : Reg) (ma mb : Bool) : List PlainFloat :=
  [{ f := fp32, min := .fminS d a b ma mb, max := .fmaxS d a b ma mb, eq := .fcmpEqS d a b ma mb, lt := .fcmpLtS d a b ma mb, le := .fcmpLeS d a b ma mb,
     cls := .fclassS d a ma, sgnj := .fsgnjS d a b ma mb, sgnjn := .fsgnjnS d a b ma mb, sgnjx := .fsgnjxS d a b ma mb,
     mvx := .fmvXS d a ma, mvf := .fmvFS d a ma },
   { f := fp64, min := .fminD d a b ma mb, max := .fmaxD d a b ma mb, eq := .fcmpEqD d a b ma mb, lt := .fcmpLtD d a b ma mb, le := .fcmpLeD d a b ma mb,
     cls := .fclassD d a ma, sgnj := .fsgnjD d a b ma mb, sgnjn := .fsgnjnD d a b ma mb, sgnjx := .fsgnjxD d a b ma mb,
     mvx := .fmvXD d a ma, mvf := .fmvFD d a ma }]

/-- FMIN, FMAX, FCMP, FCLASS, FSGNJ and FMV (R253, R254) in both formats: minimum and maximum with -0 below +0 and a NaN giving way; comparisons false
for a NaN, NV raised by LT and LE only; the one-hot class; moves of bits that raise no flag and ignore DAZ. -/
def FloatingPointSelectionsComparisonsAndMoves : Prop :=
  ∀ (s : State) (d a b : Reg) (ma mb : Bool), ∀ i ∈ plainFloats d a b ma mb,
    let w := 1 + i.f.e + i.f.m
    let bits := fun (r : Reg) => (s.cur.fr r).toNat % 2 ^ w
    let x := i.f.read (s.cur.fctl.getLsbD 3) (bits a)
    let y := i.f.read (s.cur.fctl.getLsbD 3) (bits b)
    let toF := fun (j : Instr) (v : Nat) => RunsTo (exec j s) s (fun c => c.setF d (BitVec.ofNat 64 v)) (s.cur.pc + 4)
    let toX := fun (j : Instr) (v : Nat) => RunsTo (exec j s) s (fun c => c.setX d (BitVec.ofNat 64 v)) (s.cur.pc + 4)
    let code := fun (v : Fv) => (i.f.encode 0 false false v).1
    let nan := x = .nan ∨ y = .nan
    let raised := fun (c : Ctx) => { c with fctl := c.fctl ||| (16#64 <<< 10) }
    let half := 2 ^ (w - 1)
    let ex := bits a / 2 ^ i.f.m % 2 ^ i.f.e
    let fr := bits a % 2 ^ i.f.m
    let neg := half ≤ bits a
    toF i.min (code (if x = .nan then y else if y = .nan then x else if Fv.lt true y x then y else x)) ∧
    toF i.max (code (if x = .nan then y else if y = .nan then x else if Fv.lt true x y then y else x)) ∧
    (FullAt s [d] →
      toX i.eq (if ¬ nan ∧ Fv.eq x y then 1 else 0) ∧
      (¬ nan → toX i.lt (if Fv.lt false x y then 1 else 0) ∧ toX i.le (if Fv.lt false y x then 0 else 1)) ∧
      (nan → ∀ j ∈ [i.lt, i.le],
        (s.cur.fctl.getLsbD 28 = false → RunsTo (exec j s) s (fun c => (raised c).setX d 0) (s.cur.pc + 4)) ∧
        (s.cur.fctl.getLsbD 28 = true → exec j s = .next ((s.modCur raised).trap .fpinv))) ∧
      toX i.cls (2 ^ (if ex = 2 ^ i.f.e - 1 then (if fr = 0 then (if neg then 0 else 7) else if fr < 2 ^ (i.f.m - 1) then 8 else 9)
        else if ex = 0 then (if fr = 0 then (if neg then 3 else 4) else if neg then 2 else 5) else if neg then 1 else 6)) ∧
      toX i.mvx (bits a)) ∧
    toF i.sgnj (bits a % half + half * (bits b / half)) ∧ toF i.sgnjn (bits a % half + half * (1 - bits b / half)) ∧
    toF i.sgnjx (bits a % half + half * ((bits a / half + bits b / half) % 2)) ∧
    (FullAt s [a] → toF i.mvf ((s.cur.xr a).toNat % 2 ^ w))

/-- The conversions with integers (R255): a floating value is rounded to an integer under FCTL.RM and clamped to the type, NV raised for a NaN
(which gives 0) and for a value out of range; an integer is rounded into the format; between the integer types the value is clamped with NV. -/
def ConversionsWithIntegers : Prop :=
  ∀ (s : State) (d a : Reg) (ma : Bool),
    let rm := s.cur.fctl.toNat % 8
    let ends := fun (j : Instr) (flags : BitVec 6) (put : Ctx → Ctx) =>
      let accrued := fun (x : Ctx) => { x with fctl := x.fctl ||| (flags.zeroExtend 64 <<< 10) }
      (trapOf s.cur.fctl flags = none → RunsTo (exec j s) s (fun x => put (accrued x)) (s.cur.pc + 4)) ∧
      (∀ cause, trapOf s.cur.fctl flags = some cause → exec j s = .next ((s.modCur accrued).trap cause))
    let min := fun (signed : Bool) => if signed then -(2 ^ 63 : Int) else 0
    let max := fun (signed : Bool) => if signed then (2 ^ 63 - 1 : Int) else 2 ^ 64 - 1
    (FullAt s [d] → ∀ e ∈ [(Instr.fcvtLS d a ma, fp32, true), (.fcvtLuS d a ma, fp32, false), (.fcvtLD d a ma, fp64, true), (.fcvtLuD d a ma, fp64, false)],
      let v := e.2.1.read (s.cur.fctl.getLsbD 3) ((s.cur.fr a).toNat % 2 ^ (1 + e.2.1.e + e.2.1.m))
      let lo := min e.2.2
      let hi := max e.2.2
      let clamped := fun (y : Int) => ends e.1 16 fun x => x.setX d (BitVec.ofInt 64 y)
      (v = .nan → clamped 0) ∧ (∀ n, v = .inf n → clamped (if n then lo else hi)) ∧
      ∀ n m g, v = .fin n m g →
        let r := roundAt rm n m g false 0
        let y : Int := if n then -(r.1 : Int) else r.1
        (y < lo → clamped lo) ∧ (hi < y → clamped hi) ∧
        (lo ≤ y → y ≤ hi → ends e.1 (if r.2 then 1 else 0) fun x => x.setX d (BitVec.ofInt 64 y))) ∧
    (FullAt s [a] → ∀ e ∈ [(Instr.fcvtSL d a ma, fp32, true), (.fcvtSLu d a ma, fp32, false), (.fcvtDL d a ma, fp64, true), (.fcvtDLu d a ma, fp64, false)],
      let i : Int := if e.2.2 then (s.cur.xr a).toInt else (s.cur.xr a).toNat
      let r := e.2.1.encode rm false (s.cur.fctl.getLsbD 4) (.fin (decide (i < 0)) i.natAbs 0)
      ends e.1 r.2.bits fun x => x.setF d (BitVec.ofNat 64 r.1)) ∧
    (FullAt s [a, d] →
      ends (.fcvtLuL d a ma) (if (s.cur.xr a).toInt < 0 then 16 else 0) (fun x => x.setX d (if (s.cur.xr a).toInt < 0 then 0 else s.cur.xr a)) ∧
      ends (.fcvtLLu d a ma) (if 2 ^ 63 ≤ (s.cur.xr a).toNat then 16 else 0)
        (fun x => x.setX d (if 2 ^ 63 ≤ (s.cur.xr a).toNat then BitVec.ofNat 64 (2 ^ 63 - 1) else s.cur.xr a)))

/-- Floating-point arithmetic (R217, R219, R253, R255, R256). -/
def Obligations.FloatingPointArithmeticIsExactThenRoundedOnce : Prop := FloatingPointResultsAreRoundedOnce ∧ ExactResultsAreExact

/-- The floating-point instructions that do not round to a floating-point format, and the conversions with integers (R253 to R255). -/
def Obligations.FloatingPointMovesComparisonsAndConversions : Prop := FloatingPointSelectionsComparisonsAndMoves ∧ ConversionsWithIntegers

/-- Convert (R210, R211, R216, R218). -/
def Obligations.ConversionRoundsCorrectlyAndKeepsRepresentableValues : Prop := ConvertRoundsCorrectly ∧ ValuesOfAFormatConvertToThemselves


/-! ## Control registers -/

/-- The numbers that R198 assigns. -/
def assignedCtl : List Nat :=
  [0x000, 0x001, 0x002, 0x003, 0x010, 0x011, 0x012, 0x013, 0x020, 0x021, 0x022, 0x023, 0x024, 0x025, 0x026, 0x027, 0x028, 0x029, 0x030, 0x031, 0x032,
    0x033, 0x040, 0x041, 0x042, 0x043, 0x044, 0x050] ++ (List.range 8).map (· + 0x0C0) ++ (List.range 1024).map (· + 0x400)

/-- Those that an unprivileged thread may write, and those it may not even read (R198). -/
def writableCtl : List Nat := [0x010, 0x011, 0x012, 0x024, 0x025, 0x026, 0x042, 0x043, 0x044, 0x050] ++ (List.range 1024).map (· + 0x400)
def hiddenCtl : List Nat := [0x031, 0x033]

/-- The writing forms (R251). -/
def ctlWriters (d a : Reg) (n : BitVec 12) (m : Bool) : List (Instr × CtlOp) := [(.ctlwr d a n m, .write), (.ctlset d a n m, .set), (.ctlclr d a n m, .clear)]

/-- The checks of R199: ILLOP for an unassigned number; PRIV for an unprivileged access to a hidden register or write of a read-only one. -/
def ControlRegisterAccessesAreChecked : Prop :=
  ∀ (s : State) (d a : Reg) (n : BitVec 12) (m : Bool),
    let writers := (ctlWriters d a n m).map (·.1)
    let priv := (s.launchOf s.curCore).privileged
    (n.toNat ∉ assignedCtl → ∀ i ∈ Instr.ctlrd d n :: writers, exec i s = .next (s.trap .illop)) ∧
    (priv = false → n.toNat ∈ hiddenCtl → exec (.ctlrd d n) s = .next (s.trap .priv)) ∧
    (priv = false → n.toNat ∈ assignedCtl → n.toNat ∉ writableCtl → ∀ i ∈ writers, exec i s = .next (s.trap .priv))

/-- CTLRD (R251, R252): x[D] takes the register's value, and nothing changes but the core's note of the largest GTIME it read (R105). An access to DDLIM
or a DDORD in a deterministic launch is served at the end of the quantum (R389). -/
def CtlrdReadsAControlRegister : Prop :=
  ∀ (s : State) (d : Reg) (n : BitVec 12), n.toNat ∈ assignedCtl → n.toNat ∉ hiddenCtl ∨ (s.launchOf s.curCore).privileged = true → FullAt s [d] →
    let k := s.curK
    let c := s.curCore
    let reads := fun (num : Nat) (v : Word) => n.toNat = num → RunsTo (exec (.ctlrd d n) s) s (fun x => x.setX d v) (s.cur.pc + 4)
    let served := (s.launchOf c).deterministic = true ∧ (n.toNat = 0x050 ∨ 0x400 ≤ n.toNat)
    (served → exec (.ctlrd d n) s = .next (s.sendQ d (.ctl 0x3D n.toNat 0))) ∧
    (¬ served → RunsTo (exec (.ctlrd d n) s) (if n.toNat = 0x020 then s.modCurK fun k => { k with maxGtime := if k.maxGtime.toNat < (s.gtime c).toNat then s.gtime c else k.maxGtime } else s)
      (fun x => x.setX d (s.ctlGet c s.curThread.val n.toNat)) (s.cur.pc + 4)) ∧
    reads 0x000 (BitVec.ofNat 64 s.cur.tid) ∧ reads 0x001 (BitVec.ofNat 64 (k.lcore % 65536)) ∧ reads 0x010 s.cur.fctl ∧ reads 0x011 s.cur.warn ∧
    reads 0x012 s.cur.apxctl ∧ reads 0x021 (BitVec.ofNat 64 s.pkg.skewb) ∧ reads 0x024 s.cur.dlmode ∧ reads 0x025 k.dlstat ∧ reads 0x026 k.dlrecs ∧
    reads 0x027 k.dlrect ∧ reads 0x028 k.dlrech ∧ reads 0x029 k.dlreca ∧ reads 0x031 s.pkg.rampctl ∧ reads 0x032 (s.part k.asidN).enk ∧
    reads 0x040 k.slott ∧ reads 0x041 (s.launchOf c).qwin ∧ reads 0x044 (BitVec.ofNat 64 k.rfBase)

/-- CTLWR, CTLSET and CTLCLR (R251): x[D] takes the old value; of the register, an RW field takes the operand's bits, or is set or cleared by them,
a W1C bit is cleared by a one of CTLWR or CTLCLR, and other fields stay. FCTL keeps RM where a write would make it 5 to 7 (R216). DQCFG, MBCFG, RFCFG, DDLIM
and DDORDn check the new value first (R167, R176, R182, R352, R353); a shrink of the spill area waits while it holds entries. An access to DDLIM or a DDORDn in a
deterministic launch is served at the end of the quantum (R389). -/
def Obligations.ControlRegistersAreWrittenFieldByField : Prop :=
  ∀ (s : State) (d a : Reg) (n : BitVec 12) (m : Bool), FullAt s [a, d] → ∀ e ∈ ctlWriters d a n m,
    let v := s.cur.xr a
    let k := s.curK
    let next := fun (rw w1c old : Word) => match e.2 with
      | .write => (v &&& rw) ||| (old &&& ~~~rw &&& ~~~(v &&& w1c))
      | .set => old ||| (v &&& rw)
      | .clear => old &&& ~~~(v &&& (rw ||| w1c))
    let thread := fun (num : Nat) (old : Word) (put : Ctx → Ctx) => n.toNat = num → RunsTo (exec e.1 s) s (fun x => (put x).setX d old) (s.cur.pc + 4)
    let core := fun (num : Nat) (old : Word) (put : Core → Core) => n.toNat = num → RunsTo (exec e.1 s) (s.modCurK put) (fun x => x.setX d old) (s.cur.pc + 4)
    let flags := next 0x3F00FC3F 0 s.cur.fctl
    thread 0x010 s.cur.fctl (fun x => { x with fctl := if 5 ≤ flags.toNat % 8 then (flags &&& ~~~7) ||| (s.cur.fctl &&& 7) else flags }) ∧
    thread 0x011 s.cur.warn (fun x => { x with warn := next 0x8000000000000000 7 s.cur.warn }) ∧
    thread 0x024 s.cur.dlmode (fun x => { x with dlmode := next 0xB 0 s.cur.dlmode }) ∧
    (v.getLsbD 2 = false → thread 0x012 s.cur.apxctl (fun x => { x with apxctl := next 0xFFFF000F1F03 0 s.cur.apxctl })) ∧
    core 0x025 k.dlstat (fun k => { k with dlstat := next 0xFFFFFFFFFFFFFFFF 0 k.dlstat }) ∧
    core 0x026 k.dlrecs (fun k => { k with dlrecs := next 0 0xC000000000000000 k.dlrecs }) ∧
    ((s.launchOf s.curCore).privileged = true → n.toNat = 0x031 →
      RunsTo (exec e.1 s) (s.modPkg fun p => { p with rampctl := next 0x103FF 0 p.rampctl }) (fun x => x.setX d s.pkg.rampctl) (s.cur.pc + 4)) ∧
    (n.toNat = 0x044 → let base := next 0x1FFFF 0 (BitVec.ofNat 64 k.rfBase)
      (base.toNat % 128 ≠ 0 → exec e.1 s = .next (s.trap .rsvfld)) ∧
      (base.toNat % 128 = 0 → RunsTo (exec e.1 s) (s.modCurK fun k => { k with rfBase := base.toNat % 2 ^ 17 })
        (fun x => x.setX d (BitVec.ofNat 64 k.rfBase)) (s.cur.pc + 4))) ∧
    (n.toNat = 0x042 → let w := (next 0x1FFFFFFFF 0 k.dqcfg).toNat
      let spill := w / 2 ^ 17 % 2 ^ 16
      let base := w % 2 ^ 17
      let bad := 2048 < spill ∨ base % 64 ≠ 0 ∨ 0x20000 < base + 64 * spill
      (bad → exec e.1 s = .next (s.trap .rsvfld)) ∧ (¬ bad → spill < k.deque.length - 64 → exec e.1 s = .next s) ∧
      (¬ bad → k.deque.length - 64 ≤ spill → RunsTo (exec e.1 s)
        (((s.fetchPegs s.curCore k.deque).2.modCurK fun j =>
          { j with spill := spill, dqBase := base, deque := (s.fetchPegs s.curCore k.deque).1 }).settleDeque s.curCore)
        (fun x => x.setX d k.dqcfg) (s.cur.pc + 4))) ∧
    (n.toNat = 0x043 → let w := (next 0x3FFFFFF 0 k.mbcfg).toNat
      let size := w / 2 ^ 17 % 2 ^ 9
      let base := w % 2 ^ 17
      let bad := k.mbUsed ≠ 0 ∨ 256 < size ∨ base % 256 ≠ 0 ∨ 0x20000 < base + 256 * size
      (bad → exec e.1 s = .next (s.trap .rsvfld)) ∧
      (¬ bad → RunsTo (exec e.1 s) (s.modCurK fun k => { k with mbSize := 256 * size, mbBase := base, mbHead := base, mbUsed := 0 })
        (fun x => x.setX d k.mbcfg) (s.cur.pc + 4))) ∧
    (n.toNat = 0x050 ∨ (0x400 ≤ n.toNat ∧ n.toNat < 0x800) → (s.launchOf s.curCore).deterministic = true →
      exec e.1 s = .next (s.sendQ d (.ctl (match e.2 with | .write => 0x3E | .set => 0x3F | .clear => 0x40) n.toNat v))) ∧
    ((s.launchOf s.curCore).deterministic = false →
      (n.toNat = 0x050 → RunsTo (exec e.1 s) { s with spaces := tmod s.spaces k.asidN fun (u : Dds) =>
          { u with limit := min (next 0x7FFFFFFF 0 (BitVec.ofNat 64 u.limit)).toNat (2 ^ u.nn - 1) } }
        (fun x => x.setX d (s.ddlim k.asidN)) (s.cur.pc + 4)) ∧
      (∀ i, n.toNat = 0x400 + i → i < 0x400 →
        let bad := e.2 ≠ .clear ∧ v &&& 0xF000F000F000F000 ≠ 0
        let used := ∃ u, tget s.spaces k.asidN = some u ∧ u.alloc ≠ 0
        let old := (s.part k.asidN).ddord i
        (bad → exec e.1 s = .next (s.trap .rsvfld)) ∧ (¬ bad → used → exec e.1 s = .next (s.trap .ddorder)) ∧
        (¬ bad → ¬ used → RunsTo (exec e.1 s) (s.modPart k.asidN fun p => { p with ddords := tput p.ddords i (next 0x0FFF0FFF0FFF0FFF 0 old) })
          (fun x => x.setX d old) (s.cur.pc + 4))))

/-! ## The system instructions -/

/-- ECALL, HALT, SLEEP and BKPT (R412, R413, R414, R417): ECALL retires, is counted, and only then stops its unit as a KIND 4 slot with x[D] empty (that it
retires is read from R412 and R420, log 49, DEDUCED), but in a handler is CHINVAL; HALT,
of a privileged launch only, stops the launch and keeps its status with its time; SLEEP goes on with one bit for each wake condition that holds, at once
with 0 in a deterministic launch, and waits otherwise; BKPT stops its unit. -/
def SystemInstructions : Prop :=
  ∀ (s : State) (d a : Reg) (m : Bool),
    let det := (s.launchOf s.curCore).deterministic
    let bound := s.cur.xr a
    let wake := (if bound ≠ 0 ∧ bound.toNat ≤ (s.gtime s.curCore).toNat then 1 else 0)
    (FullAt s [a, d] → s.cur.isHandler = true → exec (.ecall d a m) s = .next (s.trap .chinval)) ∧
    (FullAt s [a, d] → s.cur.isHandler = false → ∃ t, Retired s t (s.cur.pc + 4) ∧
      exec (.ecall d a m) s = .next ((t.modCur fun x => x.markEmpty d).takeStop s.curCore s.curThread.val 4 none { d0 := s.cur.xr a })) ∧
    ((s.launchOf s.curCore).privileged = false → exec (.halt a m) s = .next (s.trap .priv)) ∧
    (FullAt s [a] → (s.launchOf s.curCore).privileged = true → RunsTo (exec (.halt a m) s) (s.modPart s.curK.asidN fun p => { p with
      halts := p.halts ++ [{ quantum := s.curK.det.quantum, time := s.gtime s.curCore, cycle := s.cycle, lcore := s.curK.lcore, status := s.cur.xr a }], stopping := true })
      id (s.cur.pc + 4)) ∧
    (FullAt s [a, d] →
      (det = true → RunsTo (exec (.sleep d a m) s) s (fun x => x.setX d 0) (s.cur.pc + 4)) ∧
      (det = false → wake = 1 → RunsTo (exec (.sleep d a m) s) s (fun x => x.setX d 1) (s.cur.pc + 4)) ∧
      (det = false → wake = 0 →
        exec (.sleep d a m) s = .next (s.modCur fun x => { x with wait := .sleep d bound s.curK.queued x.fills }))) ∧
    exec .bkpt s = .next (s.trap .bkpt)

/-- A sleeping thread wakes where a condition holds (R414): bit 0 its bound has been reached, bit 1 an entry has joined the ready queue, bit 2 a
register has filled; x[D] takes the bits and the SLEEP retires. -/
def SleepersWakeWithTheirReasons : Prop :=
  ∀ (s : State) (core thread : Nat) (d : Reg) (bound : Word) (queued fills : Nat), thread < 5 →
    (s.ctx core thread).wait = .sleep d bound queued fills → (s.thr core thread).running = true →
    let bits := (if bound ≠ 0 ∧ bound.toNat ≤ (s.gtime core).toNat then 1 else 0) + (if queued < (s.core core).queued then 2 else 0) +
      (if fills < (s.ctx core thread).fills then 4 else 0)
    (bits = 0 → exec (.sleepWake core thread) s = .next s) ∧
    (bits ≠ 0 → ∃ t, exec (.sleepWake core thread) s = .next t ∧ (d ≠ 0 → (t.ctx core thread).xr d = BitVec.ofNat 64 bits) ∧
      (∀ r, r ≠ d → (t.ctx core thread).xr r = (s.ctx core thread).xr r) ∧
      (t.ctx core thread).pc = (s.ctx core thread).pc + 4 ∧ (t.ctx core thread).wait = .no ∧ t.mem = s.mem)

/-- PERFRD and ENRD (R423, R439): the counter or the energy that the selector names is written; any other selector is RSVFLD. -/
def Obligations.CountersAndEnergyAreRead : Prop :=
  ∀ (s : State) (d a : Reg) (m : Bool), FullAt s [a, d] →
    let sel := (s.cur.xr a).toNat
    let th := s.thr s.curCore s.curThread.val
    let k := s.curK
    let p := s.part k.asidN
    let mon := fun (i : Nat) => (vget p.dbg.mons i Monitor.reset)
    let perf := fun (j : Nat) (v : Nat) => sel = j → RunsTo (exec (.perfrd d a m) s) s (fun x => x.setX d (BitVec.ofNat 64 v)) (s.cur.pc + 4)
    let en := fun (j : Nat) (v : Word) => sel = j → RunsTo (exec (.enrd d a m) s) s (fun x => x.setX d v) (s.cur.pc + 4)
    perf 0 th.retired ∧ perf 1 (s.cycle - k.startCycle) ∧ perf 2 th.run ∧ perf 3 th.search ∧ perf 4 th.waitSum ∧ perf 5 th.units ∧ perf 6 k.stealOk ∧
    perf 7 k.stealFail ∧ perf 8 k.msgPlaced ∧ perf 9 k.msgRefused ∧ perf 10 k.idleSlots ∧
    (∀ i < 4, perf (0x100 + 32 * i) (mon i).min ∧ perf (0x101 + 32 * i) (mon i).max ∧ perf (0x102 + 32 * i) (min (mon i).count (2 ^ 32 - 1)) ∧
      ∀ b < 16, perf (0x110 + 32 * i + b) (min (vget (mon i).bins b 0) (2 ^ 32 - 1))) ∧
    (10 < sel → ¬ (∃ i < 4, ∃ j < 32, sel = 0x100 + 32 * i + j ∧ (j < 3 ∨ 16 ≤ j)) → exec (.perfrd d a m) s = .next (s.trap .rsvfld)) ∧
    en 0 p.enk ∧ en 1 p.enkCore ∧ en 2 p.enkTime ∧ (2 < sel → exec (.enrd d a m) s = .next (s.trap .rsvfld))

/-- The checks of a control-register access and CTLRD (R199, R251, R252). -/
def Obligations.ControlRegistersAreReadAfterTheirChecks : Prop := ControlRegisterAccessesAreChecked ∧ CtlrdReadsAControlRegister

/-- ECALL, HALT, SLEEP, BKPT and the wakes of sleeping threads (R412 to R414, R417). -/
def Obligations.SystemInstructionsAndSleep : Prop := SystemInstructions ∧ SleepersWakeWithTheirReasons


/-! ## Tasks -/

/-- x1 to x5 are full (R165). -/
def ArgsFull (s : State) : Prop := FullAt s [1, 2, 3, 4, 5]

/-- The thread has no timed access, and its unit nothing else, that a release would wait for (R87, R101). -/
def Quiet (s : State) : Prop := s.accessesOut s.cur.uid = false

/-- SPAWN and STEALCTL (R167, R259, R260): a new task's peg holds the entry, the template with a fresh id, the parent and x1 to x5, and becomes the newest of
the core's deque, entries past the newest 64 going to the spill area; x[D] takes the id; a resumed peg is the 64 bytes of its image, read as one load, as they stood at its turns where the line is held or the image is named by the core's own
coordinates (R58, R69).
A full deque or a spent id counter is DEQOVF, a domain wider than the launch allows STEALDOM, a mode above 1 or a parent outside spaces 1 to 4 TRUSSBAD. -/
def Obligations.SpawnPushesAPeg : Prop :=
  ∀ (s : State) (d a b : Reg) (ma mb : Bool), FullAt s [a, b, d] →
    let entry := s.cur.xr a
    let parent := s.cur.xr b
    let k := s.curK
    let l := s.launchOf s.curCore
    let i := Instr.spawn d a b ma mb
    let tid := l.idBase + k.lcore * 2 ^ 32 + k.tidCount
    let home := parent = 0 ∨ (1 ≤ parent.toNat / 2 ^ 60 ∧ parent.toNat / 2 ^ 60 ≤ 4)
    let word1 := BitVec.ofNat 64 (s.cur.tmpl.toNat * 2 ^ 48 + tid % 2 ^ 48)
    let pushed := fun (t : State) (w : Vector Word 8) => (t.modCurK fun k => { k with deque :=
      ({ w := w, enqt := s.gtime s.curCore, enqLcore := k.lcore, stolen := false } : Peg) :: k.deque }).settleDeque s.curCore
    (1 < parent.toNat % 16 → exec i s = .next (s.trap .trussbad { d0 := parent })) ∧
    (parent.toNat % 16 = 0 →
      (¬ home → exec i s = .next (s.trap .trussbad { d0 := parent })) ∧
      (home → l.widest < s.cur.tmpl.toNat / 16 % 16 → exec i s = .next (s.trap .stealdom)) ∧
      (home → s.cur.tmpl.toNat / 16 % 16 ≤ l.widest →
        (64 + k.spill ≤ k.deque.length → exec i s = .next (s.trap .deqovf)) ∧
        (k.deque.length < 64 + k.spill → ArgsFull s →
          (2 ^ 32 ≤ k.tidCount → exec i s = .next (s.trap .deqovf)) ∧
          (k.tidCount < 2 ^ 32 → Quiet s →
            RunsTo (exec i s) (pushed (s.modCurK fun k => { k with tidCount := k.tidCount + 1 })
                #v[entry, word1, parent, s.cur.xr 1, s.cur.xr 2, s.cur.xr 3, s.cur.xr 4, s.cur.xr 5])
              (fun x => x.setX d (BitVec.ofNat 64 (tid % 2 ^ 48))) (s.cur.pc + 4))))) ∧
    (∀ key ks, parent.toNat % 16 = 1 → s.cur.wide = [] → s.cur.redo = none → s.reachNew .load 64 64 entry = .ok (.mem key) → s.wideKeys entry 4 = .ok ks →
      s.interlocked false entry 64 = false → s.amoOut s.cur.uid = false → (∀ p ∈ ks, s.meetsOut s.cur.uid p 16 = false) →
      (∀ p ∈ ks, s.turnWait s.cur.uid threadSeq p (s.ownName entry) = false) →
      let s1 := s.touchTlb s.curCore entry
      (∀ p ∈ ks, s1.badIn p 16 = none) →
      let image := pegOf (ks.flatMap fun p => (List.range 16).map fun j => s1.seenByte s.cur.uid threadSeq (p + j))
      let s2 := (ks.foldl (fun t p => t.correct p 16) s1).dropTurns s.cur.uid threadSeq
      let narrow := (vget image 1 0).toNat / 2 ^ 52 % 16 ≤ l.widest
      (¬ narrow → exec i s = .next (s2.trap .stealdom)) ∧ (narrow → 64 + k.spill ≤ k.deque.length → exec i s = .next (s2.trap .deqovf)) ∧
      (narrow → k.deque.length < 64 + k.spill → ArgsFull s2 → Quiet s2 →
        RunsTo (exec i s) (pushed s2 image) (fun x => x.setX d (BitVec.ofNat 64 ((vget image 1 0).toNat % 2 ^ 48))) (s.cur.pc + 4))) ∧
    (∀ (x : Word), x = s.cur.xr a →
      (2 ^ 58 ≤ x.toNat ∨ 4 ≤ x.toNat / 2 ^ 52 % 16 → exec (.stealctl d a ma) s = .next (s.trap .stealdom)) ∧
      (x.toNat < 2 ^ 58 → x.toNat / 2 ^ 52 % 16 < 4 → RunsTo (exec (.stealctl d a ma) s) s
        (fun c => { c with tmpl := BitVec.ofNat 16 (x.toNat / 2 ^ 48) }.setX d (BitVec.ofNat 64 (s.cur.tmpl.toNat * 2 ^ 48))) (s.cur.pc + 4)))

/-- A request of the issuing thread to the home of the record or object of n bytes at va reaches key k, with `t` the state in which it leaves (R171, R246). -/
def HomeReached (s : State) (n : Nat) (va : Word) (k : Nat) (t : State) : Prop :=
  let s1 := s.touchTlb s.curCore va
  s.reachScalar .atomic 1 8 va = .ok (.mem k) ∧ s.bpData false false va 8 = false ∧ s.interlocked true va 8 = false ∧
    s.mustFollow s.cur.uid false va 8 (.mem k) = false ∧ s1.badIn k n = none ∧ t = s1.correct k n

/-- JOINW, JDEC, BARRIV and BARWAIT (R257, R261, R262, R274, R275): with their checks passed the request goes to the home of the record or object; JOINW and
BARWAIT keep the unit's peg in a free join slot, for which they wait, and then for the answer, JDEC waits, BARRIV retires. A handler may not suspend:
CHINVAL, which is judged before the address (the model's choice, log 78). A record that is misaligned or in a space with no home ATE is TRUSSBAD, a
misaligned object BARBAD, and BARBAD it is where both hold (log 78, DEDUCED). BARRIV to an address of the system window that no rule names does nothing
(R39). -/
def Obligations.JoinAndBarrierRequestsLeave : Prop :=
  ∀ (s t : State) (d a b : Reg) (ma mb : Bool) (k slot : Nat),
    let va := s.cur.xr a
    let home := 1 ≤ va.toNat / 2 ^ 60 ∧ va.toNat / 2 ^ 60 ≤ 4
    let send := fun (m : State) (op : AteOp) => m.ateSend (ateRank s.curCore s.curThread.val) op
    let waits := fun (m : State) => m.modCur fun x => { x with wait := .answer }
    let peg : Peg := { w := #v[s.cur.pc + 4, s.cur.w1, s.cur.w2, s.cur.xr 1, s.cur.xr 2, s.cur.xr 3, s.cur.xr 4, s.cur.xr 5], enqt := s.gtime s.curCore, enqLcore := s.curK.lcore, stolen := false }
    let joins := fun (barrier : Bool) (phase : Word) => t.modCurK fun c => { c with
      joins := tput c.joins slot { peg := peg, dest := d, va := va, barrier := barrier, phase := phase, value := none, window := 0 } }
    let ready := fun n => HomeReached s n va k t ∧ Quiet t
    let stalls := fun (i : Instr) => exec i s = .next (t.modCur fun x => { x with stall := .join })
    (FullAt s [a, b, d] → s.cur.isHandler = true →
      exec (.joinw d a ma) s = .next (s.trap .chinval) ∧ exec (.barwait d a b ma mb) s = .next (s.trap .chinval)) ∧
    (FullAt s [a, b, d] → s.cur.isHandler = false →
      (va.toNat % 16 ≠ 0 ∨ ¬ home → exec (.joinw d a ma) s = .next (s.trap .trussbad { d0 := va })) ∧
      (va.toNat % 32 ≠ 0 → exec (.barwait d a b ma mb) s = .next (s.trap .barbad { d0 := va })) ∧
      (va.toNat % 32 = 0 → ¬ home → exec (.barwait d a b ma mb) s = .next (s.trap .trussbad { d0 := va })) ∧
      (va.toNat % 16 = 0 → home → ready 16 → ArgsFull t →
        (tfree t.curK.joins 64 = none → stalls (.joinw d a ma)) ∧
        (tfree t.curK.joins 64 = some slot →
          exec (.joinw d a ma) s = .next (waits (send (joins false 0) (.joinw k s.cur.uid s.curCore slot d))))) ∧
      (va.toNat % 32 = 0 → home → ready 32 → ArgsFull t →
        (tfree t.curK.joins 64 = none → stalls (.barwait d a b ma mb)) ∧
        (tfree t.curK.joins 64 = some slot →
          exec (.barwait d a b ma mb) s = .next (waits (send (joins true (s.cur.xr b)) (.barwait k (s.cur.xr b) s.cur.uid s.curCore slot d)))))) ∧
    (FullAt s [a, b] →
      (va.toNat % 16 ≠ 0 ∨ ¬ home → exec (.jdec a b ma mb) s = .next (s.trap .trussbad { d0 := va })) ∧
      (va.toNat % 16 = 0 → home → ready 16 →
        exec (.jdec a b ma mb) s = .next (waits (send t (.jdec k va (s.cur.xr b) s.cur.uid (s.curWindow s.curCore))))) ∧
      (va.toNat % 32 ≠ 0 → va.toNat / 2 ^ 60 < 7 → exec (.barriv a ma) s = .next (s.trap .barbad { d0 := va })) ∧
      (∀ w, va.toNat % 32 = 0 → s.reachScalar .atomic 1 8 va = .ok (.window w) → s.bpData false false va 8 = false → s.interlocked true va 8 = false →
        s.mustFollow s.cur.uid false va 8 (.window w) = false → Quiet (s.touchTlb s.curCore va) →
        RunsTo (exec (.barriv a ma) s) (s.touchTlb s.curCore va) id (s.cur.pc + 4)) ∧
      (va.toNat % 32 = 0 → ready 32 → RunsTo (exec (.barriv a ma) s) (send t (.barriv k (s.curWindow s.curCore))) id (s.cur.pc + 4)))

/-- Join records and barrier objects (R98, R172, R261, R262, R273 to R276): a contribution to a record lowers its count and combines its status; a join at count
0 is answered with the status, and otherwise registers, once; an arrival raises the object's count and, where both counts reach their expectation, the
object advances a phase; a wait for a phase that has passed is answered with the phase, and otherwise registers, up to sixteen. -/
def Obligations.JoinRecordsAndBarrierObjectsCount : Prop :=
  ∀ (s : State) (bay k uid core slot : Nat) (d : Reg) (r : AteReq) (va status phase : Word) (w : Nat),
    s.atePick bay = some r → r.op.loc = k → Memory.wf s.mem = true →
    let m := (s.modBay bay fun y => { y with ate := { y.ate with input := y.ate.input.erase r, nextAt := s.cycle + 1 } }).setHot bay
      ((s.bay bay).ate.touched k)
    let freed := m.modCore core fun c => { c with joins := tdel c.joins slot }
    let named := ((tget (s.core core).joins slot).map (·.va)).getD 0
    let count := s.readLe k 8
    let sum := s.readLe (k + 4) 4 + 1
    let same := fun (t : State) (lo hi : Nat) => ∀ j, j < lo ∨ hi ≤ j → t.byteAt j = s.byteAt j
    let registers := fun (barrier : Bool) (ph : Word) => exec (.ateAccept bay) s = .next ((m.modBay (homeBay k) fun y => { y with ate := { y.ate with
      waiters := y.ate.waiters ++ [{ loc := k, core := core, slot := slot, barrier := barrier, phase := ph }] } }).joinSuspend uid)
    (r.op = .joinw k uid core slot d →
      (count = 0 → exec (.ateAccept bay) s = .next (freed.answer uid fun x => x.setX d (BitVec.ofNat 64 (s.readLe (k + 8) 8)))) ∧
      (count ≠ 0 → (m.bay (homeBay k)).ate.waitersAt k false = [] → s.rootAt k = none → registers false 0) ∧
      (count ≠ 0 → (m.bay (homeBay k)).ate.waitersAt k false ≠ [] ∨ s.rootAt k ≠ none →
        exec (.ateAccept bay) s = .next (freed.answerCause uid .joinbad { d0 := named }))) ∧
    (r.op = .jdec k va status uid w →
      (1 < count → ∃ n t, exec (.ateAccept bay) s = .next t ∧ t = n.answer uid id ∧ n.readLe k 8 = count - 1 ∧
        n.readLe (k + 8) 8 = (combine (BitVec.ofNat 64 (s.readLe (k + 8) 8)) status).toNat ∧ same n k (k + 16)) ∧
      (count = 0 → exec (.ateAccept bay) s = .next (m.answerCause uid .joinbad { d0 := va }))) ∧
    (r.op = .barwait k phase uid core slot d →
      (phase.toNat < s.readLe (k + 24) 8 →
        exec (.ateAccept bay) s = .next (freed.answer uid fun x => x.setX d (BitVec.ofNat 64 (s.readLe (k + 24) 8)))) ∧
      (s.readLe (k + 24) 8 ≤ phase.toNat →
        (((m.bay (homeBay k)).ate.waitersAt k true).length < 16 → registers true phase) ∧
        (16 ≤ ((m.bay (homeBay k)).ate.waitersAt k true).length → exec (.ateAccept bay) s = .next (freed.answerCause uid .barbad { d0 := named })))) ∧
    (r.op = .barriv k w →
      (sum < s.readLe k 4 → ∃ t, exec (.ateAccept bay) s = .next t ∧ t.readLe (k + 4) 4 = sum ∧
        t.readLe (k + 8) 8 = s.readLe (k + 8) 8 ∧ t.readLe (k + 16) 8 = s.readLe (k + 16) 8 ∧ same t (k + 4) (k + 24)) ∧
      (sum = s.readLe k 4 → s.readLe (k + 8) 8 % 2 ^ 48 = 0 → s.readLe (k + 16) 8 = 0 → ∃ t, exec (.ateAccept bay) s = .next t ∧
        t.readLe (k + 4) 4 = 0 ∧ t.readLe (k + 8) 8 = s.readLe (k + 8) 8 ∧ t.readLe (k + 16) 8 = 0 ∧
        t.readLe (k + 24) 8 = (s.readLe (k + 24) 8 + 1) % 2 ^ 64 ∧ same t (k + 4) (k + 32)))

/-- DONE, YIELD and SUSP (R178, R263, R264): with nothing under way the unit retires and ends; a task with a parent sends its record's home a done message
with its status, a handler's message is consumed and its sends leave; a parent outside spaces 1 to 4 is TRUSSBAD; a yielded unit's peg, at pc + 4, joins the ready queue; a suspended one's is stored in 64 bytes, by the loopback port or an ATE where those hold the line.
A formula task's DONE waits for every command of the task (R148). -/
def UnitsEndTheirWay : Prop :=
  ∀ (s : State) (a : Reg) (m : Bool) (k : Nat),
    let c := s.curCore
    let u := s.curThread.val
    let x := s.cur
    let asid := s.curK.asidN
    let settled := fun (t : State) => t.cur.unsettled = false ∧ t.outcomesDue asid t.cur.tid = false ∧ Quiet t
    let tells := fun (t : State) (rec : Nat) => ∃ n, Retired t n (x.pc + 4) ∧
      exec (.done a m) s = .next ((n.ateSend (ateRank c u) (.done rec x.w2 (x.xr a) x.tid asid (s.curWindow c))).endUnit c u 0)
    let peg : Peg := { w := #v[x.pc + 4, x.w1, x.w2, x.xr 1, x.xr 2, x.xr 3, x.xr 4, x.xr 5], enqt := s.gtime c, enqLcore := s.curK.lcore, stolen := false }
    let va := x.xr a
    (FullAt s [a] → settled s → x.kind = .task → x.w2 = 0 → ∃ t, Retired s t (x.pc + 4) ∧ exec (.done a m) s = .next (t.endUnit c u 0)) ∧
    (FullAt s [a] → x.kind = .task → x.w2 ≠ 0 →
      (s.rootRecord asid x.w2 = true → settled s → tells s (hbmKey (x.w2.toNat % 2 ^ 40))) ∧
      (s.rootRecord asid x.w2 = false →
        let home := 1 ≤ x.w2.toNat / 2 ^ 60 ∧ x.w2.toNat / 2 ^ 60 ≤ 4
        (x.w2.toNat % 16 ≠ 0 ∨ ¬ home → exec (.done a m) s = .next (s.trap .trussbad { d0 := x.w2 })) ∧
        (x.w2.toNat % 16 = 0 → home → s.check (s.agent c) .atomic 8 8 x.w2 = .ok (.mem k) → settled (s.touchTlb c x.w2) → tells (s.touchTlb c x.w2) k))) ∧
    (∀ chan hdr len age rseq slc, FullAt s [a] → settled s → x.kind = .handler chan hdr len age rseq slc → s.curK.refSlots + x.sends.length ≤ 256 →
      ∃ t, Retired s t (x.pc + 4) ∧
        exec (.done a m) s = .next (((x.sends.foldl (fun t n => t.leave c n true) t).consumeMsg c hdr).endUnit c u 0)) ∧
    (∀ i age rseq slc, FullAt s [a] → settled s → x.kind = .refusal i age rseq slc → s.curK.refSlots + x.sends.length ≤ 257 →
      ∃ t, Retired s t (x.pc + 4) ∧ exec (.done a m) s =
        .next ((x.sends.foldl (fun t n => t.leave c n true) (t.modCore c fun k => { k with refusals := tdel k.refusals i })).endUnit c u 0)) ∧
    (∀ cell gen, FullAt s [a] → settled s → x.kind = .formula cell gen →
      (s.taskBusy asid x.tid = true → exec (.done a m) s = .next s) ∧
      (s.taskBusy asid x.tid = false →
        ∃ t, Retired s t (x.pc + 4) ∧ exec (.done a m) s = .next ((t.formulaDone asid cell gen x.tid).endUnit c u 0))) ∧
    (x.isHandler = false → ArgsFull s → s.outcomesDue asid x.tid = false → Quiet s →
      ∃ t, Retired s t (x.pc + 4) ∧ exec .yield s = .next ((t.suspendUnit c u 2).readyItem c (s.gtime c) (.peg peg))) ∧
    (FullAt s [a] → x.isHandler = false → ArgsFull s → s.outcomesDue asid x.tid = false → Quiet s → 1 ≤ va.toNat / 2 ^ 60 → va.toNat / 2 ^ 60 ≤ 4 →
      s.reach .store 64 64 va = .ok (.mem k) → s.interlocked true va 64 = false → (s.ownName va && s.curK.loopFull) = false → s.badPartly k 64 = none →
      let bytes := peg.w.toList.flatMap fun w => leBytes 8 w.toNat
      let stored := (s.touchTlb c va).wideStore va k bytes
      (s.ownName va = false → (s.touchTlb c va).lineHeld k = false → stored = (s.touchTlb c va).writeBytes k bytes) ∧
      ∃ t, Retired stored t (x.pc + 4) ∧ exec (.susp a m) s = .next (t.suspendUnit c u 1)) ∧
    (FullAt s [a] → x.isHandler = true → exec .yield s = .next (s.trap .chinval) ∧ exec (.susp a m) s = .next (s.trap .chinval)) ∧
    (∀ (t : State) (core thread code : Nat), thread < 5 →
      let e := t.endUnit core thread code
      (e.thr core thread).running = false ∧ (e.ctx core thread).kind = .none ∧ (e.ctx core thread).watches = [] ∧
        ∀ i j, (i, j) ≠ (core, thread) → e.thr i j = t.thr i j)

/-- The combination of two status words (R170): the larger SEV, the bitwise OR of FLAGS, the sum of COUNT saturating at 0xFFFF_FFFF; it is commutative and associative, and bits [63:56], [55:32] and [31:0] are the whole word. -/
def StatusWordsCombine : Prop :=
  ∀ a b c : Word,
    (combine a b).toNat / 2 ^ 56 = max (a.toNat / 2 ^ 56) (b.toNat / 2 ^ 56) ∧
    (combine a b).extractLsb' 32 24 = (a.extractLsb' 32 24 ||| b.extractLsb' 32 24) ∧
    (combine a b).toNat % 2 ^ 32 = min (a.toNat % 2 ^ 32 + b.toNat % 2 ^ 32) 0xFFFFFFFF ∧
    combine a b = combine b a ∧ combine (combine a b) c = combine a (combine b c)

/-- Units end, and status words combine (R170, R178, R263, R264). -/
def Obligations.UnitsEnd : Prop := UnitsEndTheirWay ∧ StatusWordsCombine

/-- Values reach their registers (R193, R196, R249): the unit's producer or ended watch writes its value, the register is full, and the value is no longer
on its way. -/
def Obligations.ArrivingValuesFillTheirRegisters : Prop :=
  ∀ (s : State) (core thread : Nat) (r : Reg) (v : Word), r ≠ 0 → thread < 5 → (s.thr core thread).running = true →
    let x := s.ctx core thread
    let filled := fun (t : State) => (t.ctx core thread).xr r = v ∧ (t.ctx core thread).isFull r = true ∧
      (∀ q, q ≠ r → (t.ctx core thread).xr q = x.xr q ∧ (t.ctx core thread).isFull q = x.isFull q) ∧ t.mem = s.mem
    (x.producers.find? (fun p => p.1 == r.toNat) = some (r.toNat, v) →
      ∃ t, exec (.registerFill x.uid r.toNat) s = .next t ∧ filled t ∧ (t.ctx core thread).producers = x.producers.erase (r.toNat, v)) ∧
    (∀ f, x.watchFills.find? (fun p => p.reg == r.toNat) = some f → f.value = v →
      ∃ t, exec (.watchFill x.uid r.toNat) s = .next t ∧ filled t ∧ (t.ctx core thread).watchFills = x.watchFills.erase f)

/-- Idle threads find work (R163, R164, R169, R179): the more urgent of the ready queue's first entry and the deque's newest peg, the queue's where they are equal;
a thief takes the oldest peg that its owner's domain lets it take. A task starts at the peg's entry with the peg's words in x1 to x5. -/
def IdleThreadsTakeWork : Prop :=
  ∀ (s : State) (core thread victim : Nat), s.mayTake core thread = true →
    let k := s.core core
    let read := fun (c : Nat) (p : Peg) => s.fetchPeg c p
    let newest := fun (p : Peg) =>
      ((((read core p).2.modCore core fun k => { k with deque := k.deque.drop 1 }).settleDeque core).startTask core thread (read core p).1).dropPull core
    (∀ e, k.firstReady = some e → k.deque = [] → exec (.takeWork core thread) s = .next ((s.takeReady core thread e).dropPull core)) ∧
    (∀ e p r, k.firstReady = some e → k.deque = p :: r → p.pri ≤ k.urgency e.item →
      exec (.takeWork core thread) s = .next ((s.takeReady core thread e).dropPull core)) ∧
    (∀ e p r, k.firstReady = some e → k.deque = p :: r → k.urgency e.item < p.pri → exec (.takeWork core thread) s = .next (newest p)) ∧
    (∀ p r, k.firstReady = none → k.deque = p :: r → exec (.takeWork core thread) s = .next (newest p)) ∧
    (∀ p r, (s.launchOf core).deterministic = false → k.ready = [] → k.deque = [] → victim ≠ core → (s.core victim).asid = k.asid →
      takeOldest (fun q => q.stealable victim core) (s.core victim).deque = some (p, r) →
      exec (.steal core thread victim) s = .next ((((((read victim p).2.modCore victim fun k => { k with deque := r }).settleDeque victim).modCore core fun k =>
        { k with stealOk := satN 64 (k.stealOk + 1) }).startTask core thread { (read victim p).1 with stolen := true }).dropPull core)) ∧
    (∀ (p : Peg), thread < 5 → (vget p.w 1 0).toNat < 2 ^ 58 → p.sdom < 4 →
      let t := s.startTask core thread p
      let x := t.ctx core thread
      (t.thr core thread).running = true ∧ x.pc = vget p.w 0 0 ∧ x.w1 = vget p.w 1 0 ∧ x.w2 = vget p.w 2 0 ∧
        (∀ i, 1 ≤ i → i ≤ 5 → vget x.x i 0 = vget p.w (i + 2) 0) ∧ x.fctl = (s.launchOf core).fctl0 ∧ x.warn = (s.launchOf core).warn0 ∧
        (∀ r, x.isFull r = true) ∧ t.mem = s.mem)

/-- Done messages and wakes (R70, R172, R261, R275, R276): a done message, in its turn at the record's home, counts there; one that finds count 0 is
noticed; a wake that reaches its core, outside deterministic launches, puts the saved peg with its value into the ready queue and frees the join slot.
That a message which meets an uncorrectable error is noticed and not counted is the model's reading (log 75). -/
def DoneMessagesAndWakesArrive : Prop :=
  ∀ (s : State) (bay k tid asid w core slot : Nat) (r : AteReq) (rec status : Word) (j : JoinSlot) (v : Word),
    let m := (s.modBay bay fun y => { y with ate := { y.ate with input := y.ate.input.erase r, nextAt := s.cycle + 1 } }).setHot bay
      ((s.bay bay).ate.touched k)
    let value := if 1 ≤ j.dest.toNat ∧ j.dest.toNat ≤ 5 then vset j.peg.w (j.dest.toNat + 2) v else j.peg.w
    let woken := .next ((s.modCore core fun k => { k with joins := tdel k.joins slot }).readyItem core (s.gtime core)
      (.peg { j.peg with w := value, enqt := s.gtime core }))
    (s.atePick bay = some r → r.op = .done k rec status tid asid w →
      (m.badIn k 16 ≠ none → exec (.doneMessage bay) s = .next ((m.logRange k 16).notice (keyDie k) .eccunc asid 0 tid)) ∧
      (m.badIn k 16 = none →
        (s.readLe k 8 = 0 → exec (.doneMessage bay) s = .next ((m.correct k 16).notice (keyDie k) .joinbad asid 0 tid)) ∧
        (s.readLe k 8 ≠ 0 → ∃ t, exec (.doneMessage bay) s = .next t ∧ (m.correct k 16).contribute k status w = some t))) ∧
    ((s.core core).receives = true → (s.launchOf core).deterministic = false → tget (s.core core).joins slot = some j → j.value = some v →
      exec (.joinWake core slot) s = woken ∧ exec (.barrierWake core slot) s = woken)

/-- Work for idle threads, done messages and wakes (R163, R164, R169, R172, R179, R261, R275, R276). -/
def Obligations.IdleThreadsTakeWorkAndWakesArrive : Prop := IdleThreadsTakeWork ∧ DoneMessagesAndWakesArrive


/-! ## Messages -/

/-- SEND and REPLY (R175, R181, R185, R266 to R268): a good descriptor's payload bytes leave for the target with the sender's task id, LCORE and next SEQ, a refusal
slot is held and, in a deterministic launch, the window's quota is used; a handler's message waits in its buffer until its end.
With every refusal slot in use the message, as it was read, waits for one; with no room in the park region it waits at its core (R185). The causes come in
the order MSGSIZE, ACCESS, CHINVAL, QFULL, SENDOVF: that REPLY outside a handler is judged with the third check, and SENDOVF after the first four, is the
model's reading (log 8, DEDUCED). -/
def Obligations.MessagesLeaveTheirSender : Prop :=
  ∀ (s : State) (a b : Reg) (chan : BitVec 8) (ma mb : Bool) (bs : List Byte) (t : Nat) (q : Msg), FullAt s [a, b] →
    let desc := s.cur.xr b
    let len := desc.toNat / 2 ^ 32 % 512
    let off := desc.toNat % 2 ^ 17
    let bad := 2 ^ 41 ≤ desc.toNat ∨ desc.toNat / 2 ^ 17 % 2 ^ 15 ≠ 0 ∨ len < 16 ∨ 256 < len ∨ len % 16 ≠ 0
    let outside := off % 16 ≠ 0 ∨ 131072 < off + len - 16
    let c := s.curCore
    let l := s.launchOf c
    let w := s.curWindow c
    let used := tgetD s.curK.det.quota w 0
    let m : Msg :=
      { kind := 0, chan := chan.toNat, stid := s.cur.tid, seq := 0, slc := s.curK.lcore, payload := bs, fromCore := c, fromThread := s.curThread.val, fromUid := s.cur.uid, target := t, window := w }
    let s1 := s.aliasNote c off (len - 16)
    let s2 := s1.countQuota c m
    let numbered := { m with seq := s2.curK.sendSeq }
    let s3 := s2.modCore c fun k => { k with sendSeq := (k.sendSeq + 1) % 2 ^ 32, refOut := k.refOut + 1 }
    let sent := if s3.parkFull c numbered then s3.modCore c fun k => { k with det := { k.det with waiting := k.det.waiting ++ [numbered] } }
      else s3.modCore t fun k => { k with inbound := k.inbound ++ [numbered] }
    let both : List (Instr × Option Nat) := [(.send a b chan ma mb, s.namedCore (s.cur.xr a)), (.reply b chan mb, s.replyTo.bind fun x => s.lcoreCore s.curK.asidN x)]
    ∀ e ∈ both,
      (s.cur.stall = .send q → let n := { q with window := w }
        (256 ≤ s.curK.refSlots → exec e.1 s = .next s) ∧
        (s.curK.refSlots < 256 → RunsTo (exec e.1 s) ((s.countQuota c n).leave c n true) id (s.cur.pc + 4))) ∧
      ((∀ n, s.cur.stall ≠ .send n) →
      (bad → exec e.1 s = .next (s.trap .msgsize)) ∧
      (¬ bad → outside → exec e.1 s = .next (s.trap .access { d0 := BitVec.ofNat 64 off, d1 := BitVec.ofNat 64 (len - 16) })) ∧
      (¬ bad → ¬ outside → e.2 = none ∨ chan.toNat = 255 → exec e.1 s = .next (s.trap .chinval)) ∧
      (¬ bad → ¬ outside → e.2 = some t → chan.toNat ≠ 255 →
        (l.deterministic = true → l.quota < used + len → exec e.1 s = .next (s.trap .qfull)) ∧
        (l.deterministic = false ∨ used + len ≤ l.quota →
          (s.cur.isHandler = true → 8 ≤ s.cur.sends.length → exec e.1 s = .next (s.trap .sendovf)) ∧
          ((s.cur.isHandler = true ∧ s.cur.sends.length < 8) ∨ (s.cur.isHandler = false ∧ Quiet s) → s.interlocked false (BitVec.ofNat 64 off) (len - 16) = false →
            (∀ f g, s.aliasBytes c off (len - 16) = .error (f, g) → exec e.1 s = .next ((if f = .eccunc then s1 else s).trap f g)) ∧
            (s.aliasBytes c off (len - 16) = .ok bs →
              (s.cur.isHandler = true → RunsTo (exec e.1 s) s2 (fun x => { x with sends := x.sends ++ [m] }) (s.cur.pc + 4)) ∧
              (s.cur.isHandler = false →
                (256 ≤ s.curK.refSlots → exec e.1 s = .next (s1.modCur fun x => { x with stall := .send m })) ∧
                (s.curK.refSlots < 256 → RunsTo (exec e.1 s) sent id (s.cur.pc + 4))))))))

/-- CHSET, CHBLK, CHUNBLK and MBQ (R173, R265, R269, R270, R272): CHSET writes the channel's entry and routes and sorts its waiting messages; a block request goes to
its target and its instruction waits, but on the own core of a deterministic launch is applied at once; MBQ gives the channel's counts and the free room.
A bad entry, route, query or core is CHINVAL. -/
def Obligations.ChannelsAreSetAndQueried : Prop :=
  ∀ (s : State) (d a b : Reg) (chan : BitVec 8) (ma mb : Bool) (t : Nat),
    let e := s.cur.xr a
    let r := s.cur.xr b
    let n := chan.toNat
    let det := (s.launchOf s.curCore).deterministic
    let valid := e.getLsbD 63
    let bad := e.toNat / 2 ^ 48 % 2 ^ 11 ≠ 0 ∨ (valid = true ∧ e.toNat % 4 ≠ 0) ∨ 4 ≤ r.toNat ∨ (r.toNat ≠ 0 ∧ (n = 255 ∨ valid = false))
    let request := fun (kind : Nat) =>
      ({ kind := kind, chan := n, stid := s.cur.tid, seq := 0, slc := s.curK.lcore, payload := [], fromCore := s.curCore, fromThread := s.curThread.val, fromUid := s.cur.uid, target := t, window := s.curWindow s.curCore } : Msg)
    (FullAt s [a, b] → bad → exec (.chset a b chan ma mb) s = .next (s.trap .chinval)) ∧
    (FullAt s [a, b] → ¬ bad → RunsTo (exec (.chset a b chan ma mb) s) ((s.modCurK fun k =>
        ({ k with chans := tput k.chans n e } : Core).setRoutes n (valid = true) r).modCurK fun k => if det then k.resortOwed n else k.resort n)
      id (s.cur.pc + 4)) ∧
    (FullAt s [a] → s.namedCore e = none → exec (.chblk a chan ma) s = .next (s.trap .chinval) ∧ exec (.chunblk a chan ma) s = .next (s.trap .chinval)) ∧
    (FullAt s [a] → s.namedCore e = some t →
      (det = true → t = s.curCore → RunsTo (exec (.chblk a chan ma) s) (s.applyBlk t n true) id (s.cur.pc + 4) ∧
        RunsTo (exec (.chunblk a chan ma) s) (s.applyBlk t n false) id (s.cur.pc + 4)) ∧
      (det = false → ∀ i ∈ [(Instr.chblk a chan ma, 1), (.chunblk a chan ma, 2)],
        exec i.1 s = .next ((s.modCore t fun k => { k with inbound := k.inbound ++ [request i.2] }).modCur fun x => { x with wait := .answer })) ∧
      (det = true → t ≠ s.curCore → ∀ i ∈ [(Instr.chblk a chan ma, 1), (.chunblk a chan ma, 2)],
        exec i.1 s = .next ((s.leave s.curCore (request i.2) false).modCur fun x => { x with wait := .answer }))) ∧
    (FullAt s [a, d] → 256 ≤ e.toNat → exec (.mbq d a ma) s = .next (s.trap .chinval)) ∧
    (FullAt s [a, d] → e.toNat < 256 →
      let v := if det then s.curK.det.view else s.curK.mbView
      let parked := if det then min (tgetD v.park e.toNat 0) (2 ^ 16 - 1) else 0
      RunsTo (exec (.mbq d a ma) s) s (producing d (BitVec.ofNat 64 (min (tgetD v.wait e.toNat 0) (2 ^ 16 - 1) * 2 ^ 48 + v.free / 16 % 2 ^ 16 * 2 ^ 32 +
        parked * 2 ^ 16 + v.slots % 2 ^ 9))) (s.cur.pc + 4))

/-- A message that arrives (R174, R177, R181, R185, R410): on a core that receives, outside deterministic launches, it is placed in the ring at the tail, header and
payload, the room it takes is used, and it waits for a thread, or on a blocked channel until that opens (R173); one that passes the end of the ring is placed
at its base, behind a pad record of the rest; without a ring or a valid channel, or without room, the core
refuses it with a reason of R181; in a deterministic launch it is parked; a core without a context refuses it and sends a notice. -/
def ArrivingMessagesArePlacedOrRefused : Prop :=
  ∀ (s : State) (core : Nat) (m : Msg) (rest : List Msg), (s.core core).inbound = m :: rest → (s.core core).migrating = none → Memory.wf s.mem = true →
    let k := s.core core
    let s1 := s.modCore core fun k => { k with inbound := rest }
    let refused := fun (reason : Nat) => (s1.modCore core fun k => { k with msgRefused := satN 64 (k.msgRefused + 1) }).sendRefusal k.asidN m.slc (m.refusal reason k.lcore 0)
    let det := (s.launchOf core).deterministic
    let tail := k.mbBase + (k.mbHead - k.mbBase + k.mbUsed) % k.mbSize
    let top := k.mbBase + k.mbSize
    let n := m.payload.length + 16
    let placed := fun (t : State) (off : Nat) => (t.core core).msgPlaced = satN 64 (k.msgPlaced + 1) ∧
      (k.chanOpen m.chan = true → (∃ e ∈ (t.core core).ready, e.item = .msg m.chan off n) ∧ (t.core core).heldMsgs = k.heldMsgs) ∧
      (k.chanOpen m.chan = false → (∃ e ∈ (t.core core).heldMsgs, e.item = .msg m.chan off n) ∧ (t.core core).ready = k.ready)
    (k.holds = true → det = false → m.kind = 0 →
      (k.mbSize = 0 → exec (.messageArrival core) s = .next (refused 2)) ∧
      (k.mbSize ≠ 0 → k.chanV m.chan = false → exec (.messageArrival core) s = .next (refused 1)) ∧
      (k.mbSize ≠ 0 → k.chanV m.chan = true → k.mbSize - k.mbUsed < m.payload.length + 16 → exec (.messageArrival core) s = .next (refused 0)) ∧
      (k.mbSize ≠ 0 → k.chanV m.chan = true → tail + n ≤ top → n ≤ k.mbSize - k.mbUsed →
        ∃ t, exec (.messageArrival core) s = .next t ∧ t.bytesAt (scratchKey core tail) n = m.bytes ∧
          (t.core core).mbUsed = k.mbUsed + n ∧ placed t tail ∧
          ∀ j, j < scratchKey core tail ∨ scratchKey core tail + n ≤ j → t.byteAt j = s.byteAt j) ∧
      (k.mbSize ≠ 0 → k.chanV m.chan = true → top ≤ 131072 → 16 ≤ top - tail → top < tail + n → top - tail + n ≤ k.mbSize - k.mbUsed →
        ∃ t, exec (.messageArrival core) s = .next t ∧ t.bytesAt (scratchKey core k.mbBase) n = m.bytes ∧
          t.readLe (scratchKey core tail) 8 / 2 ^ 52 % 16 = 1 ∧ t.readLe (scratchKey core tail) 8 % 2 ^ 48 = top - tail ∧
          (t.core core).mbUsed = k.mbUsed + (top - tail) + n ∧ placed t k.mbBase ∧
          ∀ j, j < scratchKey core k.mbBase ∨ scratchKey core k.mbBase + n ≤ j → j < scratchKey core tail ∨ scratchKey core tail + 16 ≤ j →
            t.byteAt j = s.byteAt j)) ∧
    (k.holds = true → det = true →
      exec (.messageArrival core) s = .next (s1.modCore core fun k => { k with det := { k.det with parked := k.det.parked ++ [m] } })) ∧
    (k.holds = true → det = false → m.kind ≠ 0 → exec (.messageArrival core) s = .next ((s1.applyBlk core m.chan (m.kind == 1)).answer m.fromUid id)) ∧
    (k.holds = false → k.scarf = none → exec (.messageArrival core) s =
      .next ((s1.noticeOf m.fromCore .migrate m.stid).sendRefusal (s.core m.fromCore).asidN m.slc (m.refusal 1 k.lcore 0)))

/-- Refusals and window closes (R181, R184, R185): a refusal takes a free slot of its sender and waits for channel 255, or is noticed where that channel is not valid;
in a deterministic launch it is parked. A window closes once every core of the launch has ended its quanta and nothing of it is on its way. -/
def RefusalsReturnAndWindowsClose : Prop :=
  ∀ (s : State) (core : Nat) (r : RefusalMsg) (rest : List RefusalMsg),
    let arrives := (s.core core).refIn = r :: rest ∧ (s.core core).receives = true
    let s1 := s.modCore core fun k => { k with refIn := rest }
    let det := (s.launchOf core).deterministic
    let s2 := s1.modCore core fun k => { k with refOut := k.refOut - 1 }
    (arrives → det = true → exec (.refusalArrival core) s = .next (s1.modCore core fun k => { k with det := { k.det with parkedRef := k.det.parkedRef ++ [r] } })) ∧
    (arrives → det = false → (s.core core).chanV 255 = false → exec (.refusalArrival core) s = .next (s2.noticeOf core .sendovf (r.hdr0.toNat % 2 ^ 48))) ∧
    (∀ i, arrives → det = false → (s.core core).chanV 255 = true → tfree (s.core core).refusals 256 = some i →
      let others := (s.core core).det.owedRef.filter (· ≠ i)
      let owed := if (s.core core).chanOpen 255 = true then i :: others else others
      exec (.refusalArrival core) s =
        .next ((s2.modCore core fun k => { k with refusals := tput k.refusals i r, det := { k.det with owedRef := owed } }).queueItem core 255 (.refusal i))) ∧
    (s.mayClose core = true → ∃ t, exec (.windowClose core) s = .next t ∧ t = s.closeWindow core ∧ (t.core core).det.closed = (s.core core).det.closed + 1 ∧
      (t.core core).det.view = (t.core core).mbView) ∧
    (s.mayClose core = true → det = true ∧ (s.core core).det.owed = [] ∧ s.contributing (s.core core).asidN (s.core core).det.closed = false ∧
      s.unparked (s.core core).asidN core (s.core core).det.closed = false ∧ s.mayRefuse (s.core core).asidN core (s.core core).det.closed = false ∧
      ∀ i ∈ s.launchCores (s.core core).asidN, ((s.core core).det.closed + 1) * (s.launchOf core).winQuanta ≤ (s.core i).det.ended)

/-! ## Sheet cells -/

/-- The cell requests (R144, R159, R258, R279, R280, R283, R285): with the descriptor or operands checked, the request is served by the SDIR: where it answers a value or none
the instruction completes, where it answers a cause it stops, where it does not accept the request the instruction waits, a binding's as one that the SDIR keeps; in a deterministic launch the
request is kept for the end of the quantum. -/
def Obligations.CellRequestsAreServed : Prop :=
  ∀ (s : State) (d a b : Reg) (ma mb : Bool) (k : Nat) (ks : List Nat), FullAt s [a, b, d] →
    let asid := s.curK.asidN
    let det := (s.launchOf s.curCore).deterministic
    let served := fun (i : Instr) (s0 : State) (dest : Reg) (fn : Nat) (x y : Word) (desc : List Word) =>
      let q : QReq := { core := s.curCore, thread := s.curThread.val, uid := s.cur.uid, lcore := s.curK.lcore, quantum := s.curK.det.quantum, dest := dest, op := .cell fn x y desc }
      let kept := fun (t : State) => t.modPart asid fun p => { p with qreqs := p.qreqs ++ [q] }
      let waits := fun (t : State) => t.modCur fun c => { c with wait := .answer }
      (s0.accessesOut s.cur.uid = true → exec i s = .next s0) ∧
      (Quiet s0 →
      (det = true → exec i s = .next ((kept s0).modCur fun c => { c with wait := .quantum })) ∧
      (det = false → ∀ t, s0.cellServe asid q fn x y desc = .ans (.done t) → exec i s = .next (t.pump asid).retire) ∧
      (det = false → ∀ t v, s0.cellServe asid q fn x y desc = .ans (.x v t) → exec i s = .next ((t.pump asid).modCur fun c => c.setX dest v).retire) ∧
      (det = false → ∀ t c e, s0.cellServe asid q fn x y desc = .ans (.cause c e t) → exec i s = .next ((t.pump asid).trap c e)) ∧
      (det = false → ∀ t, s0.cellServe asid q fn x y desc = .wait t → exec i s = .next t) ∧
      (det = false → ∀ t, s0.cellServe asid q fn x y desc = .hold t → exec i s = .next (waits (kept t))) ∧
      (det = false → ∀ t, s0.cellServe asid q fn x y desc = .later t → exec i s = .next (waits t)))
    let va := s.cur.xr a
    let w := s.cur.xr b
    let n := w.toNat / 2 ^ 32 % 2 ^ 18
    let off := w.toNat % 2 ^ 17
    let s1 := s.touchTlb s.curCore w
    let desc := wordsOf (ks.flatMap fun p => (List.range 16).map fun j => s1.seenByte s.cur.uid threadSeq (p + j))
    let read := fun align len => s.cur.wide = [] ∧ s.cur.redo = none ∧ s.reachNew .load align len w = .ok (.mem k) ∧ s.wideKeys w (len / 16) = .ok ks ∧
      s.interlocked false w len = false ∧ s.amoOut s.cur.uid = false ∧
      ∀ p ∈ ks, s.meetsOut s.cur.uid p 16 = false ∧ s.turnWait s.cur.uid threadSeq p (s.ownName w) = false ∧ s1.badIn p 16 = none
    let s2 := (ks.foldl (fun t p => t.correct p 16) s1).dropTurns s.cur.uid threadSeq
    (read 32 32 → served (.cdef a b ma mb) s2 0 0 va 0 desc) ∧
    (read 16 80 → served (.cbind a b ma mb) s2 0 1 va 0 desc) ∧
    served (.cunbind a ma) s 0 2 va 0 [] ∧
    (va.toNat / 2 ^ 52 ≠ 0x600 → exec (.cst a b ma mb) s = .next (s.trap .access { d0 := va, d1 := BitVec.ofNat 64 n })) ∧
    (va.toNat / 2 ^ 52 = 0x600 → 2 ^ 50 ≤ w.toNat ∨ w.toNat / 2 ^ 17 % 2 ^ 15 ≠ 0 ∨ n = 0 ∨ 131072 < n →
      exec (.cst a b ma mb) s = .next (s.trap .cellshape { d0 := BitVec.ofNat 64 (va.toNat / 2 ^ 32 % 2 ^ 20) })) ∧
    (va.toNat / 2 ^ 52 = 0x600 → w.toNat < 2 ^ 50 → w.toNat / 2 ^ 17 % 2 ^ 15 = 0 → 1 ≤ n → n ≤ 131072 → off + n ≤ 131072 →
      s.interlocked false (BitVec.ofNat 64 off) n = false → served (.cst a b ma mb) s 0 3 va w []) ∧
    served (.commit d) s d 6 0 0 [] ∧ served (.abandon d) s d 7 0 0 []

/-- What the SDIR does at the acceptance of a request (R135, R138, R139, R144, R159, R283, R284): an id with an entry, or none, is CELLBAD; a binding change waits for the close of
the open generation; COMMIT closes it, or waits behind the recalculating one, and a second waiting commit is GENLIMIT; a COMMIT behind requests that wait takes its place
behind them. ABANDON with nothing recalculating, or once the notice is sent, answers 0. CSTAT answers the cell's state and changes nothing. That a CUNBIND is
accepted whatever the number of binding changes that wait is the model's choice (log 68; R140 and R279 limit CBIND). -/
def TheSheetDirectoryServesRequests : Prop :=
  ∀ (s : State) (asid uid : Nat) (kind : UnitKind) (d a : Reg) (m : Bool) (va : Word) (desc : List Word) (c : Cell),
    let sd := (s.part asid).sdir
    let openGen := if sd.recalc then sd.pgen + 2 else sd.pgen + 1
    let put := fun (f : Sdir → Sdir) => s.modPart asid fun p => { p with sdir := f p.sdir }
    (2 ^ 20 ≤ va.toNat ∨ (tget sd.cells va.toNat).isSome → s.cdefServe asid va desc = .ans (.cause .cellbad { d0 := va } s)) ∧
    (tget sd.cells va.toNat = none → s.cbindServe asid va desc = .ans (.cause .cellbad { d0 := va } s) ∧ s.cunbindServe asid va = .ans (.cause .cellbad { d0 := va } s)) ∧
    (tget sd.cells va.toNat = some c → s.cunbindServe asid va = .ans (.done (put fun e => { e with
      cells := tmod e.cells va.toNat fun c => { c with waiting := (c.waiting.filter fun w => w.1 ≠ openGen) ++ [(openGen, { entry := none, prec := [] })] } }))) ∧
    (sd.waitc = true → s.commitServe asid = .ans (.cause .genlimit {} s)) ∧
    (∀ q x y words, s.commitBlocked asid q.uid = true → s.cellServe asid q 6 x y words = .wait (s.queueSdir asid q.uid)) ∧
    (sd.waitc = false → sd.recalc = true → s.commitServe asid = .ans (.x (BitVec.ofNat 64 openGen) (put fun e => { e with waitc := true }))) ∧
    (sd.waitc = false → sd.recalc = false → s.commitServe asid = .ans (.x (BitVec.ofNat 64 openGen) (put fun e => { e with
      recalc := true, closedGen := false, notice := none, acks := [], released := false }))) ∧
    (sd.recalc = false ∨ sd.notice.isSome = true → s.abandonServe asid uid kind d = .ans (.x 0 s)) ∧
    (asid = s.curK.asidN → FullAt s [a, d] →
      let id := (s.cur.xr a).toNat
      let state := match c.state with | .idle => 0 | .written => 1 | .closed => 2 | .stale => 3 | .ready => 4 | .running => 5 | .done => 7 | .faulted => 6
      (tget sd.cells id = some c → id < 2 ^ 63 → RunsTo (exec (.cstat d a m) s) s (fun x => x.setX d (BitVec.ofNat 64 (state * 2 ^ 60 +
        (if c.bind.entry.isSome then 2 ^ 59 else 0) + (if c.waiting.isEmpty then 0 else 2 ^ 58) + (if c.bufA.toNat / 2 ^ 60 = 4 then 2 ^ 57 else 0) +
        max (c.tagA.getD 0) (c.tagB.getD 0) % 2 ^ 48))) (s.cur.pc + 4)) ∧
      (tget sd.cells id = none → id < 2 ^ 63 → exec (.cstat d a m) s = .next (s.trap .cellbad { d0 := s.cur.xr a })) ∧
      (id = 2 ^ 63 → RunsTo (exec (.cstat d a m) s) s (fun x => x.setX d sd.shgen) (s.cur.pc + 4)))

/-- CSNAP and CLD (R150, R156, R281, R282): an opening form takes the lowest free slot, a fifth is GENLIMIT; it binds at once, or, a fresh one while a generation recalculates and an explicit one of a
generation to come, leaves its register empty until it does, the explicit one with an entry in the in-flight table; closing answers the handle and frees the
slot, and what becomes of a CSNAP whose snapshot is closed unbound is the model's choice (log 23): its register is filled with 0. CLD reads up to 8 bytes of
the buffer that its generation selects, or stops with the first of its causes. -/
def Obligations.SnapshotsOpenCloseAndRead : Prop :=
  ∀ (s : State) (d a b : Reg) (ma mb : Bool) (slot g k : Nat) (c : Cell), FullAt s [a, b, d] →
    let w := s.cur.xr a
    let sd := (s.part s.curK.asidN).sdir
    let handle := fun (i gen : Nat) => BitVec.ofNat 64 (2 ^ 63 + i * 2 ^ 48 + gen % 2 ^ 48)
    let opened := fun (n : Snap) (x : Ctx) => { x with snaps := vset x.snaps slot (some n) }
    let aged := { s with nextAge := s.nextAge + 1 }
    let current : Snap := { gen := some g, mode := 0, want := 0, dest := d, pc := s.cur.pc, order := s.nextAge }
    let i := Instr.csnap d a ma
    let now := w = 0 ∨ (w.toNat = 2 ^ 62 ∧ sd.recalc = false)
    let unbound : Snap := { current with gen := none }
    let entry : InFlight := { addr := s.cur.pc, seq := s.cur.opSeq, hid := 0, token := d, cause := none, kind := 6, late := false, state := 0 }
    ((∀ j < 4, vget s.cur.snaps j none ≠ none) → now → exec i s = .next (s.trap .genlimit)) ∧
    (s.cur.freeSnap = some slot → now → s.bindCurrent s.curCore = some g →
      RunsTo (exec i s) aged (fun x => producing d (handle slot g) (opened current x)) (s.cur.pc + 4)) ∧
    (s.cur.freeSnap = some slot → now → s.bindCurrent s.curCore = none →
      RunsTo (exec i s) aged (fun x => (opened unbound x).markEmpty d) (s.cur.pc + 4)) ∧
    (s.cur.freeSnap = some slot → w.toNat = 2 ^ 62 → sd.recalc = true →
      RunsTo (exec i s) aged (fun x => (opened { unbound with mode := 1, want := sd.pgen + 1 } x).markEmpty d) (s.cur.pc + 4)) ∧
    (s.cur.freeSnap = some slot → w.toNat = 2 ^ 63 + g → g < 2 ^ 48 → sd.pgen < g → g ≤ sd.openGen →
      RunsTo (exec i s) aged (fun x => ({ opened { unbound with mode := 2, want := g } x with ops := x.ops ++ [entry], opSeq := x.opSeq + 1 } : Ctx).markEmpty d)
        (s.cur.pc + 4)) ∧
    (s.cur.freeSnap = some slot → w.toNat = 2 ^ 63 + g → g < 2 ^ 48 → sd.openGen < g → exec i s = .next (s.trap .genlimit)) ∧
    (s.cur.freeSnap = some slot → w.toNat = 2 ^ 63 + g → g < 2 ^ 48 → g ≤ sd.pgen →
      RunsTo (exec i s) aged (fun x => producing d (handle slot g) (opened { current with mode := 2, want := g } x)) (s.cur.pc + 4)) ∧
    (∀ j < 4, ∀ n, vget s.cur.snaps j none = some n → n.gen = some g → w.toNat = 3 * 2 ^ 62 + j →
      RunsTo (exec i s) s (fun x => { x with snaps := vset x.snaps j none }.setX d (handle j g)) (s.cur.pc + 4)) ∧
    (∀ j < 4, vget s.cur.snaps j none = none → w.toNat = 3 * 2 ^ 62 + j → RunsTo (exec i s) s (fun x => x.setX d 0) (s.cur.pc + 4)) ∧
    (∀ j < 4, ∀ n, vget s.cur.snaps j none = some n → n.gen = none → w.toNat = 3 * 2 ^ 62 + j →
      RunsTo (exec i s) s (fun x => ({ x with
        snaps := vset x.snaps j none, producers := if n.dest = 0 then x.producers else x.producers ++ [(n.dest.toNat, 0)]
        ops := x.ops.map fun o => if o.kind = 6 ∧ o.addr = n.pc ∧ o.state < 2 then { o with state := 2 } else o } : Ctx).setX d 0) (s.cur.pc + 4)) ∧
    (let cld := Instr.cld d a b ma mb
      let id := w.toNat / 2 ^ 32 % 2 ^ 20
      let off := w.toNat % 2 ^ 32
      let stops := fun (cause : Cause) => exec cld s = .next (s.trap cause { d0 := BitVec.ofNat 64 id })
      (w.toNat / 2 ^ 52 ≠ 0x600 → exec cld s = .next (s.trap .access { d0 := w, d1 := 8 })) ∧
      (w.toNat / 2 ^ 52 = 0x600 → off % 8 ≠ 0 → exec cld s = .next (s.trap .ldalign { d0 := w, d1 := 8 })) ∧
      (w.toNat / 2 ^ 52 = 0x600 → off % 8 = 0 → (tget sd.cells id = none → stops .cellbad) ∧
        (tget sd.cells id = some c → s.cur.redo = none →
          (s.selGen (s.cur.xr b) = none → stops (if c.bytes ≤ off then .cellshape else .snapold)) ∧
          (s.selGen (s.cur.xr b) = some none → exec cld s = .next s) ∧
          (s.selGen (s.cur.xr b) = some (some g) → g < c.cgen → stops .cellbad) ∧
          (s.selGen (s.cur.xr b) = some (some g) → c.cgen ≤ g → c.bytes ≤ off → stops .cellshape) ∧
          (s.selGen (s.cur.xr b) = some (some g) → c.cgen ≤ g → off < c.bytes → c.bufFor g = none → stops .snapold) ∧
          (∀ found, s.selGen (s.cur.xr b) = some (some g) → c.cgen ≤ g → off < c.bytes → c.bufFor g = some found →
            sd.recalc = true → g = sd.pgen + 1 → c.unfinished = true → stops .formula)))) ∧
    (4 < (s.cur.xr b).toNat → s.selGen (s.cur.xr b) = none) ∧
    (∀ j < 4, (s.cur.xr b).toNat = j + 1 → s.selGen (s.cur.xr b) = (vget s.cur.snaps j none).map (·.gen)) ∧
    (∀ id off buf, w = BitVec.ofNat 64 (0x600 * 2 ^ 52 + id * 2 ^ 32 + off) → id < 2 ^ 20 → off < 2 ^ 32 → off % 8 = 0 → tget sd.cells id = some c →
      s.selGen (s.cur.xr b) = some (some g) → c.cgen ≤ g → off < c.bytes → s.cellRead s.curK.asidN id off (min 8 (c.bytes - off)) g = .ok buf →
      s.cur.redo = none → s.reach .load 1 (min 8 (c.bytes - off)) buf = .ok (.mem k) → s.moveWait s.cur = false →
      s.mustFollow s.cur.uid false buf (min 8 (c.bytes - off)) (.mem k) = false → (s.touchTlb s.curCore buf).badIn k (min 8 (c.bytes - off)) = none →
      (s.touchTlb s.curCore buf).lineHeld k = false →
      RunsTo (exec (.cld d a b ma mb) s) ((s.touchTlb s.curCore buf).correct k (min 8 (c.bytes - off)))
        (producing d (BitVec.ofNat 64 (s.readLe k (min 8 (c.bytes - off))))) (s.cur.pc + 4))

/-- What the SDIR does by itself (R144 to R149, R153, R155): the recalculating generation closes, and is announced once its stale set is done; a READY cell's formula task gets its buffer
and joins the task queue; each acknowledgement counts once and the fifth releases the notice; at its time the generation is published, with the release where
that time has come, before anything else is accepted (R441): PGEN and SHPUBT change; a waiting snapshot binds and its register is filled; a reclaim goes on. -/
def TheSheetDirectoryActsByItself : Prop :=
  ∀ (s : State) (asid who uid slot k g id : Nat) (tp : Word) (x : Ctx) (n : Snap) (c : Cell) (buf : Word) (s1 : State), s.running asid = true →
    let sd := (s.part asid).sdir
    let put := fun (f : Sdir → Sdir) => s.modPart asid fun p => { p with sdir := f p.sdir }
    (sd.recalc = true → sd.closedGen = false → (∀ p ∈ sd.csts, p.gen ≠ sd.pgen + 1) → sd.abandonq = [] → exec (.genClose asid) s = .next ((put Sdir.close).tryNotice asid)) ∧
    (s.handoutRoom asid = true → sd.nextReady = some id → tget sd.cells id = some c → sd.tidCount < 2 ^ 32 → s.prepare asid id (sd.pgen + 1) = .ready buf s1 → s1.running asid = true →
      ∃ t e, exec (.formulaHandout asid) s = .next t ∧ (t.part asid).sched.taskq = (s1.part asid).sched.taskq ++ [e] ∧ e.root = false ∧ t.mem = s1.mem ∧
        e.peg = formulaPeg (s.part asid).launch id (sd.pgen + 1) ((s.part asid).launch.idBase + 0xFFFE * 2 ^ 32 + sd.tidCount) c buf s.pkg.gmCount ∧
        (t.part asid).sdir.tidCount = (s1.part asid).sdir.tidCount + 1) ∧
    (sd.notice.isSome = true → who ∉ sd.acks → who ≤ 4 → exec (.publicationAck asid who) s =
      .next ((put fun e => { e with acks := e.acks ++ [who], released := e.released || decide (5 ≤ e.acks.length + 1) }).publishNow asid)) ∧
    (sd.notice = some (k, tp) → sd.released = true → tp.toNat ≤ s.pkg.gmCount.toNat →
      exec (.publication asid) s = .next (s.publishNow asid) ∧ s.publishNow asid = ((put fun e => e.published k tp).progressCsts asid).pump asid ∧
        (sd.published k tp).pgen = k ∧ (sd.published k tp).shpubt = tp ∧ (sd.published k tp).recalc = sd.waitc ∧ (sd.published k tp).notice = none) ∧
    (s.unitCtx uid = some x → s.unitCore uid = some who → vget x.snaps slot none = some n → n.gen = none → s.snapNow who n = some g →
      exec (.snapBind uid slot) s = .next (s.modUnit uid fun x => x.bindSnap slot g (s.inSlot uid)) ∧
        (slot < 4 → vget (x.bindSnap slot g false).snaps slot none = some { n with gen := some g }) ∧
        (slot < 4 → n.dest ≠ 0 → (n.dest.toNat, BitVec.ofNat 64 (2 ^ 63 + slot * 2 ^ 48 + g % 2 ^ 48)) ∈ (x.bindSnap slot g false).producers)) ∧
    exec (.snapwaitExpiry asid) s = .next (s.progressCsts asid)

/-- Arriving messages, refusals and the close of a window (R174, R177, R181, R184, R185, R410). -/
def Obligations.ArrivingMessagesAndRefusalsAreHandled : Prop := ArrivingMessagesArePlacedOrRefused ∧ RefusalsReturnAndWindowsClose

/-- What the sheet directory does, asked and by itself (R135 to R144, R159, R283, R284). -/
def Obligations.TheSheetDirectoryServesAndActs : Prop := TheSheetDirectoryServesRequests ∧ TheSheetDirectoryActsByItself


/-! ## Vector instructions and masks -/

/-- The vector instructions, each with its operation code of R203 and the registers that hold its source records. -/
noncomputable def vectorForms (d a b c : Reg) (ma mb mq : Bool) : List (Instr × Nat × List Reg) :=
  [(.vadd d a b ma mb, 0x40, [a, b]), (.vsub d a b ma mb, 0x41, [a, b]), (.vmul d a b ma mb, 0x42, [a, b]), (.vmax d a b ma mb, 0x43, [a, b]), (.vmin d a b ma mb, 0x44, [a, b]), (.vabs d a ma, 0x45, [a]),
    (.vneg d a ma, 0x46, [a]), (.vcvt d a ma, 0x47, [a]), (.vred d a ma, 0x48, [a]), (.vcmp d a b ma mb, 0x49, [a, b]), (.vmov d a ma, 0x4A, [a]), (.vshf d a b ma mb, 0x4B, [a, b]),
    (.vfma d a b c mq, 0x70, [a, b, c]), (.vsel d a b c mq, 0x71, [a, b]), (.vexp d a ma, 0x60, [a]), (.vlog d a ma, 0x61, [a]), (.vrcp d a ma, 0x62, [a]), (.vrsq d a ma, 0x63, [a]),
    (.vtanh d a ma, 0x64, [a]), (.vsigm d a ma, 0x65, [a]), (.vexpA d a ma, 0x68, [a]), (.vlogA d a ma, 0x69, [a]), (.vrcpA d a ma, 0x6A, [a]), (.vrsqA d a ma, 0x6B, [a]),
    (.vtanhA d a ma, 0x6C, [a]), (.vsigmA d a ma, 0x6D, [a])]

/-- A vector instruction at issue (R291 to R294, R220, R420): record addresses outside space 0x0 or off a 64-byte boundary are SHAPEBAD, records that fail the
checks stop it with their cause; otherwise it enters its thread's queue with its records, FCTL, APXCTL and mask as they stand, an entry in the in-flight
table, and retires. A ninth waits, before its records are read (log 8, DEDUCED), and SHAPEBAD names the first bad record in the order D, A, B, C (log 7,
DESIGN CHOICE). -/
def Obligations.VectorInstructionsEnterTheirQueue : Prop :=
  ∀ (s : State) (d a b c : Reg) (ma mb mq : Bool), ∀ e ∈ vectorForms d a b c ma mb mq, FullAt s (d :: e.2.2) →
    let x := s.cur
    let addrs := x.xr d :: e.2.2.map fun r => x.xr r
    (8 ≤ s.curVectors.length → exec e.1 s = .next s) ∧
    (∀ w, s.curVectors.length < 8 → Quiet s → addrs.find? (fun v => decide (v.toNat / 2 ^ 60 ≠ 0 ∨ v.toNat % 64 ≠ 0)) = some w → exec e.1 s = .next (s.trap .shapebad { d0 := w })) ∧
    (∀ d0 ds srcs s', s.curVectors.length < 8 → Quiet s → (∀ v ∈ addrs, v.toNat / 2 ^ 60 = 0 ∧ v.toNat % 64 = 0) → s.readRecords addrs = .ok (d0 :: srcs, s') →
      ds = (e.2.2.map fun r => (x.xr r).toNat).zip (srcs.map Shape.of) →
      let check := shapeCheck (roleOf e.2.1) (s'.launchOf s.curCore).gang (s'.hasLcore s.curK.asidN) ((x.xr d).toNat, Shape.of d0) ds
      (∀ cause det, check = some (cause, det) → exec e.1 s = .next (s'.trap cause det)) ∧
      (check = none → ∃ q, q.top = e.2.1 ∧ q.rc = d0 ∧ q.ra = srcs.getD 0 0 ∧ q.rb = srcs.getD 1 0 ∧ q.rx = srcs.getD 2 0 ∧ q.fctl = x.fctl ∧
        q.apxctl = x.apxctl ∧ (e.2.1 = 0x71 → q.msk = x.mr c) ∧ q.uid = x.uid ∧ q.core = s.curCore ∧ q.pos = 0 ∧ q.flags = 0 ∧ q.seq = x.opSeq ∧ q.hid = none ∧
        RunsTo (exec e.1 s) s' (fun y => { y with
            ops := y.ops ++ [{ addr := y.pc, seq := y.opSeq, hid := 0, token := 0, cause := none, kind := 4, late := false, state := 0 }], opSeq := y.opSeq + 1
            vq := y.vq ++ [q], warn := if 0x68 ≤ e.2.1 ∧ e.2.1 < 0x70 ∧ (s.launchOf s.curCore).deterministic = true then y.warn ||| 4 else y.warn })
          (s.cur.pc + 4)))

/-- The element operations (R218, R297): of the elements read, a floating result is the exact one rounded once under the captured FCTL, an integer result wraps; maximum and minimum
let a NaN give way; VABS and VNEG change the sign bit; VCVT converts; VMOV and VSEL move bits, VSEL the reserved ternary code as 0, which it records from
either source (R214); VCMP gives 1 or 0, false for a NaN but NE. -/
def Obligations.VectorElementsAreComputed : Prop :=
  ∀ (q : Cmd) (d a b x : Shape) (idx : List Nat) (s s1 s2 s3 : State) (va vb vc : Nat), elemRead q a q.gotA (a.bcast idx) s = .ok (va, s1) →
    let readB := elemRead q b q.gotB (b.bcast idx) s1 = .ok (vb, s2)
    let readX := elemRead q x q.gotX (x.bcast idx) s2 = .ok (vc, s3)
    let rm := q.fctl.toNat % 8
    let daz := q.fctl.getLsbD 3
    let ftz := q.fctl.getLsbD 4
    let sat := q.fctl.getLsbD 5
    let gives := fun (top v : Nat) (fx : Fx) (t : State) => q.top = top → vecValue q d a b x idx s = .ok ((v, fx, false), t)
    (∀ f, etFmt a.etype = some f →
      let fv := fun bits => f.read daz bits
      let rounds := fun (top : Nat) (r : Exact) (t : State) =>
        gives top (f.encode rm false ftz r.v r.sticky).1 (r.fx.or (f.encode rm false ftz r.v r.sticky).2) t
      gives 0x45 (va % 2 ^ (f.e + f.m)) {} s1 ∧ (va < 2 ^ (1 + f.e + f.m) → gives 0x46 (va ^^^ 2 ^ (f.e + f.m)) {} s1) ∧
      (readB → rounds 0x40 ((fv va).add rm (fv vb)) s2 ∧ rounds 0x41 ((fv va).add rm (fv vb).neg) s2 ∧ rounds 0x42 ((fv va).mul (fv vb)) s2 ∧
        gives 0x43 (f.encode 0 false false (Fv.pick true (fv va) (fv vb))).1 {} s2 ∧ gives 0x44 (f.encode 0 false false (Fv.pick false (fv va) (fv vb))).1 {} s2) ∧
      (readB → readX → rounds 0x70 (Fv.fma rm (fv va) (fv vb) (fv vc)) s3) ∧
      (readB → b.etype = a.etype →
        (fv va = .nan ∨ fv vb = .nan → gives 0x49 (if d.opx = 3 then 1 else 0) { nv := d.opx == 1 || d.opx == 2 } s2) ∧
        (fv va ≠ .nan → fv vb ≠ .nan →
          let holds := if d.opx = 0 then Fv.eq (fv va) (fv vb) else if d.opx = 1 then Fv.lt false (fv va) (fv vb)
            else if d.opx = 2 then !Fv.lt false (fv vb) (fv va) else !Fv.eq (fv va) (fv vb)
          gives 0x49 (if holds then 1 else 0) {} s2)) ∧
      (∀ g, etFmt d.etype = some g → gives 0x47 (g.encode rm sat ftz (fv va)).1 (g.encode rm sat ftz (fv va)).2 s1) ∧
      (∀ w, (d.etype = 8 ∧ w = 8) ∨ (d.etype = 9 ∧ w = 32) → let r := toInteger rm (-(2 ^ (w - 1))) (2 ^ (w - 1) - 1) (fv va)
        gives 0x47 (BitVec.ofInt w r.1).toNat r.2 s1)) ∧
    (∀ w, (a.etype = 8 ∧ w = 8) ∨ (a.etype = 9 ∧ w = 32) →
      let sx := fun (v : Nat) => (BitVec.ofNat w v).toInt
      let wraps := fun (top : Nat) (v : Int) (t : State) => gives top (BitVec.ofInt w v).toNat {} t
      wraps 0x45 (sx va).natAbs s1 ∧ wraps 0x46 (-sx va) s1 ∧
      (readB → wraps 0x40 (sx va + sx vb) s2 ∧ wraps 0x41 (sx va - sx vb) s2 ∧ wraps 0x42 (sx va * sx vb) s2 ∧
        wraps 0x43 (max (sx va) (sx vb)) s2 ∧ wraps 0x44 (min (sx va) (sx vb)) s2) ∧
      (readB → readX → wraps 0x70 (sx va * sx vb + sx vc) s3)) ∧
    gives 0x4A va {} s1 ∧
    (let selects := fun (v : Nat) (t : State) => q.top = 0x71 →
      (a.etype ≠ 0xA → vecValue q d a b x idx s = .ok ((v, {}, false), t)) ∧
      (a.etype = 0xA → vecValue q d a b x idx s = .ok ((if v = 2 then 0 else v, {}, va == 2 || vb == 2), t))
    (readB → x.ver = 0 → selects (if q.msk.getLsbD (idx.getD 0 0 % 16) then va else vb) s2) ∧
    (readB → readX → x.ver ≠ 0 → selects (if vc = 1 then va else vb) s3))

/-- The vector-stream commands, each with its operation code (R203, R303). -/
noncomputable def streamForms (core : Nat) : List (Instr × Nat) :=
  [(.tcwVadd core, 0x40), (.tcwVsub core, 0x41), (.tcwVmul core, 0x42), (.tcwVmax core, 0x43), (.tcwVmin core, 0x44), (.tcwVabs core, 0x45),
    (.tcwVneg core, 0x46), (.tcwVcvt core, 0x47), (.tcwVred core, 0x48), (.tcwVcmp core, 0x49), (.tcwVmov core, 0x4A), (.tcwVshf core, 0x4B),
    (.tcwVfma core, 0x70), (.tcwVsel core, 0x71), (.tcwVexp core, 0x60), (.tcwVlog core, 0x61), (.tcwVrcp core, 0x62), (.tcwVrsq core, 0x63),
    (.tcwVtanh core, 0x64), (.tcwVsigm core, 0x65), (.tcwVexpA core, 0x68), (.tcwVlogA core, 0x69), (.tcwVrcpA core, 0x6A), (.tcwVrsqA core, 0x6B),
    (.tcwVtanhA core, 0x6C), (.tcwVsigmA core, 0x6D)]

/-- A step of an elementwise command (R40, R41, R73, R289, R293, R296): its elements are read and computed in order, and, all of them read or a cause met,
written in order; what is read before an element that is held or waits stays read, and what is written stays written (log 37, DEDUCED). A write that finds no
room in the loopback port or its channel stays to be made, with those behind it. The command's flags grow; after the last element, or with a cause, once its
writes are performed, it ends. -/
def ElementStepsWriteTheirElements : Prop :=
  ∀ (s : State) (p : Port) (q : Cmd) (d : Shape) (size : Nat) (vf : List Kept → Nat → Eng Kept) (pf : Nat → Nat → Eng (List Put)),
    (∀ l s1 e, engKeep vf (if q.fault.isSome then 0 else stepLen q.pos size d.count - q.kept.length) (q.pos + q.kept.length) q.kept s = (l, s1, e) →
      let c := { q with kept := l, redo := if q.kept.length < l.length then none else q.redo }
      let t := if q.kept.length < l.length then s1.dropTurns q.uid q.seq else s1
      (e = none → s.elemStep p q d size vf pf = t.writeElems p c d pf) ∧
      (∀ m cause det, e = some m → m.m = .cause cause det →
        s.elemStep p q d size vf pf = (t.noteMiss m).writeElems p { c with fault := some (cause, det) } d pf) ∧
      (∀ m, e = some m → (∀ cause det, m.m ≠ .cause cause det) → s.elemStep p q d size vf pf = t.missHead p c m)) ∧
    (∀ ps s1 e, engEach (fun i => pf i ((q.kept[i - q.pos]?.map Kept.val).getD 0)) q.kept.length q.pos s = (ps, s1, e) → s1.firstFailed ps = none →
      let room := if d.loc = 2 then 2048 - ((s1.core (s1.fabTarget q d)).fab (d.base.toNat / 2 ^ 16 % 8)).length else 0
      let n := putsFit (16 - (s1.core q.core).loop.length) room ps
      let done := applyElems d ((ps.take n).zip q.kept) (s1.repairPuts (ps.take n).flatten) q
      let moved := { done.2 with pos := q.pos + n, kept := q.kept.drop n, redo := if n = 0 then q.redo else none }
      (n < ps.length → s.writeElems p q d pf = done.1.putHead p moved) ∧
      (n = ps.length → e = none →
        (d.count ≤ moved.pos ∨ moved.fault ≠ none → s.writeElems p q d pf = done.1.finishElems p moved d) ∧
        (moved.pos < d.count → moved.fault = none → s.writeElems p q d pf = done.1.putHead p moved)) ∧
      (n = ps.length → ∀ m cause det, e = some m → m.m = .cause cause det →
        s.writeElems p q d pf = (done.1.noteMiss m).finishElems p { moved with kept := [], fault := some (cause, det) } d) ∧
      (n = ps.length → ∀ m, e = some m → (∀ cause det, m.m ≠ .cause cause det) → s.writeElems p q d pf = done.1.missHead p moved m)) ∧
    (s.putsOut q.uid q.seq = true → s.finishElems p q d = s.putHead p q) ∧
    (s.putsOut q.uid q.seq = false → d.loc ≠ 2 ∨ q.fault = none → s.finishElems p q d = s.endHead p q q.fault)

/-- A step of a vector instruction or vector-stream command (R293, R296, R301, R303): elements of as many as 256 bytes of the widest record are performed at once.
A special function's step first enters the queue of the SFU, which holds 32 requests and serves the first; an element on which the self-check fails
ends the command with SFUFAULT. The vector queue of a thread begins with what ended units left there, and these run first (log 36, DEDUCED). -/
def Obligations.VectorStepsPerformElements : Prop := ElementStepsWriteTheirElements ∧
  ∀ (s : State) (core thread : Nat) (q : Cmd) (rest : List Cmd) (bad : Option Nat), q.hid = none → q.top < 0x100 →
    let d := Shape.of q.rc
    let a := Shape.of q.ra
    let b := Shape.of q.rb
    let x := Shape.of q.rx
    let used := [a, b, x].filter fun r => r.ver != 0
    let size := 2048 / ((d :: used).foldl (fun n r => max n r.w) 1)
    let steps := fun (i : Instr) (p : Port) (bad : Option Nat) =>
      let pulled := (s.runHead q).pullAll (s.bindCmd q used) d a b x size
      let s1 := pulled.1.putHead p pulled.2
      let r := pulled.2
      let sfu := (s1.core r.core).sfu
      let mine := sfu.filter fun e => e.uid == r.uid && e.seq == r.seq
      let next := if mine = [] then r.pos else (r.pos / size + mine.length) * size
      (q.top < 0x60 ∨ 0x70 ≤ q.top ∨ r.computed size d.count = true →
        exec i s = .next (s1.elemStep p r d size (fun _ => vecKept r d a b x) (vecPut r d))) ∧
      (0x60 ≤ q.top → q.top < 0x70 → r.computed size d.count = false →
        (sfu = [] → next < d.count → exec i s = .next (s1.sfuEnter p r next)) ∧
        (∀ h t, sfu = h :: t → h ∉ mine → next < d.count → sfu.length < 32 → exec i s = .next (s1.sfuEnter p r next)) ∧
        (∀ h t, sfu = h :: t → h ∉ mine → d.count ≤ next ∨ 32 ≤ sfu.length → exec i s = .next s1) ∧
        (∀ h t, sfu = h :: t → h ∈ mine →
          let serves := exec i s = .next (s1.sfuServe p r h d size
            (fun _ j => if bad = some (j - r.pos) then engFault .sfufault {} else vecKept r d a b x j) (vecPut r d))
          (d.count ≤ next ∨ 32 ≤ sfu.length → serves) ∧ (next < d.count → sfu.length < 32 → serves ∨ exec i s = .next (s1.sfuEnter p r next))))
    (∀ e ∈ streamForms core, q.top = e.2 → (s.core core).vsq = q :: rest → steps e.1 (.vsq core) none) ∧
    ((s.core core).vsq = q :: rest → steps (.vectorStep core 4 bad) (.vsq core) bad) ∧
    (thread < 4 → (s.thr core thread).past = q :: rest → steps (.vectorStep core thread bad) (.past core thread) bad) ∧
    (thread < 4 → (s.thr core thread).past = [] → (s.thr core thread).running = true → s.queueOf (.vq (s.ctx core thread).uid) = q :: rest →
      steps (.vectorStep core thread bad) (.vq (s.ctx core thread).uid) bad)

/-- Mask instructions and VWAIT (R295, R302): m[D] takes the bitwise result, the shift by x[B][4:0], or the low 16 bits of x[A]; MPOP counts the ones and MMOV to x zero-extends; VWAIT
goes on once its thread's vector queue is empty. -/
def Obligations.MaskInstructionsWriteTheirResult : Prop :=
  ∀ (s : State) (d a b : Reg) (ma mb : Bool),
    let x := s.cur.mr a
    let y := s.cur.mr b
    let toM := fun (i : Instr) (v : BitVec 16) => RunsTo (exec i s) s (fun c => c.setM d v) (s.cur.pc + 4)
    let toX := fun (i : Instr) (v : Word) => RunsTo (exec i s) s (fun c => c.setX d v) (s.cur.pc + 4)
    toM (.mand d a b ma mb) (x &&& y) ∧ toM (.mor d a b ma mb) (x ||| y) ∧ toM (.mxor d a b ma mb) (x ^^^ y) ∧ toM (.mnot d a ma) (~~~x) ∧ toM (.mmovMM d a ma) x ∧
    (FullAt s [b] → toM (.mshl d a b ma mb) (x <<< ((s.cur.xr b).toNat % 32)) ∧ toM (.mshr d a b ma mb) (x >>> ((s.cur.xr b).toNat % 32))) ∧
    (FullAt s [a] → toM (.mmovMX d a ma) ((s.cur.xr a).setWidth 16)) ∧
    (FullAt s [d] → toX (.mpop d a ma) (BitVec.ofNat 64 ((List.range 16).countP fun i => x.getLsbD i)) ∧ toX (.mmovXM d a ma) (x.setWidth 64)) ∧
    (s.curVectors = [] → RunsTo (exec .vwait s) s id (s.cur.pc + 4)) ∧ (s.curVectors ≠ [] → exec .vwait s = .next s)

/-- The end of a command (R93, R206, R219, R296, R419, R420): its flags accrue in the FCTL of its unit, wherever its context lies; its token's value is on its way; its in-flight
entry is done, and stays in the table until the unit is next resumed, or faulted with its cause, which is the fault met or, with none, the enabled trap of lowest code; a faulted vector instruction takes those that its unit has queued behind it with it. -/
def Obligations.CommandsEndWithFlagsAndToken : Prop :=
  ∀ (s : State) (core thread : Nat) (q : Cmd) (fault : Option (Cause × Detail)), thread < 5 → (s.thr core thread).running = true → s.findUnit q.uid = some (core, thread) →
    (s.ctx core thread).uid = q.uid → s.inSlot q.uid = false → s.stepped q.asid q.tid = false →
    let x := s.ctx core thread
    let cause := match fault with | some f => some f.1 | none => trapOf q.fctl q.flags
    let noted := fun (y : Ctx) => y.fctl = x.fctl ||| (q.flags.zeroExtend 64 <<< 10) ∧
      (cause = none → y.ops = (x.ops.map fun (o : InFlight) => if o.seq = q.seq ∧ o.state < 2 then { o with state := 2, cause := none, late := false } else o)) ∧
      (∀ c, cause = some c → y.ops = (x.ops.map fun (o : InFlight) => if o.seq = q.seq ∧ o.state < 2 then { o with state := 3, cause := some c, late := false } else o))
    (let y := (s.endCmd q fault).ctx core thread
     noted y ∧ (q.token = 0 → y.producers = x.producers) ∧ (q.token ≠ 0 → ∃ v, y.producers = x.producers ++ [(q.token.toNat, v)]) ∧ y.x = x.x ∧ y.f = x.f ∧ y.m = x.m) ∧
    (let y := (s.endVec (.vq q.uid) q fault).ctx core thread
     noted y ∧ (cause = none → y.vq = x.vq.drop 1 ∧ y.pend = x.pend) ∧ (∀ c, cause = some c → y.vq = (x.vq.drop 1).filter (fun r => r.uid != q.uid) ∧ ∃ p, y.pend = x.pend ++ [p] ∧ p.cause = c) ∧ y.x = x.x ∧ y.f = x.f ∧ y.m = x.m)

/-! ## Tile commands -/

/-- The in-flight entry and the empty token of an accepted command (R204, R420). -/
def issuing (kind : Nat) (addr : Word) (token : Reg) (x : Ctx) : Ctx :=
  ({ x with ops := x.ops ++ [{ addr := addr, seq := x.opSeq, hid := 0, token := token, cause := none, kind := kind, late := false, state := 0 }], opSeq := x.opSeq + 1 } : Ctx).markEmpty token

/-- What a command captures at its ENQ (R204, R220). -/
def Captured (s : State) (q : Cmd) (word : BitVec 256) (d : Reg) : Prop :=
  q.top = (Tcw.of word).top ∧ q.word = word ∧ q.fctl = s.cur.fctl ∧ q.apxctl = s.cur.apxctl ∧ q.perm = s.cur.perm ∧ q.uid = s.cur.uid ∧ q.core = s.curCore ∧
    q.asid = s.curK.asidN ∧ q.token = d ∧ q.seq = s.cur.opSeq ∧ q.pos = 0 ∧ q.flags = 0 ∧ q.hid = none

/-- ENQ (R93, R202 to R207, R303, R306, R307, R331, R332): the order of the word's address checks, and the record of a mixed use, are the model's reading
(log 8, DEDUCED). TOKBAD for a token that is x0 or a source; the word's address checks; ILLOP, RSVFLD and PRIV by the word; else, with no wait,
no illegal combination and its records passing their checks, the command enters the queue of its class with its records, the primary one rebased where BASE is not zero,
its token is empty and the ENQ retires. -/
def Obligations.EnqPutsACommandIntoItsQueue : Prop :=
  ∀ (s : State) (d a b : Reg) (ma mb : Bool) (bs : List Byte) (s1 : State), FullAt s [a, b, d] →
    let va := s.cur.xr a
    let word := if b = 0 then BitVec.ofNat 256 (leNat bs) else patchBase (BitVec.ofNat 256 (leNat bs)) (s.cur.xr b)
    let t := Tcw.of word
    let forms : List (Instr × Nat) := [(.enqM d a b ma mb false, 0), (.enqV d a b ma mb, 1), (.enqC d a b ma mb, 2)]
    let go := d ≠ 0 ∧ d ≠ a ∧ d ≠ b
    let fetched := go ∧ va.toNat / 2 ^ 60 = 0 ∧ va.toNat % 32 = 0 ∧ s.readAlias 32 va = .ok (bs, s1)
    let sound := fetched ∧ t.ver = 1 ∧ t.reserved = false ∧ (t.top = 0x15 → (s1.launchOf s1.curCore).privileged = true) ∧ (∀ m ∈ t.mixes, m.1 = false)
    let records := fun (offs : List Nat) (rs : List (BitVec 512)) (s2 : State) => (∀ o ∈ offs, o % 64 = 0) ∧ s1.readRecords (offs.map (BitVec.ofNat 64)) = .ok (rs, s2)
    (∀ e ∈ forms,
      (d = 0 ∨ d = a ∨ d = b → exec e.1 s = .next (s.trap .tokbad)) ∧
      (go → va.toNat / 2 ^ 60 < 8 → va.toNat % 32 ≠ 0 → exec e.1 s = .next (s.trap .ldalign { d0 := va, d1 := 32 })) ∧
      (go → 8 ≤ va.toNat / 2 ^ 60 ∨ (va.toNat % 32 = 0 ∧ va.toNat / 2 ^ 60 ≠ 0) → exec e.1 s = .next (s.trap .access { d0 := va, d1 := 32 })) ∧
      (fetched → topClass t.top = none → exec e.1 s = .next (s1.trap .illop)) ∧
      (fetched → (topClass t.top).isSome → t.ver ≠ 1 ∨ t.reserved = true → exec e.1 s = .next (s1.trap .rsvfld)) ∧
      (fetched → t.top = 0x15 → t.ver = 1 → t.reserved = false → (s1.launchOf s1.curCore).privileged = false → exec e.1 s = .next (s1.trap .priv))) ∧
    (sound → topClass t.top = some 0 → s1.enqWaits 0 t = false → ∀ rs s2, records t.mxOffs rs s2 →
      let rs := (List.range rs.length).map fun i => if i = 0 ∧ t.uses.primary = true then rebase t.base (recAt rs i) else recAt rs i
      s2.plainRecords ((t.mxOffs.zip (rs.map Shape.of)).map fun p => (p.1, p.2, t.mxDest)) = none → s2.mxChecks t (rs.map Shape.of) = none →
      ∃ q, Captured s q word d ∧ RunsTo (exec (.enqM d a b ma mb false) s) (s2.modCurK fun k => { k with mq := k.mq ++ [q] }) (issuing 1 va d) (s.cur.pc + 4)) ∧
    (sound → topClass t.top = some 1 → s1.enqWaits 1 t = false → ∀ rs s2 dd ss,
      let third := t.top = 0x70 ∨ (t.top = 0x71 ∧ t.recCond = true)
      let offs := [t.rc, t.ra] ++ (if hasB t.top then [t.rb] else []) ++ (if third then [t.aux % 2 ^ 17] else [])
      records offs rs s2 → offs.zip (((List.range rs.length).map fun i => if i = 1 then rebase t.base (recAt rs i) else recAt rs i).map Shape.of) = dd :: ss →
      shapeCheck (roleOf t.top) (s2.launchOf s2.curCore).gang (s2.hasLcore s2.curK.asidN) dd ss = none →
      ∃ q, Captured s q word d ∧ q.rc = recAt rs 0 ∧ q.ra = rebase t.base (recAt rs 1) ∧
        RunsTo (exec (.enqV d a b ma mb) s) (s2.modCurK fun k => { k with vsq := k.vsq ++ [q] }) (issuing 2 va d) (s.cur.pc + 4)) ∧
    (sound → topClass t.top = some 2 → s1.enqWaits 2 t = false → t.wm = false → ∀ rs s2,
      let hasX := t.top == 0x81 && t.idx
      records ([t.ra, t.rc] ++ (if hasX then [t.rb] else [])) rs s2 →
      let src := rebase t.base (recAt rs 0)
      let x := if hasX then recAt rs 2 else 0
      s2.plainRecords ([(t.ra, Shape.of src, false), (t.rc, Shape.of (recAt rs 1), true)] ++ (if hasX then [(t.rb, Shape.of x, false)] else [])) = none →
      s2.copyChecks t (Shape.of src) (Shape.of (recAt rs 1)) (Shape.of x) = none →
      ∃ q, Captured s q word d ∧ q.ra = src ∧ q.rc = recAt rs 1 ∧ q.rb = x ∧
        RunsTo (exec (.enqC d a b ma mb) s) (s2.modCurK fun k => { k with cq := k.cq ++ [q] }) (issuing 3 va d) (s.cur.pc + 4)) ∧
    (sound → topClass t.top = some 0 → s1.cur.warn.getLsbD 63 = true → exec (.enqM d a b ma mb true) s = .next (s1.mixTrap 2)) ∧
    (sound → topClass t.top = some 0 → s1.cur.warn.getLsbD 63 = false → ∀ t1, exec (.enqM d a b ma mb false) (s.modCur fun x => { x with warn := mixWarn x.warn 2 }) = .next t1 →
      exec (.enqM d a b ma mb true) s = .next t1)

/-- The products of the matrix engine and their operation codes (R203, R308, R322). -/
noncomputable def productForms (core : Nat) : List (Instr × Nat) :=
  [(.mmBf16 core, 0x00), (.mmF16 core, 0x01), (.mmE4m3 core, 0x02), (.mmE5m2 core, 0x03), (.mmE4m3e5m2 core, 0x04), (.mmMx4 core, 0x05),
    (.mmMx6a core, 0x06), (.mmMx6b core, 0x07), (.mmI8 core, 0x08), (.mmT2i8 core, 0x09), (.mmbm core, 0x15)]

/-- A product at the head of a matrix queue (R311 to R315, R321, R322, R395): with the accumulators of its mode and its window reachable, its region takes the sums and every
other accumulator stays, a chain head sets the mode, and the command ends; continuing a chain in the other mode is ENGFAULT; a cause, or a failed bond lane, spoils its region and ends it. -/
def ProductsUpdateTheAccumulators : Prop :=
  ∀ (s : State) (core : Nat) (q : Cmd) (rest : List Cmd), (s.core core).mq = q :: rest → q.hid = none → ∀ e ∈ productForms core, q.top = e.2 →
    let s1 := s.runHead q
    let t := Tcw.of q.word
    let f := mmFmt t.mmTop
    let z := s1.sizeOf q t
    let bound := s1.bindCmd q ([Shape.of q.ra, Shape.of q.rc, Shape.of q.rx, Shape.of q.ry].filter fun r => r.ver != 0)
    let pulled := s1.pullAny bound.core (Shape.of bound.rx) bound.gotX
    let q1 := { bound with gotX := pulled.1 }
    let s2 := pulled.2
    let continues := t.acc = true ∧ t.clr = false
    let wrongMode := continues ∧ (s1.core core).me.int32 ≠ f.int
    let fails := q1.core = core ∧ z.u ≠ 0 ∧ s2.bondFails core = true
    (wrongMode → exec e.1 s = .next (s2.endHead (.mq core) q1 (some (.engfault, {})))) ∧
    (¬ wrongMode → ¬ fails → ∀ acc t2 s3, mmResult core q1 t z s2 = .ok ((acc, t2), s3) →
      exec e.1 s = .next ((s3.modMe core fun m => { m with
        acc := acc, int32 := if continues then m.int32 else f.int, chain := if continues then m.chain else true }).endHead (.mq core) { q1 with t2rsv := q1.t2rsv || t2 } none)) ∧
    (¬ wrongMode → ¬ fails → ∀ m cause det, mmResult core q1 t z s2 = .error m → m.m = .cause cause det →
      exec e.1 s = .next (((s2.modMe core fun m => { m with acc := mmSpoil m.int32 z m.acc }).noteMiss m).endHead (.mq core) q1 (some (cause, det)))) ∧
    (¬ wrongMode → fails →
      exec e.1 s = .next (((s2.fence core q1).modMe core fun m => { m with acc := mmSpoil m.int32 z m.acc }).endHead (.mq core) q1 (some (.bwinbad, {})))) ∧
    (∀ (int32 : Bool) (acc : Tbl (BitVec 36)) (i j : Nat), i < z.m → j < z.n → z.n ≤ 64 → tgetD (mmSpoil int32 z acc) (64 * i + j) 0 = if int32 then 0 else BitVec.ofNat 36 fa36.cnan)

/-- Bytes that a command's access finds at once (R40, R58, R69, R73, R97): its space is allowed, its checks pass, no watermark and no turn is waited for, no
granule has failed or needs a correction, and the translation, where there is one, is cached. -/
def FoundAt (s : State) (q : Cmd) (align n : Nat) (va : Word) (k : Nat) : Prop :=
  va.toNat / 2 ^ 60 ≠ 5 ∧ va.toNat / 2 ^ 60 ≠ 7 ∧ s.engReach q false false align n va = .ok (.mem k) ∧ s.wmBlocked q.core none va n = false ∧
    s.turnWait q.uid q.seq k (q.loops false va) = false ∧ s.badIn k n = none ∧ (s.correct k n).touchTlb q.core va = s

/-- Element idx of a source record reads as v at once (R287 to R289): in memory, in the v registers, or among the bytes that a fabric source has taken. -/
def ReadsAs (s : State) (q : Cmd) (r : Shape) (got : List Byte) (idx : List Nat) (v : Nat) : Prop :=
  let va := (r.elem idx).1
  let bit := (r.elem idx).2.1
  let n := (r.elem idx).2.2
  (r.loc = 0 ∧ 8 ≤ r.w ∧ ∃ k, FoundAt s q r.align n va k ∧ v = s.seen q.uid q.seq k n) ∨
  (r.loc = 0 ∧ r.w < 8 ∧ ∃ k, FoundAt s q 1 1 va k ∧ (n ≠ 2 → v = s.seen q.uid q.seq k 1 / 2 ^ bit % 2 ^ r.w) ∧
    (n = 2 → ∃ j, FoundAt s q 1 1 (va + 1) j ∧ v = (s.seen q.uid q.seq k 1 + 256 * s.seen q.uid q.seq j 1) / 2 ^ bit % 2 ^ r.w)) ∨
  (r.loc = 1 ∧ v = tblBits (s.vOf q r) r.vByte (r.linear idx * r.w) r.w) ∨
  (r.loc ≠ 0 ∧ r.loc ≠ 1 ∧ r.linear idx * r.w + r.w ≤ 8 * got.length ∧
    v = leNat ((got.drop (r.linear idx * r.w / 8)).take ((r.linear idx * r.w % 8 + r.w + 7) / 8)) / 2 ^ (r.linear idx * r.w % 8) % 2 ^ r.w)

/-- A product whose operands can be read completes (R311 to R315, R321, R322): at the head of its queue, in the accumulators' mode or starting a chain, with no
fence or failed bond lane before its window, it ends with accumulator (m, n) of its region, where the mask enables it, at the sum of R312: in INT32 mode the
start value plus the exact products modulo 2^32, else the start value with the result of each group added in turn, the group scaled by its factors of R313
and R314. Every other accumulator keeps its start value: Cin, zero after CLR, or what it was. That MMBM's CX names the dense product it runs, with the listed
values taken k-major, and the place of the mode and bond checks are the model's reading (log 38, DEDUCED). -/
def ProductsComplete : Prop :=
  ∀ (s : State) (core : Nat) (q : Cmd) (rest : List Cmd) (av mark cv sa sb : Nat → Nat → Nat), (s.core core).mq = q :: rest → q.hid = none →
    ∀ e ∈ productForms core, q.top = e.2 →
    let s1 := s.runHead q
    let t := Tcw.of q.word
    let f := mmFmt t.mmTop
    let z := s1.sizeOf q t
    let bound := s1.bindCmd q ([Shape.of q.ra, Shape.of q.rc, Shape.of q.rx, Shape.of q.ry].filter fun r => r.ver != 0)
    let pulled := s1.pullAny bound.core (Shape.of bound.rx) bound.gotX
    let q1 := { bound with gotX := pulled.1 }
    let s2 := pulled.2
    let me := (s2.core core).me
    let bm := t.top = 0x15
    let mx := t.top = 5 ∨ t.top = 6 ∨ t.top = 7
    let before := fun (k m : Nat) => ((List.range z.k).flatMap fun i => (List.range z.m).map fun j => (i, j)).countP fun p =>
      (p.1 < k ∨ (p.1 = k ∧ p.2 < m)) ∧ mark p.1 p.2 = 1
    let unit := fun (u n : Nat) => windowKey q1.core (t.aux % 2 ^ 18 + 1024 * u + 16 * n)
    let code := fun (k m : Nat) => if bm ∧ mark k m ≠ 1 then 0 else av k m
    let row := fun (m : Nat) => (List.range (if bm then z.k else z.k1 - z.k0)).map fun k => mmValue f.a (code k m)
    let col := fun (n : Nat) => ((List.range z.u).flatMap fun u => (List.range f.v).map fun i =>
      mmValue f.b (s2.seen q1.uid q1.seq (unit u n) 16 / 2 ^ (i * elemBits f.b) % 2 ^ elemBits f.b)).take (z.k1 - z.k0)
    let kept : Nat → BitVec 36 := fun i => if t.cin ∨ t.clr then 0 else tgetD me.acc i 0
    let start : Nat → Nat → BitVec 36 := fun m n =>
      if t.cin then BitVec.ofNat 36 (if f.int then cv m n else fa36.bitsOf (fp32.read false (cv m n))) else kept (64 * m + n)
    let group := fun (m n g : Nat) =>
      let products := ((List.zipWith (fun x y => (Fv.mul x y).v) (row m) (col n)).drop (g * f.n)).take f.n
      let r := groupResult f.p (if mx then scaledProducts (some (sa m g)) (some (sb n g)) products else products)
      if isMm t.top ∧ t.scl ∧ f.int = false then r.map (scaleGroup (fp32.read false q1.sa.toNat) (fp32.read false q1.sb.toNat)) else r
    let sum := fun (m n : Nat) => if f.int then ((toSigned 32 (start m n).toNat + sumInts (row m) (col n)) % 2 ^ 32).toNat
      else (List.range (z.g1 - z.g0)).foldl (fun acc g => accumulate acc (group m n g)) (start m n).toNat
    let enabled := fun (m n : Nat) => t.msk = false ∨ isMm t.top = false ∨ (s2.maskFor core q1).enabled m n = true
    let continues := t.acc = true ∧ t.clr = false
    let ready := ¬ (continues ∧ (s1.core core).me.int32 ≠ f.int) ∧ ¬ (q1.core = core ∧ z.u ≠ 0 ∧ s2.bondFails core = true)
    let readable := (∀ m < z.m, ∀ k < z.k1 - z.k0, ¬ bm → ReadsAs s2 q1 (Shape.of q1.ra) q1.gotA [z.k0 + k, m, 0, 0] (av k m)) ∧
      (∀ m < z.m, ∀ k < z.k, bm → ReadsAs s2 q1 (Shape.of q1.rx) q1.gotX [k, m, 0, 0] (mark k m) ∧
        (mark k m = 1 → before k m < (Shape.of q1.ra).e 0 ∧ ReadsAs s2 q1 (Shape.of q1.ra) q1.gotA [before k m, 0, 0, 0] (av k m))) ∧
      (∀ u < z.u, ∀ n < z.n, s2.turnWait q1.uid q1.seq (unit u n) false = false ∧ s2.badIn (unit u n) 16 = none ∧ s2.correct (unit u n) 16 = s2) ∧
      (mx → ∀ g < z.g1 - z.g0, (∀ m < z.m, ReadsAs s2 q1 (Shape.of q1.rx) [] [z.g0 + g, m, 0, 0] (sa m g)) ∧
        ∀ n < z.n, ReadsAs s2 q1 (Shape.of q1.ry) [] [z.g0 + g, n, 0, 0] (sb n g)) ∧
      (t.cin = true → ∀ m < z.m, ∀ n < z.n, ReadsAs s2 q1 (Shape.of q1.rc) [] [n, m, 0, 0] (cv m n))
    ready → readable → ∃ (acc : Tbl (BitVec 36)) (t2 : Bool),
      exec e.1 s = .next ((s2.modMe core fun m => { m with
        acc := acc, int32 := if continues then m.int32 else f.int, chain := if continues then m.chain else true }).endHead (.mq core)
          { q1 with t2rsv := q1.t2rsv || t2 } none) ∧
      (t2 = true ↔ f.a = 0xA ∧ ∃ m < z.m, ∃ k < (if bm then z.k else z.k1 - z.k0), code k m = 2) ∧
      (∀ m < z.m, ∀ n < z.n, (enabled m n → tgetD acc (64 * m + n) 0 = BitVec.ofNat 36 (sum m n)) ∧ (¬ enabled m n → tgetD acc (64 * m + n) 0 = start m n)) ∧
      ∀ i, (∀ m < z.m, ∀ n < z.n, i ≠ 64 * m + n) → tgetD acc i 0 = kept i

/-- The sums of the matrix engine (R221 to R225): integer products are exact; a group of finite products is summed after each is aligned to the largest exponent and truncated toward zero;
a NaN, or infinities of both signs, give NaN; groups of zeros leave the accumulator alone. -/
def MatrixSumsAreAligned : Prop :=
  ∀ (a b : List (BitVec 8)) (p : Nat) (ps : List Fv) (acc : Nat),
    (a.length = b.length → sumInts (a.map fun v => mmValue 8 v.toNat) (b.map fun v => mmValue 8 v.toNat) = (List.zipWith (fun x y => x.toInt * y.toInt) a b).sum) ∧
    (.nan ∈ ps → groupResult p ps = some .nan) ∧ (.inf false ∈ ps → .inf true ∈ ps → groupResult p ps = some .nan) ∧
    (∀ n, .inf n ∈ ps → .inf (!n) ∉ ps → .nan ∉ ps → groupResult p ps = some (.inf n)) ∧
    ((∀ v ∈ ps, ∃ n e, v = .fin n 0 e) → groupResult p ps = none ∧ accumulate acc (groupResult p ps) = acc) ∧
    (∀ (top : Int), (∀ v ∈ ps, ∃ n m e, v = .fin n m e ∧ (m = 0 ∨ expo m e ≤ top)) → (∃ v ∈ ps, ∃ n m e, v = .fin n m e ∧ m ≠ 0 ∧ expo m e = top) →
      ∃ n m, groupResult p ps = some (.fin n m (top - p)) ∧
        fvRat n m 0 = ((ps.map fun v => match v with
          | .fin n m e => if n then -((⌊(m : ℚ) * (2 : ℚ) ^ (e + p - top)⌋ : Int) : ℚ) else ((⌊(m : ℚ) * (2 : ℚ) ^ (e + p - top)⌋ : Int) : ℚ)
          | _ => 0).sum))

/-- The other commands of the matrix engine (R309, R316 to R319, R321, R323 to R325): MLOADB writes each of the window's units once its values are read, MCLR
zeroes the accumulators and sets the mode, MDRAIN converts accumulators into its destination, 64 elements a step, MMASK loads the mask; an MREDB waits for those
of its bent, and the four meet: where no Cin is named position 0 holds ((p0 + p1) + (p2 + p3)). A chain moves whole. That MMASK with RA 0 names no bitmap, and
MREDB with RC 0 no Cin, is the model's reading (log 38, DEDUCED). -/
def Obligations.OtherMatrixCommandsRun : Prop :=
  ∀ (s : State) (core target : Nat) (q : Cmd) (rest : List Cmd) (s2 : State), (s.core core).mq = q :: rest → q.hid = none →
    let s1 := s.runHead q
    let t := Tcw.of q.word
    let me := (s.core core).me
    let p := Port.mq core
    let putMe := fun (m : State) (f : Me → Me) => m.modCore core fun k => { k with me := f k.me }
    (q.top = 0x10 → let r := Shape.of q.ra
      ∀ (q2 : Cmd) (e : Option EMiss), loadElems r me.fenced (r.count - q.pos) (s1.bindCmd q [r]) s1 = (q2, s2, e) →
        let s3 := if q.pos < q2.pos then s2.dropTurns q.uid q.seq else s2
        let s4 := if q2.carry = 0 then s3.zeroUnits q2 r else s3
        (∀ m, e = some m → exec (.mloadb core) s = .next (s3.missHead p q2 m)) ∧
        (e = none → s4.putsOut q2.uid q2.seq = true → exec (.mloadb core) s = .next (s4.putHead p { q2 with carry := 1 })) ∧
        (e = none → s4.putsOut q2.uid q2.seq = false → exec (.mloadb core) s = .next (s4.endHead p q2 none))) ∧
    (∀ (r : Shape) (n u : Nat) (us : List Nat), let k := windowKey q.core (t.aux % 2 ^ 18 + 1024 * u + 16 * n)
      s.lineHeld k = false → s.writeUnit q r n u us = s.writeBytes k (leBytes 16 ((us.zipIdx.map fun e => e.1 * 2 ^ (e.2 * r.w)).sum))) ∧
    (q.top = 0x11 → exec (.mclr core) s = .next ((putMe s1 fun m => { m with acc := [], int32 := t.cx % 2 == 1, chain := true }).endHead p q none)) ∧
    (q.top = 0x12 → let r := Shape.of q.rc
      let s3 := putMe s1 fun m => { m with chain := false }
      exec (.mdrain core) s = .next (s3.elemStep p q r 64 (fun _ i => pure (drainKept q t r (s3.core core).me (s3.maskFor core q) i))
        (fun i v => elemPut q t.shd r (r.index i) v)) ∧
      ∀ i, let n := (r.index i).getD 0 0
        let m := (r.index i).getD 1 0
        let off := t.msk = true ∧ (s3.maskFor core q).enabled m n = false
        let bits := if off then (s3.maskFor core q).fill.toNat else (tgetD me.acc (64 * m + n) 0).toNat
        let v := if me.int32 then intFv (toSigned 32 bits) else if off then fp32.read false bits else fa36.read false bits
        let sat := (t.sat && !([0, 1, 2, 9].contains r.etype)) || q.fctl.getLsbD 5
        let c := convertTo r.etype (q.fctl.toNat % 8) sat (q.fctl.getLsbD 4) v
        drainKept q t r (s3.core core).me (s3.maskFor core q) i = { val := c.1, fx := c.2.bits }) ∧
    (q.top = 0x13 → (Shape.of q.ra).ver = 0 → ∀ v k, engRead { q with gotA := (s1.pullAny q.core (Shape.of q.ra) q.gotA).1 } 16 16 (BitVec.ofNat 64 t.aux)
        (s1.pullAny q.core (Shape.of q.ra) q.gotA).2 = .ok (v, s2) → maskOfBlock v = some k → k.kind ≠ 3 →
      exec (.mmask core) s = .next ((putMe s2 fun m => { m with mask := k }).endHead p { q with gotA := (s1.pullAny q.core (Shape.of q.ra) q.gotA).1 } none)) ∧
    (q.top = 0x14 → exec (.mredb core) s = .next (s1.modCore core fun k => { k with mq := { q with pos := 1 } :: rest })) ∧
    (∀ c0 q0 others, s.redbMeet core = some ((c0, q0) :: others) → (Shape.of q0.rc).ver = 0 →
      (∀ o ∈ others, (Tcw.of o.2.word).cx = (Tcw.of q0.word).cx ∧ (s.core o.1).me.int32 = (s.core c0).me.int32 ∧ (Tcw.of o.2.word).clr = (Tcw.of q0.word).clr) →
      let l := (c0, q0) :: others
      exec (.mredbCombine core) s = .next ((s.modCore c0 fun k => { k with me := { k.me with
          acc := redbValue (s.core c0).me.int32 (l.map fun o => (s.core o.1).me.acc) [] (Shape.of q0.rc) } }).endRedb l none) ∧
        ∀ (accs : List (Tbl (BitVec 36))) (i : Nat), i < 4096 → let v := fun j => (tgetD (accs.getD j []) i 0).toNat
          tgetD (redbValue true accs [] (Shape.of q0.rc)) i 0 = BitVec.ofNat 36 ((v 0 + v 1 + v 2 + v 3) % 2 ^ 32) ∧
          tgetD (redbValue false accs [] (Shape.of q0.rc)) i 0 = BitVec.ofNat 36 (addFa36 (addFa36 (v 0) (v 1)) (addFa36 (v 2) (v 3)))) ∧
    (∀ front chain back, s.chainMoves core target = some (front, chain, back) → exec (.chainMigrate core target) s =
        .next ((s.modCore core fun k => { k with mq := front ++ back }).modCore target fun k => { k with mq := k.mq ++ chain, me := { k.me with guest := me.mask } }) ∧
      q :: rest = front ++ chain ++ back ∧ (s.core target).mq = [] ∧ ∀ c ∈ chain, c.perm = true)

/-- The products of the matrix engine and their sums (R221 to R225, R311 to R315, R321, R322). -/
def Obligations.ProductsAccumulateExactSums : Prop := ProductsComplete ∧ ProductsUpdateTheAccumulators ∧ MatrixSumsAreAligned


/-! ## Copies, publication, watermarks, reductions -/

/-- A copy at the head of a copy queue leaves for its streamers, numbered in order of arrival, and the streamer whose turn it is reads on and sends a packet of
the elements it has read, each with the bits of its source element, where they lie in the same unit (R329, R333). -/
def CopiesStreamPackets : Prop :=
  ∀ (s : State) (core op n u : Nat) (q : Cmd) (rest : List Cmd) (o : CopyOp) (v : Nat → Nat),
    let src := Shape.of o.cmd.ra
    let size := packetElems o.cmd.tcw src.w
    let total := (Shape.of o.cmd.rc).count
    (∀ e ∈ [(Instr.copy core, 0x80), (Instr.copyx core, 0x81)], (s.core core).cq = q :: rest → q.hid = none → q.top = e.2 → usesCells [Shape.of q.ra] = false →
      ∃ t, exec e.1 s = .next t ∧ (t.core core).cq = rest ∧ t.copyOp core (s.core core).nextCopy = some (CopyOp.start q s.nextAge) ∧ t.nextAge = s.nextAge + 1 ∧
        (t.core core).nextCopy = (s.core core).nextCopy + 1 ∧ t.mem = s.mem) ∧
    (s.copyOp core op = some o → o.freedGap = none → s.mayRead core op o = true → s.streamTurn core op o = true → o.cmd.gotA = [] → o.barWait = 0 → n = min size (total - o.read) →
      (∀ (got : List Byte) (e old : Nat), e < n →
        let w := s.modCopy core op fun _ => { o with read := o.read + e, unit := old, cmd := { o.cmd with gotA := got } }
        copyRead { o.cmd with gotA := got } src (Shape.of o.cmd.rb) o.cmd.tcw.gathers (o.read + e) w = .ok (.bits (v e) u, w)) →
      ∃ t, exec (.copyRequest core op) s = .next t ∧ t.mem = s.mem ∧ t.copyOp core op = some { o with
        read := o.read + n, unit := u, nextPkt := o.nextPkt + 1
        packets := o.packets ++ [(o.nextPkt, { first := o.read, count := n, bytes := packStream src.w ((List.range n).map v), hid := none, redo := none, stamp := none, pos := 0, landAt := none, acks := 0 })] })

/-- A packet of whole-byte elements that reaches memory writes them at the places of its destination's elements, in order, and is gone; its bytes count for its
watermark and, with BAR, for the barrier object (R97, R330, R336). A granule in error that the packet writes whole has its code replaced (R73). Writes that leave
by the loopback port or for the ATE that holds their line are on their way until then, and those that the port has no room for wait (R58, R69). -/
def PacketsLandInTheirDestination : Prop :=
  ∀ (s : State) (core op pkt : Nat) (o : CopyOp) (p : Packet) (key : Nat → Nat) (st : Nat → State), s.copyOp core op = some o → tget o.packets pkt = some p → p.pos = 0 → p.landAt = none → p.acks = 0 →
    let c := Shape.of o.cmd.rc
    let addr := fun i => (c.elem (c.index (p.first + i))).1
    let own := fun i => ownAt o.cmd.core (addr i)
    c.loc = 0 → 8 ∣ c.w → 0 < c.w → st 0 = s →
    (∀ i, i < p.count → (addr i).toNat / 2 ^ 60 ≠ 5 ∧ engKey { o.cmd with redo := p.redo } true o.cmd.tcw.shd (c.w / 8) (c.w / 8) (addr i) (st i) = .ok (some (key i), st (i + 1))) →
    let value := fun i => leNat ((p.bytes.drop (i * c.w / 8)).take (c.w / 8))
    let puts := (List.range p.count).map fun i => [Put.mem (key i) (c.w / 8) (value i % 2 ^ c.w) (own i)]
    let n := putsFit (16 - ((st p.count).core o.cmd.core).loop.length) 0 puts
    let made := (puts.take n).foldl (fun m l => (makePuts c l m o.cmd).1) ((st p.count).repairPuts (puts.take n).flatten)
    let stands := (made.modCopy core op fun o => { o with packets := tmod o.packets pkt fun p => { p with pos := n, redo := if n = 0 then p.redo else none } })
    let written := (List.range p.count).foldl (fun m i => m.writeLe (key i) (c.w / 8) (value i)) s
    (st p.count).firstFailed puts = none →
    (n < p.count ∨ made.putsOut o.cmd.uid o.cmd.seq = true → exec (.packetLand core op pkt) s = .next (stands.settleCopy core op)) ∧
    ((∀ i, i < p.count → own i = false ∧ (st p.count).lineHeld (key i) = false) → s.putsOut o.cmd.uid o.cmd.seq = false → ∃ (t : State) (o' : CopyOp), exec (.packetLand core op pkt) s = .next (t.settleCopy core op) ∧ t.mem = written.mem ∧ t.bad = ((st p.count).repairPuts puts.flatten).bad ∧ t.copyOp core op = some o' ∧
      o'.cmd = o.cmd ∧ o'.read = o.read ∧ o'.fault = o.fault ∧ (∀ j, j ≠ pkt → tget o'.packets j = tget o.packets j) ∧ o'.packets.length + 1 = o.packets.length ∧
      o'.barWait = (if o.cmd.tcw.bar then o.barWait + p.count * (c.w / 8) else o.barWait) ∧
      (∀ w, o.cmd.ownMark = some w → vget (t.core core).wmarks w Wmark.reset = (vget (s.core core).wmarks w Wmark.reset).land (p.range c).1 (p.range c).2.1))

/-- A copy with nothing left to do ends (R336, R337): it leaves its core's streamers, its watermark stands at the limit and its token fills; one that has packets or counts
on their way stays. -/
def SettledCopiesEnd : Prop :=
  ∀ (s : State) (core op : Nat) (o : CopyOp), s.copyOp core op = some o → o.barWait = 0 →
    (o.packets ≠ [] → s.settleCopy core op = s) ∧
    (o.packets = [] → o.cmd.gotA = [] → o.barOut = 0 → o.allRead = true → s.copyRemote core op false = false →
      ∃ t : State, s.settleCopy core op = (t.endCmd o.cmd o.fault).sampledAt core 3 ∧ (t.core core).copies = tdel (s.core core).copies op ∧ t.mem = s.mem ∧
        ∀ w, o.cmd.ownMark = some w → w < 8 → (vget (t.core core).wmarks w Wmark.reset).w = BitVec.ofNat 64 (vget (s.core core).wmarks w Wmark.reset).limit)

/-- Landing handlers (R334, R335): a handler starts with its packet's address, byte count, first element number and bytes in x1, x2, x3 and x32 on; DONE lands the first x2 bytes
of those registers at x1. That the landing thread counts what it retires is the model's reading (log 41, DEDUCED). -/
def LandingHandlersStartAndLand : Prop :=
  ∀ (s : State) (core op pkt k : Nat) (o : CopyOp) (p : Packet), s.copyOp core op = some o → tget o.packets pkt = some p → core < 4608 →
    let c := Shape.of o.cmd.rc
    let x1 := (c.elem (c.index p.first)).1
    let entry := BitVec.ofNat 64 ((tgetD (s.core core).chans ((Tcw.of o.cmd.word).cx / 256 % 256) 0).toNat % 2 ^ 48 + 4 * 2 ^ 60)
    (∀ uid old, let x := landStart o.cmd c uid op pkt p entry old
      x.pc = entry ∧ x.xr 1 = x1 ∧ x.xr 2 = BitVec.ofNat 64 p.bytes.length ∧ x.xr 3 = BitVec.ofNat 64 p.first ∧ (p.bytes.length ≤ 256 → x.payload p.bytes.length = p.bytes) ∧
        x.fctl.toNat / 2 ^ 10 % 2 ^ 6 = 0 ∧ (∀ r, x.isFull r = true)) ∧
    (s.mayHandle core op pkt o p = true → (s.thr core 4).landingOn ≠ some (op, pkt) → p.bytes.length ≤ 256 →
      c.base.toNat ≤ x1.toNat → x1.toNat + p.bytes.length ≤ c.base.toNat + c.denseBytes →
      s.check (s.agent core) .fetch 1 4 entry = .ok (.mem k) → s.badIn k 4 = none → BitVec.ofNat 32 (s.readLe k 4) = encode (.done 0 false) →
      ∃ t : State, exec (.landingHandler core op pkt) s = .next ((t.landPacket core op pkt).settleCopy core op) ∧ t.mem = s.mem ∧
        t.copyOp core op = some { o with packets := tmod o.packets pkt fun r => { r with landAt := some x1, bytes := p.bytes, pos := 0 } } ∧
        (t.thr core 4).running = false ∧ (t.thr core 4).retired = satN 64 ((s.thr core 4).retired + 1))

/-- What a landing handler executes (R335): an instruction of majors 0x01 to 0x11, 0x3D, 0x41 to 0x45 or 0x4E, or a load of majors 0x18 to 0x20 through
space 0x0, has its own effect on the landing thread; a trap in it ends the handler with its cause, and any other instruction is ENGFAULT. With n + 1 more to
retire, one that retires leaves n; with none left, it or a DONE is ENGFAULT. That the 256 count DONE is the model's reading (log 41, DEDUCED). -/
def LandingHandlersRunInstructions : Prop :=
  ∀ (s : State) (core k n : Nat) (w : BitVec 32) (i : Instr), s.curCore = core → s.curThread.val = 4 →
    let x := s.ctx core 4
    let s1 := s.fetched k
    let major := w.toNat % 128
    let space := (x.xr (w.extractLsb' 13 6) + (w.extractLsb' 20 12).signExtend 64).toNat / 2 ^ 60
    let runs := (1 ≤ major ∧ major ≤ 0x11) ∨ (0x18 ≤ major ∧ major ≤ 0x20 ∧ space = 0) ∨ major = 0x3D ∨ (0x41 ≤ major ∧ major ≤ 0x45) ∨ major = 0x4E
    let left := fun (l : Nat) (t : State) => landRun core l t
    s.check (s.agent core) .fetch 1 4 x.pc = .ok (.mem k) → s.badIn k 4 = none → w = BitVec.ofNat 32 (s.readLe k 4) → decode w = .ok i → Machine.Instr.early i s1 = none →
      (runs → ∀ t, exec i (s1.modThr core 4 fun th => { th with running := true }) = .next t →
        (∀ p ps, (t.ctx core 4).pend = p :: ps → left n s = .cause p.cause t) ∧
        ((t.ctx core 4).pend = [] → (t.thr core 4).retired = (s.thr core 4).retired → left n s = .wait t) ∧
        ((t.ctx core 4).pend = [] → (t.thr core 4).retired ≠ (s.thr core 4).retired →
          left (n + 1) s = left n (t.modCtx core 4 fun y => { y.settle with opSeq := y.settle.opSeq + 1 }) ∧ left 0 s = .cause .engfault (t.modCtx core 4 Ctx.settle))) ∧
      (∀ v e, i = .done v e → left (n + 1) s = .done s1 ∧ left 0 s = .cause .engfault s1) ∧
      ((∀ v e, i ≠ .done v e) → ¬ runs → left n s = .cause .engfault s1)

/-- Copies: streaming, landing, completion and landing handlers (R97, R329 to R337). -/
def Obligations.CopiesMoveTheirElements : Prop :=
  CopiesStreamPackets ∧ PacketsLandInTheirDestination ∧ SettledCopiesEnd ∧ LandingHandlersStartAndLand ∧ LandingHandlersRunInstructions

/-- PUBL (R95, R341), WMRD (R342), BQTAKE (R344) and QMIG (R323): PUBL of a buffer of the launch waits for the exchange, on its thread or in a saved context, in which the two areas change names and the new shadow
takes the new visible area's bytes; WMRD gives a watermark; BQTAKE takes a block number below the limit, and all ones at it, as it does where the system window names
nothing (R39); QMIG gives back the permission. -/
def Obligations.PublicationsWatermarksAndBlockQueues : Prop :=
  ∀ (s : State) (d a : Reg) (m : Bool) (k uid : Nat) (e : Shadow),
    let v := s.cur.xr a
    (FullAt s [a] →
      (255 < v.toNat ∨ s.shadowEntry s.curK.asidN v.toNat = none → exec (.publ a m) s = .next (s.trap .access { d0 := v })) ∧
      (v.toNat ≤ 255 → s.shadowEntry s.curK.asidN v.toNat = some e →
        (s.accessesOut s.cur.uid = true ∨ (∃ q ∈ s.threadCmds, s.writesBuf v.toNat q = true) → exec (.publ a m) s = .next s) ∧
        (s.accessesOut s.cur.uid = false → (∀ q ∈ s.threadCmds, s.writesBuf v.toNat q = false) →
          exec (.publ a m) s = .next (s.modCur fun x => { x with wait := .publ v.toNat })))) ∧
    (∀ core thread buf x, ((thread ≠ 4 ∧ (s.thr core thread).running = true ∧ x = s.ctx core thread) ∨ (thread = 4 ∧ s.savedPubl core = some x)) → x.wait = .publ buf →
      s.shadowEntry (s.core core).asidN buf = some e → Memory.wf s.mem = true →
      let area := s.shadowBase (s.core core).asidN e
      let shown := if e.sel then area.1 else area.1 + area.2
      let hidden := if e.sel then area.1 + area.2 else area.1
      ∃ t : State, exec (.publExchange core thread) s = .next (t.answer x.uid id) ∧ t.shadowEntry (s.core core).asidN buf = some { e with sel := !e.sel } ∧
        (∀ j, j < area.2 → t.byteAt (hidden + j) = s.byteAt (shown + j)) ∧ (∀ j, j < hidden ∨ hidden + area.2 ≤ j → t.byteAt j = s.byteAt j)) ∧
    (FullAt s [a, d] →
      (7 < v.toNat → exec (.wmrd d a m) s = .next (s.trap .shapebad { d0 := v })) ∧
      (v.toNat ≤ 7 → RunsTo (exec (.wmrd d a m) s) s (fun x => x.setX d (vget s.curK.wmarks v.toNat Wmark.reset).w) (s.cur.pc + 4)) ∧
      (v.toNat < 2 → RunsTo (exec (.qmig d a m) s) s (fun x => ({ x with perm := v.getLsbD 0 } : Ctx).setX d (if s.cur.perm then 1 else 0)) (s.cur.pc + 4)) ∧
      (2 ≤ v.toNat → exec (.qmig d a m) s = .next (s.trap .rsvfld { d0 := v })) ∧
      ((∀ h, s.reachScalar .atomic 16 16 v = .ok (.window h) → s.interlocked true v 16 = false → s.mustFollow s.cur.uid false v 16 (.window h) = false →
        s.loadsOut s.cur.uid = false → RunsTo (exec (.bqtake d a m) s) (s.touchTlb s.curCore v) (producing d (BitVec.allOnes 64)) (s.cur.pc + 4)) ∧
      (ReachesMemory s .atomic false false 16 v k → s.loadsOut s.cur.uid = false →
        let s1 := s.touchTlb s.curCore v
        (∀ g, s1.badIn k 16 = some g → exec (.bqtake d a m) s = .next ((s1.logRange k 16).trap .eccunc { d0 := BitVec.ofNat 64 g })) ∧
        (s1.badIn k 16 = none →
          ((s.launchOf s.curCore).deterministic = false → RunsTo (exec (.bqtake d a m) s)
            ((s1.correct k 16).ateSend (ateRank s.curCore s.curThread.val) (.bqtake k s.cur.uid d)) (fun x => x.markEmpty d) (s.cur.pc + 4)) ∧
          ((s.launchOf s.curCore).deterministic = true → exec (.bqtake d a m) s = .next (((s1.correct k 16).empty d).sendQ d (.bqtake k v))))))) ∧
    (∀ bay r, s.atePick bay = some r → r.op = .bqtake k uid d →
      let m := (s.modBay bay fun y => { y with ate := { y.ate with input := y.ate.input.erase r, nextAt := s.cycle + 1 } }).setHot bay
        ((s.bay bay).ate.touched k)
      let next := s.readLe k 8
      (next < s.readLe (k + 8) 8 → exec (.ateAccept bay) s = .next ((m.writeLe k 8 (next + 1)).deliver uid d (BitVec.ofNat 64 next))) ∧
      (s.readLe (k + 8) 8 ≤ next → exec (.ateAccept bay) s = .next (m.deliver uid d (BitVec.allOnes 64))))

/-- BADDQ (R345 to R347): an address outside space 0 or off its boundary and a descriptor that fails its checks are SHAPEBAD; otherwise it enters its thread's queue with its
block number and retires. Each accumulator takes the exact sum of its old value, or of 0 with CLR, and its scaled input, rounded once to FA36. A run of 32 has the
scale code that puts its largest magnitude at the top of the output type, between 0 and 254, 127 for a run of zeros, and 255 with a NaN or an infinity; an output
element is the accumulator under the code, or NaN, converted with ties to even and saturation. How elements and runs are numbered from x[B] is the model's reading
(log 39, DEDUCED). -/
def Obligations.BlockReductionsAccumulate : Prop :=
  ∀ (s : State) (a b : Reg) (ma mb : Bool),
    let x := s.cur
    let v := x.xr a
    (FullAt s [a, b] → s.curVectors.length < 8 → Quiet s →
      (v.toNat / 2 ^ 60 ≠ 0 ∨ v.toNat % 64 ≠ 0 → exec (.baddq a b ma mb) s = .next (s.trap .shapebad { d0 := v })) ∧
      (∀ r s', v.toNat / 2 ^ 60 = 0 → v.toNat % 64 = 0 → s.readRecords [v] = .ok ([r], s') → let d := Baddq.of r
        (s'.baddChecks d (d.e0 (x.xr b)) = true → exec (.baddq a b ma mb) s = .next (s'.trap .shapebad { d0 := v })) ∧
        (s'.baddChecks d (d.e0 (x.xr b)) = false → ∃ q, q.top = 0x100 ∧ q.ra = r ∧ q.aux = x.xr b ∧ q.uid = x.uid ∧ q.core = s.curCore ∧ q.pos = 0 ∧ q.flags = 0 ∧ q.hid = none ∧
          RunsTo (exec (.baddq a b ma mb) s) s' (fun y => { y with
            ops := y.ops ++ [{ addr := y.pc, seq := y.opSeq, hid := 0, token := 0, cause := none, kind := 4, late := false, state := 0 }], opSeq := y.opSeq + 1
            vq := y.vq ++ [q] }) (s.cur.pc + 4)))) ∧
    (∀ (q : Cmd) (d : Baddq) (e0 i old xv c k : Nat) (s1 s2 s3 : State),
      let va := BitVec.ofNat 64 (d.acc + 8 * i)
      let start := if d.clr then 0 else old
      let acc := fun (inp : Fv) => fa36.bitsOf ((fa36.read false start).add 0 inp).v
      (engRead q 8 8 va s = .ok (old, s1) → packedRead q d.inp d.itype (e0 + i) s1 = .ok (xv, s2) →
        (d.isc = false → baddAcc q d e0 i s = .ok (acc (etRead d.itype false xv), s2)) ∧
        (d.isc = true → packedRead q d.iscl 8 ((e0 + i) / 32) s2 = .ok (c, s3) →
          ∀ inp, inp = (if c = 255 then Fv.nan else match etRead d.itype false xv with | .fin n m e => .fin n m (e + (c - 127 : Int)) | w => w) →
            baddAcc q d e0 i s = .ok (acc inp, s3))) ∧
      (engKey q true false 8 8 va s = .ok (some k, s1) → baddPut q d i xv s = .ok ([.mem k 8 xv false], s1))) ∧
    (∀ (et : Nat) (accs : List Nat), (∀ y ∈ accs, ∃ n e, fa36.read false y = .fin n 0 e) → runCode et accs = 127) ∧
    (∀ (et : Nat) (accs : List Nat) (y : Nat) (n : Bool), y ∈ accs → fa36.read false y = .nan ∨ fa36.read false y = .inf n → runCode et accs = 255) ∧
    (∀ (et : Nat) (accs : List Nat) (y m : Nat) (n : Bool) (e l : Int), y ∈ accs → fa36.read false y = .fin n m e → m ≠ 0 →
      (∀ z ∈ accs, ∃ n' m' e', fa36.read false z = .fin n' m' e' ∧ (m' : ℚ) * (2 : ℚ) ^ e' ≤ m * (2 : ℚ) ^ e) →
      (2 : ℚ) ^ l ≤ m * (2 : ℚ) ^ e → m * (2 : ℚ) ^ e < (2 : ℚ) ^ (l + 1) →
      let top : Int := if et = 3 then 8 else if et = 4 then 15 else if et = 6 then 4 else 2
      (runCode et accs : Int) = max 0 (min 254 (l - top + 127))) ∧
    (∀ (d : Baddq) (code y : Nat),
      (code = 255 → baddOut d code y = convertTo d.otype 0 true false .nan) ∧
      (code ≠ 255 → ∀ n m e, fa36.read false y = .fin n m e → baddOut d code y = convertTo d.otype 0 true false (.fin n m (e + 127 - (code : Int)))) ∧
      (code ≠ 255 → ∀ w, fa36.read false y = w → (w = .nan ∨ w = .inf true ∨ w = .inf false) → baddOut d code y = convertTo d.otype 0 true false w)) ∧
    (∀ (q : Cmd) (d : Baddq) (e0 i r : Nat) (s1 : State) (l : List Kept),
      (baddAcc q d e0 i s = .ok (r, s1) → baddKept q d e0 i s = .ok ({ val := r, fx := if d.outen then (baddOut d 127 r).2.bits else 0 }, s1)) ∧
      (i % 65 < 32 → baddAcc q d e0 (i / 65 * 32 + i % 65) s = .ok (r, s1) → runKept q d e0 l i s = .ok ({ val := r }, s1)) ∧
      (i % 65 = 32 → runKept q d e0 l i s = .ok ({ val := runCode d.otype ((l.take 32).map Kept.val) }, s)) ∧
      (32 < i % 65 → i % 65 ≤ l.length → let o := baddOut d (l.getD 32 { val := 0 }).val (l.getD (i % 65 - 33) { val := 0 }).val
        runKept q d e0 l i s = .ok ({ val := o.1, fx := o.2.bits }, s)) ∧
      (d.outen = false → baddPuts q d e0 i r s = baddPut q d i r s) ∧
      (∀ ps os s2, d.outen = true → baddPut q d i r s = .ok (ps, s1) → packedPut q d.shd d.out d.otype (e0 + i) (baddOut d 127 r).1 s1 = .ok (os, s2) →
        baddPuts q d e0 i r s = .ok (ps ++ os, s2)) ∧
      (i % 65 < 32 → runPuts q d e0 i r = baddPut q d (i / 65 * 32 + i % 65) r) ∧
      (i % 65 = 32 → runPuts q d e0 i r = packedPut q d.shd d.oscl 8 ((e0 + i / 65 * 32) / 32) r) ∧
      (32 < i % 65 → runPuts q d e0 i r = packedPut q d.shd d.out d.otype (e0 + i / 65 * 32 + (i % 65 - 33)) r)) ∧
    (∀ (q : Cmd) (shadow : Bool) (base : Word) (et e y k j : Nat) (s1 s2 : State),
      let w := elemBits et
      let va := base + BitVec.ofNat 64 (e * w / 8)
      let bit := e * w % 8
      va.toNat / 2 ^ 60 ≤ 4 →
      (8 ∣ w → 0 < w → engKey q true shadow (w / 8) (w / 8) va s = .ok (some k, s1) → packedPut q shadow base et e y s = .ok ([.mem k (w / 8) y (q.loops true va)], s1)) ∧
      (0 < w → w < 8 → bit + w ≤ 8 → engKey q true shadow 1 1 va s = .ok (some k, s1) →
        packedPut q shadow base et e y s = .ok ([.bits k bit w (y % 2 ^ w) false (q.loops true va)], s1)) ∧
      (w < 8 → 8 < bit + w → engKey q true shadow 1 1 va s = .ok (some k, s1) → engKey q true shadow 1 1 (va + 1) s1 = .ok (some j, s2) →
        packedPut q shadow base et e y s = .ok ([.bits k bit (8 - bit) (y % 2 ^ (8 - bit)) false (q.loops true va), .bits j 0 (bit + w - 8) (y / 2 ^ (8 - bit)) false (q.loops true va)], s2))) ∧
    (∀ (core thread : Nat) (q : Cmd) (rest : List Cmd), thread < 4 → (s.thr core thread).past = [] → (s.thr core thread).running = true →
      s.queueOf (.vq (s.ctx core thread).uid) = q :: rest → q.top = 0x100 → q.hid = none →
      let p := Port.vq (s.ctx core thread).uid
      let d := Baddq.of q.ra
      let e0 := d.e0 q.aux
      (d.outen = true ∧ d.osc = true → exec (.vectorStep core thread none) s = .next ((s.runHead q).elemStep p q (countShape (65 * ((d.n + 1) / 32))) 65 (runKept q d e0) (runPuts q d e0))) ∧
      (¬ (d.outen = true ∧ d.osc = true) → exec (.vectorStep core thread none) s = .next ((s.runHead q).elemStep p q (countShape (d.n + 1)) 32 (fun _ => baddKept q d e0) (baddPuts q d e0))))

/-! ## Decision diagrams -/

/-- A node's fields (R350), read from device memory. -/
def ddNodeAt (s : State) (d : Dds) (i : Nat) : DdNode :=
  let v := s.readLe (hbmKey (d.nodeBase + 16 * i)) 16
  { level := v % 2 ^ 16, ref := v / 2 ^ 16 % 2 ^ 16, low := v / 2 ^ 32 % 2 ^ 32, high := v / 2 ^ 64 % 2 ^ 32, chain := v / 2 ^ 96 % 2 ^ 32 }

/-- The issuing core's launch has a diagram space whose storage has no error, its terminal in place, and serves requests at once (R349, R351, R357). -/
def DdReady (s : State) (d : Dds) : Prop :=
  tget s.spaces s.curK.asidN = some d ∧ (s.launchOf s.curCore).deterministic = false ∧ Quiet s ∧ s.bad = [] ∧ s.weak = [] ∧ Memory.wf s.mem = true ∧
    s.curK.holds = true ∧ (s.launchOf s.curCore).shadows = [] ∧ (ddNodeAt s d 0).level = 0xFFFF ∧ 10 ≤ d.nn ∧ d.nn ≤ 31 ∧ 1 ≤ d.vars ∧ d.vars ≤ 4096 ∧
    d.nodeBase + 16 * 2 ^ d.nn ≤ 0x6000000000 ∧ d.bktBase + 4 * 2 ^ d.nb ≤ 0x6000000000 ∧ 10 ≤ d.nb ∧ d.nb ≤ 30 ∧
    (d.nodeBase + 16 * 2 ^ d.nn ≤ d.bktBase ∨ d.bktBase + 4 * 2 ^ d.nb ≤ d.nodeBase)

/-- An edge that the operand check accepts (R359). -/
def DdEdge (s : State) (d : Dds) (v : Word) : Prop :=
  let l := (ddNodeAt s d (v.toNat % 2 ^ 31)).level
  v.toNat < 2 ^ 32 ∧ v.toNat % 2 ^ 31 < 2 ^ d.nn ∧ l ≠ 0xFFFE ∧ (l = 0xFFFF ∨ l < d.vars)

/-- A node that a traversal accepts (R351). -/
def DdSound (s : State) (d : Dds) (i : Nat) : Prop :=
  let n := ddNodeAt s d i
  n.level < d.vars ∧ n.low ≠ n.high ∧ n.high < 2 ^ 31 ∧ n.low % 2 ^ 31 < 2 ^ d.nn ∧ n.high < 2 ^ d.nn

/-- A program's own reference to a node (R355): its count one larger, but not at the terminal and not above the saturated 0xFFFF. -/
def ddReferenced (s : State) (d : Dds) (i : Nat) : State :=
  let n := ddNodeAt s d i
  if i = 0 ∨ n.ref = 0xFFFF then s else s.writeLe (hbmKey (d.nodeBase + 16 * i)) 16 ({ n with ref := n.ref + 1 } : DdNode).bits

/-- The bucket of a triple (R354). -/
def ddBucketKey (d : Dds) (l lo hi : Nat) : Nat := hbmKey (d.bktBase + 4 * ddBucket d l lo hi)

/-- TRUE and FALSE as words (R350). -/
def ddConst (b : Bool) : Word := if b then 0 else 0x80000000

/-- The decision-diagram instructions with a destination, each with the code of its request and its operands (R197, R360). -/
noncomputable def ddForms (s : State) (d a b c : Reg) (op : BitVec 4) (ma mb mq : Bool) : List (Instr × Nat × List Reg × Word × Word × Word) :=
  let x := s.cur.xr
  [(.ddvar d a ma, 0, [a], x a, 0, 0), (.ddrestrict d a b ma mb, 1, [a, b], x a, x b, 0), (.ddexist d a b ma mb, 2, [a, b], x a, x b, 0), (.ddcount d a b ma mb, 3, [a, b], x a, x b, 0),
    (.ddswap d a ma, 7, [a], x a, 0, 0), (.ddcollect d, 8, [], 0, 0, 0), (.ddstat d a ma, 9, [a], x a, 0, 0), (.ddapply d a b op ma mb, 16 + op.toNat, [a, b], x a, x b, 0),
    (.ddite d a b c mq, 32, [a, b, c], x a, x b, x c)]

/-- How requests are served (R357, R358, R389): outside deterministic launches at once, x[D] taking the answer or the unit stopping with the cause; in a deterministic launch the
request is kept for the end of the quantum and x[D] is empty. A request waits for the thread's outstanding accesses. Without a diagram space it is DDNODE (R349),
which names the first operand (log 7, DESIGN CHOICE). -/
def DiagramRequestsAreServed : Prop :=
  ∀ (s : State) (d a b c : Reg) (op : BitVec 4) (ma mb mq : Bool), ∀ e ∈ ddForms s d a b c op ma mb mq, FullAt s (d :: e.2.2.1) →
    let q := QOp.dd e.2.1 e.2.2.2.1 e.2.2.2.2.1 e.2.2.2.2.2
    let answer := s.ddServeReq s.curK.asidN (s.curReq d q) e.2.1 e.2.2.2.1 e.2.2.2.2.1 e.2.2.2.2.2
    (s.accessesOut s.cur.uid = true → exec e.1 s = .next s) ∧
    (Quiet s → (s.launchOf s.curCore).deterministic = true → exec e.1 s = .next ((s.empty d).sendQ d q)) ∧
    (Quiet s → (s.launchOf s.curCore).deterministic = false →
      (∀ v t, answer = .ans (.x v t) → RunsTo (exec e.1 s) t (fun x => x.setX d v) (t.cur.pc + 4)) ∧
      (∀ cause det t, answer = .ans (.cause cause det t) → exec e.1 s = .next (t.trap cause det)) ∧
      (tget s.spaces s.curK.asidN = none → exec e.1 s =
        .next ((if (1 ≤ e.2.1 ∧ e.2.1 ≤ 3) ∨ 16 ≤ e.2.1 then s.countCache s.curK.asidN else s).trap .ddnode { d0 := e.2.2.2.1 })))

/-- Results of the decision-diagram instructions (R354, R355, R359, R362 to R369): DDVAR gives its node, found at the head of its bucket or taken from the free list; an edge
operand outside the diagram is DDNODE; operations on constants give the constants of their truth tables; an empty cube leaves an edge; a constant has 2^VARS or no solutions where
every weight is 1; DDREF and DDDEREF count; DDCOLLECT frees an unreferenced node; DDSWAP of levels without nodes exchanges the order; DDSTAT reads the counts, those of the operation
cache among them, which each operation that searches the cache raises by what the rules leave open (log 15). -/
def DiagramInstructionsGiveTheirResults : Prop :=
  ∀ (s : State) (sp : Dds) (d a b c : Reg) (op : BitVec 4) (ma mb mq : Bool), DdReady s sp →
    let asid := s.curK.asidN
    let x := s.cur.xr
    let p := s.part asid
    let sc := s.countCache asid
    let gives := fun (i : Instr) (t : State) (v : Word) => RunsTo (exec i s) t (fun y => y.setX d v) (s.cur.pc + 4)
    let key := fun i => hbmKey (sp.nodeBase + 16 * i)
    let l := p.ddLevOf sp.vars (x a).toNat
    let bucket := ddBucketKey sp l (2 ^ 31) 0
    let head := s.readLe bucket 4
    (FullAt s [a, d] → p.ddValid sp.vars = true → (x a).toNat < sp.vars →
      (∀ n, head = n → 0 < n → n < 2 ^ sp.nn → (ddNodeAt s sp n).level = l → (ddNodeAt s sp n).low = 2 ^ 31 → (ddNodeAt s sp n).high = 0 →
        gives (.ddvar d a ma) (ddReferenced s sp n) (BitVec.ofNat 64 n)) ∧
      (head = 0 → sp.alloc < sp.limit → 0 < sp.freeHead → sp.freeHead < 2 ^ sp.nn → ∃ t, gives (.ddvar d a ma) t (BitVec.ofNat 64 sp.freeHead) ∧
        ddNodeAt t sp sp.freeHead = { level := l % 2 ^ 16, ref := 1, low := 2 ^ 31, high := 0, chain := 0 } ∧ t.readLe bucket 4 = sp.freeHead ∧
        tget t.spaces asid = some { sp with freeHead := (ddNodeAt s sp sp.freeHead).chain, alloc := sp.alloc + 1 })) ∧
    (FullAt s [a, d] → p.ddValid sp.vars = false ∨ sp.vars ≤ (x a).toNat → exec (.ddvar d a ma) s = .next (s.trap .ddorder)) ∧
    (FullAt s [a, b, d] → 2 ^ 32 ≤ (x a).toNat →
      exec (.ddapply d a b op ma mb) s = .next (sc.trap .ddnode { d0 := x a }) ∧ exec (.ddrestrict d a b ma mb) s = .next (sc.trap .ddnode { d0 := x a }) ∧
      exec (.ddexist d a b ma mb) s = .next (sc.trap .ddnode { d0 := x a })) ∧
    (FullAt s [a, b, d] → ∀ f g, x a = ddConst f → x b = ddConst g →
      gives (.ddapply d a b op ma mb) sc (ddConst (op.getLsbD ((if f then 2 else 0) + (if g then 1 else 0))))) ∧
    (FullAt s [a, b, c, d] → ∀ f, x a = ddConst f → DdEdge s sp (x b) → DdEdge s sp (x c) →
      let r := if f then x b else x c
      gives (.ddite d a b c mq) (ddReferenced sc sp (r.toNat % 2 ^ 31)) r) ∧
    (FullAt s [a, b, d] → x b = ddConst true → DdEdge s sp (x a) → (x a).toNat % 2 ^ 31 = 0 ∨ DdSound s sp ((x a).toNat % 2 ^ 31) →
      gives (.ddrestrict d a b ma mb) (ddReferenced sc sp ((x a).toNat % 2 ^ 31)) (x a) ∧
      gives (.ddexist d a b ma mb) (ddReferenced sc sp ((x a).toNat % 2 ^ 31)) (x a)) ∧
    (FullAt s [a, b, d] → p.ddValid sp.vars = true → sp.vars ≤ 1023 → (x b).toNat % 16 = 0 → (x b).toNat + 16 * sp.vars ≤ 0x20000 →
      (∀ i, i < 2 * sp.vars → s.readLe (scratchKey s.curCore ((x b).toNat + 8 * i)) 8 = 0x3FF0000000000000) →
      (x a = ddConst true → gives (.ddcount d a b ma mb) sc (BitVec.ofNat 64 ((1023 + sp.vars) * 2 ^ 52))) ∧
      (x a = ddConst false → gives (.ddcount d a b ma mb) sc 0)) ∧
    (FullAt s [a, b] → (s.unitCtx s.cur.uid).bind Ctx.maskJob = none → ∀ f l0 n st, x a = ddConst f → (x b).toNat % 16 = 0 → (x b).toNat + 16 ≤ 0x20000 → 1 ≤ n → n ≤ 16 → l0 + n ≤ sp.vars → st < 2 ^ n → l0 < 4096 →
      s.readLe (scratchKey s.curCore (x b).toNat) 16 = l0 + (n - 1) * 2 ^ 16 + st * 2 ^ 64 →
      ∃ v : BitVec 16, (∀ j, j < 16 → v.getLsbD j = (f && decide (st + j < 2 ^ n))) ∧ RunsTo (exec (.ddmask d a b ma mb) s) sc (fun y => y.setM d v) (s.cur.pc + 4)) ∧
    (FullAt s [a] → DdEdge s sp (x a) → let i := (x a).toNat % 2 ^ 31
      let n := ddNodeAt s sp i
      RunsTo (exec (.ddref a ma) s) (ddReferenced s sp i) id (s.cur.pc + 4) ∧
      (n.ref = 0 → exec (.ddderef a ma) s = .next (s.trap .ddrefovf { d0 := x a })) ∧
      (n.ref ≠ 0 → RunsTo (exec (.ddderef a ma) s) (if i = 0 ∨ n.ref = 0xFFFF then s else s.writeLe (key i) 16 ({ n with ref := n.ref - 1 } : DdNode).bits) id (s.cur.pc + 4))) ∧
    (FullAt s [a] → 2 ^ 32 ≤ (x a).toNat → exec (.ddref a ma) s = .next (s.trap .ddnode { d0 := x a }) ∧ exec (.ddderef a ma) s = .next (s.trap .ddnode { d0 := x a })) ∧
    (FullAt s [a, d] → p.ddValid sp.vars = true → let k := (x a).toNat
      (sp.vars ≤ k + 1 → exec (.ddswap d a ma) s = .next (s.trap .ddorder)) ∧
      (k + 1 < sp.vars → sp.alloc ≤ sp.limit → (∀ i, 0 < i → i < 2 ^ sp.nn → (ddNodeAt s sp i).level ≠ k ∧ (ddNodeAt s sp i).level ≠ k + 1) →
        gives (.ddswap d a ma) (s.modPart asid fun p => p.ddSwapOrder k) (BitVec.ofNat 64 sp.alloc))) ∧
    (FullAt s [d] → let dead := fun i => (ddNodeAt s sp i).level < 0xFFFE ∧ (ddNodeAt s sp i).ref = 0
      ((∀ i, 0 < i → i < 2 ^ sp.nn → ¬ dead i) → gives (.ddcollect d) s 0) ∧
      (∀ m, 0 < m → m < 2 ^ sp.nn → (∀ i, 0 < i → i < 2 ^ sp.nn → (dead i ↔ i = m)) → let n := ddNodeAt s sp m
        n.low % 2 ^ 31 = 0 → n.high % 2 ^ 31 = 0 → s.readLe (ddBucketKey sp n.level n.low n.high) 4 = m →
        ∃ t, gives (.ddcollect d) t 1 ∧ ddNodeAt t sp m = { level := 0xFFFE, ref := 0, low := 0, high := 0, chain := sp.freeHead % 2 ^ 32 } ∧
          t.readLe (ddBucketKey sp n.level n.low n.high) 4 = n.chain ∧ tget t.spaces asid = some { sp with freeHead := m, alloc := sp.alloc - 1 })) ∧
    (FullAt s [a, d] →
      (∀ v, (x a = 0 ∧ v = sp.alloc) ∨ (x a = 3 ∧ v = 2 ^ sp.nn) ∨ (x a = 4 ∧ v = sp.limit) ∨ (x a = 5 ∧ v = sp.hits) ∨ (x a = 6 ∧ v = sp.misses) ∨ (x a = 7 ∧ v = sp.vars) →
        gives (.ddstat d a ma) s (BitVec.ofNat 64 v)) ∧
      (7 < (x a).toNat → exec (.ddstat d a ma) s = .next (s.trap .rsvfld))) ∧
    (∃ hits misses, tget sc.spaces asid = some { sp with hits := hits, misses := misses } ∧ (sp.hits < 2 ^ 64 → sp.hits ≤ hits) ∧ (sp.misses < 2 ^ 64 → sp.misses ≤ misses)) ∧ sc.mem = s.mem

/-- LEVEL of an edge, 0xFFFF for the terminal, and its cofactor at a level (R362). -/
def ddLevelAt (s : State) (d : Dds) (e : Nat) : Nat := if e % 2 ^ 31 = 0 then 0xFFFF else (ddNodeAt s d (e % 2 ^ 31)).level
def ddCofAt (s : State) (d : Dds) (e l b : Nat) : Nat :=
  let n := ddNodeAt s d (e % 2 ^ 31)
  let c := if b = 0 then n.low else n.high
  if e % 2 ^ 31 = 0 ∨ n.level ≠ l then e else if e < 2 ^ 31 then c else ddNot c

/-- A traversal meets an edge of a sound diagram whose children lie below it, in storage without errors (R351). -/
def DdSees (s : State) (d : Dds) (e : Nat) : Prop :=
  let n := ddNodeAt s d (e % 2 ^ 31)
  s.bad = [] ∧ s.weak = [] ∧ (e % 2 ^ 31 = 0 ∨
    (DdSound s d (e % 2 ^ 31) ∧ ∀ c ∈ [n.low, n.high], n.level < ddLevelAt s d c ∧ (c % 2 ^ 31 = 0 ∨ DdSound s d (c % 2 ^ 31))))

/-- The recursions of R359, R362 and R363, level by level: the results of Apply, Ite, Restrict and Exist come from those of the cofactors, the low ones first, by
MakeNode, or by Apply(OR) where Exist meets a variable of its cube; levels of the cube above the function are passed over; a cube's every node has the child FALSE. A
cause met below is the cause of the whole. -/
def DiagramRecursionsFollowTheirEquations : Prop :=
  ∀ (s t1 t2 : State) (sp : Dds) (asid n f g h op lo hi : Nat), tget s.spaces asid = some sp → DdSees s sp f → DdSees s sp g → DdSees s sp h →
    let run := fun {α : Type} (m : DdM α) (s : State) => m.run.run s
    let lev := ddLevelAt s sp
    let cof := ddCofAt s sp
    let lf := lev f
    (f % 2 ^ 31 ≠ 0 ∨ g % 2 ^ 31 ≠ 0 → let l := min (lev f) (lev g)
      (∀ c det, run (ddApply asid op n (cof f l 0) (cof g l 0)) s = (.error (c, det), t1) → run (ddApply asid op (n + 1) f g) s = (.error (c, det), t1)) ∧
      (run (ddApply asid op n (cof f l 0) (cof g l 0)) s = (.ok lo, t1) → DdSees t1 sp f → DdSees t1 sp g →
        let high := run (ddApply asid op n (ddCofAt t1 sp f l 1) (ddCofAt t1 sp g l 1)) t1
        (∀ c det, high = (.error (c, det), t2) → run (ddApply asid op (n + 1) f g) s = (.error (c, det), t2)) ∧
        (high = (.ok hi, t2) → run (ddApply asid op (n + 1) f g) s = run (ddMake asid l lo hi) t2))) ∧
    (f % 2 ^ 31 = 0 → f < 2 ^ 32 → run (ddIte asid (n + 1) f g h) s = (.ok (if f = 0 then g else h), s)) ∧
    (f % 2 ^ 31 ≠ 0 → let l := min (lev f) (min (lev g) (lev h))
      run (ddIte asid n (cof f l 0) (cof g l 0) (cof h l 0)) s = (.ok lo, t1) → DdSees t1 sp f → DdSees t1 sp g → DdSees t1 sp h →
      run (ddIte asid n (ddCofAt t1 sp f l 1) (ddCofAt t1 sp g l 1) (ddCofAt t1 sp h l 1)) t1 = (.ok hi, t2) →
      run (ddIte asid (n + 1) f g h) s = run (ddMake asid l lo hi) t2) ∧
    (g = 0 ∨ lf ≤ lev g → run (ddSkipCube sp lf (n + 1) g) s = (.ok g, s)) ∧
    (g % 2 ^ 31 ≠ 0 → lev g < lf → run (ddSkipCube sp lf (n + 1) g) s =
      run (ddSkipCube sp lf n (if cof g (lev g) 0 = 2 ^ 31 then cof g (lev g) 1 else cof g (lev g) 0)) s) ∧
    (∀ ex c, run (ddSkipCube sp lf (sp.vars + 1) h) s = (.ok c, s) → DdSees s sp c →
      let whole := run (ddRestrict asid ex (n + 1) f h) s
      let next := if cof c lf 0 = 2 ^ 31 then cof c lf 1 else cof c lf 0
      let below := fun (m : State) (b w : Nat) => run (ddRestrict asid ex n (ddCofAt m sp f lf b) w) m
      (f % 2 ^ 31 = 0 ∨ c = 0 → whole = (.ok f, s)) ∧
      (f % 2 ^ 31 ≠ 0 → c ≠ 0 → lev c = lf → ex = false → whole = below s (if cof c lf 0 = 2 ^ 31 then 1 else 0) next) ∧
      (f % 2 ^ 31 ≠ 0 → c ≠ 0 → lev c = lf → ex = true → below s 0 next = (.ok lo, t1) → DdSees t1 sp f → below t1 1 next = (.ok hi, t2) →
        whole = run (ddApply asid 14 (sp.vars + 2) lo hi) t2) ∧
      (f % 2 ^ 31 ≠ 0 → c ≠ 0 → lev c ≠ lf → below s 0 c = (.ok lo, t1) → DdSees t1 sp f → below t1 1 c = (.ok hi, t2) → whole = run (ddMake asid lf lo hi) t2)) ∧
    (g % 2 ^ 31 = 0 → run (ddIsCube sp (n + 1) g) s = (.ok (g == 0), s)) ∧
    (g % 2 ^ 31 ≠ 0 → let low := cof g (lev g) 0
      let high := cof g (lev g) 1
      run (ddIsCube sp (n + 1) g) s = if low = 2 ^ 31 then run (ddIsCube sp n high) s else if high = 2 ^ 31 then run (ddIsCube sp n low) s else (.ok false, s))

/-- DDAPPLY, DDITE, DDRESTRICT and DDEXIST on any edges (R355, R359, R362, R363): x[D] takes the recursion's result with a reference of the program's own; a cube operand that is
no cube is DDNODE; a cause met after nodes were created stops the instruction and leaves them. A DDNODE met inside a diagram names the first operand (log 7,
DESIGN CHOICE). -/
def DiagramOperationsGiveTheirRecursions : Prop :=
  ∀ (s : State) (sp : Dds) (d a b c : Reg) (op : BitVec 4) (ma mb mq : Bool), DdReady s sp →
    let asid := s.curK.asidN
    let x := s.cur.xr
    let n := fun r => (x r).toNat
    let sc := s.countCache asid
    let gives := fun (i : Instr) (m : DdM Nat) =>
      (∀ e t st, (m.run).run sc = (.ok e, t) → tget t.spaces asid = some st → t.bad = [] → t.weak = [] →
        RunsTo (exec i s) (ddReferenced t st (e % 2 ^ 31)) (fun y => y.setX d (BitVec.ofNat 64 e)) (t.cur.pc + 4)) ∧
      (∀ cause det t, (m.run).run sc = (.error (cause, det), t) → cause ≠ .ddfull →
        exec i s = .next (t.trap cause (if cause = .ddnode ∧ det.d1 ≠ 0 then { d0 := x a } else det)))
    (FullAt s [a, b, d] → DdEdge s sp (x a) → DdEdge s sp (x b) →
      gives (.ddapply d a b op ma mb) (ddApply asid op.toNat (sp.vars + 2) (n a) (n b)) ∧
      ∀ e ∈ [(Instr.ddrestrict d a b ma mb, false), (.ddexist d a b ma mb, true)], ∀ sq, tget sc.spaces asid = some sq →
        (((ddIsCube sq (sp.vars + 1) (n b)).run).run sc = (.ok true, sc) → gives e.1 (ddRestrict asid e.2 (sp.vars + 2) (n a) (n b))) ∧
        (((ddIsCube sq (sp.vars + 1) (n b)).run).run sc = (.ok false, sc) → exec e.1 s = .next (sc.trap .ddnode { d0 := x b }))) ∧
    (FullAt s [a, b, c, d] → DdEdge s sp (x a) → DdEdge s sp (x b) → DdEdge s sp (x c) → gives (.ddite d a b c mq) (ddIte asid (sp.vars + 2) (n a) (n b) (n c)))

/-- DDINIT and the writes of DDORD and DDLIM (R352, R353, R360, R370): an unprivileged DDINIT is PRIV; a good descriptor gives its partition a diagram space whose nodes but the terminal
are free and whose buckets are empty; a DDORD is written but for its reserved bits, a DDLIM inside the table replaces the limit. -/
def DiagramSpacesAreSetUp : Prop :=
  ∀ (s : State) (a : Reg) (m : Bool) (nn nb ocsh die asid vars node bkt : Nat),
    let v := s.cur.xr a
    let p := s.readLe (scratchKey s.curCore v.toNat) 64
    ((s.launchOf s.curCore).privileged = false → exec (.ddinit a m) s = .next (s.trap .priv)) ∧
    ((s.launchOf s.curCore).privileged = true → (s.launchOf s.curCore).deterministic = false → (s.launchOf s.curCore).shadows = [] → s.curK.holds = true → Quiet s → FullAt s [a] →
      s.bad = [] → s.weak = [] → Memory.wf s.mem = true → v.toNat % 64 = 0 → v.toNat + 64 ≤ 0x20000 →
      p = (vars - 1) + nn * 2 ^ 47 + nb * 2 ^ 52 + ocsh * 2 ^ 57 + die * 2 ^ 62 + asid * 2 ^ 64 + node * 2 ^ 192 + bkt * 2 ^ 256 →
      1 ≤ vars → vars ≤ 4096 → 10 ≤ nn → nn < 32 → 10 ≤ nb → nb ≤ 30 → 1 ≤ ocsh → ocsh ≤ 16 → die < 4 → asid < 4096 → node % 4096 = 0 → bkt % 4096 = 0 →
      node + 16 * 2 ^ nn ≤ 0x6000000000 → bkt + 4 * 2 ^ nb ≤ 0x6000000000 → (node + 16 * 2 ^ nn ≤ bkt ∨ bkt + 4 * 2 ^ nb ≤ node) →
      tget s.spaces asid = none → (s.part asid).qreqs = [] → (s.die die).cacheBlocks + ocsh ≤ 16 →
      ∃ t, RunsTo (exec (.ddinit a m) s) t id (s.cur.pc + 4) ∧ (t.die die).cacheBlocks = (s.die die).cacheBlocks + ocsh ∧ ∃ d : Dds, tget t.spaces asid = some d ∧
        d = { srvdie := die, nodeBase := node, bktBase := bkt, nn := nn, nb := nb, ocsh := ocsh, vars := vars, alloc := 0, limit := 2 ^ nn - 1, freeHead := 1, hits := 0, misses := 0 } ∧
        ddNodeAt t d 0 = { level := 0xFFFF, ref := 0xFFFF, low := 0, high := 0, chain := 0 } ∧
        (∀ i, 0 < i → i < 2 ^ nn → ddNodeAt t d i = { level := 0xFFFE, ref := 0, low := 0, high := 0, chain := if i + 1 = 2 ^ nn then 0 else i + 1 }) ∧
        (∀ i, i < 2 ^ nb → t.readLe (hbmKey (bkt + 4 * i)) 4 = 0)) ∧
    (∀ (n : Nat) (value : Word), n < 1024 → s.running asid = true →
      let old := (s.part asid).ddord n
      let new := (old &&& ~~~0x0FFF0FFF0FFF0FFF#64) ||| (value &&& 0x0FFF0FFF0FFF0FFF)
      (value &&& 0xF000F000F000F000 ≠ 0 ∨ (∃ d, tget s.spaces asid = some d ∧ d.alloc ≠ 0) → exec (.ddordWrite asid n value) s = .next s) ∧
      (value &&& 0xF000F000F000F000 = 0 → (∀ d, tget s.spaces asid = some d → d.alloc = 0) →
        exec (.ddordWrite asid n value) s = .next (s.modPart asid fun q => { q with ddords := tput q.ddords n new }))) ∧
    (∀ value,
      (tget s.spaces asid = none → ∃ t, exec (.ddlimWrite asid value) s = .next t ∧ tget t.spaces asid = none ∧ { t with spaces := s.spaces } = s) ∧
      (∀ d, tget s.spaces asid = some d → d.limit < 2 ^ 31 → ∃ t, exec (.ddlimWrite asid value) s = .next t ∧ { t with spaces := s.spaces } = s ∧
        tget t.spaces asid = some { d with limit := min (value.toNat % 2 ^ 31) (2 ^ d.nn - 1) }))

/-- MakeNode (R351, R354): with equal children it is the child; otherwise the answer is a node of the level with the two children, both complemented where the high child carries
a flag, which the answer then carries; every node that was not free keeps its level and children. -/
def MakeNodeIsUniqueAndKeepsNodes : Prop :=
  ∀ (s : State) (sp : Dds) (l lo hi : Nat), DdReady s sp → lo < 2 ^ 32 → hi < 2 ^ 32 → l < sp.vars →
    (∀ i, i < 2 ^ sp.nn → (ddNodeAt s sp i).chain < 2 ^ sp.nn) → (∀ b, b < 2 ^ sp.nb → s.readLe (hbmKey (sp.bktBase + 4 * b)) 4 < 2 ^ sp.nn) →
    let asid := s.curK.asidN
    let flip := fun e => if hi < 2 ^ 31 then e else ddNot e
    (lo = hi → ((ddMake asid l lo hi).run).run s = (.ok lo, s)) ∧
    (lo ≠ hi → 0 < sp.freeHead → sp.freeHead < 2 ^ sp.nn → (ddNodeAt s sp sp.freeHead).level = 0xFFFE → lo % 2 ^ 31 < 2 ^ sp.nn → hi % 2 ^ 31 < 2 ^ sp.nn →
      ∀ e t, ((ddMake asid l lo hi).run).run s = (.ok e, t) →
        (let n := ddNodeAt t sp (e % 2 ^ 31)
         n.level = l ∧ n.low = flip lo ∧ n.high = flip hi) ∧ (2 ^ 31 ≤ e ↔ 2 ^ 31 ≤ hi) ∧
        (∀ i, i < 2 ^ sp.nn → (ddNodeAt s sp i).level ≠ 0xFFFE →
          (ddNodeAt t sp i).level = (ddNodeAt s sp i).level ∧ (ddNodeAt t sp i).low = (ddNodeAt s sp i).low ∧ (ddNodeAt t sp i).high = (ddNodeAt s sp i).high))

/-- The decision-diagram engine's instructions (R349 to R371). -/
def Obligations.DecisionDiagramInstructionsAreServed : Prop :=
  DiagramRequestsAreServed ∧ DiagramInstructionsGiveTheirResults ∧ DiagramRecursionsFollowTheirEquations ∧ DiagramOperationsGiveTheirRecursions
/-- Setting up a diagram space, and MakeNode (R350 to R354, R360, R370). -/
def Obligations.DiagramSpacesAndTheirNodes : Prop := DiagramSpacesAreSetUp ∧ MakeNodeIsUniqueAndKeepsNodes

/-! ## Translation, held accesses, remote accesses, errors -/

/-- A walk (R27 to R29, R31): through three valid tables to a leaf it gives the leaf's frame and rights; an entry that is not valid, a leaf at level 0, or a first table past device memory
ends it with its reason; an entry in the walk cache stands for its table read. A walk that ends in a page is cached for its core and bay; another leaves them as they are; the tables
it passed are cached beside the walkers. -/
def WalksFollowTheTables : Prop :=
  ∀ (s : State) (core asid va t1 t2 t3 f rights : Nat), s.bad = [] → va < 2 ^ 48 → core < 4608 → s.running asid = true →
    let die := coreDie core
    let base := (s.part asid).launch.ptbase
    let entry := fun (table index : Nat) => s.readLe (hbmKey (table + 8 * index)) 8
    let i0 := va / 2 ^ 39 % 512
    let w := walk s die asid va
    let cached := fun (level : Nat) => s.cachedTable die asid level (va >>> (levelShift level).1)
    (0x6000000000 ≤ base → w.res = .fail 3) ∧
    (base < 0x6000000000 → (∀ t, cached 0 = some t → w = walkFrom s die asid va 3 1 t) ∧
      ((∀ level, level < 4 → cached level = none) →
        (entry base i0 % 2 = 0 → w.res = .fail 0) ∧
        (entry base i0 % 4 = 3 → entry base i0 / 2 ^ 48 = 0 → entry base i0 / 16 % 16 = 0 → w.res = .fail 1) ∧
        (entry base i0 = t1 + 1 → t1 % 4096 = 0 → t1 < 0x6000000000 → entry t1 (va / 2 ^ 30 % 512) = t2 + 1 → t2 % 4096 = 0 → t2 < 0x6000000000 →
          entry t2 (va / 2 ^ 21 % 512) = t3 + 1 → t3 % 256 = 0 → t3 < 0x6000000000 →
          entry t3 (va / 2 ^ 16 % 32) = f + 3 + 4 * rights → rights < 4 → f % 65536 = 0 → f < 0x6000000000 →
          w.res = .page 3 f (rights % 2 = 1) (rights / 2 = 1) ∧
            w.path = [{ asid := asid, level := 0, pre := va / 2 ^ 39, table := t1 }, { asid := asid, level := 1, pre := va / 2 ^ 30, table := t2 },
              { asid := asid, level := 2, pre := va / 2 ^ 21, table := t3 }]))) ∧
    ((s.core core).asid = some asid → (∀ e ∈ (s.core core).tlb ++ (s.bay (tlbBay core)).tlb, e.maps asid va = false) → ∃ t, exec (.pageWalk core asid va) s = .next t ∧ t.mem = s.mem ∧
      (∀ level frame wr x, w.res = .page level frame wr x → (s.core core).tlb.length < 32 → (s.bay (tlbBay core)).tlb.length < 1024 →
        let e : Tlb := { asid := asid, level := level, page := va >>> (levelShift level).1, frame := frame, w := wr, x := x }
        (t.core core).tlb = (s.core core).tlb ++ [e] ∧ (t.bay (tlbBay core)).tlb = (s.bay (tlbBay core)).tlb ++ [e]) ∧
      (∀ r, w.res = .fail r → (t.core core).tlb = (s.core core).tlb ∧ (t.bay (tlbBay core)).tlb = (s.bay (tlbBay core)).tlb) ∧
      ((s.die die).walks.length + w.path.length ≤ 256 → ∀ p ∈ w.path, ∃ q ∈ (t.die die).walks, q.asid = p.asid ∧ q.level = p.level ∧ q.pre = p.pre))

/-- Held accesses (R41 to R46): the first notification without a record is written at the ring's turn and raises class 17; the oldest stalled access is tried again when
an entry is free: it goes on where its translation is now valid, and takes the entry under the reason that it meets now where it is not; a replay lets the access be made again and a kill stops its unit with the notification's cause; a command for no notification sets ERR. -/
def HeldAccessesAreSettled : Prop :=
  ∀ (s : State) (die hid asid uid c u : Nat) (n : Notif) (h : Held) (rest : List Held), die < 4 →
    let d := s.die die
    let count := (d.held.filter fun h => h.hid == n.hid).length
    let s1 := s.modDie die fun d => { d with held := d.held.filter fun h => h.hid ≠ n.hid, notifs := d.notifs.filter fun m => m.hid ≠ n.hid }
    let replayed := .next (s1.modUnit uid fun x => if x.wait = .held then { x with wait := .no } else x)
    let killed := (s1.modCtx c u fun x => { x with wait := .no }).takeStop c u 0 (some n.cause) (h.detail n.cause)
    let single := (d.held.filter fun h => h.hid == n.hid) = [h] ∧ h.who = .thread uid ∧ s.findUnit uid = some (c, u) ∧ (s.ctx c u).wait = .held
    (d.notifs.find? (fun n => !n.written) = some n → d.nringFull = false →
      exec (.notificationRecord die) s = .next ((s.modDie die fun e => { e with
        nring := tput e.nring (e.nwr % 512) (notifBits die n count), nwr := (e.nwr + 1) % 1024
        notifs := e.notifs.map fun m => if m.hid = n.hid then { m with written := true } else m }).raiseIrq die 17)) ∧
    (n.hid < 2 ^ 16 → n.asid < 2 ^ 12 → n.reason < 16 → count < 2 ^ 13 → n.vag < 2 ^ 32 → let r := (notifBits die n count).toNat
      r % 2 ^ 12 = n.asid ∧ r / 2 ^ 16 % 2 ^ 32 = n.vag ∧ r / 2 ^ 56 % 16 = n.reason ∧ r / 2 ^ 64 % 2 ^ 13 = count ∧ r / 2 ^ 96 % 4 = die ∧ r / 2 ^ 112 = n.hid) ∧
    (d.stalled = h :: rest → d.held.length < 4096 → h.who = .thread uid →
      let tried := s.modDie die fun e => { e with stalled := rest }
      (∀ r, h.space = 4 → tried.stillFails die h = some r → ∃ t, exec (.faultHoldRetry die) s = .next t ∧ (t.die die).stalled = rest ∧
        ∃ e, (t.die die).held = d.held ++ [e] ∧ e.va = h.va ∧ e.who = h.who ∧ e.kind = h.kind ∧ e.reason = r ∧ e.cause = reasonCause r (h.kind = .fetch)) ∧
      (h.space ≠ 4 ∨ tried.stillFails die h = none →
        exec (.faultHoldRetry die) s = .next (tried.modUnit uid fun x => if x.wait = .held then { x with wait := .no } else x))) ∧
    (d.notifs.find? (fun m => m.hid == hid) = some n → single →
      exec (.fhReplayHid die hid) s = replayed ∧ exec (.fhKillHid die hid) s = .next killed) ∧
    (d.notifs.find? (fun m => m.hid == hid) = none →
      exec (.fhReplayHid die hid) s = .next (s.modDie die fun d => { d with fhErr := true }) ∧ exec (.fhKillHid die hid) s = .next (s.modDie die fun d => { d with fhErr := true })) ∧
    (d.notifs.filter (fun m => m.asid == asid) = [n] → single →
      exec (.fhReplayAsid die asid) s = replayed ∧ exec (.fhKillAsid die asid) s = .next killed) ∧
    (d.notifs.filter (fun m => m.asid == asid) = [] → exec (.fhReplayAsid die asid) s = .next s ∧ exec (.fhKillAsid die asid) s = .next s)

/-- Invalidation (R31, R49 to R51): a command is numbered, removes from the caches of cores, bays and walkers of the dies it names the translations and the entries that it covers and no others,
once the stores of system cores before it are performed, and completes in order of acceptance, once no access that used one of them, or that a peer had asked for
before it, is on its way. -/
def InvalidationsRemoveTranslations : Prop :=
  ∀ (s : State) (die asid va dies size : Nat), die < 4 →
    let issued := ((s.die die).invIssued + 1) % 65536
    let named := fun (d : Nat) => dies / 2 ^ d % 2 = 1
    let removes := fun (t : State) (named : Nat → Prop) (hit : Nat → Nat → Nat → Bool) =>
      (∀ c, (named (coreDie c) → (t.core c).tlb = (s.core c).tlb.filter fun e => !hit e.asid e.level e.page) ∧ (¬ named (coreDie c) → (t.core c).tlb = (s.core c).tlb)) ∧
      (∀ b, (named (tlbDie b) → (t.bay b).tlb = (s.bay b).tlb.filter fun e => !hit e.asid e.level e.page) ∧ (¬ named (tlbDie b) → (t.bay b).tlb = (s.bay b).tlb)) ∧
      (∀ j, j < 4 → (named j → (t.die j).walks = (s.die j).walks.filter fun e => !hit e.asid e.level e.pre) ∧ (¬ named j → (t.die j).walks = (s.die j).walks))
    let does := fun (i : Instr) (hit : Nat → Nat → Nat → Bool) => ∃ t cmd, exec i s = .next t ∧ (t.die die).invIssued = issued ∧ (t.die die).invPend = (s.die die).invPend ++ [cmd] ∧
      cmd.seq = issued ∧ (t.die die).invDone = (s.die die).invDone ∧ t.mem = s.mem ∧ cmd.rma = s.pkg.rmaIn.length ∧
      (s.sysStoresOut cmd = false → cmd.removed = true ∧ removes t named hit) ∧
      (s.sysStoresOut cmd = true → cmd.removed = false ∧ removes t named fun _ _ _ => false) ∧
      ∀ c, { t.core c with tlb := [], copies := [] } = { s.core c with tlb := [], copies := [] }
    let bytes := if size = 0 then 2 ^ 16 else if size = 1 then 2 ^ 21 else 2 ^ 30
    let covers := fun (a level page : Nat) => let sh := if level = 0 then 39 else if level = 1 then 30 else if level = 2 then 21 else 16
      decide (a = asid ∧ page * 2 ^ sh < va / bytes * bytes + bytes ∧ va / bytes * bytes < page * 2 ^ sh + 2 ^ sh)
    (size < 3 → does (.tlbinvPage die asid va dies size) covers) ∧
    (3 ≤ size → exec (.tlbinvPage die asid va dies size) s = .next s) ∧
    does (.tlbinvAsid die asid dies) (fun a _ _ => decide (a = asid)) ∧
    does (.tlbinvAll die dies) (fun _ _ _ => true) ∧
    (∀ i rest, (s.die die).invPend = i :: rest →
      (i.removed = true → s.invWaits i = false → exec (.tlbinvComplete die) s = .next (s.modDie die fun d => { d with invPend := rest, invDone := i.seq })) ∧
      (i.removed = true → s.invWaits i = true → exec (.tlbinvComplete die) s = .next s) ∧
      (i.removed = false → s.sysStoresOut i = true → exec (.tlbinvComplete die) s = .next s) ∧
      (i.removed = false → s.sysStoresOut i = false → ∃ t, exec (.tlbinvComplete die) s = .next t ∧
        (t.die die).invPend = { i with removed := true, stamp := s.nextAge, cycle := s.cycle } :: rest ∧ (t.die die).invDone = (s.die die).invDone ∧ t.mem = s.mem ∧
        removes t (fun d => i.dies / 2 ^ d % 2 = 1) fun a level page => i.scope == 3 || (if i.scope = 2 then a == i.asid else
          let sh := if level = 0 then 39 else if level = 1 then 30 else if level = 2 then 21 else 16
          decide (a = i.asid ∧ page * 2 ^ sh < i.va + i.bytes ∧ i.va < page * 2 ^ sh + 2 ^ sh)))) ∧
    (∀ i, 0 < i.rma → s.invWaits i = true)

/-- Accesses to and from peers (R35, R36, R67, R103, R132, R427): in its turn at its port, a load's value is on its way to its x register, or the thread that waits for an f register, a wide
read or a store's acknowledgement goes on; a timed one brings its outcome; a negative completion is held with reason 6 and a failed transport with reason 7; an inbound access of any size
through the launch's tables writes its bytes and is acknowledged, or answers its bytes, or answers the reason; a timed one enters the buffer of its home under the greater of the two
bounds. The status codes 0, 1 and others, the layout of a timed answer and reason 0 for an access with no launch are the model's (log 44, DEDUCED), and so is the
walker beside die 0 (log 62, DESIGN CHOICE). -/
def RemoteAccessesComplete : Prop :=
  ∀ (s : State) (req status reason cause c u : Nat) (data : List Byte) (r : RemoteReq),
    let found := s.pkg.remotes.find? fun r => r.id == req && !r.held && s.remoteTurn r
    let s1 := s.modPkg fun p => { p with remotes := p.remotes.filter fun q => q.id ≠ req }
    let v := leNat (data.take r.size)
    let goesOn := fun (f : Ctx → Ctx) => .next ((s1.modCtx c u f).retireAt c u ((s.ctx c u).pc + 4))
    let back := fun (status : Nat) => exec (.remoteCompletion req status reason cause data) s
    let die := coreDie r.core
    let joins := fun (t : State) (status : Nat) (who : Holder) => ∃ h, (t.die die).held = (s.die die).held ++ [h] ∧ h.va = r.va ∧ h.who = who ∧ h.space = 5 ∧ h.reason = (if status = 1 then 6 else 7)
    (found = none → back status = .next s) ∧
    (found = some r → r.copy = none → r.timed = none → s.findUnit r.uid = some (c, u) →
      (r.write = true → back 0 = goesOn id) ∧
      (r.write = false → r.size ≤ 8 → r.fp = true → back 0 = goesOn fun x => x.setF r.dest (BitVec.ofNat 64 v)) ∧
      (r.write = false → r.size ≤ 8 → r.fp = false → back 0 = .next (s1.deliver r.uid r.dest (if r.signed then BitVec.ofInt 64 (toSigned (8 * r.size) v) else BitVec.ofNat 64 v))) ∧
      (r.write = false → 8 < r.size → data.length = r.size → back 0 = .next (s1.modUnit r.uid fun x => { x with wide := data, wait := .no })) ∧
      (∀ status ≠ 0, (s.die die).held.length < 4096 → (s.die die).stalled = [] → die < 4 →
        (r.goneOn = true → ∃ t, back status = .next t ∧ joins t status (.request r.id) ∧
          t.pkg.remotes = s.pkg.remotes.map fun q => if q.id = r.id then { q with held := true } else q) ∧
        (r.goneOn = false → (s.thr c u).running = true → u < 5 → ∃ t, back status = .next t ∧ joins t status (.thread r.uid) ∧ (t.ctx c u).wait = .held))) ∧
    (∀ a, found = some r → r.copy = none → r.timed = some a →
      let flags := (data.getD (if a.store then 8 else a.size) 0).toNat
      let b := { a with onTime := flags % 2 = 1, unlocked := a.unlocked || flags / 2 % 2 == 1, throttle := a.throttle || flags / 4 % 2 == 1
                        arr := BitVec.ofNat 64 (leNat (data.take 8)) }
      (a.store = true → back 0 = .next (s1.sendOutcome b)) ∧
      (a.store = false → back 0 = .next ((s1.modCore (s1.holderOf a.core) fun k => k.countUnlocked b.unlocked).deliver a.uid a.reg
        (BitVec.ofInt 64 (toSigned (8 * a.size) (leNat (data.take a.size))))))) ∧
    (∀ (q : RmaReq) (rest : List RmaReq), s.pkg.rmaIn = q :: rest → s.bad = [] → s.weak = [] →
      let s2 := s.rmaPop
      let pieces := s.rmaPieces q.asid q.va.toNat q.write q.size
      let sends := fun (t : State) (o : HostOut) => t.modPkg fun p => { p with hostOut := p.hostOut ++ [o] }
      let answers := fun (o : HostOut) => .next (sends s2 o)
      s2.pkg.rmaIn = rest ∧ s2.mem = s.mem ∧
      (q.sent = true → (s.putsOut 0 0 = true → exec .rmaInbound s = .next s) ∧ (s.putsOut 0 0 = false → exec .rmaInbound s = answers (.rmaWritten q.asid q.va))) ∧ (q.sent = false →
      (s.running q.asid = false → exec .rmaInbound s = answers (.rmaFail q.asid q.va 0)) ∧
      (∀ e, s.running q.asid = true → 0 < q.size → (walk s 0 q.asid (q.va.toNat % 2 ^ 48)).res = .fail e → exec .rmaInbound s = answers (.rmaFail q.asid q.va e)) ∧
      (∀ ps, pieces = .ok ps → q.timed = none → (∀ p ∈ lineParts ps, s.lineHeld p.1 = false) →
        (q.write = false → s.turns = [] → exec .rmaInbound s = answers (.rmaRead q.asid q.va (ps.flatMap fun p => s.bytesAt p.1 p.2) false)) ∧
        (q.write = true → s.putsOut 0 0 = false → ∃ t, exec .rmaInbound s = .next (sends t (.rmaWritten q.asid q.va)) ∧ t.pkg.rmaIn = rest ∧
          (∀ k n, ps = [(k, n)] → n = q.size → q.data.length = n → t.mem = (s.writeBytes k q.data).mem) ∧
          (∀ k n k2 n2, ps = [(k, n), (k2, n2)] → n + n2 = q.size → q.data.length = q.size → t.mem = ((s.writeBytes k (q.data.take n)).writeBytes k2 (q.data.drop n)).mem))) ∧
      (∀ k n more tm, pieces = .ok ((k, n) :: more) → q.timed = some tm → ∃ t a, exec .rmaInbound s = .next t ∧
        (t.timedBuf (homeOf k)).incoming = (s.timedBuf (homeOf k)).incoming ++ [a] ∧ a.store = q.write ∧ a.loc = k ∧ a.size = q.size ∧
        a.data = BitVec.ofNat 64 (leNat q.data) ∧ a.t = tm.t ∧ a.throttle = tm.throttle ∧
        a.skew = max tm.bound s.pkg.skewxBound ∧ a.unlocked = !s.pkg.skewxValid ∧ a.peer = some q.asid ∧ t.mem = s.mem))) ∧
    exec (.uetUnsupported req) s = .next (s.modPkg fun p => { p with hostOut := p.hostOut ++ [.notSupported req] })

/-- The scrubber and the error log (R72 to R75): an uncorrectable granule is logged as found by the scrubber, the first one with its address and level, a later one with MULTI, which leaves the address
unless it is of the same cycle and lies lower; a correctable one is
corrected and counted; CLR zeroes both counts and nothing else. -/
def ErrorsAreLoggedAndCorrected : Prop :=
  ∀ (s : State) (die g : Nat), die < 4 → g % s.granuleSize g = 0 → keyDie g = die →
    let e := s.die die
    let events := (e.eccstat.toNat / 2 ^ 48 + 1)
    let scrub := exec (.scrubRead die g) s
    (g ∈ s.bad → ∃ t, scrub = .next t ∧ t.mem = s.mem ∧ t.bad = s.bad ∧ (t.die die).eccstat.toNat / 2 ^ 48 = min events (2 ^ 16 - 1) ∧
      (e.eccstat.getLsbD 0 = false → (t.die die).eccstat.getLsbD 0 = true ∧ (t.die die).eccstat.getLsbD 4 = true ∧ (t.die die).eccaddr = BitVec.ofNat 64 g ∧
        (t.die die).eccstat.toNat / 2 ^ 5 % 8 = s.eccLevel g) ∧
      (e.eccstat.getLsbD 0 = true → (t.die die).eccstat.getLsbD 3 = true ∧
        (t.die die).eccaddr = (if e.eccAt = s.cycle ∧ g < e.eccaddr.toNat then BitVec.ofNat 64 g else e.eccaddr) ∧
        (e.eccAt ≠ s.cycle → (t.die die).eccstat.getLsbD 4 = true ∧ (t.die die).eccstat.toNat / 2 ^ 5 % 8 = e.eccstat.toNat / 2 ^ 5 % 8))) ∧
    (g ∉ s.bad → g ∈ s.weak → ∃ t, scrub = .next t ∧ t.mem = s.mem ∧ g ∉ t.weak ∧ (t.die die).eccstat.toNat / 2 ^ 16 % 2 ^ 32 = min (e.eccstat.toNat / 2 ^ 16 % 2 ^ 32 + 1) (2 ^ 32 - 1)) ∧
    (g ∉ s.bad → g ∉ s.weak → scrub = .next s) ∧
    ∃ t, exec (.eccstatClr die) s = .next t ∧ t.mem = s.mem ∧ (t.die die).eccstat.toNat = e.eccstat.toNat % 2 ^ 16 ∧ (t.die die).eccaddr = e.eccaddr

/-- Walks, held accesses and invalidations (R27 to R31, R41 to R50). -/
def Obligations.TranslationsAreWalkedHeldAndInvalidated : Prop := WalksFollowTheTables ∧ HeldAccessesAreSettled ∧ InvalidationsRemoveTranslations
/-- Remote accesses and memory errors (R35, R36, R67, R72 to R76, R103, R132, R427). -/
def Obligations.RemoteAccessesAndMemoryErrors : Prop := RemoteAccessesComplete ∧ ErrorsAreLoggedAndCorrected

/-! ## Time -/

/-- The discipline of a die's clock (R106 to R111, R131): an exchange sends at the die's count and is received `out` ticks later by the grandmaster's, answered after `turn` ticks and received
`back` ticks later; OFFS is half the difference of the two transit times, rounded down, and DELAY half their sum; FREE and HOLDOVER go to RELOCK, where a count behind steps forward at
once and the homes of the die act at the ticks passed; sixteen exchanges in a row within SKEWB/4 lock it; beyond SKEWB/2 a locked die enters HOLDOVER with SKEWEXC, after four failures
with TIMELOST. -/
def DiesFollowTheGrandmaster : Prop :=
  ∀ (s : State) (die out back turn : Nat), die < 4 → s.pkg.minimal = false →
    let g := (s.die die).gtu
    let skewb := s.pkg.skewb
    let t1 := g.count.toNat
    let t2 := s.pkg.gmCount.toNat + out
    let t3 := t2 + turn
    let t4 := t1 + out + turn + back
    let offs : Int := (((t4 : Int) - t3) - ((t2 : Int) - t1)) / 2
    let delay : Int := (((t2 : Int) - t1) + ((t4 : Int) - t3)) / 2
    let clamp := fun (n v : Int) => max (-n) (min n v)
    let counted := { s with freshCount := s.freshCount + 1 }
    let set := fun (f : Gtu → Gtu) => counted.modDie die fun d => { d with gtu := f { d.gtu with period := s.pkg.gmCount.toNat / 16000 } }
    let fine := fun (f : Gtu → Gtu) => set fun g => f { g with offs := offs, delay := delay, bad := 0, since := 0 }
    let run := exec (.timeExchange die true out back turn) s
    let lost := exec (.timeExchange die false out back turn) s
    let holdover := fun (g : Gtu) => ({ g with state := .holdover, losses := satN 16 (g.losses + 1), good := 0, bad := 0, slew := 0, since := 0 } : Gtu)
    (g.state = .free ∨ g.state = .holdover →
      (offs < 0 → let w := fine fun g => { g with state := .relock, good := 0, slew := 0, count := g.count + BitVec.ofInt 64 (-offs) }
        run = .next (if BitVec.ofInt 64 (-offs) = 0 then w else w.runHomes die)) ∧
      (0 ≤ offs → run = .next (fine fun g => { g with state := .relock, good := 0, slew := clamp 62 (-offs) }))) ∧
    (g.state = .relock →
      (4 * offs.natAbs ≤ skewb → 15 ≤ g.good → run = .next (fine fun g => { g with state := .locked, good := 0, slew := clamp 8 (-offs) })) ∧
      (4 * offs.natAbs ≤ skewb → g.good < 15 → run = .next (fine fun g => { g with good := g.good + 1, slew := clamp 62 (-offs) })) ∧
      (skewb < 4 * offs.natAbs → run = .next (fine fun g => { g with good := 0, slew := clamp 62 (-offs) }))) ∧
    (g.state = .locked →
      (2 * offs.natAbs ≤ skewb → run = .next (fine fun g => { g with slew := clamp 8 (-offs) })) ∧
      (skewb < 2 * offs.natAbs → run = .next ((fine holdover).notice die .skewexc 0 0 0))) ∧
    (g.bad < 3 ∨ g.state = .free ∨ g.state = .holdover → lost = .next (set fun g => { g with good := 0, bad := g.bad + 1, slew := 0, since := 0 })) ∧
    (3 ≤ g.bad → g.state = .relock ∨ g.state = .locked → lost = .next ((set holdover).notice die .timelost 0 0 0))

/-- The external grandmaster (R112 to R114): a session's request names port, domain and allowance; of the messages of that port and domain the best master's are followed: a Sync, or its
Follow_Up, with the path delay known, measures the offset, and a Delay_Resp measures the path delay; a measured offset slews the count, or steps it forward where it is more than 1 ms
behind; an offset beyond the published bound is SKEWEXC and the bound is no longer valid; each interval publishes a new bound, which is valid where offsets were measured in it and none exceeded; a master
that falls silent is followed no more, with TIMELOST. The slew limit of 8, the notices at die 0, that messages of another port or domain are ignored and that a Sync
measures once the delay is known are the model's reading (log 45, DEDUCED); the numbers of the message types are PRESUMED (log 77). -/
def TheGrandmasterIsDisciplined : Prop :=
  ∀ (s : State) (session port domain allowance kind seq source origin : Nat) (twoStep : Bool) (rank : List Nat) (offset : Int),
    let p := s.pkg
    let q := p.ptp
    let asks := exec (.externalDisciplineRequest session port domain allowance) s
    let ptp := fun (f : Ptp → Ptp) => s.modPkg fun p => { p with ptp := f p.ptp }
    let comes := fun (kind : Nat) => exec (.ptpMessage kind port domain seq source origin twoStep rank) s
    let t : Int := 16 * ((origin : Int) - 10 ^ 9 * (p.epoch.toNat : Int))
    let now : Int := p.gmCount.toNat
    let past := p.skewxBound ≠ 0 ∧ p.skewxBound < offset.natAbs
    let noted := { q with offset := some offset, measured := true, exceeded := q.exceeded || decide past }
    let raised := fun (t : State) => if past ∧ p.skewxValid = true then t.notice 0 .skewexc 0 0 0 else t
    (∀ x, s.pkg.sessions.find? (fun x => x.id == session) = some x →
      ((x.ifaces.any fun i => i.1 == 4 && i.2.isSome) = true → port < 16 → p.minimal = false →
        asks = .next (s.modPkg fun p => { p with ext := true, extPort := port, extDomain := domain, extAllow := allowance, ptp := Ptp.reset })) ∧
      ((x.ifaces.any fun i => i.1 == 4 && i.2.isSome) = false → asks = .next (s.send (.refused session 2)))) ∧
    (s.pkg.sessions.find? (fun x => x.id == session) = none → asks = .next s) ∧
    (p.ext = false ∨ port ≠ p.extPort ∨ domain ≠ p.extDomain → comes kind = .next s) ∧
    (p.ext = true → port = p.extPort → domain = p.extDomain →
      (q.best = none → comes 11 = .next (ptp fun q => { q with best := some (rank, source) })) ∧
      (∀ b, q.best = some b → b.2 ≠ source →
        (lexLt rank b.1 = true → comes 11 = .next (ptp fun q => { q with best := some (rank, source), syncSeq := none, syncOut := none, reqOut := none, delay := none })) ∧
        (lexLt rank b.1 = false → comes 11 = .next s) ∧ (kind ≠ 11 → comes kind = .next s)) ∧
      (∀ b, q.best = some (b, source) →
        let sync := ptp fun q => { q with syncSeq := some seq, syncIn := now, syncOut := if twoStep then none else some t, reqSeq := (q.reqSeq + 1) % 65536, reqOut := some now }
        (twoStep = true ∨ q.delay = none → comes 0 = .next sync) ∧
        (∀ d, twoStep = false → q.delay = some d → comes 0 = .next (sync.measured (now - t - d))) ∧
        (∀ d, q.syncSeq = some seq → q.syncOut = none → q.delay = some d → comes 8 = .next ((ptp fun q => { q with syncOut := some t }).measured (q.syncIn - t - d))) ∧
        (∀ t1 t3 d, q.reqOut = some t3 → q.syncOut = some t1 → q.reqSeq = seq → q.delay = some d →
          comes 9 = .next (ptp fun q => { q with delay := some (((q.syncIn - t1) + (t - t3)) / 2), reqOut := none })))) ∧
    (-16000000 ≤ offset → s.measured offset = raised { s with pkg := { p with
      gmSlew := max (-8) (min 8 (-offset)), gmSince := 0, skewxValid := p.skewxValid && !decide past, ptp := noted } }) ∧
    (offset < -16000000 → BitVec.ofInt 64 (-offset) ≠ 0 → s.measured offset = (raised { s with pkg := { p with
      gmCount := p.gmCount + BitVec.ofInt 64 (-offset), gmSlew := 0, gmSince := 0, skewxValid := p.skewxValid && !decide past, ptp := noted } }).runGateways) ∧
    (∀ o, p.ext = true → q.offset = some o → exec .syncInterval s = .next (s.modPkg fun p => { p with
      skewxBound := min (o.natAbs + p.extAllow + p.skewb) (2 ^ 32 - 1), skewxValid := if p.ptp.measured then !p.ptp.exceeded else p.skewxValid, ptp := { p.ptp with measured := false, exceeded := false } })) ∧
    (p.ext = false ∨ q.offset = none → exec .syncInterval s = .next s) ∧
    (p.ext = true → exec .announceTimeout s = .next ((s.modPkg fun p => { p with
      skewxValid := false, ptp := { p.ptp with measured := false, best := none, syncSeq := none, syncOut := none, reqOut := none, delay := none } }).notice 0 .timelost 0 0 0)) ∧
    (p.ext = false → exec .announceTimeout s = .next s)

/-- The clocks of the dies and the grandmaster (R106 to R114; logs 45 and 77). -/
def Obligations.ClocksAreDisciplined : Prop := DiesFollowTheGrandmaster ∧ TheGrandmasterIsDisciplined

/-! ## User queues, launches, quanta -/

/-- Kicks and mappings (R374, R377 to R380, R391): a kick of a mapped queue moves its tail, a malformed one sets BADK, one of an unmapped queue writes TAIL and makes the queue pending; in a deterministic launch
kicks wait. A mapping loads the slot from the control block, an unmapping writes it back and empties the slot. -/
def QueuesAreKickedAndMapped : Prop :=
  ∀ (s : State) (asid qid tail slot qcb : Nat) (u : UserQ), s.running asid = true →
    let q := (s.part asid).sched
    let new := tail % 2 ^ 32
    let run := exec (.kick asid qid tail) s
    let h := s.hqs asid slot
    ((s.part asid).active = true →
      ((s.part asid).launch.deterministic = true → run = .next (s.modSched asid fun q => { q with kicks := q.kicks ++ [(qid, tail)] })) ∧
      ((s.part asid).launch.deterministic = false → q.queues.find? (fun u => u.qid == qid) = some u →
        (s.slotOfQcb asid u.qcb = some slot →
          (new = h.tail → run = .next s) ∧
          (new ≠ h.tail → 2 ^ h.logsz < (new + 2 ^ 32 - h.head) % 2 ^ 32 ∨ 2 ^ 31 ≤ (new + 2 ^ 32 - h.tail) % 2 ^ 32 → run = .next (s.qcbPut u.qcb 3 35 1 1)) ∧
          (new ≠ h.tail → (new + 2 ^ 32 - h.head) % 2 ^ 32 ≤ 2 ^ h.logsz → (new + 2 ^ 32 - h.tail) % 2 ^ 32 < 2 ^ 31 →
            run = .next ((s.modHqs asid slot fun h => { h with tail := new }).refreshHead asid slot))) ∧
        (s.slotOfQcb asid u.qcb = none → s.qcbV u.qcb = true → new ≠ s.qcbTail u.qcb →
          (new + 2 ^ 32 - s.qcbHead u.qcb) % 2 ^ 32 ≤ 2 ^ s.qcbLogsz u.qcb → (new + 2 ^ 32 - s.qcbTail u.qcb) % 2 ^ 32 < 2 ^ 31 →
          run = .next ((s.qcbPut u.qcb 1 32 32 new).pendQueue asid u)))) ∧
    (slot < 16 → h.v = false → s.qcbV qcb = true → s.slotOfQcb asid qcb = none →
      ∃ t, exec (.queueMap asid slot qcb) s = .next t ∧ t.mem = ((s.qcbPut qcb 3 33 1 0).qcbPut qcb 3 34 1 1).mem ∧
        let m := t.hqs asid slot
        m.v = true ∧ m.qcb = qcb ∧ m.qid = s.qcbQid qcb ∧ m.bpri = s.qcbBpri qcb ∧ m.logsz = s.qcbLogsz qcb ∧ m.ring = (s.qcbWord qcb 0).toNat ∧
          m.head = s.qcbHead qcb ∧ m.tail = s.qcbTail qcb ∧ m.done = s.qcbDone qcb) ∧
    (slot < 16 → h.v = true →
      ∃ t, exec (.queueUnmap asid slot) s = .next t ∧ t.hqs asid slot = Hqs.reset ∧
        t.mem = (((((s.qcbPut h.qcb 1 0 32 h.head).qcbPut h.qcb 1 32 32 h.tail).qcbPut h.qcb 2 32 32 h.done).qcbPut h.qcb 3 48 4 h.bpri).qcbPut h.qcb 3 34 1 0).mem)

/-- Selection and pulls (R382, R383, R385 to R387): the ready head with the largest effective priority, then the longest wait, is selected; its descriptor becomes a root with a completion record of count 1,
which enters the core its PLACE names or the task queue; the queue's head advances. A pull takes the most urgent, then the oldest entry. -/
def HeadsAreSelectedAndRootsPulled : Prop :=
  ∀ (s : State) (asid i : Nat), s.running asid = true →
    let q := (s.part asid).sched
    let s1 := s.refreshHeads asid
    let live := (s.part asid).active = true ∧ (s.part asid).launch.deterministic = false
    (live → s1.selectSlot asid = some i → s1.selectTime asid = true → exec (.dispatchSelection asid) s = .next (s1.selectHead asid i)) ∧
    (live → s1.selectSlot asid = none → exec (.dispatchSelection asid) s = .next s1) ∧
    (s.selectSlot asid = some i → (s.hqs asid i).v = true ∧ i < q.nslot ∧ ∃ w, (s.hqs asid i).readySince = some w ∧
      ∀ j r, j < q.nslot → (s.hqs asid j).v = true → (s.hqs asid j).readySince = some r → s.slotEp asid j ≤ s.slotEp asid i ∧ (s.slotEp asid j = s.slotEp asid i → w ≤ r)) ∧
    (∀ a d, i < 16 → (s.hqs asid i).headAt = a → s.descrAt a = d → s.badIn (hbmKey a) 64 = none → (s.part asid).launch.malformed d = false → q.rootCount < 2 ^ 32 → Memory.wf s.mem = true →
      s.lcoreCore asid ((nth 0 d 1).toNat / 2 ^ 32 % 2 ^ 16) = none →
      let t := s.selectHead asid i
      t.readLe (hbmKey (a + 32)) 8 = 1 ∧ t.readLe (hbmKey (a + 40)) 8 = 0 ∧ (t.hqs asid i).head = ((s.hqs asid i).head + 1) % 2 ^ 32 ∧
        (t.part asid).sched.rootCount = q.rootCount + 1 ∧ (∃ r, (t.part asid).sched.roots = q.roots ++ [r] ∧ r.loc = hbmKey (a + 32) ∧ r.qid = (s.hqs asid i).qid ∧ r.index = (s.hqs asid i).head ∧ r.sig = nth 0 d 3) ∧
        ∃ e, (t.part asid).sched.taskq = q.taskq ++ [e] ∧ vget e.peg.w 0 0 = nth 0 d 0 ∧ (vget e.peg.w 1 0).toNat / 2 ^ 48 = (nth 0 d 1).toNat / 2 ^ 48 ∧
          vget e.peg.w 2 0 = BitVec.ofNat 64 (0x7000300000000000 + a + 32) ∧ vget e.peg.w 3 0 = nth 0 d 6 ∧ vget e.peg.w 4 0 = nth 0 d 7) ∧
    (∀ c w rest e, live → q.pulls = (c, w) :: rest → q.firstTask = some e → exec (.taskQueuePull asid) s =
      .next ((s.modSched asid fun q => { q with taskq := q.taskq.filter fun f => f.age ≠ e.age, pulls := q.pulls.filter fun p => p.1 ≠ c }).readyItem (s.holderOf c) e.peg.enqt (.peg e.peg))) ∧
    (∀ e, q.firstTask = some e → e ∈ q.taskq ∧ ∀ f ∈ q.taskq, f.peg.pri ≤ e.peg.pri ∧ (f.peg.pri = e.peg.pri → e.age ≤ f.age))

/-- Starts and ends of launches (R55, R200, R372, R408, R411, R413): the first request that may start (the model's choice, log 47) gives its cores their LCOREs in order, with clear scratchpads; a launch whose HALT has been recorded and that has
nothing left to finish (what must have settled: log 27) leaves the machine and reports; a frozen one leaves without a report (log 47); a launch without progress for its watchdog's period, which pauses while a context of the launch lies in a slot
(log 48), is frozen, with a notice at the die of LCORE 0 (log 46). -/
def LaunchesStartAndEnd : Prop :=
  ∀ (s : State) (asid : Nat) (r : LaunchReq),
    let p := s.part asid
    let gone := fun (t : State) => (∀ c, (t.core c).asid ≠ some asid) ∧ (∀ a, a ≠ asid → (tget t.parts a).isSome = (tget s.parts a).isSome) ∧
      (∀ d, d < 4 → ∀ e ∈ (t.die d).slots, e.2.asid ≠ asid) ∧ (∀ d, d < 4 → ∀ h ∈ (t.die d).held, h.asid ≠ asid)
    (s.pkg.launchReqs.find? (fun r => s.launchReady r) = some r → r.diagram = 0 → (r.cores ++ r.spares).Nodup → (∀ c ∈ r.cores, c < 4608) →
      ∃ t, exec .launchStart s = .next t ∧ t.running r.asid = true ∧ t.pkg.launchReqs = s.pkg.launchReqs.erase r ∧ (t.part r.asid).launch.mask = r.bents ++ r.reserve ∧
        (t.part r.asid).launch.ptbase = r.launch.ptbase ∧
        (∀ l, l < r.cores.length → let c := r.cores.getD l 0
          (t.core c).asid = some r.asid ∧ (t.core c).lcore = l ∧ (t.core c).holds = true ∧ (∀ u, u < 5 → (t.thr c u).running = false) ∧ t.lcoreCore r.asid l = some c ∧
            ∀ off, off < 0x20000 → t.byteAt (scratchKey c off) = 0) ∧
        (∀ c ∈ r.spares, (t.core c).asid = some r.asid ∧ (t.core c).holds = false)) ∧
    (s.pkg.launchReqs.find? (fun r => s.launchReady r) = none → exec .launchStart s = .next s) ∧
    (s.running asid = true → p.stopping = true → p.frozen = false → s.launchSettled asid = true →
      ∃ t, exec (.launchEnd asid) s = .next t ∧ gone t ∧ t.pkg.hostOut = s.pkg.hostOut ++ [.launchEnd asid p.haltStatus p.warnSum]) ∧
    (∀ h ∈ p.halts, p.launch.deterministic = false → (∀ g ∈ p.halts, g ≠ h → h.time.toNat < g.time.toNat ∨ (h.time = g.time ∧ h.lcore < g.lcore)) → p.haltStatus = h.status) ∧
    (s.running asid = true → p.frozen = true → s.launchSettled asid = true → ∃ t, exec (.endFrozenLaunch asid) s = .next t ∧ gone t ∧ t.pkg.hostOut = s.pkg.hostOut) ∧
    (s.running asid = true → p.stopping = false → p.frozen = false → p.wdcfg.toNat % 2 ^ 32 ≠ 0 → p.wdLast + 1200 * (p.wdcfg.toNat % 2 ^ 32) ≤ s.cycle →
      (∀ d, d < 4 → ∀ e ∈ (s.die d).slots, e.2.asid ≠ asid) → exec (.watchdog asid) s = .next ((s.modPart asid fun p => { p with frozen := true }).pushRec (coreDie ((s.lcoreCore asid 0).getD 0))
        { kind := 6, slot := 0, cause := Cause.watchdog.code, asid := asid, lcore := 0, tid := 0 }))

/-- Ends of quanta (R389 to R391): the launch's quantum ends where every core has ended it or is blocked in it, and not before; with nothing to serve the number alone advances. A request
that is served takes a value for its unit's destination. -/
def QuantaEnd : Prop :=
  ∀ (s : State) (asid : Nat),
    let p := s.part asid
    let q := p.sched.quanta
    (s.quantumOver asid = false → exec (.quantumEnd asid) s = .next s) ∧
    (s.running asid = true → p.launch.deterministic = true → p.stopping = false → p.frozen = false → p.dbg.rplctl = 0 → s.quantumOver asid = true →
      exec (.quantumEnd asid) s = .next (s.quantumWork asid q).1 ∧
      (p.qreqs = [] → p.sched.kicks = [] → p.sched.pulls = [] → p.sdir.closable = false → p.sdir.cells = [] → (∀ i, i < 16 → (s.hqs asid i).v = false ∧ (s.hqs asid i).readySince = none) →
        (∀ d, d < 4 → (s.die d).slots = []) → (∀ c ∈ s.launchCores asid, q < (s.core c).det.ended) →
        let t := (s.quantumWork asid q).1
        (t.part asid).sched.quanta = q + 1 ∧ t.mem = s.mem ∧ t.cores = s.cores ∧ t.dies = s.dies ∧ t.pkg = s.pkg)) ∧
    (∀ (r : QReq) (loc : Nat) (va : Word), r.op = .bqtake loc va → r ∈ p.qreqs → s.running asid = true →
      let s1 := s.modPart asid fun p => { p with qreqs := p.qreqs.erase r }
      let next := s.readLe loc 8
      (next < s.readLe (loc + 8) 8 → (serveAll asid r.quantum [r] s []).1 = ((s1.writeLe loc 8 ((next + 1) % 2 ^ 64)).answer r.uid fun x => (x.setX r.dest (BitVec.ofNat 64 next)).markFull r.dest)) ∧
      (s.readLe (loc + 8) 8 ≤ next → (serveAll asid r.quantum [r] s []).1 = s1.answer r.uid fun x => (x.setX r.dest (BitVec.allOnes 64)).markFull r.dest))

/-- User queues (R374 to R388). -/
def Obligations.UserQueuesAreDispatched : Prop := QueuesAreKickedAndMapped ∧ HeadsAreSelectedAndRootsPulled
/-- Launches and quanta (R55, R372, R389 to R391, R411, R413). -/
def Obligations.LaunchesAndQuantaEnd : Prop := LaunchesStartAndEnd ∧ QuantaEnd

/-! ## Stops and what system software does with them -/

/-- The context that a stop saves: the unit's, with no hold in its vector queue, no wait but for an answer under way, nothing left of the instruction that did not leave the thread, and the
causes not taken kept until the unit has run again (R396, R397, R400). -/
def savedCtx (x : Ctx) : Ctx :=
  { x with
    vq := x.vq.map fun q => { q with hid := none, redo := none }, wait := if x.wait.kept then x.wait else .no, redo := none, stall := .no
    wide := if x.wait.kept then x.wide else [], maskJob := if x.wait.kept then x.maskJob else none
    pend := x.pend.map fun p => { p with late := true }, badLate := x.badRegs.length }

/-- TAKING A STOP (R392, R393, R397, R398, R399): the unit's context, its program counter at the instruction, goes into the lowest free slot of its die with the cause, the detail, the launch, LCORE and thread, and the thread is idle
once its record is written; the stop ring's next entry names slot, cause, launch, LCORE and task, and class 16 is raised at the system core that IRQRT names. With no free slot the stop waits on its thread, and FULLSEEN is set. -/
def StopsSaveTheContext : Prop :=
  ∀ (s : State) (c u kind i : Nat) (cause : Cause) (det : Detail), u < 4 → coreDie c < 4 → kind ≠ 1 →
    let x := s.ctx c u
    let die := coreDie c
    let d := s.die die
    let t := s.takeStop c u kind (some cause) det
    let k := s.core c
    x.kind = .task → x.w1.toNat / 2 ^ 57 % 2 = 0 →
    (tfree d.slots 4096 = some i → d.stopWait = [] → (tgetD d.stopRing d.stopNext 0).getLsbD 127 = false →
      (∃ sl, tget (t.die die).slots i = some sl ∧ sl.ctx = savedCtx x ∧ sl.ctx.pc = x.pc ∧ sl.kind = kind ∧ sl.cause = cause.code ∧ sl.asid = k.asidN ∧ sl.lcore = k.lcore ∧ sl.core = c ∧
        sl.thread = u ∧ sl.more = false ∧ (cause ≠ .illop → cause ≠ .rsvfld → sl.det = det)) ∧
      (t.thr c u).running = false ∧ (t.thr c u).stopped = none ∧ t.mem = s.mem ∧ (∀ j, j ≠ i → tget (t.die die).slots j = tget d.slots j) ∧
      (s.lcoreCore k.asidN k.lcore = some c → (t.thr c u).noting = false) ∧
      (∀ a b, (a, b) ≠ (c, u) → b ≠ u ∨ s.lcoreCore k.asidN k.lcore ≠ some a → t.thr a b = s.thr a b) ∧
      (let r := (tgetD (t.die die).stopRing d.stopNext 0).toNat
       r / 2 ^ 127 = 1 ∧ r / 2 ^ 124 % 8 = kind % 8 ∧ r / 2 ^ 112 % 2 ^ 12 = i % 2 ^ 12 ∧ r / 2 ^ 102 % 2 ^ 6 = cause.code % 2 ^ 6 ∧ r / 2 ^ 90 % 2 ^ 12 = k.asidN % 2 ^ 12 ∧ r / 2 ^ 48 % 2 ^ 16 = k.lcore % 2 ^ 16 ∧
         r % 2 ^ 48 = x.tid) ∧
      (t.die die).stopNext = (d.stopNext + 1) % 1024 ∧ (kind ≠ 5 → (16, die) ∈ (vget t.pkg.sysCores (d.irqrt.toNat % 8) SysCore.reset).pending)) ∧
    (tfree d.slots 4096 = none → (t.thr c u).running = false ∧ (t.die die).cxFull = true ∧ (t.ctx c u) = savedCtx x ∧
      ∃ st, (t.thr c u).stopped = some st ∧ st.cause = cause.code ∧ st.kind = kind ∧ st.age = s.nextAge)

/-- Stops that wait (R397, R398): the oldest stopped thread takes a slot once one is free; a record that waits is written once the ring's entry has been taken, and the thread that
waited for it is idle. -/
def WaitingStopsAndRecordsFollow : Prop :=
  ∀ (s : State) (core thread i die : Nat) (st : Stopped) (r : StopRec) (rest : List StopRec),
    ((s.thr core thread).stopped = some st → tfree (s.die (coreDie core)).slots 4096 = some i → s.oldestStopped (coreDie core) = some (core, thread) → coreDie core < 4 → thread < 4 → st.kind ≠ 1 →
      ∃ t sl, exec (.unitStop core thread) s = .next t ∧ tget (t.die (coreDie core)).slots i = some sl ∧ sl.ctx = s.ctx core thread ∧ sl.cause = st.cause ∧ sl.kind = st.kind ∧ sl.det = st.det ∧
        (t.thr core thread).running = false ∧ (t.thr core thread).stopped = none) ∧
    (s.oldestStopped (coreDie core) ≠ some (core, thread) → exec (.unitStop core thread) s = .next s) ∧
    ((s.die die).stopWait = r :: rest → die < 4 → (s.die die).ringBlocked = false →
      ∃ t, exec (.stopRecord die) s = .next t ∧ (t.die die).stopWait = rest ∧ tget (t.die die).stopRing (s.die die).stopNext = some r.bits ∧
        (t.die die).stopNext = ((s.die die).stopNext + 1) % 1024 ∧ t.mem = s.mem ∧
        (∀ u c, r.thr = some u → u < 5 → s.lcoreCore r.asid r.lcore = some c → (t.thr c u).noting = false) ∧
        (r.sc = none → (r.cls, die) ∈ (vget t.pkg.sysCores ((s.die die).irqrt.toNat / 2 ^ (3 * (r.cls - 16)) % 8) SysCore.reset).pending)) ∧
    ((s.die die).ringBlocked = true → exec (.stopRecord die) s = .next s)

/-- Resuming (R402, R403): the context of a slot that is not an aborted handler's enters the ready queue of the core that holds its LCORE, or the LCORE named, at its program counter, and the slot is free; in a deterministic launch
it waits for the end of that core's quantum. A command for an empty slot, or against its kind, sets ERR and does nothing else. -/
def SlotsAreResumed : Prop :=
  ∀ (s : State) (die slot lcore asid c : Nat) (sl : Slot), die < 4 →
    let err := s.modDie die fun d => { d with cxErr := true }
    let resumes := fun (i : Instr) (l : Nat) => s.lcoreCore sl.asid l = some c →
      (sl.kind = 1 → exec i s = .next err) ∧
      (sl.kind ≠ 1 → (s.part sl.asid).launch.deterministic = true →
        exec i s = .next (s.modDie die fun d => { d with slots := tmod d.slots slot fun e => { e with resumeAt := some (s.core c).det.quantum, resumeOn := l } })) ∧
      (sl.kind ≠ 1 → (s.part sl.asid).launch.deterministic = false → ∃ t e, exec i s = .next t ∧
        (t.die die).slots = tdel (s.die die).slots slot ∧ (t.core (s.holderOf c)).ready = (s.core (s.holderOf c)).ready ++ [e] ∧
        e.item = .ctx { sl.ctx with
          brkPass := true, desched := false, enqt := s.gtime (s.holderOf c), enqLcore := sl.lcore, stolen := false, ops := sl.ctx.ops.filter fun o => o.state < 2
          vq := sl.ctx.vq.map fun q => { q with core := s.holderOf c } } ∧ e.age = s.nextAge ∧ t.mem = s.mem)
    (tget (s.die die).slots slot = none → exec (.cxcmdResume die slot) s = .next err ∧ exec (.cxcmdResumeOn die slot lcore asid) s = .next err ∧ exec (.cxcmdDiscard die slot) s = .next err ∧
      exec (.cxcmdReleaseHandler die slot) s = .next err ∧ exec (.cxcmdDropMessage die slot) s = .next err) ∧
    (tget (s.die die).slots slot = some sl →
      resumes (.cxcmdResume die slot) sl.lcore ∧ (sl.asid = asid → s.running asid = true → resumes (.cxcmdResumeOn die slot lcore asid) lcore) ∧
      (sl.asid ≠ asid → exec (.cxcmdResumeOn die slot lcore asid) s = .next err))

/-- Discarding and releasing (R200, R228, R403, R404): a discarded task's slot is free, its warnings join the summary, its vector instructions go on in the queue of ended units' instructions, and its parent's record gets a done message with the discard status; an aborted handler's slot is free and its channel
is unblocked, its message waiting again or, when dropped, consumed. -/
def SlotsAreDiscardedAndReleased : Prop :=
  ∀ (s : State) (die slot k : Nat) (sl : Slot), die < 4 → tget (s.die die).slots slot = some sl →
    let err := s.modDie die fun d => { d with cxErr := true }
    let freed := s.modDie die fun d => { d with slots := tdel d.slots slot }
    let warned := freed.modPart sl.asid fun p => { p with warnSum := p.warnSum ||| (sl.ctx.warn &&& 7) }
    let c := s.slotCore sl
    let left := warned.leaveVectors c sl.thread (sl.ctx.onCore c)
    (sl.ctx.vq = [] → warned.apxOut sl.ctx = false → left = warned) ∧ left.mem = s.mem ∧
    (sl.thread < 5 → (left.thr c sl.thread).past = (s.thr c sl.thread).past ++ (sl.ctx.onCore c).vq) ∧
    let tells := fun (k : Nat) => exec (.cxcmdDiscard die slot) s =
      .next (left.ateSend (ateRank c sl.thread) (.done k sl.ctx.w2 0xFF00000200000000 sl.ctx.tid sl.asid (left.curWindow c)))
    (sl.kind = 1 ∨ sl.kind = 2 → exec (.cxcmdDiscard die slot) s = .next err) ∧
    (sl.kind ≠ 1 → sl.kind ≠ 2 → sl.ctx.kind = .task →
      (sl.ctx.w2 = 0 → exec (.cxcmdDiscard die slot) s = .next left) ∧
      (sl.ctx.w2 ≠ 0 → left.rootRecord sl.asid sl.ctx.w2 = true → tells (hbmKey (sl.ctx.w2.toNat % 2 ^ 40))) ∧
      (sl.ctx.w2 ≠ 0 → left.rootRecord sl.asid sl.ctx.w2 = false → sl.ctx.w2.toNat % 16 = 0 → 1 ≤ sl.ctx.w2.toNat / 2 ^ 60 → sl.ctx.w2.toNat / 2 ^ 60 ≤ 4 →
        left.check (left.agent c) .atomic 8 8 sl.ctx.w2 = .ok (.mem k) → tells k)) ∧
    (sl.kind ≠ 1 → exec (.cxcmdReleaseHandler die slot) s = .next err ∧ exec (.cxcmdDropMessage die slot) s = .next err) ∧
    (∀ chan hdr len age seq slc, sl.kind = 1 → sl.ctx.kind = .handler chan hdr len age seq slc →
      exec (.cxcmdReleaseHandler die slot) s = .next (freed.applyBlk c chan false) ∧
      exec (.cxcmdDropMessage die slot) s = .next ((((freed.modCore c fun k => { k with
        heldMsgs := k.heldMsgs.filter fun e => match e.item with | .msg _ h _ => h != hdr | _ => true }).consumeMsg c hdr)).applyBlk c chan false)) ∧
    (∀ i age seq slc, sl.kind = 1 → sl.ctx.kind = .refusal i age seq slc →
      exec (.cxcmdReleaseHandler die slot) s = .next (freed.applyBlk c 255 false) ∧
      exec (.cxcmdDropMessage die slot) s = .next ((freed.modCore c fun k => { k with
        refusals := tdel k.refusals i, heldMsgs := k.heldMsgs.filter fun e => match e.item with | .refusal j => j != i | _ => true }).applyBlk c 255 false))

/-- Descheduling (R402, R407; taken at once where the thread waits, and giving way to a cause: log 48, DEDUCED): a running thread is stopped with KIND 3 at its next boundary, at once where it waits, unless a cause is due there, the first of which it stops with; an idle thread is left alone; a thread above 3, or a launch or LCORE that does not exist, sets ERR. -/
def ThreadsAreDescheduled : Prop :=
  ∀ (s : State) (die asid lcore u c : Nat), die < 4 →
    let err := s.modDie die fun d => { d with cxErr := true }
    let run := exec (.cxcmdDeschedule die asid lcore u) s
    (4 ≤ u ∨ s.running asid = false → run = .next err) ∧
    (u < 4 → s.running asid = true → (s.lcoreCore asid lcore = none → run = .next err) ∧
      (s.lcoreCore asid lcore = some c →
        ((s.thr c u).running = false → run = .next s) ∧
        ((s.thr c u).running = true → (s.ctx c u).wait = .no → run = .next (s.modCtx c u fun x => { x with desched := true })) ∧
        ((s.thr c u).running = true → (s.ctx c u).wait ≠ .no → (s.ctx c u).stopsDue = [] → run = .next ((s.modCtx c u fun x => { x with desched := false }).takeStop c u 3 none {})) ∧
        (∀ p, (s.thr c u).running = true → (s.ctx c u).wait ≠ .no → (s.ctx c u).pend = [p] → p.late = false → p.eng = false → (s.ctx c u).badRegs = [] → p.cause ≠ .dlmiss →
          run = .next ((s.modCtx c u fun x => { x with desched := true, pend := [] }).takeStop c u 0 (some p.cause) p.det))))

/-- Migration (R25, R402, R408 to R410; what ends first, that a stop due comes before the move, that a scarf forwards before it is cleared, and the order of the accesses that waited: log 50, DEDUCED): a core moves to a free core of a reserve bent; its context, scratchpad and LCORE are the target's once it completes, and a scarf at the source names the target; the timed accesses that are due there and then
those that waited are performed first; a failed one leaves the core where it is with a MIGRATE notice and MFAIL. A thread at whose boundary a stop is due stops before the move. A scarf forwards what comes; clearing it zeroes the vacated scratchpad. -/
def CoresMigrate : Prop :=
  ∀ (s : State) (die asid lcore c target : Nat), die < 4 → c < 4608 → target < 4608 → c ≠ target →
    let err := s.modDie die fun d => { d with cxErr := true }
    let start := exec (.cxcmdMigrate die asid lcore target) s
    (s.running asid = false ∨ s.lcoreCore asid lcore = none → start = .next err) ∧
    (s.running asid = true → s.lcoreCore asid lcore = some c →
      (s.reserveBent asid target = false → start = .next err) ∧
      (s.reserveBent asid target = true → s.movesOf asid lcore c target = [{ src := c, dst := target }] → (s.core c).migrating = none → (s.core c).holds = true →
        let reached := [0, 1, 2, 3].foldl (fun t u => t.reachBoundary c u) s
        start = .next ((reached.modCore c fun k => { k with migrating := some target, migDie := die }).modDie die fun d => { d with cxBusy := true }))) ∧
    (∀ u, (s.thr c u).running = false ∨ ((s.ctx c u).stopsDue = [] ∧ (s.ctx c u).desched = false) ∨ (s.ctx c u).redo ≠ none → s.reachBoundary c u = s) ∧
    (∀ u, (s.thr c u).running = true → (s.ctx c u).stopsDue = [] → (s.ctx c u).desched = true → (s.ctx c u).redo = none → s.preciseStop c u = none →
      s.reachBoundary c u = (s.modCtx c u fun x => { x with desched := false }).takeStop c u 3 none {}) ∧
    ((s.core c).migrating = some target → s.movesTo target = [{ src := c, dst := target }] → (s.core c).migDie = die → (s.core c).asid = some asid → (s.core c).lcore = lcore → s.running asid = true → Memory.wf s.mem = true →
      (s.mustFinish c = true → exec (.migrationComplete c true) s = .next s) ∧
      (s.bad = [] → s.mustFinish c = false → ∃ t : State, (let after := (t.runHome target false).serveArrivals target
          exec (.migrationComplete c true) s = .next (after.modDie die fun d => { d with cxBusy := after.stillBusy die })) ∧
        (t.core target).holds = true ∧ (t.core target).lcore = lcore ∧ (t.core target).asid = some asid ∧
        (t.core target).migrating = none ∧ (t.core c).holds = false ∧ (t.core c).scarf = some target ∧ t.lcoreCore asid lcore = some target ∧
        (∀ u, u < 5 → (t.thr target u).running = (s.thr c u).running ∧ (t.ctx target u).pc = (s.ctx c u).pc ∧ (t.ctx target u).x = (s.ctx c u).x) ∧
        (∀ off, off < 0x20000 → t.byteAt (scratchKey target off) = s.byteAt (scratchKey c off))) ∧
      (let logged := match s.streamBad c with | some g => s.logUncorrectable g false | none => s
       let stays := (((logged.modCore c fun k => { k with migrating := none }).noticeOf c .migrate 0).serveArrivals c).modDie die fun d => { d with mfail := true }
       exec (.migrationComplete c false) s = .next (stays.modDie die fun d => { d with cxBusy := stays.stillBusy die }))) ∧
    ((s.core c).scarf = some target → (s.core c).holds = false →
      (∀ m rest, (s.core c).inbound = m :: rest → exec (.scarfForward c) s =
        .next ((s.modCore c fun k => { k with inbound := rest }).modCore target fun k => { k with inbound := k.inbound ++ [{ m with target := target }] })) ∧
      ((s.core c).scarfQueue = 0 → ∃ t, exec (.cxcmdClearScarf die c) s = .next t ∧ (t.core c).scarf = none ∧ ∀ off, off < 0x20000 → t.byteAt (scratchKey c off) = 0)) ∧
    ((s.core c).scarf = none → exec (.cxcmdClearScarf die c) s = .next err)

/-- Double faults of a system core (R406): the first is saved in DFCAUSE, DFADDR and DFSADDR, freezes them and enters the escalation handler, in machine mode with the pc saved (the registers of that entry are the RISC-V
architecture's: log 84, PRESUMED); one while they are frozen halts the core. Both send a notice and raise class 18 at the other system cores (the notices: log 57, DEDUCED), at once where the notice can be written. A read of DFCAUSE returns it and unfreezes. -/
def SystemCoresDoubleFault : Prop :=
  ∀ (s : State) (sc scause scode : Nat) (stval saddr : Word), sc < 8 →
    let c := vget s.pkg.sysCores sc SysCore.reset
    let now := fun (t : State) => vget t.pkg.sysCores sc SysCore.reset
    let run := exec (.doubleFault sc scause scode stval saddr) s
    let tells := fun (t : State) (cause : Cause) =>
      ((s.die 0).stopWait = [] → (s.die 0).ringBlocked = false → ∀ j, j < 8 → j ≠ sc → (18, 0) ∈ (vget t.pkg.sysCores j SysCore.reset).pending) ∧
      ((s.die 0).stopWait ≠ [] ∨ (s.die 0).ringBlocked = true → ∃ r, (t.die 0).stopWait = (s.die 0).stopWait ++ [r] ∧ r.cause = cause.code ∧ r.sc = some sc ∧ r.kind = 5)
    (c.halted = true → run = .next s) ∧
    (c.halted = false → c.frozen = false → ∃ t, run = .next t ∧ (now t).frozen = true ∧ (now t).escalated = true ∧ (now t).halted = false ∧ (now t).mode = 3 ∧ (now t).mepc = c.pc ∧ (now t).ocode = scause % 256 ∧ (now t).oint = decide (2 ^ 63 ≤ scause) ∧
      (now t).scode = scode % 256 ∧ (now t).dfaddr = stval ∧ (now t).dfsaddr = saddr ∧ tells t .double) ∧
    (c.halted = false → c.frozen = true → ∃ t, run = .next t ∧ (now t).halted = true ∧ (now t).dfaddr = c.dfaddr ∧ (now t).ocode = c.ocode ∧ tells t .machinechk) ∧
    (∃ t, exec (.dfcauseRead sc) s = .next t ∧ (now t).frozen = false ∧ (now t).loaded = c.dfcause ∧ ∀ j, j ≠ sc → vget t.pkg.sysCores j SysCore.reset = vget s.pkg.sysCores j SysCore.reset)

/-- Taking a stop, and its records (R392 to R399). -/
def Obligations.CausesStopUnitsIntoSlots : Prop := StopsSaveTheContext ∧ WaitingStopsAndRecordsFollow
/-- What system software does with slots and threads (R402 to R407). -/
def Obligations.SlotsAreManagedBySystemSoftware : Prop := SlotsAreResumed ∧ SlotsAreDiscardedAndReleased ∧ ThreadsAreDescheduled
/-- Migration and double faults (R25, R406, R408 to R410). -/
def Obligations.MigrationAndDoubleFaults : Prop := CoresMigrate ∧ SystemCoresDoubleFault

/-! ## Debug, monitors, registers, system cores -/

/-- Monitors and trace (R421, R423, R424, R227): an enabled monitor counts a sample, saturated to 16 bits, in its extremes, its count and the bin its edges give it; CLR restores the reset values, and comes before the samples of its own cycle; a write of TRCCFG keeps
its fields and restarts the ring; a clear of APXMON resets it. -/
def MonitorsCountSamples : Prop :=
  ∀ (s : State) (asid mon value core : Nat) (v : Word), mon < 4 →
    let m := vget (s.part asid).dbg.mons mon Monitor.reset
    let n := min value 65535
    let edge := fun (i : Nat) => (vget m.edges (i / 4) 0).toNat / 2 ^ (16 * (i % 4)) % 2 ^ 16
    let set := fun (f : Monitor → Monitor) => .next (s.modPart asid fun p => { p with dbg := { p.dbg with mons := vset p.dbg.mons mon (f (vget p.dbg.mons mon Monitor.reset)) } })
    let tally := fun (v b : Nat) (m : Monitor) => { m with
      min := Nat.min m.min v, max := Nat.max m.max v, count := min (m.count + 1) (2 ^ 32 - 1), bins := vset m.bins b (min (vget m.bins b 0 + 1) (2 ^ 32 - 1)) }
    let counted := fun (b : Nat) (m : Monitor) => { tally n b m with now := m.now ++ [(n, b)] }
    let run := exec (.monitorSample asid mon value) s
    (m.cfg.getLsbD 63 = true → m.cfg.toNat / 2 ^ 59 % 16 < 8 →
      (n < edge 0 → run = set (counted 0)) ∧
      (∀ i, 1 ≤ i → i < 15 → (∀ j, j < 14 → edge j ≤ edge (j + 1)) → edge (i - 1) ≤ n → n < edge i → run = set (counted i)) ∧
      ((∀ i, i < 15 → edge i ≤ n) → run = set (counted 15))) ∧
    (m.cfg.getLsbD 63 = false ∨ 8 ≤ m.cfg.toNat / 2 ^ 59 % 16 → run = set id) ∧
    exec (.monitorClr asid mon) s = set (fun m =>
      { m.now.foldl (fun m p => tally p.1 p.2 m) { m with min := 0xFFFF, max := 0, count := 0, bins := Vector.replicate 16 0 } with cfg := (m.cfg ||| 1) &&& 0xF8C0FFFF00000000 }) ∧
    exec (.trccfgWrite asid v) s = .next (s.modPart asid fun p => { p with dbg := { p.dbg with trccfg := v &&& 0xFC00FFFFFFFFF000, trcnext := 0 } }) ∧
    exec (.apxmonClr core) s = .next (s.modCore core fun k => { k with apxmon := Apxmon.reset })

/-- Configuration of a core and of the package by system software (R12, R38, R39, R167, R176, R183, R411, R416, R436; that stores leave RO fields alone: log 58, DEDUCED): DQCFG, MBCFG and RFCFG take a legal value and refuse another;
the pegs of the spill area move to the new one; a store to a register of the system window
takes effect in its fields; a store that names no register is ignored. -/
def RegistersAreWrittenBySystemSoftware : Prop :=
  ∀ (s : State) (core asid : Nat) (v : Word),
    let k := s.core core
    let base := v.toNat % 2 ^ 17
    let spill := v.toNat / 2 ^ 17 % 2 ^ 16
    let size := v.toNat / 2 ^ 17 % 2 ^ 9
    let write := fun (addr : Nat) => exec (.registerWrite (BitVec.ofNat 64 addr) v) s
    let debugBlock := 0x7000600000000000 + asid * 2 ^ 20
    (spill ≤ 2048 → base % 64 = 0 → base + 64 * spill ≤ 0x20000 → k.deque.length - 64 ≤ spill → exec (.dqcfgWrite core v) s =
        .next (((s.fetchPegs core k.deque).2.modCore core fun j => { j with spill := spill, dqBase := base, deque := (s.fetchPegs core k.deque).1 }).settleDeque core) ∧
      ((∀ p ∈ k.deque, p.spill = none ∧ p.weak = [] ∧ p.bad = []) → k.deque.length ≤ 64 → exec (.dqcfgWrite core v) s = .next (s.modCore core fun k => { k with spill := spill, dqBase := base }))) ∧
    (2048 < spill ∨ base % 64 ≠ 0 ∨ 0x20000 < base + 64 * spill ∨ spill < k.deque.length - 64 → exec (.dqcfgWrite core v) s = .next s) ∧
    (k.mbUsed = 0 → size ≤ 256 → base % 256 = 0 → base + 256 * size ≤ 0x20000 →
      exec (.mbcfgWrite core v) s = .next (s.modCore core fun k => { k with mbSize := 256 * size, mbBase := base, mbHead := base, mbUsed := 0 })) ∧
    (k.mbUsed ≠ 0 ∨ 256 < size ∨ base % 256 ≠ 0 ∨ 0x20000 < base + 256 * size → exec (.mbcfgWrite core v) s = .next s) ∧
    (base % 128 = 0 → exec (.rfcfgWrite core v) s = .next (s.modCore core fun k => { k with rfBase := base })) ∧
    (base % 128 ≠ 0 → exec (.rfcfgWrite core v) s = .next s) ∧
    (asid < 4096 → s.running asid = true →
      write debugBlock = .next (s.modSched asid fun q => { q with schcfg := v &&& 0x0000FFFF003F001F }) ∧
      write (debugBlock + 8) = .next (s.modPart asid fun p => { p with wdcfg := v &&& 0xFFFFFFFF, wdLast := s.cycle }) ∧
      (∀ i, i < 8 → write (debugBlock + 0x1000 + 16 * i) = .next (s.modPart asid fun p => { p with dbg := { p.dbg with bpCtl := vset p.dbg.bpCtl i (v &&& 0xE000FFFFFFFFFFFF) } }) ∧
        write (debugBlock + 0x1008 + 16 * i) = .next (s.modPart asid fun p => { p with dbg := { p.dbg with bpAddr := vset p.dbg.bpAddr i v } })) ∧
      write (debugBlock + 0x1080) = .next (s.modPart asid fun p => { p with dbg := { p.dbg with step := v &&& 0x8000FFFFFFFFFFFF } })) ∧
    write 0x7000600100000010 = .next (s.modPkg fun p => { p with pwrcap := v &&& 0xFFFF }) ∧
    write 0x7000600100000008 = .next (s.modPkg fun p => { p with bootsel := v.getLsbD 0 }) ∧
    (∀ d, d < 4 → write (0x7000600100000040 + 8 * d) = .next (s.modDie d fun e => { e with irqrt := v &&& 0x3FFFF })) ∧
    (∀ addr, addr < 2 ^ 64 → addr / 2 ^ 60 ≠ 7 ∨ addr % 8 ≠ 0 → write addr = .next s)

/-- Accesses of a system core (R30, R38, R48, R69, R374; that a misaligned, outside or narrow access is not performed and that an unnamed register reads zero: log 57, DEDUCED; the register accesses that are none: log 63, DEDUCED): a load returns the register or the bytes of device memory, untranslated; a store writes them; a misaligned one, one outside the system window, or a narrow one of a register is not performed; an address that names no register reads zero.
A line that an ATE holds for a waiting request has the access take its turn there; a store to a queue control block leaves RO fields and clears a W1C bit by a 1. -/
def SystemCoresReachTheSystemWindow : Prop :=
  ∀ (s : State) (sc size pa : Nat) (value : Word), sc < 8 → size = 1 ∨ size = 2 ∨ size = 4 ∨ size = 8 → pa % size = 0 → pa + size ≤ 0x6000000000 → s.bad = [] → s.weak = [] →
    let addr := BitVec.ofNat 64 (0x7000300000000000 + pa)
    let loads := fun (a v : Word) (n : Nat) => exec (.systemCoreAccess sc false a n value) s = .next (s.modPkg fun p => { p with sysCores := vset p.sysCores sc { vget p.sysCores sc SysCore.reset with loaded := v } })
    let stores := fun (t : State) => exec (.systemCoreAccess sc true addr size value) s = .next t
    let turn := fun (store : Bool) => s.ateSend (40000 + sc) (.sys (hbmKey pa) size store value sc)
    let old := BitVec.ofNat 64 (s.readLe (hbmKey pa) 8)
    let word := fun (v : Word) => stores (s.writeLe (hbmKey pa) 8 v.toNat)
    (s.lineHeld (hbmKey pa) = false → loads addr (BitVec.ofNat 64 (s.readLe (hbmKey pa) size)) size) ∧
    (s.inQcb pa = false → s.lineHeld (hbmKey pa) = false → stores (s.writeLe (hbmKey pa) size value.toNat)) ∧
    (s.lineHeld (hbmKey pa) = true → exec (.systemCoreAccess sc false addr size value) s = .next (turn false)) ∧
    (s.inQcb pa = false → s.lineHeld (hbmKey pa) = true → stores (turn true)) ∧
    (s.inQcb pa = true → size = 8 →
      (pa % 64 = 0 → word value) ∧ (pa % 64 = 8 ∨ pa % 64 = 16 → word old) ∧
      (pa % 64 = 24 → word ((old &&& ~~~0xFFFF0F8100000000 &&& ~~~(0x0000000A00000000 &&& value)) ||| (value &&& 0xFFFF0F8100000000))) ∧
      (32 ≤ pa % 64 → word 0)) ∧
    loads 0x7000600100000010 s.pkg.pwrcap 8 ∧ loads 0x7000600100000080 0 size ∧
    (size ≠ 8 → exec (.systemCoreAccess sc false 0x7000600100000010 size value) s = .next s) ∧
    exec (.systemCoreAccess sc true 0x7000600100000010 8 value) s = .next (s.modPkg fun p => { p with pwrcap := value &&& 0xFFFF }) ∧
    (∀ (w : Bool) (a : Word), a.toNat % size ≠ 0 ∨ a.toNat / 2 ^ 60 ≠ 7 → exec (.systemCoreAccess sc w a size value) s = .next s)

/-- Monitors, configuration registers and system cores (R12, R30, R38, R39, R48, R421 to R424). -/
def Obligations.MonitorsRegistersAndSystemCores : Prop := MonitorsCountSamples ∧ RegistersAreWrittenBySystemSoftware ∧ SystemCoresReachTheSystemWindow

/-! ## Power, start-up, service, sideband -/

/-- Power and energy (R436, R438, R439; that the time under 90 % counts up to 16 µs and anew after each lowering: log 55, that a counter which would fall keeps its value: log 56, both DEDUCED): an evaluation moves the throttle step up to 7 at more than 1,050 A, up by one above a limit, down by one after 16 µs under 90 % of every limit, never below the floor; energy counters never decrease. -/
def PowerIsThrottledAndEnergyCounted : Prop :=
  ∀ (s : State) (die pkgW pkgA dieA dieT asid coreUj totalUj : Nat), die < 4 → s.pkg.minimal = false →
    let d := s.die die
    let step := d.thrs.toNat % 8
    let cap := max 600 (min 2000 (s.pkg.pwrcap.toNat % 2 ^ 16))
    let above := cap < pkgW ∨ 4000 < pkgA ∨ 1000 < dieA ∨ 840 < dieT
    let low := 10 * pkgW < 9 * cap ∧ 10 * pkgA < 36000 ∧ 10 * dieA < 9000 ∧ 10 * dieT < 7560
    let after := fun (n : Nat) => ∃ t, exec (.powerEval die pkgW pkgA dieA dieT) s = .next t ∧ (t.die die).thrs.toNat % 8 = max n d.floor ∧ t.mem = s.mem ∧ t.cores = s.cores ∧
      ((t.die die).thrs.getLsbD 8 = true ↔ cap < pkgW) ∧ ((t.die die).thrs.getLsbD 10 = true ↔ 840 < dieT)
    d.floor ≤ 7 →
    (1050 < dieA → after 7) ∧
    (dieA ≤ 1050 → above → after (min 7 (step + 1))) ∧
    (¬ above → ¬ low → after step) ∧
    (¬ above → low → d.under + 1 < 16 → after step) ∧
    (¬ above → low → 16 ≤ d.under + 1 → after (step - 1)) ∧
    (∃ t, exec (.energyUpdate asid coreUj totalUj) s = .next t ∧ t.mem = s.mem ∧ (s.running asid = true →
      (t.part asid).enk.toNat = max (s.part asid).enk.toNat (min totalUj (2 ^ 64 - 1)) ∧ (t.part asid).enkCore.toNat = max (s.part asid).enkCore.toNat (min coreUj (2 ^ 64 - 1))))

/-- Reset and start (R395, R430 to R432): a full reset leaves no launch, every clock FREE, and the registers named here at their Reset values but those marked kept; it counts a start; that power-on also clears memory is the model's choice (log 2); what a full reset keeps beside the marked registers, and minimal mode where FAILS is 3, are log 52 (DEDUCED). READY measures
the service's configuration, ends the start and the run of failures; a failed
start is a full reset that counts as a failure, and the third in a row comes up in minimal mode. -/
def ResetAndStart : Prop :=
  ∀ (s : State) (why : Nat),
    let p := s.pkg
    let fresh := fun (t : State) (src : Nat) => t.parts = [] ∧ (∀ d, d < 4 → t.die d = Die.reset) ∧ t.cycle = 0 ∧ t.pkg.starts = min (p.starts + 1) 255 ∧ t.pkg.rsrc = src ∧ t.pkg.readyWritten = false ∧
      t.pkg.pwrcap = 2000 ∧ t.pkg.gmCount = 0 ∧ t.pkg.sessions = [] ∧ t.pkg.bootsel = p.bootsel ∧ t.pkg.harvested = p.harvested ∧ 1 ≤ t.pkg.skewb ∧ t.pkg.skewb ≤ 32 ∧ t.pkg.imageA = p.imageA ∧ t.pkg.imageB = p.imageB ∧
      (∀ c, (t.core c).asid = none ∧ ((s.cores.map Prod.fst).Nodup → (t.core c).me.fenced = (s.core c).me.fenced) ∧ ∀ u, u < 5 → (t.thr c u).running = false)
    (∃ t, exec .powerOn s = .next t ∧ fresh t 0 ∧ t.mem = [] ∧ t.bad = [] ∧ t.pkg.fails = p.fails) ∧
    (∃ t, exec .rstcmd s = .next t ∧ fresh t 1 ∧ t.mem = s.mem ∧ t.bad = s.bad ∧ t.pkg.fails = p.fails) ∧
    (p.readyWritten = false → ∃ t, exec .ready s = .next t ∧ t.pkg.readyWritten = true ∧ t.pkg.fails = (if p.minimal then p.fails else 0) ∧
      vget t.pkg.meas 2 [] = sha256 (vget p.meas 2 [] ++ Config.serviceDigest) ∧ t.mem = s.mem ∧ t.cores = s.cores) ∧
    (p.readyWritten = true → exec .ready s = .next s) ∧
    (p.readyWritten = false → p.minimal = false → 1 ≤ why → why ≤ 3 → ∃ t, exec (.startFailure why) s = .next t ∧ fresh t 3 ∧ t.pkg.lastf = why ∧ t.pkg.fails = min 3 (p.fails + 1) ∧
      (t.pkg.minimal = true ↔ 2 ≤ p.fails) ∧ t.mem = s.mem)

/-- Sessions, measurements and images (R428, R432 to R434; that an extend of MEAS4 to MEAS7 changes nothing in minimal mode: log 53, DEDUCED): OPEN answers status 3 with 64 sessions open, before (log 54) status 1 without a common version of the core protocol, else a new session; CLOSE ends one; a request on an
interface that the session does not have is answered with status 2. An extend hashes the register with the digest; a quote is version, nonce, the measurements and BOOTWHY, signed; the host writes an image slot at
an offset and clears the run of failures. The oldest request of the host is carried out where its session has its interface, and answered with status 2 where it has not. -/
def TheServiceAnswers : Prop :=
  ∀ (s : State) (ifaces : List (Nat × Nat × Nat)) (id i offset : Nat) (digest nonce bytes : List (BitVec 8)),
    let p := s.pkg
    let got := ifaces.map fun f => (f.1, p.version f.1 f.2.1 f.2.2)
    let reply := fun (t : State) (status n : Nat) (l : List (Nat × Option Nat)) => .next (t.send (.openReply status n l Config.isafeat Config.certificate))
    (64 ≤ p.sessions.length → exec (.sessionOpen ifaces) s = reply s 3 0 []) ∧
    (p.sessions.length < 64 → (∀ v, (1, some v) ∉ got) → exec (.sessionOpen ifaces) s = reply s 1 0 got) ∧
    (∀ v, p.sessions.length < 64 → (1, some v) ∈ got → exec (.sessionOpen ifaces) s =
      reply (s.modPkg fun p => { p with sessions := p.sessions ++ [{ id := p.nextSession, ifaces := got }], nextSession := p.nextSession + 1 }) 0 p.nextSession got) ∧
    (∀ (r : HostReq) (rest : List HostReq) (x : Session), p.hostReqs = r :: rest → p.sessions.find? (fun y => y.id == r.session) = some x →
      let t := s.modPkg fun p => { p with hostReqs := rest }
      ((∃ g ∈ x.ifaces, g.1 = r.ask.iface ∧ g.2.isSome = true) → s.serveHost = t.carryOut r.session r.ask) ∧
      ((∀ g ∈ x.ifaces, g.1 = r.ask.iface → g.2 = none) → s.serveHost = t.send (.refused r.session 2))) ∧
    (∀ n, s.carryOut n .bootwhy = s.send (.bootwhy n p.bootwhy) ∧ s.carryOut n .reset = s.post [.rstcmd] ∧ HostAsk.bootwhy.iface = 6 ∧ HostAsk.reset.iface = 6) ∧
    let found := p.sessions.find? fun x => x.id == id
    let served := ∃ x, found = some x ∧ ∃ g ∈ x.ifaces, g.1 = 6 ∧ g.2.isSome = true
    (found = none → ∀ j ∈ [Instr.quote id nonce, .imageSlotWrite id 0 offset bytes, .imageSlotWrite id 1 offset bytes, .clearFails id, .extend id 4 digest], exec j s = .next s) ∧
    (∀ x, found = some x → (∀ g ∈ x.ifaces, g.1 = 6 → g.2 = none) →
      ∀ j ∈ [Instr.quote id nonce, .imageSlotWrite id 0 offset bytes, .imageSlotWrite id 1 offset bytes, .clearFails id, .extend id 4 digest], exec j s = .next (s.send (.refused id 2))) ∧
    (served → exec (.clearFails id) s = .next (s.modPkg fun p => { p with fails := 0 })) ∧
    exec (.sessionClose id) s = .next (s.modPkg fun p => { p with sessions := p.sessions.filter fun x => x.id != id }) ∧
    (i < 8 → (i < 4 ∨ (served ∧ p.minimal = false)) → exec (.extend id i digest) s = .next (s.modPkg fun p => { p with meas := vset p.meas i (sha256 (vget p.meas i [] ++ digest)) })) ∧
    (8 ≤ i ∨ (served ∧ p.minimal = true ∧ 4 ≤ i) → exec (.extend id i digest) s = .next s) ∧
    (served → nonce.length = 32 → (∀ j, j < 8 → (vget p.meas j []).length = 32) → ∃ m sig, exec (.quote id nonce) s = .next (s.send (.quote m sig)) ∧ m.length = 304 ∧ sig.length = 384 ∧
      m.take 4 = [1, 0, 0, 0] ∧ (m.drop 4).take 32 = nonce ∧ (∀ j, j < 8 → (m.drop (36 + 32 * j)).take 32 = vget p.meas j []) ∧ leNat ((m.drop 292).take 8) = p.bootwhy.toNat) ∧
    (served → offset ≤ p.imageA.length → ∃ img, exec (.imageSlotWrite id 0 offset bytes) s = .next (s.modPkg fun p => { p with imageA := img }) ∧ img.take offset = p.imageA.take offset ∧ (img.drop offset).take bytes.length = bytes ∧
      img.drop (offset + bytes.length) = p.imageA.drop (offset + bytes.length)) ∧
    (served → offset ≤ p.imageB.length → ∃ img, exec (.imageSlotWrite id 1 offset bytes) s = .next (s.modPkg fun p => { p with imageB := img }) ∧ img.take offset = p.imageB.take offset ∧ (img.drop offset).take bytes.length = bytes ∧
      img.drop (offset + bytes.length) = p.imageB.drop (offset + bytes.length))

/-- The sideband (R429): with a dynamic address and outside HDR, a command acts and keeps its response, which a private read returns; 0xA5 alone resets; a common command code has its effect or its answer, and one that is not supported is NACKed;
in HDR nothing but the exit pattern acts; without an address, or an assignment while it has one, the transfer is NACKed; ENTDAA sends the provisioned id, BCR and DCR, and SETDASA names the static address 0x5C (the operand holds it above the new address: log 31). The byte formats of the answers that R429 does not state are the model's (log 31). -/
def TheSidebandActs : Prop :=
  ∀ (s : State) (watts temp t0 t1 t2 t3 addr len code : Nat) (arg : BitVec 8),
    let c := s.pkg.i3c
    let put := fun (t : State) (f : I3c → I3c) => .next (t.modPkg fun p => { p with i3c := f p.i3c })
    let acked := s.modPkg fun p => { p with i3c := { p.i3c with nacked := false } }
    let answers := fun (i : Instr) (t : State) (r : List Byte) => exec i s = put t fun p => { p with response := r }
    let reads := fun (i : Instr) (r : List Byte) => exec i s = put acked fun p => { p with out := r }
    let two := fun (n : Nat) => [BitVec.ofNat 8 n, BitVec.ofNat 8 (n / 256)]
    let status := (List.range 8).map (fun i => BitVec.ofNat 8 (s.pkg.bootwhy.toNat / 2 ^ (8 * i))) ++ two watts ++ two temp ++
      two ((List.range 4).map fun d => (s.die d).thrs.toNat % 8 * 16 ^ d).sum ++ two ((if s.pkg.readyWritten then 1 else 0) + (if s.pkg.minimal then 2 else 0))
    (c.hdr = false → c.dynAddr.isSome = true →
      answers (.i3cStatus watts temp) acked status ∧
      answers (.i3cTemps t0 t1 t2 t3) acked (two t0 ++ two t1 ++ two t2 ++ two t3) ∧
      answers (.i3cSetcap watts) (acked.modPkg fun p => { p with pwrcap := BitVec.ofNat 64 (watts % 65536) }) [] ∧
      answers (.i3cSetfloor arg) (acked.modDie (arg.toNat / 16 % 4) fun d => { d with floor := arg.toNat % 8 }) [] ∧
      (arg.toNat < 2 → answers (.i3cBootsel arg) (acked.modPkg fun p => { p with bootsel := decide (arg = 1) }) []) ∧
      answers .i3cUnknownCommand acked [0xFF] ∧
      exec .i3cPrivateRead s = put acked (fun p => { p with out := p.response }) ∧
      (arg = 0xA5 → exec (.i3cReset arg) s = .next (acked.fullReset 2).tellMinimal) ∧ (arg ≠ 0xA5 → exec (.i3cReset arg) s = .next acked) ∧
      reads .getbcr [0x06] ∧ reads .getdcr [0x00] ∧ reads .getpid ((List.range 6).map fun i => BitVec.ofNat 8 (Config.provisionedId.toNat / 2 ^ (8 * (5 - i)))) ∧
      reads .getmwl [BitVec.ofNat 8 (c.mwl / 256), BitVec.ofNat 8 c.mwl] ∧ reads .getmrl [BitVec.ofNat 8 (c.mrl / 256), BitVec.ofNat 8 c.mrl, 1] ∧ reads .getstatus [0, if c.kept = [] then 0 else 1] ∧
      exec (.entdaa addr) s = put s (fun p => { p with nacked := true }) ∧ exec (.setdasa addr) s = put s (fun p => { p with nacked := true })) ∧
    (c.hdr = false → c.dynAddr = none → (∀ i ∈ [Instr.i3cStatus watts temp, .i3cTemps t0 t1 t2 t3, .i3cSetcap watts, .i3cSetfloor arg, .i3cReset arg, .i3cBootsel arg, .i3cUnknownCommand, .i3cPrivateRead, .getpid,
          .getbcr, .getdcr, .getstatus, .getmwl, .getmrl], exec i s = put s fun p => { p with nacked := true }) ∧
      exec (.entdaa addr) s = put acked (fun p => { p with dynAddr := some addr, out := (List.range 6).map (fun i => BitVec.ofNat 8 (Config.provisionedId.toNat / 2 ^ (8 * (5 - i)))) ++ [0x06, 0x00] }) ∧
      (addr / 128 = 0x5C → exec (.setdasa addr) s = put acked (fun p => { p with dynAddr := some (addr % 128) })) ∧
      (addr / 128 ≠ 0x5C → exec (.setdasa addr) s = put s (fun p => { p with nacked := true }))) ∧
    (c.hdr = false →
      exec .rstdaa s = put acked (fun p => { p with dynAddr := none }) ∧ exec .disec s = put acked (fun p => { p with ibiOn := false }) ∧
      (c.ibiOn = true → exec .enec s = .next acked) ∧
      (c.ibiOn = false → exec .enec s = put acked fun p => { p with ibiOn := true, raised := p.raised ++ p.kept.take 1, kept := p.kept.drop 1 }) ∧
      exec (.setmwl len) s = put acked (fun p => { p with mwl := len % 65536 }) ∧ exec (.setmrl len) s = put acked (fun p => { p with mrl := len % 65536 }) ∧
      exec (.rstact len) s = put acked (fun p => { p with rstact := len % 256 }) ∧ exec (.cccUnsupported code) s = put s (fun p => { p with nacked := true }) ∧
      exec .i3cHdrEntry s = put s (fun p => { p with hdr := true })) ∧
    exec .i3cHdrExit s = put s (fun p => { p with hdr := false }) ∧
    (c.hdr = true → ∀ i ∈ [Instr.i3cStatus watts temp, .i3cReset arg, .i3cPrivateRead, .entdaa addr, .setdasa addr, .rstdaa, .enec, .disec, .setmwl len, .setmrl len, .getpid, .getbcr, .getdcr, .getstatus, .getmwl, .getmrl,
        .rstact len, .cccUnsupported code, .i3cHdrEntry, .i3cSetcap watts, .i3cTemps t0 t1 t2 t3, .i3cSetfloor arg, .i3cBootsel arg, .i3cUnknownCommand], exec i s = .next s)

/-- Power, energy, reset and start (R430 to R432, R436, R438, R439). -/
def Obligations.PowerResetAndStart : Prop := PowerIsThrottledAndEnergyCounted ∧ ResetAndStart
/-- The service and the sideband (R428, R429, R432 to R434). -/
def Obligations.ServiceAndSidebandAnswer : Prop := TheServiceAnswers ∧ TheSidebandActs

/-! ## The machine as a whole -/

/-- Decoding and encoding agree (R187 to R189, R197, R205): the word of every well-formed coded instruction decodes to it, whatever its operands;
a word that decodes is the encoding of a well-formed instruction, so no bit of it is dropped and no two words mean one instruction; every other word is refused as ILLOP or RSVFLD. -/
def Obligations.DecodeAndEncodeAgree : Prop :=
  (∀ (i : Instr) (w : BitVec 32), i.wf = true → encode i = some w → decode w = .ok i) ∧
  (∀ (i : Instr) (w : BitVec 32), decode w = .ok i → i.wf = true ∧ encode i = some w) ∧
  (∀ (w : BitVec 32) (c : Cause), decode w = .error c → c = .illop ∨ c = .rsvfld)

/-- Words written out from the encoding tables of R188 and R197, one or two of each format, decode to the instruction they stand for; an unassigned opcode or function is ILLOP, a field that must be zero or that exceeds its file is RSVFLD (R205). -/
def Obligations.WordsWrittenFromTheTablesDecode : Prop :=
  decode (0b00000#5 ++ 0b0#1 ++ 0b0#1 ++ 0b101101#6 ++ 0b010111#6 ++ 0b011000#6 ++ 0b0000001#7) = .ok (.add 24 23 45 false false) ∧
  decode (0b00001#5 ++ 0b0#1 ++ 0b0#1 ++ 0b111000#6 ++ 0b000010#6 ++ 0b001101#6 ++ 0b0000001#7) = .ok (.sub 13 2 56 false false) ∧
  decode (0b100001010111#12 ++ 0b0#1 ++ 0b010000#6 ++ 0b011111#6 ++ 0b0000010#7) = .ok (.addi 31 16 2135 false) ∧
  decode (0b0011100010000011000#19 ++ 0b001111#6 ++ 0b0001011#7) = .ok (.lui 15 115736) ∧
  decode (0b011001000001#12 ++ 0b1#1 ++ 0b010001#6 ++ 0b011110#6 ++ 0b0001110#7) = .ok (.jalr 30 17 1601 true) ∧
  decode (0b011001011110#12 ++ 0b1#1 ++ 0b001010#6 ++ 0b000101#6 ++ 0b0001111#7) = .ok (.bfx 5 10 30 25 true) ∧
  decode (0b1#1 ++ 0b010000#6 ++ 0b000110#6 ++ 0b111100#6 ++ 0b110011#6 ++ 0b0010001#7) = .ok (.sel 51 60 6 16 true) ∧
  decode (0b101100#6 ++ 0b0#1 ++ 0b0#1 ++ 0b100000#6 ++ 0b011010#6 ++ 0b11010#5 ++ 0b0010010#7) = .ok (.beq 26 32 1434 false false) ∧
  decode (0b011111011001#12 ++ 0b1#1 ++ 0b111101#6 ++ 0b110010#6 ++ 0b0011011#7) = .ok (.ldD 50 61 2009 true) ∧
  decode (0b001000#6 ++ 0b0#1 ++ 0b0#1 ++ 0b101011#6 ++ 0b100011#6 ++ 0b10100#5 ++ 0b0100011#7) = .ok (.stW 43 35 276 false false) ∧
  decode (0b000010#6 ++ 0b0#1 ++ 0b0#1 ++ 0b011010#6 ++ 0b010010#6 ++ 0b01001#5 ++ 0b0100110#7) = .ok (.stfD 26 18 73 false false) ∧
  decode (0b00010#5 ++ 0b1#1 ++ 0b1#1 ++ 0b111101#6 ++ 0b000111#6 ++ 0b001000#6 ++ 0b0100111#7) = .ok (.ldnbW 8 7 61 true true) ∧
  decode (0b1#1 ++ 0b101000#6 ++ 0b111110#6 ++ 0b000100#6 ++ 0b000000#6 ++ 0b0101011#7) = .ok (.stvaD 4 62 40 true) ∧
  decode (0b00000#5 ++ 0b1#1 ++ 0b1#1 ++ 0b000111#6 ++ 0b111101#6 ++ 0b110010#6 ++ 0b0101111#7) = .ok (.amoaddDAcq 50 61 7 true true) ∧
  decode (0b0#1 ++ 0b001101#6 ++ 0b011011#6 ++ 0b100001#6 ++ 0b101110#6 ++ 0b0110100#7) = .ok (.amocasW 46 33 27 13 false) ∧
  decode (0b000000110000#12 ++ 0b0#1 ++ 0b000000#6 ++ 0b000000#6 ++ 0b0111100#7) = .ok (.fence 3 0) ∧
  decode (0b000100000000#12 ++ 0b0#1 ++ 0b011100#6 ++ 0b010011#6 ++ 0b0111100#7) = .ok (.femark 19 28 false) ∧
  decode (0b011010110101#12 ++ 0b0#1 ++ 0b000000#6 ++ 0b110001#6 ++ 0b0111101#7) = .ok (.ctlrd 49 1717) ∧
  decode (0b00000#5 ++ 0b0#1 ++ 0b0#1 ++ 0b011001#6 ++ 0b000011#6 ++ 0b001100#6 ++ 0b1000001#7) = .ok (.faddS 12 3 25 false false) ∧
  decode (0b01000#5 ++ 0b0#1 ++ 0b1#1 ++ 0b000000#6 ++ 0b111011#6 ++ 0b010100#6 ++ 0b1000011#7) = .ok (.fcvtDL 20 59 true) ∧
  decode (0b0#1 ++ 0b011100#6 ++ 0b001010#6 ++ 0b010000#6 ++ 0b011111#6 ++ 0b1000101#7) = .ok (.fmaD 31 16 10 28 false) ∧
  decode (0b00000#5 ++ 0b1#1 ++ 0b1#1 ++ 0b100011#6 ++ 0b011001#6 ++ 0b010110#6 ++ 0b1000110#7) = .ok (.spawn 22 25 35 true true) ∧
  decode (0b00001#5 ++ 0b0#1 ++ 0b1#1 ++ 0b000000#6 ++ 0b010001#6 ++ 0b000000#6 ++ 0b1000110#7) = .ok (.joinw 0 17 true) ∧
  decode (0b000#3 ++ 0b1#1 ++ 0b1#1 ++ 0b11001011#8 ++ 0b110110#6 ++ 0b001100#6 ++ 0b1000111#7) = .ok (.send 12 54 203 true true) ∧
  decode (0b00001#5 ++ 0b1#1 ++ 0b1#1 ++ 0b100000#6 ++ 0b011010#6 ++ 0b000011#6 ++ 0b1001000#7) = .ok (.barwait 3 26 32 true true) ∧
  decode (0b00000#5 ++ 0b1#1 ++ 0b1#1 ++ 0b110010#6 ++ 0b001000#6 ++ 0b000000#6 ++ 0b1001001#7) = .ok (.cdef 8 50 true true) ∧
  decode (0b00000#5 ++ 0b0#1 ++ 0b0#1 ++ 0b000111#6 ++ 0b111101#6 ++ 0b110010#6 ++ 0b1001010#7) = .ok (.vadd 50 61 7 false false) ∧
  decode (0b1#1 ++ 0b100010#6 ++ 0b110100#6 ++ 0b001110#6 ++ 0b000001#6 ++ 0b1001011#7) = .ok (.vfma 1 14 52 34 true) ∧
  decode (0b00000#5 ++ 0b0#1 ++ 0b1#1 ++ 0b000000#6 ++ 0b101011#6 ++ 0b100100#6 ++ 0b1001101#7) = .ok (.vexp 36 43 true) ∧
  decode (0b00000#5 ++ 0b0#1 ++ 0b0#1 ++ 0b000010#6 ++ 0b001000#6 ++ 0b000111#6 ++ 0b1001110#7) = .ok (.mand 7 8 2 false false) ∧
  decode (0b000#3 ++ 0b01#2 ++ 0b1#1 ++ 0b1#1 ++ 0b111000#6 ++ 0b000010#6 ++ 0b001101#6 ++ 0b1001111#7) = .ok (.enqV 13 2 56 true true) ∧
  decode (0b001#3 ++ 0b00#2 ++ 0b0#1 ++ 0b1#1 ++ 0b000000#6 ++ 0b000101#6 ++ 0b001010#6 ++ 0b1001111#7) = .ok (.qmig 10 5 true) ∧
  decode (0b11101#5 ++ 0b1#1 ++ 0b1#1 ++ 0b111001#6 ++ 0b000011#6 ++ 0b001100#6 ++ 0b1010001#7) = .ok (.ddapply 12 3 57 13 true true) ∧
  decode (0b0#1 ++ 0b101001#6 ++ 0b111111#6 ++ 0b000101#6 ++ 0b001010#6 ++ 0b1010010#7) = .ok (.ddite 10 5 63 41 false) ∧
  decode (0b00000#5 ++ 0b0#1 ++ 0b0#1 ++ 0b000000#6 ++ 0b011110#6 ++ 0b010001#6 ++ 0b1010011#7) = .ok (.ecall 17 30 false) ∧
  decode (0b00100#5 ++ 0b0#1 ++ 0b1#1 ++ 0b000000#6 ++ 0b001101#6 ++ 0b000010#6 ++ 0b1010011#7) = .ok (.perfrd 2 13 true) ∧
  decode 0x00000000#32 = .error .illop ∧ decode 0x00000054#32 = .error .illop ∧ decode 0x0000007F#32 = .error .illop ∧
  decode (0b11111#5 ++ 0b0#1 ++ 0b0#1 ++ 0b000001#6 ++ 0b000010#6 ++ 0b000011#6 ++ 0b0000001#7) = .error .illop ∧
  decode (0b10111#5 ++ 0b1#1 ++ 0b0#1 ++ 0b000001#6 ++ 0b000010#6 ++ 0b000011#6 ++ 0b0000001#7) = .error .rsvfld ∧
  decode (0b00000#5 ++ 0b0#1 ++ 0b0#1 ++ 0b000001#6 ++ 0b100000#6 ++ 0b000011#6 ++ 0b1000001#7) = .error .rsvfld

/-- A step (R44, R187, R205, R396; log 3): what is due is performed first, one step at a time, with its own free values; a thread that cannot issue lets time pass; else the word at the program counter is fetched, and where it decodes to an
instruction that meets no early cause and at whose boundary nothing is pending, the step is that instruction followed by the passing of time; a word that does not decode stops the unit with its cause. A fetch's own causes come after the stops
that are due at the boundary, but for FETCHALIGN and FETCHFAULT. An access that goes on after a hold is performed without a fetch or a stop before it. The passing of time changes no register and no byte, but for accesses that drain from a loopback port. -/
def Obligations.StepRunsTheDecodedInstruction : Prop :=
  ∀ (s : State),
    let issues := s.agenda = [] ∧ s.issuable s.curCore s.curThread.val = true
    let gives := fun (t : State) => step s = .next (t.advance (s.waited t))
    let fetch := s.check (s.agent s.curCore) .fetch 1 4 s.cur.pc
    (∀ (e : Event) (rest : List Event), s.agenda = e :: rest → step s = exec e.toInstr { s with agenda := rest, freshCount := s.freshCount + 1 }) ∧
    (s.agenda = [] → s.issuable s.curCore s.curThread.val = false → step s = .next (s.advance false)) ∧
    (∀ (k : Nat) (w : BitVec 32), issues → s.cur.redo = none → s.cur.wait ≠ .held → fetch = .ok (.mem k) → s.badIn k 4 = none → w = BitVec.ofNat 32 (s.readLe k 4) →
      let f := s.fetched k
      (∀ c, decode w = .error c → gives (f.trap c { d0 := w.zeroExtend 64 })) ∧
      (∀ i, decode w = .ok i →
        (∀ c d, Instr.early i f = some (c, d) → c ≠ .mixtrap → gives (f.trap c d)) ∧
        (∀ d, Instr.early i f = some (.mixtrap, d) → gives (f.mixTrap d.d0.toNat)) ∧
        (∀ s', Instr.early i f = none → f.boundary = some s' → gives s') ∧
        (Instr.early i f = none → f.cur.stopsDue = [] → f.cur.desched = false →
          (f.bpFetch = true → gives (f.trap .bkpt)) ∧
          (f.bpFetch = false → ∀ t, exec i f = .next t → gives t)))) ∧
    (∀ (r : Redo) (i : Instr) (t : State), issues → s.cur.redo = some r → decode r.word = .ok i → Instr.early i s = none → exec i s = .next t → gives t) ∧
    (∀ (c : Cause) (d : Detail), issues → s.cur.redo = none → fetch = .error (.cause c d) →
      (c = .fetchalign ∨ c = .fetchfault → gives (s.trap c d)) ∧
      (c ≠ .fetchalign → c ≠ .fetchfault → s.boundary = none → s.cur.wait ≠ .held → gives ((s.noteEcc c d).trap c d))) ∧
    (∀ (k g : Nat), issues → s.cur.redo = none → fetch = .ok (.mem k) → s.badIn k 4 = some g → s.boundary = none → s.cur.wait ≠ .held →
      gives ((s.logRange k 4).trap .eccunc { d0 := BitVec.ofNat 64 g })) ∧
    (∀ sp peer addr reason c, issues → s.cur.redo = none → fetch = .error (.held sp peer addr reason c) →
      (∀ s', s.boundary = some s' → gives s') ∧
      (s.boundary = none → s.cur.wait ≠ .held → gives (s.holdCur .fetch s.cur.pc sp peer addr reason c))) ∧
    (∀ (t : State) (waited : Bool), t.cores.all (fun p => p.2.loop.isEmpty) = true → (t.advance waited).mem = t.mem ∧ (t.advance waited).spaces = t.spaces ∧
      (∀ c u, (t.advance waited).ctx c u = t.ctx c u) ∧ ∃ due, (t.advance waited).agenda = t.agenda ++ due)

/-- Memory keeps its canonical form in every step, of every instruction and of everything the hardware, system software and the host do: addresses strictly rise and no entry holds what an unlisted address reads as. -/
def Obligations.EveryStepKeepsMemoryCanonical : Prop :=
  (∀ s t : State, Memory.wf s.mem = true → step s = .next t → Memory.wf t.mem = true) ∧
  (∀ (i : Instr) (s t : State), Memory.wf s.mem = true → exec i s = .next t → Memory.wf t.mem = true)

/-- What a full reset at power-on leaves, where the field maps give the values (R12, R108, R113, R430, R432, R433, R436, R437), with memory in its canonical form: no launch runs and no thread issues, every GTU is FREE with a count of 0, and the
package's registers hold their Reset values. That memory reads zero is the model's choice (log 2), and so are the zeros of BOOTWHY's fields that a reset keeps (STARTS, LASTF, FAILS: log 1). -/
def Obligations.ResetLeavesTheStatedValues : Prop :=
  let s := State.reset
  Memory.wf s.mem = true ∧ s.parts = [] ∧ (∀ c t, s.issuable c t = false) ∧
  (∀ d, d < 4 → (s.die d).gtu.state = .free ∧ (s.die d).gtu.count = 0 ∧ (s.die d).slots = [] ∧ (s.die d).thrs = 0 ∧ (s.die d).floor = 0 ∧ (s.die d).eccstat = 0) ∧
  s.pkg.gmCount = 0 ∧ s.pkg.skewb = 32 ∧ s.pkg.skewx = 0 ∧ s.pkg.rampctl = 0x100FA ∧ s.pkg.pwrcap = 2000 ∧ s.pkg.bootwhy = 0 ∧ s.pkg.readyWritten = false ∧
  (∀ i, i < 8 → vget s.pkg.meas i [] = List.replicate 32 0) ∧ (∀ k, s.byteAt k = 0) ∧
  (∀ c, (s.core c).dqcfg = 0 ∧ (s.core c).mbcfg = 0 ∧ (s.core c).slott = 0xE4E4E4E4)

/-- No instruction, no event and no step is refused or ends in a fault: the spec gives every one an effect, or a cause by which the unit stops (R393), and the machine goes on; so every state is safe. -/
def Obligations.EveryStepAnswersANextState : Prop :=
  (∀ (i : Instr) (s : State), ∃ t, exec i s = .next t) ∧ (∀ s : State, ∃ t, step s = .next t) ∧ (∀ s : State, Safe s)
end

