-- ==== Sys2Proof/Laws/Arms.lean ====
section
/-! SUPPORT. Each arm of the dispatcher as an equation, so that no proof opens the whole match. -/

namespace Sys2Proof.Machine

@[simp] theorem exec_add (d : Reg) (a : Reg) (b : Reg) (ma : Bool) (mb : Bool) (s : State) : exec (.add d a b ma mb) s = execAdd d a b ma mb s := rfl
@[simp] theorem exec_sub (d : Reg) (a : Reg) (b : Reg) (ma : Bool) (mb : Bool) (s : State) : exec (.sub d a b ma mb) s = execSub d a b ma mb s := rfl
@[simp] theorem exec_and (d : Reg) (a : Reg) (b : Reg) (ma : Bool) (mb : Bool) (s : State) : exec (.and d a b ma mb) s = execAnd d a b ma mb s := rfl
@[simp] theorem exec_or (d : Reg) (a : Reg) (b : Reg) (ma : Bool) (mb : Bool) (s : State) : exec (.or d a b ma mb) s = execOr d a b ma mb s := rfl
@[simp] theorem exec_xor (d : Reg) (a : Reg) (b : Reg) (ma : Bool) (mb : Bool) (s : State) : exec (.xor d a b ma mb) s = execXor d a b ma mb s := rfl
@[simp] theorem exec_sll (d : Reg) (a : Reg) (b : Reg) (ma : Bool) (mb : Bool) (s : State) : exec (.sll d a b ma mb) s = execSll d a b ma mb s := rfl
@[simp] theorem exec_srl (d : Reg) (a : Reg) (b : Reg) (ma : Bool) (mb : Bool) (s : State) : exec (.srl d a b ma mb) s = execSrl d a b ma mb s := rfl
@[simp] theorem exec_sra (d : Reg) (a : Reg) (b : Reg) (ma : Bool) (mb : Bool) (s : State) : exec (.sra d a b ma mb) s = execSra d a b ma mb s := rfl
@[simp] theorem exec_min (d : Reg) (a : Reg) (b : Reg) (ma : Bool) (mb : Bool) (s : State) : exec (.min d a b ma mb) s = execMin d a b ma mb s := rfl
@[simp] theorem exec_max (d : Reg) (a : Reg) (b : Reg) (ma : Bool) (mb : Bool) (s : State) : exec (.max d a b ma mb) s = execMax d a b ma mb s := rfl
@[simp] theorem exec_minu (d : Reg) (a : Reg) (b : Reg) (ma : Bool) (mb : Bool) (s : State) : exec (.minu d a b ma mb) s = execMinu d a b ma mb s := rfl
@[simp] theorem exec_maxu (d : Reg) (a : Reg) (b : Reg) (ma : Bool) (mb : Bool) (s : State) : exec (.maxu d a b ma mb) s = execMaxu d a b ma mb s := rfl
@[simp] theorem exec_slt (d : Reg) (a : Reg) (b : Reg) (ma : Bool) (mb : Bool) (s : State) : exec (.slt d a b ma mb) s = execSlt d a b ma mb s := rfl
@[simp] theorem exec_sltu (d : Reg) (a : Reg) (b : Reg) (ma : Bool) (mb : Bool) (s : State) : exec (.sltu d a b ma mb) s = execSltu d a b ma mb s := rfl
@[simp] theorem exec_seq (d : Reg) (a : Reg) (b : Reg) (ma : Bool) (mb : Bool) (s : State) : exec (.seq d a b ma mb) s = execSeq d a b ma mb s := rfl
@[simp] theorem exec_sne (d : Reg) (a : Reg) (b : Reg) (ma : Bool) (mb : Bool) (s : State) : exec (.sne d a b ma mb) s = execSne d a b ma mb s := rfl
@[simp] theorem exec_mul (d : Reg) (a : Reg) (b : Reg) (ma : Bool) (mb : Bool) (s : State) : exec (.mul d a b ma mb) s = execMul d a b ma mb s := rfl
@[simp] theorem exec_mulh (d : Reg) (a : Reg) (b : Reg) (ma : Bool) (mb : Bool) (s : State) : exec (.mulh d a b ma mb) s = execMulh d a b ma mb s := rfl
@[simp] theorem exec_mulhu (d : Reg) (a : Reg) (b : Reg) (ma : Bool) (mb : Bool) (s : State) : exec (.mulhu d a b ma mb) s = execMulhu d a b ma mb s := rfl
@[simp] theorem exec_div (d : Reg) (a : Reg) (b : Reg) (ma : Bool) (mb : Bool) (s : State) : exec (.div d a b ma mb) s = execDiv d a b ma mb s := rfl
@[simp] theorem exec_divu (d : Reg) (a : Reg) (b : Reg) (ma : Bool) (mb : Bool) (s : State) : exec (.divu d a b ma mb) s = execDivu d a b ma mb s := rfl
@[simp] theorem exec_rem (d : Reg) (a : Reg) (b : Reg) (ma : Bool) (mb : Bool) (s : State) : exec (.rem d a b ma mb) s = execRem d a b ma mb s := rfl
@[simp] theorem exec_remu (d : Reg) (a : Reg) (b : Reg) (ma : Bool) (mb : Bool) (s : State) : exec (.remu d a b ma mb) s = execRemu d a b ma mb s := rfl
@[simp] theorem exec_clz (d : Reg) (a : Reg) (ma : Bool) (s : State) : exec (.clz d a ma) s = execClz d a ma s := rfl
@[simp] theorem exec_ctz (d : Reg) (a : Reg) (ma : Bool) (s : State) : exec (.ctz d a ma) s = execCtz d a ma s := rfl
@[simp] theorem exec_popc (d : Reg) (a : Reg) (ma : Bool) (s : State) : exec (.popc d a ma) s = execPopc d a ma s := rfl
@[simp] theorem exec_mkga (d : Reg) (a : Reg) (b : Reg) (ma : Bool) (mb : Bool) (s : State) : exec (.mkga d a b ma mb) s = execMkga d a b ma mb s := rfl
@[simp] theorem exec_gcoord (d : Reg) (s : State) : exec (.gcoord d) s = execGcoord d s := rfl
@[simp] theorem exec_addi (d : Reg) (a : Reg) (imm : BitVec 12) (ma : Bool) (s : State) : exec (.addi d a imm ma) s = execAddi d a imm ma s := rfl
@[simp] theorem exec_andi (d : Reg) (a : Reg) (imm : BitVec 12) (ma : Bool) (s : State) : exec (.andi d a imm ma) s = execAndi d a imm ma s := rfl
@[simp] theorem exec_ori (d : Reg) (a : Reg) (imm : BitVec 12) (ma : Bool) (s : State) : exec (.ori d a imm ma) s = execOri d a imm ma s := rfl
@[simp] theorem exec_xori (d : Reg) (a : Reg) (imm : BitVec 12) (ma : Bool) (s : State) : exec (.xori d a imm ma) s = execXori d a imm ma s := rfl
@[simp] theorem exec_slti (d : Reg) (a : Reg) (imm : BitVec 12) (ma : Bool) (s : State) : exec (.slti d a imm ma) s = execSlti d a imm ma s := rfl
@[simp] theorem exec_sltiu (d : Reg) (a : Reg) (imm : BitVec 12) (ma : Bool) (s : State) : exec (.sltiu d a imm ma) s = execSltiu d a imm ma s := rfl
@[simp] theorem exec_slli (d : Reg) (a : Reg) (sh : BitVec 6) (ma : Bool) (s : State) : exec (.slli d a sh ma) s = execSlli d a sh ma s := rfl
@[simp] theorem exec_srli (d : Reg) (a : Reg) (sh : BitVec 6) (ma : Bool) (s : State) : exec (.srli d a sh ma) s = execSrli d a sh ma s := rfl
@[simp] theorem exec_srai (d : Reg) (a : Reg) (sh : BitVec 6) (ma : Bool) (s : State) : exec (.srai d a sh ma) s = execSrai d a sh ma s := rfl
@[simp] theorem exec_lui (d : Reg) (imm : BitVec 19) (s : State) : exec (.lui d imm) s = execLui d imm s := rfl
@[simp] theorem exec_auipc (d : Reg) (imm : BitVec 19) (s : State) : exec (.auipc d imm) s = execAuipc d imm s := rfl
@[simp] theorem exec_jal (d : Reg) (imm : BitVec 19) (s : State) : exec (.jal d imm) s = execJal d imm s := rfl
@[simp] theorem exec_jalr (d : Reg) (a : Reg) (imm : BitVec 12) (ma : Bool) (s : State) : exec (.jalr d a imm ma) s = execJalr d a imm ma s := rfl
@[simp] theorem exec_bfx (d : Reg) (a : Reg) (pos : BitVec 6) (len : BitVec 6) (ma : Bool) (s : State) : exec (.bfx d a pos len ma) s = execBfx d a pos len ma s := rfl
@[simp] theorem exec_bfi (d : Reg) (a : Reg) (pos : BitVec 6) (len : BitVec 6) (ma : Bool) (s : State) : exec (.bfi d a pos len ma) s = execBfi d a pos len ma s := rfl
@[simp] theorem exec_sel (d : Reg) (a : Reg) (b : Reg) (c : Reg) (mq : Bool) (s : State) : exec (.sel d a b c mq) s = execSel d a b c mq s := rfl
@[simp] theorem exec_beq (a : Reg) (b : Reg) (imm : BitVec 11) (ma : Bool) (mb : Bool) (s : State) : exec (.beq a b imm ma mb) s = execBeq a b imm ma mb s := rfl
@[simp] theorem exec_bne (a : Reg) (b : Reg) (imm : BitVec 11) (ma : Bool) (mb : Bool) (s : State) : exec (.bne a b imm ma mb) s = execBne a b imm ma mb s := rfl
@[simp] theorem exec_blt (a : Reg) (b : Reg) (imm : BitVec 11) (ma : Bool) (mb : Bool) (s : State) : exec (.blt a b imm ma mb) s = execBlt a b imm ma mb s := rfl
@[simp] theorem exec_bge (a : Reg) (b : Reg) (imm : BitVec 11) (ma : Bool) (mb : Bool) (s : State) : exec (.bge a b imm ma mb) s = execBge a b imm ma mb s := rfl
@[simp] theorem exec_bltu (a : Reg) (b : Reg) (imm : BitVec 11) (ma : Bool) (mb : Bool) (s : State) : exec (.bltu a b imm ma mb) s = execBltu a b imm ma mb s := rfl
@[simp] theorem exec_bgeu (a : Reg) (b : Reg) (imm : BitVec 11) (ma : Bool) (mb : Bool) (s : State) : exec (.bgeu a b imm ma mb) s = execBgeu a b imm ma mb s := rfl
@[simp] theorem exec_ldB (d : Reg) (a : Reg) (imm : BitVec 12) (ma : Bool) (s : State) : exec (.ldB d a imm ma) s = execLdB d a imm ma s := rfl
@[simp] theorem exec_ldH (d : Reg) (a : Reg) (imm : BitVec 12) (ma : Bool) (s : State) : exec (.ldH d a imm ma) s = execLdH d a imm ma s := rfl
@[simp] theorem exec_ldW (d : Reg) (a : Reg) (imm : BitVec 12) (ma : Bool) (s : State) : exec (.ldW d a imm ma) s = execLdW d a imm ma s := rfl
@[simp] theorem exec_ldD (d : Reg) (a : Reg) (imm : BitVec 12) (ma : Bool) (s : State) : exec (.ldD d a imm ma) s = execLdD d a imm ma s := rfl
@[simp] theorem exec_ldzB (d : Reg) (a : Reg) (imm : BitVec 12) (ma : Bool) (s : State) : exec (.ldzB d a imm ma) s = execLdzB d a imm ma s := rfl
@[simp] theorem exec_ldzH (d : Reg) (a : Reg) (imm : BitVec 12) (ma : Bool) (s : State) : exec (.ldzH d a imm ma) s = execLdzH d a imm ma s := rfl
@[simp] theorem exec_ldzW (d : Reg) (a : Reg) (imm : BitVec 12) (ma : Bool) (s : State) : exec (.ldzW d a imm ma) s = execLdzW d a imm ma s := rfl
@[simp] theorem exec_ldfW (d : Reg) (a : Reg) (imm : BitVec 12) (ma : Bool) (s : State) : exec (.ldfW d a imm ma) s = execLdfW d a imm ma s := rfl
@[simp] theorem exec_ldfD (d : Reg) (a : Reg) (imm : BitVec 12) (ma : Bool) (s : State) : exec (.ldfD d a imm ma) s = execLdfD d a imm ma s := rfl
@[simp] theorem exec_stB (rs : Reg) (a : Reg) (imm : BitVec 11) (ms : Bool) (ma : Bool) (s : State) : exec (.stB rs a imm ms ma) s = execStB rs a imm ms ma s := rfl
@[simp] theorem exec_stH (rs : Reg) (a : Reg) (imm : BitVec 11) (ms : Bool) (ma : Bool) (s : State) : exec (.stH rs a imm ms ma) s = execStH rs a imm ms ma s := rfl
@[simp] theorem exec_stW (rs : Reg) (a : Reg) (imm : BitVec 11) (ms : Bool) (ma : Bool) (s : State) : exec (.stW rs a imm ms ma) s = execStW rs a imm ms ma s := rfl
@[simp] theorem exec_stD (rs : Reg) (a : Reg) (imm : BitVec 11) (ms : Bool) (ma : Bool) (s : State) : exec (.stD rs a imm ms ma) s = execStD rs a imm ms ma s := rfl
@[simp] theorem exec_stfW (rs : Reg) (a : Reg) (imm : BitVec 11) (ms : Bool) (ma : Bool) (s : State) : exec (.stfW rs a imm ms ma) s = execStfW rs a imm ms ma s := rfl
@[simp] theorem exec_stfD (rs : Reg) (a : Reg) (imm : BitVec 11) (ms : Bool) (ma : Bool) (s : State) : exec (.stfD rs a imm ms ma) s = execStfD rs a imm ms ma s := rfl
@[simp] theorem exec_ldnbB (d : Reg) (a : Reg) (b : Reg) (ma : Bool) (mb : Bool) (s : State) : exec (.ldnbB d a b ma mb) s = execLdnbB d a b ma mb s := rfl
@[simp] theorem exec_ldnbH (d : Reg) (a : Reg) (b : Reg) (ma : Bool) (mb : Bool) (s : State) : exec (.ldnbH d a b ma mb) s = execLdnbH d a b ma mb s := rfl
@[simp] theorem exec_ldnbW (d : Reg) (a : Reg) (b : Reg) (ma : Bool) (mb : Bool) (s : State) : exec (.ldnbW d a b ma mb) s = execLdnbW d a b ma mb s := rfl
@[simp] theorem exec_ldnbD (d : Reg) (a : Reg) (b : Reg) (ma : Bool) (mb : Bool) (s : State) : exec (.ldnbD d a b ma mb) s = execLdnbD d a b ma mb s := rfl
@[simp] theorem exec_twait (a : Reg) (ma : Bool) (s : State) : exec (.twait a ma) s = execTwait a ma s := rfl
@[simp] theorem exec_stvaB (a : Reg) (b : Reg) (c : Reg) (mq : Bool) (s : State) : exec (.stvaB a b c mq) s = execStvaB a b c mq s := rfl
@[simp] theorem exec_stvaH (a : Reg) (b : Reg) (c : Reg) (mq : Bool) (s : State) : exec (.stvaH a b c mq) s = execStvaH a b c mq s := rfl
@[simp] theorem exec_stvaW (a : Reg) (b : Reg) (c : Reg) (mq : Bool) (s : State) : exec (.stvaW a b c mq) s = execStvaW a b c mq s := rfl
@[simp] theorem exec_stvaD (a : Reg) (b : Reg) (c : Reg) (mq : Bool) (s : State) : exec (.stvaD a b c mq) s = execStvaD a b c mq s := rfl
@[simp] theorem exec_amoaddW (d : Reg) (a : Reg) (b : Reg) (ma : Bool) (mb : Bool) (s : State) : exec (.amoaddW d a b ma mb) s = execAmoaddW d a b ma mb s := rfl
@[simp] theorem exec_amoaddD (d : Reg) (a : Reg) (b : Reg) (ma : Bool) (mb : Bool) (s : State) : exec (.amoaddD d a b ma mb) s = execAmoaddD d a b ma mb s := rfl
@[simp] theorem exec_amoaddWAcq (d : Reg) (a : Reg) (b : Reg) (ma : Bool) (mb : Bool) (s : State) : exec (.amoaddWAcq d a b ma mb) s = execAmoaddWAcq d a b ma mb s := rfl
@[simp] theorem exec_amoaddDAcq (d : Reg) (a : Reg) (b : Reg) (ma : Bool) (mb : Bool) (s : State) : exec (.amoaddDAcq d a b ma mb) s = execAmoaddDAcq d a b ma mb s := rfl
@[simp] theorem exec_amoaddWRel (d : Reg) (a : Reg) (b : Reg) (ma : Bool) (mb : Bool) (s : State) : exec (.amoaddWRel d a b ma mb) s = execAmoaddWRel d a b ma mb s := rfl
@[simp] theorem exec_amoaddDRel (d : Reg) (a : Reg) (b : Reg) (ma : Bool) (mb : Bool) (s : State) : exec (.amoaddDRel d a b ma mb) s = execAmoaddDRel d a b ma mb s := rfl
@[simp] theorem exec_amoaddWSc (d : Reg) (a : Reg) (b : Reg) (ma : Bool) (mb : Bool) (s : State) : exec (.amoaddWSc d a b ma mb) s = execAmoaddWSc d a b ma mb s := rfl
@[simp] theorem exec_amoaddDSc (d : Reg) (a : Reg) (b : Reg) (ma : Bool) (mb : Bool) (s : State) : exec (.amoaddDSc d a b ma mb) s = execAmoaddDSc d a b ma mb s := rfl
@[simp] theorem exec_amoandW (d : Reg) (a : Reg) (b : Reg) (ma : Bool) (mb : Bool) (s : State) : exec (.amoandW d a b ma mb) s = execAmoandW d a b ma mb s := rfl
@[simp] theorem exec_amoandD (d : Reg) (a : Reg) (b : Reg) (ma : Bool) (mb : Bool) (s : State) : exec (.amoandD d a b ma mb) s = execAmoandD d a b ma mb s := rfl
@[simp] theorem exec_amoandWAcq (d : Reg) (a : Reg) (b : Reg) (ma : Bool) (mb : Bool) (s : State) : exec (.amoandWAcq d a b ma mb) s = execAmoandWAcq d a b ma mb s := rfl
@[simp] theorem exec_amoandDAcq (d : Reg) (a : Reg) (b : Reg) (ma : Bool) (mb : Bool) (s : State) : exec (.amoandDAcq d a b ma mb) s = execAmoandDAcq d a b ma mb s := rfl
@[simp] theorem exec_amoandWRel (d : Reg) (a : Reg) (b : Reg) (ma : Bool) (mb : Bool) (s : State) : exec (.amoandWRel d a b ma mb) s = execAmoandWRel d a b ma mb s := rfl
@[simp] theorem exec_amoandDRel (d : Reg) (a : Reg) (b : Reg) (ma : Bool) (mb : Bool) (s : State) : exec (.amoandDRel d a b ma mb) s = execAmoandDRel d a b ma mb s := rfl
@[simp] theorem exec_amoandWSc (d : Reg) (a : Reg) (b : Reg) (ma : Bool) (mb : Bool) (s : State) : exec (.amoandWSc d a b ma mb) s = execAmoandWSc d a b ma mb s := rfl
@[simp] theorem exec_amoandDSc (d : Reg) (a : Reg) (b : Reg) (ma : Bool) (mb : Bool) (s : State) : exec (.amoandDSc d a b ma mb) s = execAmoandDSc d a b ma mb s := rfl
@[simp] theorem exec_amoorW (d : Reg) (a : Reg) (b : Reg) (ma : Bool) (mb : Bool) (s : State) : exec (.amoorW d a b ma mb) s = execAmoorW d a b ma mb s := rfl
@[simp] theorem exec_amoorD (d : Reg) (a : Reg) (b : Reg) (ma : Bool) (mb : Bool) (s : State) : exec (.amoorD d a b ma mb) s = execAmoorD d a b ma mb s := rfl
@[simp] theorem exec_amoorWAcq (d : Reg) (a : Reg) (b : Reg) (ma : Bool) (mb : Bool) (s : State) : exec (.amoorWAcq d a b ma mb) s = execAmoorWAcq d a b ma mb s := rfl
@[simp] theorem exec_amoorDAcq (d : Reg) (a : Reg) (b : Reg) (ma : Bool) (mb : Bool) (s : State) : exec (.amoorDAcq d a b ma mb) s = execAmoorDAcq d a b ma mb s := rfl
@[simp] theorem exec_amoorWRel (d : Reg) (a : Reg) (b : Reg) (ma : Bool) (mb : Bool) (s : State) : exec (.amoorWRel d a b ma mb) s = execAmoorWRel d a b ma mb s := rfl
@[simp] theorem exec_amoorDRel (d : Reg) (a : Reg) (b : Reg) (ma : Bool) (mb : Bool) (s : State) : exec (.amoorDRel d a b ma mb) s = execAmoorDRel d a b ma mb s := rfl
@[simp] theorem exec_amoorWSc (d : Reg) (a : Reg) (b : Reg) (ma : Bool) (mb : Bool) (s : State) : exec (.amoorWSc d a b ma mb) s = execAmoorWSc d a b ma mb s := rfl
@[simp] theorem exec_amoorDSc (d : Reg) (a : Reg) (b : Reg) (ma : Bool) (mb : Bool) (s : State) : exec (.amoorDSc d a b ma mb) s = execAmoorDSc d a b ma mb s := rfl
@[simp] theorem exec_amoxorW (d : Reg) (a : Reg) (b : Reg) (ma : Bool) (mb : Bool) (s : State) : exec (.amoxorW d a b ma mb) s = execAmoxorW d a b ma mb s := rfl
@[simp] theorem exec_amoxorD (d : Reg) (a : Reg) (b : Reg) (ma : Bool) (mb : Bool) (s : State) : exec (.amoxorD d a b ma mb) s = execAmoxorD d a b ma mb s := rfl
@[simp] theorem exec_amoxorWAcq (d : Reg) (a : Reg) (b : Reg) (ma : Bool) (mb : Bool) (s : State) : exec (.amoxorWAcq d a b ma mb) s = execAmoxorWAcq d a b ma mb s := rfl
@[simp] theorem exec_amoxorDAcq (d : Reg) (a : Reg) (b : Reg) (ma : Bool) (mb : Bool) (s : State) : exec (.amoxorDAcq d a b ma mb) s = execAmoxorDAcq d a b ma mb s := rfl
@[simp] theorem exec_amoxorWRel (d : Reg) (a : Reg) (b : Reg) (ma : Bool) (mb : Bool) (s : State) : exec (.amoxorWRel d a b ma mb) s = execAmoxorWRel d a b ma mb s := rfl
@[simp] theorem exec_amoxorDRel (d : Reg) (a : Reg) (b : Reg) (ma : Bool) (mb : Bool) (s : State) : exec (.amoxorDRel d a b ma mb) s = execAmoxorDRel d a b ma mb s := rfl
@[simp] theorem exec_amoxorWSc (d : Reg) (a : Reg) (b : Reg) (ma : Bool) (mb : Bool) (s : State) : exec (.amoxorWSc d a b ma mb) s = execAmoxorWSc d a b ma mb s := rfl
@[simp] theorem exec_amoxorDSc (d : Reg) (a : Reg) (b : Reg) (ma : Bool) (mb : Bool) (s : State) : exec (.amoxorDSc d a b ma mb) s = execAmoxorDSc d a b ma mb s := rfl
@[simp] theorem exec_amominW (d : Reg) (a : Reg) (b : Reg) (ma : Bool) (mb : Bool) (s : State) : exec (.amominW d a b ma mb) s = execAmominW d a b ma mb s := rfl
@[simp] theorem exec_amominD (d : Reg) (a : Reg) (b : Reg) (ma : Bool) (mb : Bool) (s : State) : exec (.amominD d a b ma mb) s = execAmominD d a b ma mb s := rfl
@[simp] theorem exec_amominWAcq (d : Reg) (a : Reg) (b : Reg) (ma : Bool) (mb : Bool) (s : State) : exec (.amominWAcq d a b ma mb) s = execAmominWAcq d a b ma mb s := rfl
@[simp] theorem exec_amominDAcq (d : Reg) (a : Reg) (b : Reg) (ma : Bool) (mb : Bool) (s : State) : exec (.amominDAcq d a b ma mb) s = execAmominDAcq d a b ma mb s := rfl
@[simp] theorem exec_amominWRel (d : Reg) (a : Reg) (b : Reg) (ma : Bool) (mb : Bool) (s : State) : exec (.amominWRel d a b ma mb) s = execAmominWRel d a b ma mb s := rfl
@[simp] theorem exec_amominDRel (d : Reg) (a : Reg) (b : Reg) (ma : Bool) (mb : Bool) (s : State) : exec (.amominDRel d a b ma mb) s = execAmominDRel d a b ma mb s := rfl
@[simp] theorem exec_amominWSc (d : Reg) (a : Reg) (b : Reg) (ma : Bool) (mb : Bool) (s : State) : exec (.amominWSc d a b ma mb) s = execAmominWSc d a b ma mb s := rfl
@[simp] theorem exec_amominDSc (d : Reg) (a : Reg) (b : Reg) (ma : Bool) (mb : Bool) (s : State) : exec (.amominDSc d a b ma mb) s = execAmominDSc d a b ma mb s := rfl
@[simp] theorem exec_amomaxW (d : Reg) (a : Reg) (b : Reg) (ma : Bool) (mb : Bool) (s : State) : exec (.amomaxW d a b ma mb) s = execAmomaxW d a b ma mb s := rfl
@[simp] theorem exec_amomaxD (d : Reg) (a : Reg) (b : Reg) (ma : Bool) (mb : Bool) (s : State) : exec (.amomaxD d a b ma mb) s = execAmomaxD d a b ma mb s := rfl
@[simp] theorem exec_amomaxWAcq (d : Reg) (a : Reg) (b : Reg) (ma : Bool) (mb : Bool) (s : State) : exec (.amomaxWAcq d a b ma mb) s = execAmomaxWAcq d a b ma mb s := rfl
@[simp] theorem exec_amomaxDAcq (d : Reg) (a : Reg) (b : Reg) (ma : Bool) (mb : Bool) (s : State) : exec (.amomaxDAcq d a b ma mb) s = execAmomaxDAcq d a b ma mb s := rfl
@[simp] theorem exec_amomaxWRel (d : Reg) (a : Reg) (b : Reg) (ma : Bool) (mb : Bool) (s : State) : exec (.amomaxWRel d a b ma mb) s = execAmomaxWRel d a b ma mb s := rfl
@[simp] theorem exec_amomaxDRel (d : Reg) (a : Reg) (b : Reg) (ma : Bool) (mb : Bool) (s : State) : exec (.amomaxDRel d a b ma mb) s = execAmomaxDRel d a b ma mb s := rfl
@[simp] theorem exec_amomaxWSc (d : Reg) (a : Reg) (b : Reg) (ma : Bool) (mb : Bool) (s : State) : exec (.amomaxWSc d a b ma mb) s = execAmomaxWSc d a b ma mb s := rfl
@[simp] theorem exec_amomaxDSc (d : Reg) (a : Reg) (b : Reg) (ma : Bool) (mb : Bool) (s : State) : exec (.amomaxDSc d a b ma mb) s = execAmomaxDSc d a b ma mb s := rfl
@[simp] theorem exec_amoswapW (d : Reg) (a : Reg) (b : Reg) (ma : Bool) (mb : Bool) (s : State) : exec (.amoswapW d a b ma mb) s = execAmoswapW d a b ma mb s := rfl
@[simp] theorem exec_amoswapD (d : Reg) (a : Reg) (b : Reg) (ma : Bool) (mb : Bool) (s : State) : exec (.amoswapD d a b ma mb) s = execAmoswapD d a b ma mb s := rfl
@[simp] theorem exec_amoswapWAcq (d : Reg) (a : Reg) (b : Reg) (ma : Bool) (mb : Bool) (s : State) : exec (.amoswapWAcq d a b ma mb) s = execAmoswapWAcq d a b ma mb s := rfl
@[simp] theorem exec_amoswapDAcq (d : Reg) (a : Reg) (b : Reg) (ma : Bool) (mb : Bool) (s : State) : exec (.amoswapDAcq d a b ma mb) s = execAmoswapDAcq d a b ma mb s := rfl
@[simp] theorem exec_amoswapWRel (d : Reg) (a : Reg) (b : Reg) (ma : Bool) (mb : Bool) (s : State) : exec (.amoswapWRel d a b ma mb) s = execAmoswapWRel d a b ma mb s := rfl
@[simp] theorem exec_amoswapDRel (d : Reg) (a : Reg) (b : Reg) (ma : Bool) (mb : Bool) (s : State) : exec (.amoswapDRel d a b ma mb) s = execAmoswapDRel d a b ma mb s := rfl
@[simp] theorem exec_amoswapWSc (d : Reg) (a : Reg) (b : Reg) (ma : Bool) (mb : Bool) (s : State) : exec (.amoswapWSc d a b ma mb) s = execAmoswapWSc d a b ma mb s := rfl
@[simp] theorem exec_amoswapDSc (d : Reg) (a : Reg) (b : Reg) (ma : Bool) (mb : Bool) (s : State) : exec (.amoswapDSc d a b ma mb) s = execAmoswapDSc d a b ma mb s := rfl
@[simp] theorem exec_amofaddW (d : Reg) (a : Reg) (b : Reg) (ma : Bool) (mb : Bool) (s : State) : exec (.amofaddW d a b ma mb) s = execAmofaddW d a b ma mb s := rfl
@[simp] theorem exec_amofaddD (d : Reg) (a : Reg) (b : Reg) (ma : Bool) (mb : Bool) (s : State) : exec (.amofaddD d a b ma mb) s = execAmofaddD d a b ma mb s := rfl
@[simp] theorem exec_amofaddWAcq (d : Reg) (a : Reg) (b : Reg) (ma : Bool) (mb : Bool) (s : State) : exec (.amofaddWAcq d a b ma mb) s = execAmofaddWAcq d a b ma mb s := rfl
@[simp] theorem exec_amofaddDAcq (d : Reg) (a : Reg) (b : Reg) (ma : Bool) (mb : Bool) (s : State) : exec (.amofaddDAcq d a b ma mb) s = execAmofaddDAcq d a b ma mb s := rfl
@[simp] theorem exec_amofaddWRel (d : Reg) (a : Reg) (b : Reg) (ma : Bool) (mb : Bool) (s : State) : exec (.amofaddWRel d a b ma mb) s = execAmofaddWRel d a b ma mb s := rfl
@[simp] theorem exec_amofaddDRel (d : Reg) (a : Reg) (b : Reg) (ma : Bool) (mb : Bool) (s : State) : exec (.amofaddDRel d a b ma mb) s = execAmofaddDRel d a b ma mb s := rfl
@[simp] theorem exec_amofaddWSc (d : Reg) (a : Reg) (b : Reg) (ma : Bool) (mb : Bool) (s : State) : exec (.amofaddWSc d a b ma mb) s = execAmofaddWSc d a b ma mb s := rfl
@[simp] theorem exec_amofaddDSc (d : Reg) (a : Reg) (b : Reg) (ma : Bool) (mb : Bool) (s : State) : exec (.amofaddDSc d a b ma mb) s = execAmofaddDSc d a b ma mb s := rfl
@[simp] theorem exec_amocasW (d : Reg) (a : Reg) (b : Reg) (c : Reg) (mq : Bool) (s : State) : exec (.amocasW d a b c mq) s = execAmocasW d a b c mq s := rfl
@[simp] theorem exec_amocasD (d : Reg) (a : Reg) (b : Reg) (c : Reg) (mq : Bool) (s : State) : exec (.amocasD d a b c mq) s = execAmocasD d a b c mq s := rfl
@[simp] theorem exec_amocasWAcq (d : Reg) (a : Reg) (b : Reg) (c : Reg) (mq : Bool) (s : State) : exec (.amocasWAcq d a b c mq) s = execAmocasWAcq d a b c mq s := rfl
@[simp] theorem exec_amocasDAcq (d : Reg) (a : Reg) (b : Reg) (c : Reg) (mq : Bool) (s : State) : exec (.amocasDAcq d a b c mq) s = execAmocasDAcq d a b c mq s := rfl
@[simp] theorem exec_amocasWRel (d : Reg) (a : Reg) (b : Reg) (c : Reg) (mq : Bool) (s : State) : exec (.amocasWRel d a b c mq) s = execAmocasWRel d a b c mq s := rfl
@[simp] theorem exec_amocasDRel (d : Reg) (a : Reg) (b : Reg) (c : Reg) (mq : Bool) (s : State) : exec (.amocasDRel d a b c mq) s = execAmocasDRel d a b c mq s := rfl
@[simp] theorem exec_amocasWSc (d : Reg) (a : Reg) (b : Reg) (c : Reg) (mq : Bool) (s : State) : exec (.amocasWSc d a b c mq) s = execAmocasWSc d a b c mq s := rfl
@[simp] theorem exec_amocasDSc (d : Reg) (a : Reg) (b : Reg) (c : Reg) (mq : Bool) (s : State) : exec (.amocasDSc d a b c mq) s = execAmocasDSc d a b c mq s := rfl
@[simp] theorem exec_fence (scope : BitVec 3) (kind : BitVec 4) (s : State) : exec (.fence scope kind) s = execFence scope kind s := rfl
@[simp] theorem exec_fenceLoop (s : State) : exec .fenceLoop s = execFenceLoop s := rfl
@[simp] theorem exec_femark (d : Reg) (a : Reg) (ma : Bool) (s : State) : exec (.femark d a ma) s = execFemark d a ma s := rfl
@[simp] theorem exec_fewait (a : Reg) (ma : Bool) (s : State) : exec (.fewait a ma) s = execFewait a ma s := rfl
@[simp] theorem exec_ctlrd (d : Reg) (imm : BitVec 12) (s : State) : exec (.ctlrd d imm) s = execCtlrd d imm s := rfl
@[simp] theorem exec_ctlwr (d : Reg) (a : Reg) (imm : BitVec 12) (ma : Bool) (s : State) : exec (.ctlwr d a imm ma) s = execCtlwr d a imm ma s := rfl
@[simp] theorem exec_ctlset (d : Reg) (a : Reg) (imm : BitVec 12) (ma : Bool) (s : State) : exec (.ctlset d a imm ma) s = execCtlset d a imm ma s := rfl
@[simp] theorem exec_ctlclr (d : Reg) (a : Reg) (imm : BitVec 12) (ma : Bool) (s : State) : exec (.ctlclr d a imm ma) s = execCtlclr d a imm ma s := rfl
@[simp] theorem exec_faddS (d : Reg) (a : Reg) (b : Reg) (ma : Bool) (mb : Bool) (s : State) : exec (.faddS d a b ma mb) s = execFaddS d a b ma mb s := rfl
@[simp] theorem exec_fsubS (d : Reg) (a : Reg) (b : Reg) (ma : Bool) (mb : Bool) (s : State) : exec (.fsubS d a b ma mb) s = execFsubS d a b ma mb s := rfl
@[simp] theorem exec_fmulS (d : Reg) (a : Reg) (b : Reg) (ma : Bool) (mb : Bool) (s : State) : exec (.fmulS d a b ma mb) s = execFmulS d a b ma mb s := rfl
@[simp] theorem exec_fdivS (d : Reg) (a : Reg) (b : Reg) (ma : Bool) (mb : Bool) (s : State) : exec (.fdivS d a b ma mb) s = execFdivS d a b ma mb s := rfl
@[simp] theorem exec_fsqrtS (d : Reg) (a : Reg) (ma : Bool) (s : State) : exec (.fsqrtS d a ma) s = execFsqrtS d a ma s := rfl
@[simp] theorem exec_fminS (d : Reg) (a : Reg) (b : Reg) (ma : Bool) (mb : Bool) (s : State) : exec (.fminS d a b ma mb) s = execFminS d a b ma mb s := rfl
@[simp] theorem exec_fmaxS (d : Reg) (a : Reg) (b : Reg) (ma : Bool) (mb : Bool) (s : State) : exec (.fmaxS d a b ma mb) s = execFmaxS d a b ma mb s := rfl
@[simp] theorem exec_fcmpEqS (d : Reg) (a : Reg) (b : Reg) (ma : Bool) (mb : Bool) (s : State) : exec (.fcmpEqS d a b ma mb) s = execFcmpEqS d a b ma mb s := rfl
@[simp] theorem exec_fcmpLtS (d : Reg) (a : Reg) (b : Reg) (ma : Bool) (mb : Bool) (s : State) : exec (.fcmpLtS d a b ma mb) s = execFcmpLtS d a b ma mb s := rfl
@[simp] theorem exec_fcmpLeS (d : Reg) (a : Reg) (b : Reg) (ma : Bool) (mb : Bool) (s : State) : exec (.fcmpLeS d a b ma mb) s = execFcmpLeS d a b ma mb s := rfl
@[simp] theorem exec_fclassS (d : Reg) (a : Reg) (ma : Bool) (s : State) : exec (.fclassS d a ma) s = execFclassS d a ma s := rfl
@[simp] theorem exec_fsgnjS (d : Reg) (a : Reg) (b : Reg) (ma : Bool) (mb : Bool) (s : State) : exec (.fsgnjS d a b ma mb) s = execFsgnjS d a b ma mb s := rfl
@[simp] theorem exec_fsgnjnS (d : Reg) (a : Reg) (b : Reg) (ma : Bool) (mb : Bool) (s : State) : exec (.fsgnjnS d a b ma mb) s = execFsgnjnS d a b ma mb s := rfl
@[simp] theorem exec_fsgnjxS (d : Reg) (a : Reg) (b : Reg) (ma : Bool) (mb : Bool) (s : State) : exec (.fsgnjxS d a b ma mb) s = execFsgnjxS d a b ma mb s := rfl
@[simp] theorem exec_fmvXS (d : Reg) (a : Reg) (ma : Bool) (s : State) : exec (.fmvXS d a ma) s = execFmvXS d a ma s := rfl
@[simp] theorem exec_fmvFS (d : Reg) (a : Reg) (ma : Bool) (s : State) : exec (.fmvFS d a ma) s = execFmvFS d a ma s := rfl
@[simp] theorem exec_faddD (d : Reg) (a : Reg) (b : Reg) (ma : Bool) (mb : Bool) (s : State) : exec (.faddD d a b ma mb) s = execFaddD d a b ma mb s := rfl
@[simp] theorem exec_fsubD (d : Reg) (a : Reg) (b : Reg) (ma : Bool) (mb : Bool) (s : State) : exec (.fsubD d a b ma mb) s = execFsubD d a b ma mb s := rfl
@[simp] theorem exec_fmulD (d : Reg) (a : Reg) (b : Reg) (ma : Bool) (mb : Bool) (s : State) : exec (.fmulD d a b ma mb) s = execFmulD d a b ma mb s := rfl
@[simp] theorem exec_fdivD (d : Reg) (a : Reg) (b : Reg) (ma : Bool) (mb : Bool) (s : State) : exec (.fdivD d a b ma mb) s = execFdivD d a b ma mb s := rfl
@[simp] theorem exec_fsqrtD (d : Reg) (a : Reg) (ma : Bool) (s : State) : exec (.fsqrtD d a ma) s = execFsqrtD d a ma s := rfl
@[simp] theorem exec_fminD (d : Reg) (a : Reg) (b : Reg) (ma : Bool) (mb : Bool) (s : State) : exec (.fminD d a b ma mb) s = execFminD d a b ma mb s := rfl
@[simp] theorem exec_fmaxD (d : Reg) (a : Reg) (b : Reg) (ma : Bool) (mb : Bool) (s : State) : exec (.fmaxD d a b ma mb) s = execFmaxD d a b ma mb s := rfl
@[simp] theorem exec_fcmpEqD (d : Reg) (a : Reg) (b : Reg) (ma : Bool) (mb : Bool) (s : State) : exec (.fcmpEqD d a b ma mb) s = execFcmpEqD d a b ma mb s := rfl
@[simp] theorem exec_fcmpLtD (d : Reg) (a : Reg) (b : Reg) (ma : Bool) (mb : Bool) (s : State) : exec (.fcmpLtD d a b ma mb) s = execFcmpLtD d a b ma mb s := rfl
@[simp] theorem exec_fcmpLeD (d : Reg) (a : Reg) (b : Reg) (ma : Bool) (mb : Bool) (s : State) : exec (.fcmpLeD d a b ma mb) s = execFcmpLeD d a b ma mb s := rfl
@[simp] theorem exec_fclassD (d : Reg) (a : Reg) (ma : Bool) (s : State) : exec (.fclassD d a ma) s = execFclassD d a ma s := rfl
@[simp] theorem exec_fsgnjD (d : Reg) (a : Reg) (b : Reg) (ma : Bool) (mb : Bool) (s : State) : exec (.fsgnjD d a b ma mb) s = execFsgnjD d a b ma mb s := rfl
@[simp] theorem exec_fsgnjnD (d : Reg) (a : Reg) (b : Reg) (ma : Bool) (mb : Bool) (s : State) : exec (.fsgnjnD d a b ma mb) s = execFsgnjnD d a b ma mb s := rfl
@[simp] theorem exec_fsgnjxD (d : Reg) (a : Reg) (b : Reg) (ma : Bool) (mb : Bool) (s : State) : exec (.fsgnjxD d a b ma mb) s = execFsgnjxD d a b ma mb s := rfl
@[simp] theorem exec_fmvXD (d : Reg) (a : Reg) (ma : Bool) (s : State) : exec (.fmvXD d a ma) s = execFmvXD d a ma s := rfl
@[simp] theorem exec_fmvFD (d : Reg) (a : Reg) (ma : Bool) (s : State) : exec (.fmvFD d a ma) s = execFmvFD d a ma s := rfl
@[simp] theorem exec_fcvtSD (d : Reg) (a : Reg) (ma : Bool) (s : State) : exec (.fcvtSD d a ma) s = execFcvtSD d a ma s := rfl
@[simp] theorem exec_fcvtLD (d : Reg) (a : Reg) (ma : Bool) (s : State) : exec (.fcvtLD d a ma) s = execFcvtLD d a ma s := rfl
@[simp] theorem exec_fcvtLuD (d : Reg) (a : Reg) (ma : Bool) (s : State) : exec (.fcvtLuD d a ma) s = execFcvtLuD d a ma s := rfl
@[simp] theorem exec_fcvtDS (d : Reg) (a : Reg) (ma : Bool) (s : State) : exec (.fcvtDS d a ma) s = execFcvtDS d a ma s := rfl
@[simp] theorem exec_fcvtLS (d : Reg) (a : Reg) (ma : Bool) (s : State) : exec (.fcvtLS d a ma) s = execFcvtLS d a ma s := rfl
@[simp] theorem exec_fcvtLuS (d : Reg) (a : Reg) (ma : Bool) (s : State) : exec (.fcvtLuS d a ma) s = execFcvtLuS d a ma s := rfl
@[simp] theorem exec_fcvtDL (d : Reg) (a : Reg) (ma : Bool) (s : State) : exec (.fcvtDL d a ma) s = execFcvtDL d a ma s := rfl
@[simp] theorem exec_fcvtSL (d : Reg) (a : Reg) (ma : Bool) (s : State) : exec (.fcvtSL d a ma) s = execFcvtSL d a ma s := rfl
@[simp] theorem exec_fcvtLuL (d : Reg) (a : Reg) (ma : Bool) (s : State) : exec (.fcvtLuL d a ma) s = execFcvtLuL d a ma s := rfl
@[simp] theorem exec_fcvtDLu (d : Reg) (a : Reg) (ma : Bool) (s : State) : exec (.fcvtDLu d a ma) s = execFcvtDLu d a ma s := rfl
@[simp] theorem exec_fcvtSLu (d : Reg) (a : Reg) (ma : Bool) (s : State) : exec (.fcvtSLu d a ma) s = execFcvtSLu d a ma s := rfl
@[simp] theorem exec_fcvtLLu (d : Reg) (a : Reg) (ma : Bool) (s : State) : exec (.fcvtLLu d a ma) s = execFcvtLLu d a ma s := rfl
@[simp] theorem exec_fmaS (d : Reg) (a : Reg) (b : Reg) (c : Reg) (mq : Bool) (s : State) : exec (.fmaS d a b c mq) s = execFmaS d a b c mq s := rfl
@[simp] theorem exec_fmaD (d : Reg) (a : Reg) (b : Reg) (c : Reg) (mq : Bool) (s : State) : exec (.fmaD d a b c mq) s = execFmaD d a b c mq s := rfl
@[simp] theorem exec_spawn (d : Reg) (a : Reg) (b : Reg) (ma : Bool) (mb : Bool) (s : State) : exec (.spawn d a b ma mb) s = execSpawn d a b ma mb s := rfl
@[simp] theorem exec_joinw (d : Reg) (a : Reg) (ma : Bool) (s : State) : exec (.joinw d a ma) s = execJoinw d a ma s := rfl
@[simp] theorem exec_jdec (a : Reg) (b : Reg) (ma : Bool) (mb : Bool) (s : State) : exec (.jdec a b ma mb) s = execJdec a b ma mb s := rfl
@[simp] theorem exec_done (a : Reg) (ma : Bool) (s : State) : exec (.done a ma) s = execDone a ma s := rfl
@[simp] theorem exec_yield (s : State) : exec .yield s = execYield s := rfl
@[simp] theorem exec_susp (a : Reg) (ma : Bool) (s : State) : exec (.susp a ma) s = execSusp a ma s := rfl
@[simp] theorem exec_stealctl (d : Reg) (a : Reg) (ma : Bool) (s : State) : exec (.stealctl d a ma) s = execStealctl d a ma s := rfl
@[simp] theorem exec_mbq (d : Reg) (a : Reg) (ma : Bool) (s : State) : exec (.mbq d a ma) s = execMbq d a ma s := rfl
@[simp] theorem exec_send (a : Reg) (b : Reg) (chan : BitVec 8) (ma : Bool) (mb : Bool) (s : State) : exec (.send a b chan ma mb) s = execSend a b chan ma mb s := rfl
@[simp] theorem exec_reply (b : Reg) (chan : BitVec 8) (mb : Bool) (s : State) : exec (.reply b chan mb) s = execReply b chan mb s := rfl
@[simp] theorem exec_chset (a : Reg) (b : Reg) (chan : BitVec 8) (ma : Bool) (mb : Bool) (s : State) : exec (.chset a b chan ma mb) s = execChset a b chan ma mb s := rfl
@[simp] theorem exec_chblk (a : Reg) (chan : BitVec 8) (ma : Bool) (s : State) : exec (.chblk a chan ma) s = execChblk a chan ma s := rfl
@[simp] theorem exec_chunblk (a : Reg) (chan : BitVec 8) (ma : Bool) (s : State) : exec (.chunblk a chan ma) s = execChunblk a chan ma s := rfl
@[simp] theorem exec_barriv (a : Reg) (ma : Bool) (s : State) : exec (.barriv a ma) s = execBarriv a ma s := rfl
@[simp] theorem exec_barwait (d : Reg) (a : Reg) (b : Reg) (ma : Bool) (mb : Bool) (s : State) : exec (.barwait d a b ma mb) s = execBarwait d a b ma mb s := rfl
@[simp] theorem exec_cdef (a : Reg) (b : Reg) (ma : Bool) (mb : Bool) (s : State) : exec (.cdef a b ma mb) s = execCdef a b ma mb s := rfl
@[simp] theorem exec_cbind (a : Reg) (b : Reg) (ma : Bool) (mb : Bool) (s : State) : exec (.cbind a b ma mb) s = execCbind a b ma mb s := rfl
@[simp] theorem exec_cunbind (a : Reg) (ma : Bool) (s : State) : exec (.cunbind a ma) s = execCunbind a ma s := rfl
@[simp] theorem exec_cst (a : Reg) (b : Reg) (ma : Bool) (mb : Bool) (s : State) : exec (.cst a b ma mb) s = execCst a b ma mb s := rfl
@[simp] theorem exec_csnap (d : Reg) (a : Reg) (ma : Bool) (s : State) : exec (.csnap d a ma) s = execCsnap d a ma s := rfl
@[simp] theorem exec_cld (d : Reg) (a : Reg) (b : Reg) (ma : Bool) (mb : Bool) (s : State) : exec (.cld d a b ma mb) s = execCld d a b ma mb s := rfl
@[simp] theorem exec_commit (d : Reg) (s : State) : exec (.commit d) s = execCommit d s := rfl
@[simp] theorem exec_abandon (d : Reg) (s : State) : exec (.abandon d) s = execAbandon d s := rfl
@[simp] theorem exec_cstat (d : Reg) (a : Reg) (ma : Bool) (s : State) : exec (.cstat d a ma) s = execCstat d a ma s := rfl
@[simp] theorem exec_vadd (d : Reg) (a : Reg) (b : Reg) (ma : Bool) (mb : Bool) (s : State) : exec (.vadd d a b ma mb) s = execVadd d a b ma mb s := rfl
@[simp] theorem exec_vsub (d : Reg) (a : Reg) (b : Reg) (ma : Bool) (mb : Bool) (s : State) : exec (.vsub d a b ma mb) s = execVsub d a b ma mb s := rfl
@[simp] theorem exec_vmul (d : Reg) (a : Reg) (b : Reg) (ma : Bool) (mb : Bool) (s : State) : exec (.vmul d a b ma mb) s = execVmul d a b ma mb s := rfl
@[simp] theorem exec_vmax (d : Reg) (a : Reg) (b : Reg) (ma : Bool) (mb : Bool) (s : State) : exec (.vmax d a b ma mb) s = execVmax d a b ma mb s := rfl
@[simp] theorem exec_vmin (d : Reg) (a : Reg) (b : Reg) (ma : Bool) (mb : Bool) (s : State) : exec (.vmin d a b ma mb) s = execVmin d a b ma mb s := rfl
@[simp] theorem exec_vabs (d : Reg) (a : Reg) (ma : Bool) (s : State) : exec (.vabs d a ma) s = execVabs d a ma s := rfl
@[simp] theorem exec_vneg (d : Reg) (a : Reg) (ma : Bool) (s : State) : exec (.vneg d a ma) s = execVneg d a ma s := rfl
@[simp] theorem exec_vcvt (d : Reg) (a : Reg) (ma : Bool) (s : State) : exec (.vcvt d a ma) s = execVcvt d a ma s := rfl
@[simp] theorem exec_vred (d : Reg) (a : Reg) (ma : Bool) (s : State) : exec (.vred d a ma) s = execVred d a ma s := rfl
@[simp] theorem exec_vcmp (d : Reg) (a : Reg) (b : Reg) (ma : Bool) (mb : Bool) (s : State) : exec (.vcmp d a b ma mb) s = execVcmp d a b ma mb s := rfl
@[simp] theorem exec_vmov (d : Reg) (a : Reg) (ma : Bool) (s : State) : exec (.vmov d a ma) s = execVmov d a ma s := rfl
@[simp] theorem exec_vshf (d : Reg) (a : Reg) (b : Reg) (ma : Bool) (mb : Bool) (s : State) : exec (.vshf d a b ma mb) s = execVshf d a b ma mb s := rfl
@[simp] theorem exec_vwait (s : State) : exec .vwait s = execVwait s := rfl
@[simp] theorem exec_vfma (d : Reg) (a : Reg) (b : Reg) (c : Reg) (mq : Bool) (s : State) : exec (.vfma d a b c mq) s = execVfma d a b c mq s := rfl
@[simp] theorem exec_vsel (d : Reg) (a : Reg) (b : Reg) (c : Reg) (mq : Bool) (s : State) : exec (.vsel d a b c mq) s = execVsel d a b c mq s := rfl
@[simp] theorem exec_vexp (d : Reg) (a : Reg) (ma : Bool) (s : State) : exec (.vexp d a ma) s = execVexp d a ma s := rfl
@[simp] theorem exec_vlog (d : Reg) (a : Reg) (ma : Bool) (s : State) : exec (.vlog d a ma) s = execVlog d a ma s := rfl
@[simp] theorem exec_vrcp (d : Reg) (a : Reg) (ma : Bool) (s : State) : exec (.vrcp d a ma) s = execVrcp d a ma s := rfl
@[simp] theorem exec_vrsq (d : Reg) (a : Reg) (ma : Bool) (s : State) : exec (.vrsq d a ma) s = execVrsq d a ma s := rfl
@[simp] theorem exec_vtanh (d : Reg) (a : Reg) (ma : Bool) (s : State) : exec (.vtanh d a ma) s = execVtanh d a ma s := rfl
@[simp] theorem exec_vsigm (d : Reg) (a : Reg) (ma : Bool) (s : State) : exec (.vsigm d a ma) s = execVsigm d a ma s := rfl
@[simp] theorem exec_vexpA (d : Reg) (a : Reg) (ma : Bool) (s : State) : exec (.vexpA d a ma) s = execVexpA d a ma s := rfl
@[simp] theorem exec_vlogA (d : Reg) (a : Reg) (ma : Bool) (s : State) : exec (.vlogA d a ma) s = execVlogA d a ma s := rfl
@[simp] theorem exec_vrcpA (d : Reg) (a : Reg) (ma : Bool) (s : State) : exec (.vrcpA d a ma) s = execVrcpA d a ma s := rfl
@[simp] theorem exec_vrsqA (d : Reg) (a : Reg) (ma : Bool) (s : State) : exec (.vrsqA d a ma) s = execVrsqA d a ma s := rfl
@[simp] theorem exec_vtanhA (d : Reg) (a : Reg) (ma : Bool) (s : State) : exec (.vtanhA d a ma) s = execVtanhA d a ma s := rfl
@[simp] theorem exec_vsigmA (d : Reg) (a : Reg) (ma : Bool) (s : State) : exec (.vsigmA d a ma) s = execVsigmA d a ma s := rfl
@[simp] theorem exec_mand (d : Reg) (a : Reg) (b : Reg) (ma : Bool) (mb : Bool) (s : State) : exec (.mand d a b ma mb) s = execMand d a b ma mb s := rfl
@[simp] theorem exec_mor (d : Reg) (a : Reg) (b : Reg) (ma : Bool) (mb : Bool) (s : State) : exec (.mor d a b ma mb) s = execMor d a b ma mb s := rfl
@[simp] theorem exec_mxor (d : Reg) (a : Reg) (b : Reg) (ma : Bool) (mb : Bool) (s : State) : exec (.mxor d a b ma mb) s = execMxor d a b ma mb s := rfl
@[simp] theorem exec_mnot (d : Reg) (a : Reg) (ma : Bool) (s : State) : exec (.mnot d a ma) s = execMnot d a ma s := rfl
@[simp] theorem exec_mshl (d : Reg) (a : Reg) (b : Reg) (ma : Bool) (mb : Bool) (s : State) : exec (.mshl d a b ma mb) s = execMshl d a b ma mb s := rfl
@[simp] theorem exec_mshr (d : Reg) (a : Reg) (b : Reg) (ma : Bool) (mb : Bool) (s : State) : exec (.mshr d a b ma mb) s = execMshr d a b ma mb s := rfl
@[simp] theorem exec_mpop (d : Reg) (a : Reg) (ma : Bool) (s : State) : exec (.mpop d a ma) s = execMpop d a ma s := rfl
@[simp] theorem exec_mmovMX (d : Reg) (a : Reg) (ma : Bool) (s : State) : exec (.mmovMX d a ma) s = execMmovMX d a ma s := rfl
@[simp] theorem exec_mmovXM (d : Reg) (a : Reg) (ma : Bool) (s : State) : exec (.mmovXM d a ma) s = execMmovXM d a ma s := rfl
@[simp] theorem exec_mmovMM (d : Reg) (a : Reg) (ma : Bool) (s : State) : exec (.mmovMM d a ma) s = execMmovMM d a ma s := rfl
@[simp] theorem exec_enqM (d : Reg) (a : Reg) (b : Reg) (ma : Bool) (mb : Bool) (q3 : Bool) (s : State) : exec (.enqM d a b ma mb q3) s = execEnqM d a b ma mb q3 s := rfl
@[simp] theorem exec_enqV (d : Reg) (a : Reg) (b : Reg) (ma : Bool) (mb : Bool) (s : State) : exec (.enqV d a b ma mb) s = execEnqV d a b ma mb s := rfl
@[simp] theorem exec_enqC (d : Reg) (a : Reg) (b : Reg) (ma : Bool) (mb : Bool) (s : State) : exec (.enqC d a b ma mb) s = execEnqC d a b ma mb s := rfl
@[simp] theorem exec_qmig (d : Reg) (a : Reg) (ma : Bool) (s : State) : exec (.qmig d a ma) s = execQmig d a ma s := rfl
@[simp] theorem exec_publ (a : Reg) (ma : Bool) (s : State) : exec (.publ a ma) s = execPubl a ma s := rfl
@[simp] theorem exec_wmrd (d : Reg) (a : Reg) (ma : Bool) (s : State) : exec (.wmrd d a ma) s = execWmrd d a ma s := rfl
@[simp] theorem exec_baddq (a : Reg) (b : Reg) (ma : Bool) (mb : Bool) (s : State) : exec (.baddq a b ma mb) s = execBaddq a b ma mb s := rfl
@[simp] theorem exec_bqtake (d : Reg) (a : Reg) (ma : Bool) (s : State) : exec (.bqtake d a ma) s = execBqtake d a ma s := rfl
@[simp] theorem exec_ddvar (d : Reg) (a : Reg) (ma : Bool) (s : State) : exec (.ddvar d a ma) s = execDdvar d a ma s := rfl
@[simp] theorem exec_ddrestrict (d : Reg) (a : Reg) (b : Reg) (ma : Bool) (mb : Bool) (s : State) : exec (.ddrestrict d a b ma mb) s = execDdrestrict d a b ma mb s := rfl
@[simp] theorem exec_ddexist (d : Reg) (a : Reg) (b : Reg) (ma : Bool) (mb : Bool) (s : State) : exec (.ddexist d a b ma mb) s = execDdexist d a b ma mb s := rfl
@[simp] theorem exec_ddcount (d : Reg) (a : Reg) (b : Reg) (ma : Bool) (mb : Bool) (s : State) : exec (.ddcount d a b ma mb) s = execDdcount d a b ma mb s := rfl
@[simp] theorem exec_ddmask (d : Reg) (a : Reg) (b : Reg) (ma : Bool) (mb : Bool) (s : State) : exec (.ddmask d a b ma mb) s = execDdmask d a b ma mb s := rfl
@[simp] theorem exec_ddref (a : Reg) (ma : Bool) (s : State) : exec (.ddref a ma) s = execDdref a ma s := rfl
@[simp] theorem exec_ddderef (a : Reg) (ma : Bool) (s : State) : exec (.ddderef a ma) s = execDdderef a ma s := rfl
@[simp] theorem exec_ddswap (d : Reg) (a : Reg) (ma : Bool) (s : State) : exec (.ddswap d a ma) s = execDdswap d a ma s := rfl
@[simp] theorem exec_ddcollect (d : Reg) (s : State) : exec (.ddcollect d) s = execDdcollect d s := rfl
@[simp] theorem exec_ddstat (d : Reg) (a : Reg) (ma : Bool) (s : State) : exec (.ddstat d a ma) s = execDdstat d a ma s := rfl
@[simp] theorem exec_ddinit (a : Reg) (ma : Bool) (s : State) : exec (.ddinit a ma) s = execDdinit a ma s := rfl
@[simp] theorem exec_ddapply (d : Reg) (a : Reg) (b : Reg) (op : BitVec 4) (ma : Bool) (mb : Bool) (s : State) : exec (.ddapply d a b op ma mb) s = execDdapply d a b op ma mb s := rfl
@[simp] theorem exec_ddite (d : Reg) (a : Reg) (b : Reg) (c : Reg) (mq : Bool) (s : State) : exec (.ddite d a b c mq) s = execDdite d a b c mq s := rfl
@[simp] theorem exec_ecall (d : Reg) (a : Reg) (ma : Bool) (s : State) : exec (.ecall d a ma) s = execEcall d a ma s := rfl
@[simp] theorem exec_halt (a : Reg) (ma : Bool) (s : State) : exec (.halt a ma) s = execHalt a ma s := rfl
@[simp] theorem exec_sleep (d : Reg) (a : Reg) (ma : Bool) (s : State) : exec (.sleep d a ma) s = execSleep d a ma s := rfl
@[simp] theorem exec_bkpt (s : State) : exec .bkpt s = execBkpt s := rfl
@[simp] theorem exec_perfrd (d : Reg) (a : Reg) (ma : Bool) (s : State) : exec (.perfrd d a ma) s = execPerfrd d a ma s := rfl
@[simp] theorem exec_enrd (d : Reg) (a : Reg) (ma : Bool) (s : State) : exec (.enrd d a ma) s = execEnrd d a ma s := rfl
@[simp] theorem exec_mmBf16 (core : Nat) (s : State) : exec (.mmBf16 core) s = execMmBf16 core s := rfl
@[simp] theorem exec_mmF16 (core : Nat) (s : State) : exec (.mmF16 core) s = execMmF16 core s := rfl
@[simp] theorem exec_mmE4m3 (core : Nat) (s : State) : exec (.mmE4m3 core) s = execMmE4m3 core s := rfl
@[simp] theorem exec_mmE5m2 (core : Nat) (s : State) : exec (.mmE5m2 core) s = execMmE5m2 core s := rfl
@[simp] theorem exec_mmE4m3e5m2 (core : Nat) (s : State) : exec (.mmE4m3e5m2 core) s = execMmE4m3e5m2 core s := rfl
@[simp] theorem exec_mmMx4 (core : Nat) (s : State) : exec (.mmMx4 core) s = execMmMx4 core s := rfl
@[simp] theorem exec_mmMx6a (core : Nat) (s : State) : exec (.mmMx6a core) s = execMmMx6a core s := rfl
@[simp] theorem exec_mmMx6b (core : Nat) (s : State) : exec (.mmMx6b core) s = execMmMx6b core s := rfl
@[simp] theorem exec_mmI8 (core : Nat) (s : State) : exec (.mmI8 core) s = execMmI8 core s := rfl
@[simp] theorem exec_mmT2i8 (core : Nat) (s : State) : exec (.mmT2i8 core) s = execMmT2i8 core s := rfl
@[simp] theorem exec_mloadb (core : Nat) (s : State) : exec (.mloadb core) s = execMloadb core s := rfl
@[simp] theorem exec_mclr (core : Nat) (s : State) : exec (.mclr core) s = execMclr core s := rfl
@[simp] theorem exec_mdrain (core : Nat) (s : State) : exec (.mdrain core) s = execMdrain core s := rfl
@[simp] theorem exec_mmask (core : Nat) (s : State) : exec (.mmask core) s = execMmask core s := rfl
@[simp] theorem exec_mredb (core : Nat) (s : State) : exec (.mredb core) s = execMredb core s := rfl
@[simp] theorem exec_mredbCombine (core : Nat) (s : State) : exec (.mredbCombine core) s = execMredbCombine core s := rfl
@[simp] theorem exec_mmbm (core : Nat) (s : State) : exec (.mmbm core) s = execMmbm core s := rfl
@[simp] theorem exec_tcwVadd (core : Nat) (s : State) : exec (.tcwVadd core) s = execTcwVadd core s := rfl
@[simp] theorem exec_tcwVsub (core : Nat) (s : State) : exec (.tcwVsub core) s = execTcwVsub core s := rfl
@[simp] theorem exec_tcwVmul (core : Nat) (s : State) : exec (.tcwVmul core) s = execTcwVmul core s := rfl
@[simp] theorem exec_tcwVmax (core : Nat) (s : State) : exec (.tcwVmax core) s = execTcwVmax core s := rfl
@[simp] theorem exec_tcwVmin (core : Nat) (s : State) : exec (.tcwVmin core) s = execTcwVmin core s := rfl
@[simp] theorem exec_tcwVabs (core : Nat) (s : State) : exec (.tcwVabs core) s = execTcwVabs core s := rfl
@[simp] theorem exec_tcwVneg (core : Nat) (s : State) : exec (.tcwVneg core) s = execTcwVneg core s := rfl
@[simp] theorem exec_tcwVcvt (core : Nat) (s : State) : exec (.tcwVcvt core) s = execTcwVcvt core s := rfl
@[simp] theorem exec_tcwVred (core : Nat) (s : State) : exec (.tcwVred core) s = execTcwVred core s := rfl
@[simp] theorem exec_tcwVcmp (core : Nat) (s : State) : exec (.tcwVcmp core) s = execTcwVcmp core s := rfl
@[simp] theorem exec_tcwVmov (core : Nat) (s : State) : exec (.tcwVmov core) s = execTcwVmov core s := rfl
@[simp] theorem exec_tcwVshf (core : Nat) (s : State) : exec (.tcwVshf core) s = execTcwVshf core s := rfl
@[simp] theorem exec_tcwVexp (core : Nat) (s : State) : exec (.tcwVexp core) s = execTcwVexp core s := rfl
@[simp] theorem exec_tcwVlog (core : Nat) (s : State) : exec (.tcwVlog core) s = execTcwVlog core s := rfl
@[simp] theorem exec_tcwVrcp (core : Nat) (s : State) : exec (.tcwVrcp core) s = execTcwVrcp core s := rfl
@[simp] theorem exec_tcwVrsq (core : Nat) (s : State) : exec (.tcwVrsq core) s = execTcwVrsq core s := rfl
@[simp] theorem exec_tcwVtanh (core : Nat) (s : State) : exec (.tcwVtanh core) s = execTcwVtanh core s := rfl
@[simp] theorem exec_tcwVsigm (core : Nat) (s : State) : exec (.tcwVsigm core) s = execTcwVsigm core s := rfl
@[simp] theorem exec_tcwVexpA (core : Nat) (s : State) : exec (.tcwVexpA core) s = execTcwVexpA core s := rfl
@[simp] theorem exec_tcwVlogA (core : Nat) (s : State) : exec (.tcwVlogA core) s = execTcwVlogA core s := rfl
@[simp] theorem exec_tcwVrcpA (core : Nat) (s : State) : exec (.tcwVrcpA core) s = execTcwVrcpA core s := rfl
@[simp] theorem exec_tcwVrsqA (core : Nat) (s : State) : exec (.tcwVrsqA core) s = execTcwVrsqA core s := rfl
@[simp] theorem exec_tcwVtanhA (core : Nat) (s : State) : exec (.tcwVtanhA core) s = execTcwVtanhA core s := rfl
@[simp] theorem exec_tcwVsigmA (core : Nat) (s : State) : exec (.tcwVsigmA core) s = execTcwVsigmA core s := rfl
@[simp] theorem exec_tcwVfma (core : Nat) (s : State) : exec (.tcwVfma core) s = execTcwVfma core s := rfl
@[simp] theorem exec_tcwVsel (core : Nat) (s : State) : exec (.tcwVsel core) s = execTcwVsel core s := rfl
@[simp] theorem exec_copy (core : Nat) (s : State) : exec (.copy core) s = execCopy core s := rfl
@[simp] theorem exec_copyx (core : Nat) (s : State) : exec (.copyx core) s = execCopyx core s := rfl
@[simp] theorem exec_vectorStep (core : Nat) (thread : Nat) (bad : Option Nat) (s : State) : exec (.vectorStep core thread bad) s = execVectorStep core thread bad s := rfl
@[simp] theorem exec_chainMigrate (origin : Nat) (target : Nat) (s : State) : exec (.chainMigrate origin target) s = execChainMigrate origin target s := rfl
@[simp] theorem exec_copyRequest (core : Nat) (op : Nat) (s : State) : exec (.copyRequest core op) s = execCopyRequest core op s := rfl
@[simp] theorem exec_packetLand (core : Nat) (op : Nat) (pkt : Nat) (s : State) : exec (.packetLand core op pkt) s = execPacketLand core op pkt s := rfl
@[simp] theorem exec_landingHandler (core : Nat) (op : Nat) (pkt : Nat) (s : State) : exec (.landingHandler core op pkt) s = execLandingHandler core op pkt s := rfl
@[simp] theorem exec_publExchange (core : Nat) (thread : Nat) (s : State) : exec (.publExchange core thread) s = execPublExchange core thread s := rfl
@[simp] theorem exec_registerFill (uid : Nat) (reg : Nat) (s : State) : exec (.registerFill uid reg) s = execRegisterFill uid reg s := rfl
@[simp] theorem exec_watchFill (uid : Nat) (reg : Nat) (s : State) : exec (.watchFill uid reg) s = execWatchFill uid reg s := rfl
@[simp] theorem exec_pageWalk (core : Nat) (asid : Nat) (va : Nat) (s : State) : exec (.pageWalk core asid va) s = execPageWalk core asid va s := rfl
@[simp] theorem exec_notificationRecord (die : Nat) (s : State) : exec (.notificationRecord die) s = execNotificationRecord die s := rfl
@[simp] theorem exec_faultHoldRetry (die : Nat) (s : State) : exec (.faultHoldRetry die) s = execFaultHoldRetry die s := rfl
@[simp] theorem exec_fhReplayHid (die : Nat) (hid : Nat) (s : State) : exec (.fhReplayHid die hid) s = execFhReplayHid die hid s := rfl
@[simp] theorem exec_fhKillHid (die : Nat) (hid : Nat) (s : State) : exec (.fhKillHid die hid) s = execFhKillHid die hid s := rfl
@[simp] theorem exec_fhReplayAsid (die : Nat) (asid : Nat) (s : State) : exec (.fhReplayAsid die asid) s = execFhReplayAsid die asid s := rfl
@[simp] theorem exec_fhKillAsid (die : Nat) (asid : Nat) (s : State) : exec (.fhKillAsid die asid) s = execFhKillAsid die asid s := rfl
@[simp] theorem exec_tlbinvPage (die : Nat) (asid : Nat) (va : Nat) (dies : Nat) (size : Nat) (s : State) : exec (.tlbinvPage die asid va dies size) s = execTlbinvPage die asid va dies size s := rfl
@[simp] theorem exec_tlbinvAsid (die : Nat) (asid : Nat) (dies : Nat) (s : State) : exec (.tlbinvAsid die asid dies) s = execTlbinvAsid die asid dies s := rfl
@[simp] theorem exec_tlbinvAll (die : Nat) (dies : Nat) (s : State) : exec (.tlbinvAll die dies) s = execTlbinvAll die dies s := rfl
@[simp] theorem exec_tlbinvComplete (die : Nat) (s : State) : exec (.tlbinvComplete die) s = execTlbinvComplete die s := rfl
@[simp] theorem exec_remoteCompletion (req : Nat) (status : Nat) (reason : Nat) (cause : Nat) (data : List (BitVec 8)) (s : State) : exec (.remoteCompletion req status reason cause data) s = execRemoteCompletion req status reason cause data s := rfl
@[simp] theorem exec_rmaInbound (s : State) : exec .rmaInbound s = execRmaInbound s := rfl
@[simp] theorem exec_uetUnsupported (req : Nat) (s : State) : exec (.uetUnsupported req) s = execUetUnsupported req s := rfl
@[simp] theorem exec_ateAccept (bay : Nat) (s : State) : exec (.ateAccept bay) s = execAteAccept bay s := rfl
@[simp] theorem exec_doneMessage (bay : Nat) (s : State) : exec (.doneMessage bay) s = execDoneMessage bay s := rfl
@[simp] theorem exec_joinWake (core : Nat) (slot : Nat) (s : State) : exec (.joinWake core slot) s = execJoinWake core slot s := rfl
@[simp] theorem exec_barrierWake (core : Nat) (slot : Nat) (s : State) : exec (.barrierWake core slot) s = execBarrierWake core slot s := rfl
@[simp] theorem exec_messageArrival (core : Nat) (s : State) : exec (.messageArrival core) s = execMessageArrival core s := rfl
@[simp] theorem exec_refusalArrival (core : Nat) (s : State) : exec (.refusalArrival core) s = execRefusalArrival core s := rfl
@[simp] theorem exec_takeWork (core : Nat) (thread : Nat) (s : State) : exec (.takeWork core thread) s = execTakeWork core thread s := rfl
@[simp] theorem exec_steal (core : Nat) (thread : Nat) (victim : Nat) (s : State) : exec (.steal core thread victim) s = execSteal core thread victim s := rfl
@[simp] theorem exec_taskQueuePull (asid : Nat) (s : State) : exec (.taskQueuePull asid) s = execTaskQueuePull asid s := rfl
@[simp] theorem exec_windowClose (core : Nat) (s : State) : exec (.windowClose core) s = execWindowClose core s := rfl
@[simp] theorem exec_quantumEnd (asid : Nat) (s : State) : exec (.quantumEnd asid) s = execQuantumEnd asid s := rfl
@[simp] theorem exec_stvaArrival (home : Nat) (s : State) : exec (.stvaArrival home) s = execStvaArrival home s := rfl
@[simp] theorem exec_ldnbArrival (home : Nat) (s : State) : exec (.ldnbArrival home) s = execLdnbArrival home s := rfl
@[simp] theorem exec_homeTick (home : Nat) (s : State) : exec (.homeTick home) s = execHomeTick home s := rfl
@[simp] theorem exec_deadlineOutcome (core : Nat) (s : State) : exec (.deadlineOutcome core) s = execDeadlineOutcome core s := rfl
@[simp] theorem exec_twaitWake (core : Nat) (thread : Nat) (s : State) : exec (.twaitWake core thread) s = execTwaitWake core thread s := rfl
@[simp] theorem exec_sleepWake (core : Nat) (thread : Nat) (s : State) : exec (.sleepWake core thread) s = execSleepWake core thread s := rfl
@[simp] theorem exec_timeExchange (die : Nat) (ok : Bool) (out : Nat) (back : Nat) (turn : Nat) (s : State) : exec (.timeExchange die ok out back turn) s = execTimeExchange die ok out back turn s := rfl
@[simp] theorem exec_ptpMessage (kind : Nat) (port : Nat) (domain : Nat) (seq : Nat) (source : Nat) (origin : Nat) (twoStep : Bool) (rank : List Nat) (s : State) : exec (.ptpMessage kind port domain seq source origin twoStep rank) s = execPtpMessage kind port domain seq source origin twoStep rank s := rfl
@[simp] theorem exec_syncInterval (s : State) : exec .syncInterval s = execSyncInterval s := rfl
@[simp] theorem exec_announceTimeout (s : State) : exec .announceTimeout s = execAnnounceTimeout s := rfl
@[simp] theorem exec_genClose (asid : Nat) (s : State) : exec (.genClose asid) s = execGenClose asid s := rfl
@[simp] theorem exec_formulaHandout (asid : Nat) (s : State) : exec (.formulaHandout asid) s = execFormulaHandout asid s := rfl
@[simp] theorem exec_publicationAck (asid : Nat) (who : Nat) (s : State) : exec (.publicationAck asid who) s = execPublicationAck asid who s := rfl
@[simp] theorem exec_publication (asid : Nat) (s : State) : exec (.publication asid) s = execPublication asid s := rfl
@[simp] theorem exec_snapBind (uid : Nat) (slot : Nat) (s : State) : exec (.snapBind uid slot) s = execSnapBind uid slot s := rfl
@[simp] theorem exec_snapwaitExpiry (asid : Nat) (s : State) : exec (.snapwaitExpiry asid) s = execSnapwaitExpiry asid s := rfl
@[simp] theorem exec_dispatchSelection (asid : Nat) (s : State) : exec (.dispatchSelection asid) s = execDispatchSelection asid s := rfl
@[simp] theorem exec_kick (asid : Nat) (qid : Nat) (tail : Nat) (s : State) : exec (.kick asid qid tail) s = execKick asid qid tail s := rfl
@[simp] theorem exec_queueMap (asid : Nat) (slot : Nat) (qcb : Nat) (s : State) : exec (.queueMap asid slot qcb) s = execQueueMap asid slot qcb s := rfl
@[simp] theorem exec_queueUnmap (asid : Nat) (slot : Nat) (s : State) : exec (.queueUnmap asid slot) s = execQueueUnmap asid slot s := rfl
@[simp] theorem exec_launchStart (s : State) : exec .launchStart s = execLaunchStart s := rfl
@[simp] theorem exec_launchEnd (asid : Nat) (s : State) : exec (.launchEnd asid) s = execLaunchEnd asid s := rfl
@[simp] theorem exec_unitStop (core : Nat) (thread : Nat) (s : State) : exec (.unitStop core thread) s = execUnitStop core thread s := rfl
@[simp] theorem exec_stopRecord (die : Nat) (s : State) : exec (.stopRecord die) s = execStopRecord die s := rfl
@[simp] theorem exec_cxcmdResume (die : Nat) (slot : Nat) (s : State) : exec (.cxcmdResume die slot) s = execCxcmdResume die slot s := rfl
@[simp] theorem exec_cxcmdResumeOn (die : Nat) (slot : Nat) (lcore : Nat) (asid : Nat) (s : State) : exec (.cxcmdResumeOn die slot lcore asid) s = execCxcmdResumeOn die slot lcore asid s := rfl
@[simp] theorem exec_cxcmdDiscard (die : Nat) (slot : Nat) (s : State) : exec (.cxcmdDiscard die slot) s = execCxcmdDiscard die slot s := rfl
@[simp] theorem exec_cxcmdReleaseHandler (die : Nat) (slot : Nat) (s : State) : exec (.cxcmdReleaseHandler die slot) s = execCxcmdReleaseHandler die slot s := rfl
@[simp] theorem exec_cxcmdDropMessage (die : Nat) (slot : Nat) (s : State) : exec (.cxcmdDropMessage die slot) s = execCxcmdDropMessage die slot s := rfl
@[simp] theorem exec_cxcmdDeschedule (die : Nat) (asid : Nat) (lcore : Nat) (thread : Nat) (s : State) : exec (.cxcmdDeschedule die asid lcore thread) s = execCxcmdDeschedule die asid lcore thread s := rfl
@[simp] theorem exec_cxcmdMigrate (die : Nat) (asid : Nat) (lcore : Nat) (target : Nat) (s : State) : exec (.cxcmdMigrate die asid lcore target) s = execCxcmdMigrate die asid lcore target s := rfl
@[simp] theorem exec_cxcmdClearScarf (die : Nat) (target : Nat) (s : State) : exec (.cxcmdClearScarf die target) s = execCxcmdClearScarf die target s := rfl
@[simp] theorem exec_migrationComplete (core : Nat) (ok : Bool) (s : State) : exec (.migrationComplete core ok) s = execMigrationComplete core ok s := rfl
@[simp] theorem exec_scarfForward (core : Nat) (s : State) : exec (.scarfForward core) s = execScarfForward core s := rfl
@[simp] theorem exec_doubleFault (sc : Nat) (scause : Nat) (scode : Nat) (stval : BitVec 64) (saddr : BitVec 64) (s : State) : exec (.doubleFault sc scause scode stval saddr) s = execDoubleFault sc scause scode stval saddr s := rfl
@[simp] theorem exec_dfcauseRead (sc : Nat) (s : State) : exec (.dfcauseRead sc) s = execDfcauseRead sc s := rfl
@[simp] theorem exec_watchdog (asid : Nat) (s : State) : exec (.watchdog asid) s = execWatchdog asid s := rfl
@[simp] theorem exec_monitorSample (asid : Nat) (mon : Nat) (value : Nat) (s : State) : exec (.monitorSample asid mon value) s = execMonitorSample asid mon value s := rfl
@[simp] theorem exec_monitorClr (asid : Nat) (mon : Nat) (s : State) : exec (.monitorClr asid mon) s = execMonitorClr asid mon s := rfl
@[simp] theorem exec_trccfgWrite (asid : Nat) (value : BitVec 64) (s : State) : exec (.trccfgWrite asid value) s = execTrccfgWrite asid value s := rfl
@[simp] theorem exec_scrubRead (die : Nat) (granule : Nat) (s : State) : exec (.scrubRead die granule) s = execScrubRead die granule s := rfl
@[simp] theorem exec_eccstatClr (die : Nat) (s : State) : exec (.eccstatClr die) s = execEccstatClr die s := rfl
@[simp] theorem exec_apxmonClr (core : Nat) (s : State) : exec (.apxmonClr core) s = execApxmonClr core s := rfl
@[simp] theorem exec_dqcfgWrite (core : Nat) (value : BitVec 64) (s : State) : exec (.dqcfgWrite core value) s = execDqcfgWrite core value s := rfl
@[simp] theorem exec_mbcfgWrite (core : Nat) (value : BitVec 64) (s : State) : exec (.mbcfgWrite core value) s = execMbcfgWrite core value s := rfl
@[simp] theorem exec_rfcfgWrite (core : Nat) (value : BitVec 64) (s : State) : exec (.rfcfgWrite core value) s = execRfcfgWrite core value s := rfl
@[simp] theorem exec_ddordWrite (asid : Nat) (n : Nat) (value : BitVec 64) (s : State) : exec (.ddordWrite asid n value) s = execDdordWrite asid n value s := rfl
@[simp] theorem exec_ddlimWrite (asid : Nat) (value : BitVec 64) (s : State) : exec (.ddlimWrite asid value) s = execDdlimWrite asid value s := rfl
@[simp] theorem exec_registerWrite (addr : BitVec 64) (value : BitVec 64) (s : State) : exec (.registerWrite addr value) s = execRegisterWrite addr value s := rfl
@[simp] theorem exec_powerEval (die : Nat) (pkgW : Nat) (pkgA : Nat) (dieA : Nat) (dieT : Nat) (s : State) : exec (.powerEval die pkgW pkgA dieA dieT) s = execPowerEval die pkgW pkgA dieA dieT s := rfl
@[simp] theorem exec_energyUpdate (asid : Nat) (coreUj : Nat) (totalUj : Nat) (s : State) : exec (.energyUpdate asid coreUj totalUj) s = execEnergyUpdate asid coreUj totalUj s := rfl
@[simp] theorem exec_powerOn (s : State) : exec .powerOn s = execPowerOn s := rfl
@[simp] theorem exec_rstcmd (s : State) : exec .rstcmd s = execRstcmd s := rfl
@[simp] theorem exec_ready (s : State) : exec .ready s = execReady s := rfl
@[simp] theorem exec_startFailure (why : Nat) (s : State) : exec (.startFailure why) s = execStartFailure why s := rfl
@[simp] theorem exec_sessionOpen (ifaces : List (Nat × Nat × Nat)) (s : State) : exec (.sessionOpen ifaces) s = execSessionOpen ifaces s := rfl
@[simp] theorem exec_sessionClose (session : Nat) (s : State) : exec (.sessionClose session) s = execSessionClose session s := rfl
@[simp] theorem exec_quote (session : Nat) (nonce : List (BitVec 8)) (s : State) : exec (.quote session nonce) s = execQuote session nonce s := rfl
@[simp] theorem exec_extend (session : Nat) (i : Nat) (digest : List (BitVec 8)) (s : State) : exec (.extend session i digest) s = execExtend session i digest s := rfl
@[simp] theorem exec_clearFails (session : Nat) (s : State) : exec (.clearFails session) s = execClearFails session s := rfl
@[simp] theorem exec_imageSlotWrite (session : Nat) (slot : Nat) (offset : Nat) (bytes : List (BitVec 8)) (s : State) : exec (.imageSlotWrite session slot offset bytes) s = execImageSlotWrite session slot offset bytes s := rfl
@[simp] theorem exec_i3cStatus (watts : Nat) (temp : Nat) (s : State) : exec (.i3cStatus watts temp) s = execI3cStatus watts temp s := rfl
@[simp] theorem exec_i3cTemps (t0 : Nat) (t1 : Nat) (t2 : Nat) (t3 : Nat) (s : State) : exec (.i3cTemps t0 t1 t2 t3) s = execI3cTemps t0 t1 t2 t3 s := rfl
@[simp] theorem exec_i3cSetcap (watts : Nat) (s : State) : exec (.i3cSetcap watts) s = execI3cSetcap watts s := rfl
@[simp] theorem exec_i3cSetfloor (arg : BitVec 8) (s : State) : exec (.i3cSetfloor arg) s = execI3cSetfloor arg s := rfl
@[simp] theorem exec_i3cReset (arg : BitVec 8) (s : State) : exec (.i3cReset arg) s = execI3cReset arg s := rfl
@[simp] theorem exec_i3cBootsel (arg : BitVec 8) (s : State) : exec (.i3cBootsel arg) s = execI3cBootsel arg s := rfl
@[simp] theorem exec_i3cUnknownCommand (s : State) : exec .i3cUnknownCommand s = execI3cUnknownCommand s := rfl
@[simp] theorem exec_i3cPrivateRead (s : State) : exec .i3cPrivateRead s = execI3cPrivateRead s := rfl
@[simp] theorem exec_i3cHdrEntry (s : State) : exec .i3cHdrEntry s = execI3cHdrEntry s := rfl
@[simp] theorem exec_entdaa (addr : Nat) (s : State) : exec (.entdaa addr) s = execEntdaa addr s := rfl
@[simp] theorem exec_setdasa (addr : Nat) (s : State) : exec (.setdasa addr) s = execSetdasa addr s := rfl
@[simp] theorem exec_rstdaa (s : State) : exec .rstdaa s = execRstdaa s := rfl
@[simp] theorem exec_enec (s : State) : exec .enec s = execEnec s := rfl
@[simp] theorem exec_disec (s : State) : exec .disec s = execDisec s := rfl
@[simp] theorem exec_setmwl (len : Nat) (s : State) : exec (.setmwl len) s = execSetmwl len s := rfl
@[simp] theorem exec_setmrl (len : Nat) (s : State) : exec (.setmrl len) s = execSetmrl len s := rfl
@[simp] theorem exec_getpid (s : State) : exec .getpid s = execGetpid s := rfl
@[simp] theorem exec_getbcr (s : State) : exec .getbcr s = execGetbcr s := rfl
@[simp] theorem exec_getdcr (s : State) : exec .getdcr s = execGetdcr s := rfl
@[simp] theorem exec_getstatus (s : State) : exec .getstatus s = execGetstatus s := rfl
@[simp] theorem exec_getmwl (s : State) : exec .getmwl s = execGetmwl s := rfl
@[simp] theorem exec_getmrl (s : State) : exec .getmrl s = execGetmrl s := rfl
@[simp] theorem exec_rstact (action : Nat) (s : State) : exec (.rstact action) s = execRstact action s := rfl
@[simp] theorem exec_cccUnsupported (code : Nat) (s : State) : exec (.cccUnsupported code) s = execCccUnsupported code s := rfl
@[simp] theorem exec_systemCoreAccess (sc : Nat) (write : Bool) (addr : BitVec 64) (size : Nat) (value : BitVec 64) (s : State) : exec (.systemCoreAccess sc write addr size value) s = execSystemCoreAccess sc write addr size value s := rfl
@[simp] theorem exec_externalDisciplineRequest (session : Nat) (port : Nat) (domain : Nat) (allowance : Nat) (s : State) : exec (.externalDisciplineRequest session port domain allowance) s = execExternalDisciplineRequest session port domain allowance s := rfl
@[simp] theorem exec_i3cHdrExit (s : State) : exec .i3cHdrExit s = execI3cHdrExit s := rfl
@[simp] theorem exec_endFrozenLaunch (asid : Nat) (s : State) : exec (.endFrozenLaunch asid) s = execEndFrozenLaunch asid s := rfl

end Sys2Proof.Machine
end

