-- ==== Sys2Proof/Laws/Tables.lean ====
section
/-! SUPPORT. The laws of the sparse tables, of vectors read by number and of the canonical memory list. -/

namespace Sys2Proof.Machine

section Tables

variable {α : Type}

@[simp] theorem tget_tput_same (t : Tbl α) (k : Nat) (v : α) : tget (tput t k v) k = some v := by
  induction t with
  | nil => simp [tput, tget]
  | cons p r ih =>
    obtain ⟨i, a⟩ := p
    simp only [tput]
    split
    · simp [tget]
    · split
      · simp [tget]
      · have : i ≠ k := fun h => by simp_all
        simp [tget, this, ih]

theorem tget_tput_other (t : Tbl α) (k j : Nat) (v : α) (h : j ≠ k) : tget (tput t k v) j = tget t j := by
  induction t with
  | nil => simp [tput, tget, Ne.symm h]
  | cons p r ih =>
    obtain ⟨i, a⟩ := p
    simp only [tput]
    split
    · simp [tget, Ne.symm h]
    · split
      · subst k; simp [tget, Ne.symm h]
      · simp only [tget]; split <;> simp [ih]

theorem tget_tput (t : Tbl α) (k j : Nat) (v : α) : tget (tput t k v) j = if j = k then some v else tget t j := by
  split
  · subst j; simp
  · exact tget_tput_other t k j v ‹_›

@[simp] theorem tgetD_tput_same (t : Tbl α) (k : Nat) (v d : α) : tgetD (tput t k v) k d = v := by simp [tgetD]

theorem tgetD_tput_other (t : Tbl α) (k j : Nat) (v d : α) (h : j ≠ k) : tgetD (tput t k v) j d = tgetD t j d := by
  simp [tgetD, tget_tput_other t k j v h]

theorem tget_tmod (t : Tbl α) (k j : Nat) (f : α → α) : tget (tmod t k f) j = if j = k then (tget t j).map f else tget t j := by
  induction t with
  | nil => simp [tmod, tget]
  | cons p r ih =>
    obtain ⟨i, a⟩ := p
    simp only [tmod, List.map_cons] at ih ⊢
    by_cases hi : i = k
    · subst hi
      by_cases hj : i = j
      · subst hj; simp [tget]
      · simp [tget, hj, ih]
    · by_cases hj : i = j
      · subst hj; simp [tget, hi]
      · simp [tget, hi, hj, ih]

theorem tget_tmap {β : Type} (t : Tbl α) (f : Nat → α → β) (j : Nat) : tget (tmap t f) j = (tget t j).map (f j) := by
  induction t with
  | nil => simp [tmap, tget]
  | cons p r ih =>
    obtain ⟨i, a⟩ := p
    simp only [tmap, List.map_cons] at ih ⊢
    by_cases hj : i = j
    · subst hj; simp [tget]
    · simp [tget, hj, ih]

end Tables

section Vectors

variable {α : Type} {n : Nat}

@[simp] theorem vget_vset_same (v : Vector α n) (i : Nat) (a d : α) (h : i < n) : vget (vset v i a) i d = a := by
  simp [vget, vset, h]

theorem vget_vset_other (v : Vector α n) (i j : Nat) (a d : α) (h : j ≠ i) : vget (vset v i a) j d = vget v j d := by
  unfold vget vset
  split
  · split
    · rw [Vector.getElem_set_ne]; exact Ne.symm h
    · rfl
  · rfl

theorem vget_eq_getElem (v : Vector α n) (i : Nat) (d : α) (h : i < n) : vget v i d = v[i] := by simp [vget, h]

end Vectors

section Memory

variable (e : Byte)

theorem memGet_below (m : Tbl Byte) (lo k : Nat) (h : memWfFrom e lo m = true) (hk : k < lo) : memGet e m k = e := by
  cases m with
  | nil => rfl
  | cons p r =>
    obtain ⟨i, b⟩ := p
    simp only [memWfFrom, Bool.and_eq_true, decide_eq_true_eq] at h
    simp only [memGet]
    have : i ≠ k := by omega
    have : k < i := by omega
    simp [*]

theorem memWfFrom_mono (m : Tbl Byte) (lo lo' : Nat) (h : memWfFrom e lo m = true) (hl : lo' ≤ lo) : memWfFrom e lo' m = true := by
  cases m with
  | nil => rfl
  | cons p r =>
    obtain ⟨i, b⟩ := p
    simp only [memWfFrom, Bool.and_eq_true, decide_eq_true_eq] at h ⊢
    exact ⟨⟨by omega, h.1.2⟩, h.2⟩

/-- A byte written reads back; every other byte reads as before. -/
theorem memGet_memPut (m : Tbl Byte) (lo k j : Nat) (v : Byte) (h : memWfFrom e lo m = true) :
    memGet e (memPut e m k v) j = if j = k then v else memGet e m j := by
  induction m generalizing lo with
  | nil =>
    simp only [memPut]
    split
    · subst v; simp [memGet]
    · by_cases hj : j = k
      · subst hj; simp [memGet]
      · simp [memGet, hj, Ne.symm hj]
  | cons p r ih =>
    obtain ⟨i, b⟩ := p
    simp only [memWfFrom, Bool.and_eq_true, decide_eq_true_eq] at h
    have ih := ih (i + 1) h.2
    simp only [memPut]
    by_cases h1 : i < k
    · simp only [h1, if_true, memGet]
      by_cases hij : i = j
      · have : j ≠ k := by omega
        simp [hij, this]
      · by_cases hji : j < i
        · have : j ≠ k := by omega
          simp [hij, hji, this]
        · simp [hij, hji, ih]
    · by_cases h2 : i = k
      · subst h2
        simp only [h1, if_false, if_true]
        by_cases hv : v = e
        · simp only [hv, if_true]
          by_cases hj : j = i
          · subst hj; simp [memGet_below e r (j + 1) j h.2 (by omega)]
          · simp only [hj, if_false, memGet, Ne.symm hj]
            by_cases hji : j < i
            · simp [hji, memGet_below e r (i + 1) j h.2 (by omega)]
            · simp [hji]
        · by_cases hj : j = i
          · subst hj; simp [hv, memGet]
          · simp [hv, memGet, hj, Ne.symm hj]
      · simp only [h1, h2, if_false]
        by_cases hv : v = e
        · by_cases hj : j = k
          · subst hj
            have : j < i := by omega
            simp [hv, memGet, h2, this]
          · simp [hv, hj]
        · by_cases hj : j = k
          · subst hj; simp [hv, memGet]
          · by_cases hji : j < k
            · have h3 : i ≠ j := by omega
              have h4 : j < i := by omega
              simp [hv, memGet, hj, Ne.symm hj, hji, h3, h4]
            · simp [hv, memGet, hj, Ne.symm hj, hji]

/-- Writing a byte keeps the canonical form. -/
theorem memPut_wf (m : Tbl Byte) (lo k : Nat) (v : Byte) (h : memWfFrom e lo m = true) (hk : lo ≤ k) : memWfFrom e lo (memPut e m k v) = true := by
  induction m generalizing lo with
  | nil =>
    simp only [memPut]
    split
    · rfl
    · simp [memWfFrom, *]
  | cons p r ih =>
    obtain ⟨i, b⟩ := p
    simp only [memWfFrom, Bool.and_eq_true, decide_eq_true_eq] at h
    simp only [memPut]
    by_cases h1 : i < k
    · simp only [h1, if_true, memWfFrom, Bool.and_eq_true, decide_eq_true_eq]
      exact ⟨h.1, ih (i + 1) h.2 (by omega)⟩
    · by_cases h2 : i = k
      · rw [if_neg h1, if_pos h2]
        split
        · exact memWfFrom_mono e r (i + 1) lo h.2 (by omega)
        · simp only [memWfFrom, Bool.and_eq_true, decide_eq_true_eq]
          exact ⟨⟨h.1.1, ‹_›⟩, h.2⟩
      · simp only [h1, h2, if_false]
        split
        · simp [memWfFrom, h]
        · simp only [memWfFrom, Bool.and_eq_true, decide_eq_true_eq]
          exact ⟨⟨hk, ‹_›⟩, ⟨by omega, h.1.2⟩, h.2⟩

/-- Two canonical lists that read alike are equal. -/
theorem memWf_ext (m n : Tbl Byte) (lo : Nat) (hm : memWfFrom e lo m = true) (hn : memWfFrom e lo n = true)
    (h : ∀ k, memGet e m k = memGet e n k) : m = n := by
  induction m generalizing lo n with
  | nil =>
    cases n with
    | nil => rfl
    | cons p r =>
      obtain ⟨i, b⟩ := p
      simp only [memWfFrom, Bool.and_eq_true, decide_eq_true_eq] at hn
      have := h i
      simp [memGet] at this
      exact absurd this.symm hn.1.2
  | cons p r ih =>
    obtain ⟨i, b⟩ := p
    simp only [memWfFrom, Bool.and_eq_true, decide_eq_true_eq] at hm
    cases n with
    | nil =>
      have := h i
      simp [memGet] at this
      exact absurd this hm.1.2
    | cons q r' =>
      obtain ⟨j, c⟩ := q
      simp only [memWfFrom, Bool.and_eq_true, decide_eq_true_eq] at hn
      have hij : i = j := by
        rcases Nat.lt_trichotomy i j with g | g | g
        · have := h i
          simp only [memGet, if_true] at this
          simp only [Nat.ne_of_gt g, if_false, g, if_true] at this
          exact absurd this hm.1.2
        · exact g
        · have := h j
          simp only [memGet, if_true] at this
          simp only [Nat.ne_of_gt g, if_false, g, if_true] at this
          exact absurd this.symm hn.1.2
      subst hij
      have hb : b = c := by have := h i; simpa [memGet] using this
      subst hb
      rw [ih r' (i + 1) hm.2 hn.2]
      intro k
      by_cases hk : k ≤ i
      · rw [memGet_below e r (i + 1) k hm.2 (by omega), memGet_below e r' (i + 1) k hn.2 (by omega)]
      · have := h k
        have h1 : i ≠ k := by omega
        have h2 : ¬ k < i := by omega
        simpa [memGet, h1, h2] using this

end Memory

end Sys2Proof.Machine
end

