-- ==== Sys2Proof/Laws/State.lean ====
section
/-! SUPPORT. One lemma for each field of the state and each update of it, and the laws of the accessors, so that no proof unfolds a record
update again. -/

namespace Sys2Proof.Machine

section SetCore

variable (s : State) (c : Nat) (k : Core)

@[simp] theorem setCore_mem : (s.setCore c k).mem = s.mem := rfl
@[simp] theorem setCore_bad : (s.setCore c k).bad = s.bad := rfl
@[simp] theorem setCore_weak : (s.setCore c k).weak = s.weak := rfl
@[simp] theorem setCore_bays : (s.setCore c k).bays = s.bays := rfl
@[simp] theorem setCore_dies : (s.setCore c k).dies = s.dies := rfl
@[simp] theorem setCore_parts : (s.setCore c k).parts = s.parts := rfl
@[simp] theorem setCore_spaces : (s.setCore c k).spaces = s.spaces := rfl
@[simp] theorem setCore_pkg : (s.setCore c k).pkg = s.pkg := rfl
@[simp] theorem setCore_turns : (s.setCore c k).turns = s.turns := rfl
@[simp] theorem setCore_cycle : (s.setCore c k).cycle = s.cycle := rfl
@[simp] theorem setCore_agenda : (s.setCore c k).agenda = s.agenda := rfl
@[simp] theorem setCore_curCore : (s.setCore c k).curCore = s.curCore := rfl
@[simp] theorem setCore_curThread : (s.setCore c k).curThread = s.curThread := rfl
@[simp] theorem setCore_nextUid : (s.setCore c k).nextUid = s.nextUid := rfl
@[simp] theorem setCore_nextAge : (s.setCore c k).nextAge = s.nextAge := rfl
@[simp] theorem setCore_freshCount : (s.setCore c k).freshCount = s.freshCount := rfl

end SetCore

section ModCore

variable (s : State) (c : Nat) (f : Core → Core)

@[simp] theorem modCore_mem : (s.modCore c f).mem = s.mem := rfl
@[simp] theorem modCore_bad : (s.modCore c f).bad = s.bad := rfl
@[simp] theorem modCore_weak : (s.modCore c f).weak = s.weak := rfl
@[simp] theorem modCore_bays : (s.modCore c f).bays = s.bays := rfl
@[simp] theorem modCore_dies : (s.modCore c f).dies = s.dies := rfl
@[simp] theorem modCore_parts : (s.modCore c f).parts = s.parts := rfl
@[simp] theorem modCore_spaces : (s.modCore c f).spaces = s.spaces := rfl
@[simp] theorem modCore_pkg : (s.modCore c f).pkg = s.pkg := rfl
@[simp] theorem modCore_turns : (s.modCore c f).turns = s.turns := rfl
@[simp] theorem modCore_cycle : (s.modCore c f).cycle = s.cycle := rfl
@[simp] theorem modCore_agenda : (s.modCore c f).agenda = s.agenda := rfl
@[simp] theorem modCore_curCore : (s.modCore c f).curCore = s.curCore := rfl
@[simp] theorem modCore_curThread : (s.modCore c f).curThread = s.curThread := rfl
@[simp] theorem modCore_nextUid : (s.modCore c f).nextUid = s.nextUid := rfl
@[simp] theorem modCore_nextAge : (s.modCore c f).nextAge = s.nextAge := rfl
@[simp] theorem modCore_freshCount : (s.modCore c f).freshCount = s.freshCount := rfl

end ModCore

section ModThr

variable (s : State) (c t : Nat) (f : Thread → Thread)

@[simp] theorem modThr_mem : (s.modThr c t f).mem = s.mem := rfl
@[simp] theorem modThr_bad : (s.modThr c t f).bad = s.bad := rfl
@[simp] theorem modThr_weak : (s.modThr c t f).weak = s.weak := rfl
@[simp] theorem modThr_bays : (s.modThr c t f).bays = s.bays := rfl
@[simp] theorem modThr_dies : (s.modThr c t f).dies = s.dies := rfl
@[simp] theorem modThr_parts : (s.modThr c t f).parts = s.parts := rfl
@[simp] theorem modThr_spaces : (s.modThr c t f).spaces = s.spaces := rfl
@[simp] theorem modThr_pkg : (s.modThr c t f).pkg = s.pkg := rfl
@[simp] theorem modThr_turns : (s.modThr c t f).turns = s.turns := rfl
@[simp] theorem modThr_cycle : (s.modThr c t f).cycle = s.cycle := rfl
@[simp] theorem modThr_agenda : (s.modThr c t f).agenda = s.agenda := rfl
@[simp] theorem modThr_curCore : (s.modThr c t f).curCore = s.curCore := rfl
@[simp] theorem modThr_curThread : (s.modThr c t f).curThread = s.curThread := rfl
@[simp] theorem modThr_nextUid : (s.modThr c t f).nextUid = s.nextUid := rfl
@[simp] theorem modThr_nextAge : (s.modThr c t f).nextAge = s.nextAge := rfl
@[simp] theorem modThr_freshCount : (s.modThr c t f).freshCount = s.freshCount := rfl

end ModThr

section ModCtx

variable (s : State) (c t : Nat) (f : Ctx → Ctx)

@[simp] theorem modCtx_mem : (s.modCtx c t f).mem = s.mem := rfl
@[simp] theorem modCtx_bad : (s.modCtx c t f).bad = s.bad := rfl
@[simp] theorem modCtx_weak : (s.modCtx c t f).weak = s.weak := rfl
@[simp] theorem modCtx_bays : (s.modCtx c t f).bays = s.bays := rfl
@[simp] theorem modCtx_dies : (s.modCtx c t f).dies = s.dies := rfl
@[simp] theorem modCtx_parts : (s.modCtx c t f).parts = s.parts := rfl
@[simp] theorem modCtx_spaces : (s.modCtx c t f).spaces = s.spaces := rfl
@[simp] theorem modCtx_pkg : (s.modCtx c t f).pkg = s.pkg := rfl
@[simp] theorem modCtx_turns : (s.modCtx c t f).turns = s.turns := rfl
@[simp] theorem modCtx_cycle : (s.modCtx c t f).cycle = s.cycle := rfl
@[simp] theorem modCtx_agenda : (s.modCtx c t f).agenda = s.agenda := rfl
@[simp] theorem modCtx_curCore : (s.modCtx c t f).curCore = s.curCore := rfl
@[simp] theorem modCtx_curThread : (s.modCtx c t f).curThread = s.curThread := rfl
@[simp] theorem modCtx_nextUid : (s.modCtx c t f).nextUid = s.nextUid := rfl
@[simp] theorem modCtx_nextAge : (s.modCtx c t f).nextAge = s.nextAge := rfl
@[simp] theorem modCtx_freshCount : (s.modCtx c t f).freshCount = s.freshCount := rfl

end ModCtx

section ModCur

variable (s : State) (f : Ctx → Ctx)

@[simp] theorem modCur_mem : (s.modCur f).mem = s.mem := rfl
@[simp] theorem modCur_bad : (s.modCur f).bad = s.bad := rfl
@[simp] theorem modCur_weak : (s.modCur f).weak = s.weak := rfl
@[simp] theorem modCur_bays : (s.modCur f).bays = s.bays := rfl
@[simp] theorem modCur_dies : (s.modCur f).dies = s.dies := rfl
@[simp] theorem modCur_parts : (s.modCur f).parts = s.parts := rfl
@[simp] theorem modCur_spaces : (s.modCur f).spaces = s.spaces := rfl
@[simp] theorem modCur_pkg : (s.modCur f).pkg = s.pkg := rfl
@[simp] theorem modCur_turns : (s.modCur f).turns = s.turns := rfl
@[simp] theorem modCur_cycle : (s.modCur f).cycle = s.cycle := rfl
@[simp] theorem modCur_agenda : (s.modCur f).agenda = s.agenda := rfl
@[simp] theorem modCur_curCore : (s.modCur f).curCore = s.curCore := rfl
@[simp] theorem modCur_curThread : (s.modCur f).curThread = s.curThread := rfl
@[simp] theorem modCur_nextUid : (s.modCur f).nextUid = s.nextUid := rfl
@[simp] theorem modCur_nextAge : (s.modCur f).nextAge = s.nextAge := rfl
@[simp] theorem modCur_freshCount : (s.modCur f).freshCount = s.freshCount := rfl

end ModCur

section ModCurK

variable (s : State) (f : Core → Core)

@[simp] theorem modCurK_mem : (s.modCurK f).mem = s.mem := rfl
@[simp] theorem modCurK_bad : (s.modCurK f).bad = s.bad := rfl
@[simp] theorem modCurK_weak : (s.modCurK f).weak = s.weak := rfl
@[simp] theorem modCurK_bays : (s.modCurK f).bays = s.bays := rfl
@[simp] theorem modCurK_dies : (s.modCurK f).dies = s.dies := rfl
@[simp] theorem modCurK_parts : (s.modCurK f).parts = s.parts := rfl
@[simp] theorem modCurK_spaces : (s.modCurK f).spaces = s.spaces := rfl
@[simp] theorem modCurK_pkg : (s.modCurK f).pkg = s.pkg := rfl
@[simp] theorem modCurK_turns : (s.modCurK f).turns = s.turns := rfl
@[simp] theorem modCurK_cycle : (s.modCurK f).cycle = s.cycle := rfl
@[simp] theorem modCurK_agenda : (s.modCurK f).agenda = s.agenda := rfl
@[simp] theorem modCurK_curCore : (s.modCurK f).curCore = s.curCore := rfl
@[simp] theorem modCurK_curThread : (s.modCurK f).curThread = s.curThread := rfl
@[simp] theorem modCurK_nextUid : (s.modCurK f).nextUid = s.nextUid := rfl
@[simp] theorem modCurK_nextAge : (s.modCurK f).nextAge = s.nextAge := rfl
@[simp] theorem modCurK_freshCount : (s.modCurK f).freshCount = s.freshCount := rfl

end ModCurK

section ModDie

variable (s : State) (d : Nat) (f : Die → Die)

@[simp] theorem modDie_mem : (s.modDie d f).mem = s.mem := rfl
@[simp] theorem modDie_bad : (s.modDie d f).bad = s.bad := rfl
@[simp] theorem modDie_weak : (s.modDie d f).weak = s.weak := rfl
@[simp] theorem modDie_cores : (s.modDie d f).cores = s.cores := rfl
@[simp] theorem modDie_bays : (s.modDie d f).bays = s.bays := rfl
@[simp] theorem modDie_parts : (s.modDie d f).parts = s.parts := rfl
@[simp] theorem modDie_spaces : (s.modDie d f).spaces = s.spaces := rfl
@[simp] theorem modDie_pkg : (s.modDie d f).pkg = s.pkg := rfl
@[simp] theorem modDie_turns : (s.modDie d f).turns = s.turns := rfl
@[simp] theorem modDie_cycle : (s.modDie d f).cycle = s.cycle := rfl
@[simp] theorem modDie_agenda : (s.modDie d f).agenda = s.agenda := rfl
@[simp] theorem modDie_curCore : (s.modDie d f).curCore = s.curCore := rfl
@[simp] theorem modDie_curThread : (s.modDie d f).curThread = s.curThread := rfl
@[simp] theorem modDie_nextUid : (s.modDie d f).nextUid = s.nextUid := rfl
@[simp] theorem modDie_nextAge : (s.modDie d f).nextAge = s.nextAge := rfl
@[simp] theorem modDie_freshCount : (s.modDie d f).freshCount = s.freshCount := rfl

end ModDie

section ModBay

variable (s : State) (b : Nat) (f : Bay → Bay)

@[simp] theorem modBay_mem : (s.modBay b f).mem = s.mem := rfl
@[simp] theorem modBay_bad : (s.modBay b f).bad = s.bad := rfl
@[simp] theorem modBay_weak : (s.modBay b f).weak = s.weak := rfl
@[simp] theorem modBay_cores : (s.modBay b f).cores = s.cores := rfl
@[simp] theorem modBay_dies : (s.modBay b f).dies = s.dies := rfl
@[simp] theorem modBay_parts : (s.modBay b f).parts = s.parts := rfl
@[simp] theorem modBay_spaces : (s.modBay b f).spaces = s.spaces := rfl
@[simp] theorem modBay_pkg : (s.modBay b f).pkg = s.pkg := rfl
@[simp] theorem modBay_turns : (s.modBay b f).turns = s.turns := rfl
@[simp] theorem modBay_cycle : (s.modBay b f).cycle = s.cycle := rfl
@[simp] theorem modBay_agenda : (s.modBay b f).agenda = s.agenda := rfl
@[simp] theorem modBay_curCore : (s.modBay b f).curCore = s.curCore := rfl
@[simp] theorem modBay_curThread : (s.modBay b f).curThread = s.curThread := rfl
@[simp] theorem modBay_nextUid : (s.modBay b f).nextUid = s.nextUid := rfl
@[simp] theorem modBay_nextAge : (s.modBay b f).nextAge = s.nextAge := rfl
@[simp] theorem modBay_freshCount : (s.modBay b f).freshCount = s.freshCount := rfl

end ModBay

section ModPkg

variable (s : State) (f : Pkg → Pkg)

@[simp] theorem modPkg_mem : (s.modPkg f).mem = s.mem := rfl
@[simp] theorem modPkg_bad : (s.modPkg f).bad = s.bad := rfl
@[simp] theorem modPkg_weak : (s.modPkg f).weak = s.weak := rfl
@[simp] theorem modPkg_cores : (s.modPkg f).cores = s.cores := rfl
@[simp] theorem modPkg_bays : (s.modPkg f).bays = s.bays := rfl
@[simp] theorem modPkg_dies : (s.modPkg f).dies = s.dies := rfl
@[simp] theorem modPkg_parts : (s.modPkg f).parts = s.parts := rfl
@[simp] theorem modPkg_spaces : (s.modPkg f).spaces = s.spaces := rfl
@[simp] theorem modPkg_cycle : (s.modPkg f).cycle = s.cycle := rfl
@[simp] theorem modPkg_agenda : (s.modPkg f).agenda = s.agenda := rfl
@[simp] theorem modPkg_curCore : (s.modPkg f).curCore = s.curCore := rfl
@[simp] theorem modPkg_curThread : (s.modPkg f).curThread = s.curThread := rfl
@[simp] theorem modPkg_nextUid : (s.modPkg f).nextUid = s.nextUid := rfl
@[simp] theorem modPkg_nextAge : (s.modPkg f).nextAge = s.nextAge := rfl
@[simp] theorem modPkg_freshCount : (s.modPkg f).freshCount = s.freshCount := rfl

end ModPkg

section PokeBytes

variable (s : State) (k : Nat) (bs : List Byte)

@[simp] theorem pokeBytes_bad : (s.pokeBytes k bs).bad = s.bad := rfl
@[simp] theorem pokeBytes_weak : (s.pokeBytes k bs).weak = s.weak := rfl
@[simp] theorem pokeBytes_cores : (s.pokeBytes k bs).cores = s.cores := rfl
@[simp] theorem pokeBytes_bays : (s.pokeBytes k bs).bays = s.bays := rfl
@[simp] theorem pokeBytes_dies : (s.pokeBytes k bs).dies = s.dies := rfl
@[simp] theorem pokeBytes_parts : (s.pokeBytes k bs).parts = s.parts := rfl
@[simp] theorem pokeBytes_spaces : (s.pokeBytes k bs).spaces = s.spaces := rfl
@[simp] theorem pokeBytes_pkg : (s.pokeBytes k bs).pkg = s.pkg := rfl
@[simp] theorem pokeBytes_turns : (s.pokeBytes k bs).turns = s.turns := rfl
@[simp] theorem pokeBytes_cycle : (s.pokeBytes k bs).cycle = s.cycle := rfl
@[simp] theorem pokeBytes_agenda : (s.pokeBytes k bs).agenda = s.agenda := rfl
@[simp] theorem pokeBytes_curCore : (s.pokeBytes k bs).curCore = s.curCore := rfl
@[simp] theorem pokeBytes_curThread : (s.pokeBytes k bs).curThread = s.curThread := rfl
@[simp] theorem pokeBytes_nextUid : (s.pokeBytes k bs).nextUid = s.nextUid := rfl
@[simp] theorem pokeBytes_nextAge : (s.pokeBytes k bs).nextAge = s.nextAge := rfl
@[simp] theorem pokeBytes_freshCount : (s.pokeBytes k bs).freshCount = s.freshCount := rfl

end PokeBytes

section Post

variable (s : State) (es : List Event)

@[simp] theorem post_mem : (s.post es).mem = s.mem := rfl
@[simp] theorem post_bad : (s.post es).bad = s.bad := rfl
@[simp] theorem post_weak : (s.post es).weak = s.weak := rfl
@[simp] theorem post_cores : (s.post es).cores = s.cores := rfl
@[simp] theorem post_bays : (s.post es).bays = s.bays := rfl
@[simp] theorem post_dies : (s.post es).dies = s.dies := rfl
@[simp] theorem post_parts : (s.post es).parts = s.parts := rfl
@[simp] theorem post_spaces : (s.post es).spaces = s.spaces := rfl
@[simp] theorem post_pkg : (s.post es).pkg = s.pkg := rfl
@[simp] theorem post_turns : (s.post es).turns = s.turns := rfl
@[simp] theorem post_cycle : (s.post es).cycle = s.cycle := rfl
@[simp] theorem post_curCore : (s.post es).curCore = s.curCore := rfl
@[simp] theorem post_curThread : (s.post es).curThread = s.curThread := rfl
@[simp] theorem post_nextUid : (s.post es).nextUid = s.nextUid := rfl
@[simp] theorem post_nextAge : (s.post es).nextAge = s.nextAge := rfl
@[simp] theorem post_freshCount : (s.post es).freshCount = s.freshCount := rfl

end Post

section SetCur

variable (s : State) (c t : Nat)

@[simp] theorem setCur_mem : (s.setCur c t).mem = s.mem := rfl
@[simp] theorem setCur_bad : (s.setCur c t).bad = s.bad := rfl
@[simp] theorem setCur_weak : (s.setCur c t).weak = s.weak := rfl
@[simp] theorem setCur_cores : (s.setCur c t).cores = s.cores := rfl
@[simp] theorem setCur_bays : (s.setCur c t).bays = s.bays := rfl
@[simp] theorem setCur_dies : (s.setCur c t).dies = s.dies := rfl
@[simp] theorem setCur_parts : (s.setCur c t).parts = s.parts := rfl
@[simp] theorem setCur_spaces : (s.setCur c t).spaces = s.spaces := rfl
@[simp] theorem setCur_pkg : (s.setCur c t).pkg = s.pkg := rfl
@[simp] theorem setCur_turns : (s.setCur c t).turns = s.turns := rfl
@[simp] theorem setCur_cycle : (s.setCur c t).cycle = s.cycle := rfl
@[simp] theorem setCur_agenda : (s.setCur c t).agenda = s.agenda := rfl
@[simp] theorem setCur_nextUid : (s.setCur c t).nextUid = s.nextUid := rfl
@[simp] theorem setCur_nextAge : (s.setCur c t).nextAge = s.nextAge := rfl
@[simp] theorem setCur_freshCount : (s.setCur c t).freshCount = s.freshCount := rfl

end SetCur

section ModPart

variable (s : State) (a : Nat) (f : Partition → Partition)

@[simp] theorem modPart_mem : (s.modPart a f).mem = s.mem := by unfold State.modPart; split <;> rfl
@[simp] theorem modPart_bad : (s.modPart a f).bad = s.bad := by unfold State.modPart; split <;> rfl
@[simp] theorem modPart_weak : (s.modPart a f).weak = s.weak := by unfold State.modPart; split <;> rfl
@[simp] theorem modPart_cores : (s.modPart a f).cores = s.cores := by unfold State.modPart; split <;> rfl
@[simp] theorem modPart_bays : (s.modPart a f).bays = s.bays := by unfold State.modPart; split <;> rfl
@[simp] theorem modPart_dies : (s.modPart a f).dies = s.dies := by unfold State.modPart; split <;> rfl
@[simp] theorem modPart_spaces : (s.modPart a f).spaces = s.spaces := by unfold State.modPart; split <;> rfl
@[simp] theorem modPart_pkg : (s.modPart a f).pkg = s.pkg := by unfold State.modPart; split <;> rfl
@[simp] theorem modPart_turns : (s.modPart a f).turns = s.turns := by unfold State.modPart; split <;> rfl
@[simp] theorem modPart_cycle : (s.modPart a f).cycle = s.cycle := by unfold State.modPart; split <;> rfl
@[simp] theorem modPart_agenda : (s.modPart a f).agenda = s.agenda := by unfold State.modPart; split <;> rfl
@[simp] theorem modPart_curCore : (s.modPart a f).curCore = s.curCore := by unfold State.modPart; split <;> rfl
@[simp] theorem modPart_curThread : (s.modPart a f).curThread = s.curThread := by unfold State.modPart; split <;> rfl
@[simp] theorem modPart_nextUid : (s.modPart a f).nextUid = s.nextUid := by unfold State.modPart; split <;> rfl
@[simp] theorem modPart_nextAge : (s.modPart a f).nextAge = s.nextAge := by unfold State.modPart; split <;> rfl
@[simp] theorem modPart_freshCount : (s.modPart a f).freshCount = s.freshCount := by unfold State.modPart; split <;> rfl

end ModPart

section ModUnit

variable (s : State) (u : Nat) (f : Ctx → Ctx)

@[simp] theorem modUnit_mem : (s.modUnit u f).mem = s.mem := rfl
@[simp] theorem modUnit_bad : (s.modUnit u f).bad = s.bad := rfl
@[simp] theorem modUnit_weak : (s.modUnit u f).weak = s.weak := rfl
@[simp] theorem modUnit_bays : (s.modUnit u f).bays = s.bays := rfl
@[simp] theorem modUnit_parts : (s.modUnit u f).parts = s.parts := rfl
@[simp] theorem modUnit_spaces : (s.modUnit u f).spaces = s.spaces := rfl
@[simp] theorem modUnit_pkg : (s.modUnit u f).pkg = s.pkg := rfl
@[simp] theorem modUnit_turns : (s.modUnit u f).turns = s.turns := rfl
@[simp] theorem modUnit_cycle : (s.modUnit u f).cycle = s.cycle := rfl
@[simp] theorem modUnit_agenda : (s.modUnit u f).agenda = s.agenda := rfl
@[simp] theorem modUnit_curCore : (s.modUnit u f).curCore = s.curCore := rfl
@[simp] theorem modUnit_curThread : (s.modUnit u f).curThread = s.curThread := rfl
@[simp] theorem modUnit_nextUid : (s.modUnit u f).nextUid = s.nextUid := rfl
@[simp] theorem modUnit_nextAge : (s.modUnit u f).nextAge = s.nextAge := rfl
@[simp] theorem modUnit_freshCount : (s.modUnit u f).freshCount = s.freshCount := rfl

end ModUnit

/-! ## Reading after an update -/

@[simp] theorem core_setCore (s : State) (c : Nat) (k : Core) : (s.setCore c k).core c = k := by simp [State.core, State.setCore]

theorem core_setCore_other (s : State) (c d : Nat) (k : Core) (h : d ≠ c) : (s.setCore c k).core d = s.core d := by
  simp [State.core, State.setCore, tgetD_tput_other _ _ _ _ _ h]

@[simp] theorem core_modCore (s : State) (c : Nat) (f : Core → Core) : (s.modCore c f).core c = f (s.core c) := by simp [State.modCore]

theorem core_modCore_other (s : State) (c d : Nat) (f : Core → Core) (h : d ≠ c) : (s.modCore c f).core d = s.core d := by
  simp [State.modCore, core_setCore_other _ _ _ _ h]

@[simp] theorem thr_setThr (k : Core) (t : Nat) (th : Thread) (h : t < 5) : (k.setThr t th).thr t = th := by simp [Core.thr, Core.setThr, h]

theorem thr_setThr_other (k : Core) (t u : Nat) (th : Thread) (h : u ≠ t) : (k.setThr t th).thr u = k.thr u := by
  simp [Core.thr, Core.setThr, vget_vset_other _ _ _ _ _ h]

@[simp] theorem thr_modThr (s : State) (c t : Nat) (f : Thread → Thread) (h : t < 5) : (s.modThr c t f).thr c t = f (s.thr c t) := by
  simp [State.thr, State.modThr, h]

theorem thr_modThr_other (s : State) (c t d u : Nat) (f : Thread → Thread) (h : (d, u) ≠ (c, t)) : (s.modThr c t f).thr d u = s.thr d u := by
  by_cases hd : d = c
  · subst hd
    have hu : u ≠ t := fun e => h (by rw [e])
    simp [State.thr, State.modThr, thr_setThr_other _ _ _ _ hu]
  · simp [State.thr, State.modThr, core_modCore_other _ _ _ _ hd]

@[simp] theorem ctx_modCtx (s : State) (c t : Nat) (f : Ctx → Ctx) (h : t < 5) : (s.modCtx c t f).ctx c t = f (s.ctx c t) := by
  simp [State.ctx, State.thr, State.modCtx, Core.modCtx, h]

theorem thr_modCtx_other (s : State) (c t d u : Nat) (f : Ctx → Ctx) (h : (d, u) ≠ (c, t)) : (s.modCtx c t f).thr d u = s.thr d u := by
  by_cases hd : d = c
  · subst hd
    have hu : u ≠ t := fun e => h (by rw [e])
    simp [State.thr, State.modCtx, Core.modCtx, thr_setThr_other _ _ _ _ hu]
  · simp [State.thr, State.modCtx, core_modCore_other _ _ _ _ hd]

@[simp] theorem cur_modCur (s : State) (f : Ctx → Ctx) : (s.modCur f).cur = f s.cur := by
  simp [State.cur, State.modCur]

theorem modCur_modCur (s : State) (f g : Ctx → Ctx) : ((s.modCur f).modCur g).cur = g (f s.cur) := by simp

@[simp] theorem die_modDie (s : State) (d : Nat) (f : Die → Die) (h : d < 4) : (s.modDie d f).die d = f (s.die d) := by
  simp [State.die, State.modDie, h]

theorem die_modDie_other (s : State) (d e : Nat) (f : Die → Die) (h : e ≠ d) : (s.modDie d f).die e = s.die e := by
  simp [State.die, State.modDie, vget_vset_other _ _ _ _ _ h]

@[simp] theorem bay_modBay (s : State) (b : Nat) (f : Bay → Bay) : (s.modBay b f).bay b = f (s.bay b) := by simp [State.bay, State.modBay]

theorem bay_modBay_other (s : State) (b e : Nat) (f : Bay → Bay) (h : e ≠ b) : (s.modBay b f).bay e = s.bay e := by
  simp [State.bay, State.modBay, tgetD_tput_other _ _ _ _ _ h]

theorem tget_modPart (s : State) (a b : Nat) (f : Partition → Partition) :
    tget (s.modPart a f).parts b = if b = a then (tget s.parts b).map f else tget s.parts b := by
  unfold State.modPart
  split
  · rename_i h
    rw [tget_tput]
    split
    · rename_i hb
      subst hb
      obtain ⟨p, hp⟩ := Option.isSome_iff_exists.mp h
      simp [State.part, tgetD, hp]
    · rfl
  · rename_i h
    split
    · rename_i hb
      subst hb
      simp at h
      simp [h]
    · rfl

theorem part_modPart (s : State) (a : Nat) (f : Partition → Partition) (h : s.running a = true) : (s.modPart a f).part a = f (s.part a) := by
  obtain ⟨p, hp⟩ := Option.isSome_iff_exists.mp h
  simp [State.part, tgetD, tget_modPart, hp]

theorem part_modPart_other (s : State) (a b : Nat) (f : Partition → Partition) (h : b ≠ a) : (s.modPart a f).part b = s.part b := by
  simp [State.part, tgetD, tget_modPart, h]

/-! ## Turns and requests on their way (R58, R69) -/

section AteSend

variable (s : State) (rank : Nat) (op : AteOp)

@[simp] theorem ateSend_mem : (s.ateSend rank op).mem = s.mem := rfl
@[simp] theorem ateSend_bad : (s.ateSend rank op).bad = s.bad := rfl
@[simp] theorem ateSend_weak : (s.ateSend rank op).weak = s.weak := rfl
@[simp] theorem ateSend_cores : (s.ateSend rank op).cores = s.cores := rfl
@[simp] theorem ateSend_dies : (s.ateSend rank op).dies = s.dies := rfl
@[simp] theorem ateSend_parts : (s.ateSend rank op).parts = s.parts := rfl
@[simp] theorem ateSend_pkg : (s.ateSend rank op).pkg = s.pkg := rfl
@[simp] theorem ateSend_turns : (s.ateSend rank op).turns = s.turns := rfl

end AteSend

section LoopPush

variable (s : State) (c : Nat) (r : LoopReq)

@[simp] theorem loopPush_mem : (s.loopPush c r).mem = s.mem := rfl
@[simp] theorem loopPush_bad : (s.loopPush c r).bad = s.bad := rfl
@[simp] theorem loopPush_weak : (s.loopPush c r).weak = s.weak := rfl
@[simp] theorem loopPush_bays : (s.loopPush c r).bays = s.bays := rfl
@[simp] theorem loopPush_turns : (s.loopPush c r).turns = s.turns := rfl

end LoopPush

/-- The turns of one operation go, those of the others stay; nothing else changes. -/
theorem dropTurns_turns (s : State) (uid seq : Nat) : (s.dropTurns uid seq).turns = s.turns.filter fun t => !(t.uid == uid && t.seq == seq) := by
  unfold State.dropTurns
  split
  · next h => simp [List.isEmpty_iff.mp h]
  · rfl

@[simp] theorem dropTurns_mem (s : State) (uid seq : Nat) : (s.dropTurns uid seq).mem = s.mem := by unfold State.dropTurns; split <;> rfl
@[simp] theorem dropTurns_cores (s : State) (uid seq : Nat) : (s.dropTurns uid seq).cores = s.cores := by unfold State.dropTurns; split <;> rfl
@[simp] theorem dropTurns_bays (s : State) (uid seq : Nat) : (s.dropTurns uid seq).bays = s.bays := by unfold State.dropTurns; split <;> rfl

/-- With no turn given, an operation reads memory as it is. -/
theorem seenByte_noTurns (s : State) (uid seq k : Nat) (h : s.turns = []) : s.seenByte uid seq k = s.byteAt k := by simp [State.seenByte, State.turnOf, h]

/-- Asking for a turn changes no byte. -/
@[simp] theorem askTurn_mem (s : State) (rank uid seq k : Nat) (own : Option Nat) : (s.askTurn rank uid seq k own).mem = s.mem := by
  unfold State.askTurn
  split
  · rfl
  · cases own with
    | none => rfl
    | some c => dsimp only; split <;> rfl

/-! ## Registers -/

@[simp] theorem xr_zero (x : Ctx) : x.xr 0#6 = 0#64 := rfl

@[simp] theorem setX_zero (x : Ctx) (v : Word) : x.setX 0#6 v = x := rfl

@[simp] theorem isFull_zero (x : Ctx) : x.isFull 0#6 = true := rfl

theorem xr_setX (x : Ctx) (r q : Reg) (v : Word) : (x.setX r v).xr q = if q = r ∧ r ≠ 0#6 then v else x.xr q := by
  by_cases hr : r = 0#6
  · subst hr; simp
  · by_cases hq : q = r
    · subst hq
      have : q.toNat < 64 := q.isLt
      simp [Ctx.setX, Ctx.xr, hr, this]
    · have : q.toNat ≠ r.toNat := fun e => hq (BitVec.eq_of_toNat_eq e)
      simp [Ctx.setX, Ctx.xr, hr, hq, vget_vset_other _ _ _ _ _ this]

@[simp] theorem isFull_setX (x : Ctx) (r q : Reg) (v : Word) : (x.setX r v).isFull q = x.isFull q := by
  unfold Ctx.setX
  split <;> rfl

@[simp] theorem pc_setX (x : Ctx) (r : Reg) (v : Word) : (x.setX r v).pc = x.pc := by
  unfold Ctx.setX
  split <;> rfl

end Sys2Proof.Machine
end

