-- ==== Sys2Proof/Laws/Memory.lean ====
section
/-! SUPPORT. Memory: every memory operation keeps the canonical form, a byte written reads back, and every other byte stays. -/

namespace Sys2Proof.Machine

/-! ## Byte order -/

@[simp] theorem length_leBytes (n v : Nat) : (leBytes n v).length = n := by
  induction n generalizing v with
  | zero => rfl
  | succ n ih => simp [leBytes, ih]

/-- Little-endian bytes give back the number, cut to their width (R77). -/
theorem leNat_leBytes (n v : Nat) : leNat (leBytes n v) = v % 256 ^ n := by
  induction n generalizing v with
  | zero => simp [leBytes, leNat, Nat.mod_one]
  | succ n ih => simp [leBytes, leNat, ih, Nat.pow_succ', Nat.mod_mul]

/-! ## Writes of bytes -/

theorem memPutBytes_wf (m : List Host.Cell) (k : Nat) (bs : List Byte) (h : Memory.wf m = true) : Memory.wf (memPutBytes m k bs) = true := by
  induction bs generalizing m k with
  | nil => exact h
  | cons b r ih => exact ih _ _ (memPut_wf _ m 0 k b h (Nat.zero_le k))

/-- The byte at an address after a write of bytes. -/
theorem memGet_memPutBytes (m : List Host.Cell) (k j : Nat) (bs : List Byte) (h : Memory.wf m = true) :
    memGet Config.emptyByte (memPutBytes m k bs) j = if k ≤ j ∧ j < k + bs.length then bs.getD (j - k) 0 else memGet Config.emptyByte m j := by
  induction bs generalizing m k with
  | nil => simp [memPutBytes]
  | cons b r ih =>
    have hw : Memory.wf (memPut Config.emptyByte m k b) = true := memPut_wf _ m 0 k b h (Nat.zero_le k)
    simp only [memPutBytes, ih _ _ hw, memGet_memPut _ m 0 k j b h, List.length_cons]
    by_cases h1 : j = k
    · subst h1
      have : ¬ (j + 1 ≤ j) := by omega
      simp [this]
    · by_cases h2 : k + 1 ≤ j ∧ j < k + 1 + r.length
      · have h3 : k ≤ j ∧ j < k + (r.length + 1) := by omega
        have h4 : j - k = (j - (k + 1)) + 1 := by omega
        rw [if_pos h2, if_pos h3, h4]
        simp
      · have h3 : ¬ (k ≤ j ∧ j < k + (r.length + 1)) := by omega
        rw [if_neg h2, if_neg h3, if_neg h1]

theorem pokeBytes_wf (s : State) (k : Nat) (bs : List Byte) (h : Memory.wf s.mem = true) : Memory.wf (s.pokeBytes k bs).mem = true :=
  memPutBytes_wf s.mem k bs h

theorem byteAt_pokeBytes (s : State) (k j : Nat) (bs : List Byte) (h : Memory.wf s.mem = true) :
    (s.pokeBytes k bs).byteAt j = if k ≤ j ∧ j < k + bs.length then bs.getD (j - k) 0 else s.byteAt j :=
  memGet_memPutBytes s.mem k j bs h

/-- Bytes written read back. -/
theorem bytesAt_pokeBytes (s : State) (k : Nat) (bs : List Byte) (h : Memory.wf s.mem = true) : (s.pokeBytes k bs).bytesAt k bs.length = bs := by
  apply List.ext_getElem
  · simp [State.bytesAt, upTo]
  · intro i h1 h2
    simp [State.bytesAt, upTo, byteAt_pokeBytes _ _ _ _ h, h2]

/-- A number written reads back, cut to its width (R77). -/
theorem readLe_pokeBytes (s : State) (k n v : Nat) (h : Memory.wf s.mem = true) : (s.pokeBytes k (leBytes n v)).readLe k n = v % 256 ^ n := by
  have := bytesAt_pokeBytes s k (leBytes n v) h
  rw [length_leBytes] at this
  rw [State.readLe, this, leNat_leBytes]

/-! ## What a write sets off changes no byte -/

theorem foldl_mem {α : Type} (f : State → α → State) (h : ∀ s a, (f s a).mem = s.mem) (s : State) (l : List α) : (l.foldl f s).mem = s.mem := by
  induction l generalizing s with
  | nil => rfl
  | cons a r ih => rw [List.foldl_cons, ih, h]

@[simp] theorem repair_mem (s : State) (k n : Nat) : (s.repair k n).mem = s.mem := by
  unfold State.repair
  split <;> rfl

@[simp] theorem fireWatches_mem (s : State) (k n : Nat) : (s.fireWatches k n).mem = s.mem := by
  unfold State.fireWatches
  split
  · rfl
  · dsimp only
    rw [foldl_mem]
    intro s a
    rfl

@[simp] theorem headReady_mem (s : State) (a i : Nat) : (s.headReady a i).mem = s.mem := by simp [State.headReady]

@[simp] theorem readyDeps_mem (s : State) (k n : Nat) : (s.readyDeps k n).mem = s.mem := by
  unfold State.readyDeps
  exact foldl_mem _ (fun _ _ => by simp) _ _

@[simp] theorem afterWrite_mem (s : State) (k n : Nat) : (s.afterWrite k n).mem = s.mem := by simp [State.afterWrite]

/-! ## The named writes -/

theorem mem_writeBytes (s : State) (k : Nat) (bs : List Byte) : (s.writeBytes k bs).mem = memPutBytes s.mem k bs := by
  unfold State.writeBytes
  split
  · simp_all [memPutBytes]
  · simp [State.pokeBytes]

theorem writeBytes_wf (s : State) (k : Nat) (bs : List Byte) (h : Memory.wf s.mem = true) : Memory.wf (s.writeBytes k bs).mem = true := by
  rw [mem_writeBytes]
  exact memPutBytes_wf s.mem k bs h

theorem byteAt_writeBytes (s : State) (k j : Nat) (bs : List Byte) (h : Memory.wf s.mem = true) :
    (s.writeBytes k bs).byteAt j = if k ≤ j ∧ j < k + bs.length then bs.getD (j - k) 0 else s.byteAt j := by
  rw [State.byteAt, mem_writeBytes]
  exact memGet_memPutBytes s.mem k j bs h

theorem writeLe_wf (s : State) (k n v : Nat) (h : Memory.wf s.mem = true) : Memory.wf (s.writeLe k n v).mem = true := writeBytes_wf s k _ h

/-- A number written by any store reads back. -/
theorem readLe_writeLe (s : State) (k n v : Nat) (h : Memory.wf s.mem = true) : (s.writeLe k n v).readLe k n = v % 256 ^ n := by
  have h1 : (s.writeLe k n v).readLe k n = (s.pokeBytes k (leBytes n v)).readLe k n := by
    simp [State.readLe, State.bytesAt, State.byteAt, State.writeLe, mem_writeBytes, State.pokeBytes]
  rw [h1, readLe_pokeBytes s k n v h]

theorem byteAt_writeLe_other (s : State) (k n v j : Nat) (h : Memory.wf s.mem = true) (hj : j < k ∨ k + n ≤ j) :
    (s.writeLe k n v).byteAt j = s.byteAt j := by
  rw [State.writeLe, byteAt_writeBytes _ _ _ _ h, if_neg]
  rw [length_leBytes]
  omega

/-! ## Zeroing and copying ranges -/

theorem memWf_filter (e : Byte) (p : Host.Cell → Bool) (m : List Host.Cell) (lo : Nat) (h : memWfFrom e lo m = true) : memWfFrom e lo (m.filter p) = true := by
  induction m generalizing lo with
  | nil => rfl
  | cons c r ih =>
    obtain ⟨i, b⟩ := c
    simp only [memWfFrom, Bool.and_eq_true, decide_eq_true_eq] at h
    rw [List.filter_cons]
    split
    · simp only [memWfFrom, Bool.and_eq_true, decide_eq_true_eq]
      exact ⟨h.1, ih _ h.2⟩
    · exact ih _ (memWfFrom_mono e r (i + 1) lo h.2 (by omega))

theorem zeroRange_wf (s : State) (k n : Nat) (h : Memory.wf s.mem = true) : Memory.wf (s.zeroRange k n).mem = true := by
  unfold State.zeroRange
  split
  · exact h
  · rw [afterWrite_mem]
    exact memWf_filter _ _ _ _ h

theorem memPut_fold_wf (g : Host.Cell → Nat) (l : List Host.Cell) (m : List Host.Cell) (h : Memory.wf m = true) :
    Memory.wf (l.foldl (fun m c => memPut Config.emptyByte m (g c) c.2) m) = true := by
  induction l generalizing m with
  | nil => exact h
  | cons c r ih => exact ih _ (memPut_wf _ m 0 (g c) c.2 h (Nat.zero_le _))

theorem copyRange_wf (s : State) (src dst n : Nat) (h : Memory.wf s.mem = true) : Memory.wf (s.copyRange src dst n).mem = true := by
  unfold State.copyRange
  split
  · exact h
  · rw [afterWrite_mem]
    exact memPut_fold_wf (fun c => dst + (c.1 - src)) _ _ (memWf_filter _ _ _ _ h)

theorem reset_mem_wf : Memory.wf State.reset.mem = true := rfl

end Sys2Proof.Machine
end

