-- ==== Sys2Proof/Laws/Retire.lean ====
section
/-! SUPPORT. What a retirement does, said once, and the shape of every instruction that issues. -/

namespace Sys2Proof.Machine

@[simp] theorem modPart_core (s : State) (a c : Nat) (f : Partition → Partition) : (s.modPart a f).core c = s.core c := by simp [State.core]

@[simp] theorem modPart_thr (s : State) (a c t : Nat) (f : Partition → Partition) : (s.modPart a f).thr c t = s.thr c t := by simp [State.thr]

theorem tgetD_isSome_running (s : State) (a : Nat) : s.running a = (tget s.parts a).isSome := rfl

/-- A state that differs from another only in cores and partitions. -/
def SameRest (s t : State) : Prop := { t with cores := s.cores, parts := s.parts } = s

theorem SameRest.rfl (s : State) : SameRest s s := Eq.refl _

theorem SameRest.modCore {s t : State} (h : SameRest s t) (c : Nat) (f : Core → Core) : SameRest s (t.modCore c f) := h

theorem SameRest.modPart {s t : State} (h : SameRest s t) (a : Nat) (f : Partition → Partition) : SameRest s (t.modPart a f) := by
  unfold State.modPart
  split
  · exact h
  · exact h

/-! ## The quantum count -/

theorem countQuantum_thr (s : State) (c t d u : Nat) : (s.countQuantum c t).thr d u = s.thr d u := by
  unfold State.countQuantum
  dsimp only
  split
  · split
    · by_cases h : d = c
      · subst h; simp [State.endCoreQuantum, State.thr, Core.thr]
      · simp [State.endCoreQuantum, State.thr, core_modCore_other _ _ _ _ h]
    · by_cases h : d = c
      · subst h; simp [State.thr, Core.thr]
      · simp [State.thr, core_modCore_other _ _ _ _ h]
  · rfl

theorem countQuantum_core (s : State) (c t d : Nat) : { (s.countQuantum c t).core d with det := (s.core d).det } = s.core d := by
  unfold State.countQuantum
  dsimp only
  split
  · split
    · by_cases h : d = c
      · subst h; simp [State.endCoreQuantum]
      · simp [State.endCoreQuantum, core_modCore_other _ _ _ _ h]
    · by_cases h : d = c
      · subst h; simp
      · simp [core_modCore_other _ _ _ _ h]
  · rfl

theorem countQuantum_det (s : State) (c t d : Nat) (h : d ≠ c ∨ (s.launchOf c).deterministic = false ∨ t ≠ 0) :
    ((s.countQuantum c t).core d).det = (s.core d).det := by
  unfold State.countQuantum
  dsimp only
  split
  · rename_i g
    simp at g
    have h : d ≠ c := by simp_all
    split
    · simp [State.endCoreQuantum, core_modCore_other _ _ _ _ h]
    · simp [core_modCore_other _ _ _ _ h]
  · rfl

theorem countQuantum_rest (s : State) (c t : Nat) : { s.countQuantum c t with cores := s.cores } = s := by
  unfold State.countQuantum
  dsimp only
  split
  · split <;> rfl
  · rfl

/-! ## A pending STEP -/

theorem stepPend_core (s : State) (c t d : Nat) : { (s.stepPend c t).core d with threads := (s.core d).threads } = s.core d := by
  unfold State.stepPend
  by_cases h : d = c
  · subst h; simp [State.modCtx, Core.modCtx, Core.setThr]
  · simp [State.modCtx, core_modCore_other _ _ _ _ h]

theorem stepPend_rest (s : State) (c t : Nat) : { s.stepPend c t with cores := s.cores } = s := rfl

theorem stepPend_thr_other (s : State) (c t d u : Nat) (h : (d, u) ≠ (c, t)) : (s.stepPend c t).thr d u = s.thr d u :=
  thr_modCtx_other s c t d u _ h

theorem stepPend_thr (s : State) (c t : Nat) (h : t < 5) :
    (s.stepPend c t).thr c t =
      { s.thr c t with ctx := { s.ctx c t with pend := (s.ctx c t).pendStep (s.stepped (s.core c).asidN (s.ctx c t).tid) } } := by
  simp [State.stepPend, State.modCtx, State.thr, Core.modCtx, State.ctx, h]

/-! ## Retiring -/

/-- A retirement of the issuing thread: what `Retired` says of it. -/
theorem retireAt_retired (s : State) (pc : Word) : Retired s (s.retireAt s.curCore s.curThread.val pc) pc := by
  have ht : s.curThread.val < 5 := s.curThread.isLt
  generalize hs1 : (s.modThr s.curCore s.curThread.val fun th =>
    { th with retired := satN 64 (th.retired + 1), ctx := th.ctx.retired pc }) = s1
  have hthr : s1.thr s.curCore s.curThread.val = { s.thr s.curCore s.curThread.val with
      retired := satN 64 ((s.thr s.curCore s.curThread.val).retired + 1), ctx := s.cur.retired pc } := by
    rw [← hs1, thr_modThr _ _ _ _ ht]; rfl
  have hoth : ∀ c u, (c, u) ≠ (s.curCore, s.curThread.val) → s1.thr c u = s.thr c u := fun c u h => by
    rw [← hs1, thr_modThr_other _ _ _ _ _ _ h]
  have hcore : ∀ c, { s1.core c with threads := (s.core c).threads } = s.core c := fun c => by
    rw [← hs1]
    by_cases h : c = s.curCore
    · subst h; simp [State.modThr, Core.setThr]
    · simp [State.modThr, core_modCore_other _ _ _ _ h]
  have hparts : s1.parts = s.parts := by rw [← hs1]; rfl
  have hrest : { s1 with cores := s.cores } = s := by rw [← hs1]; rfl
  have hcc : s1.curCore = s.curCore := by rw [← hs1]; rfl
  have hct : s1.curThread = s.curThread := by rw [← hs1]; rfl
  have e : s.retireAt s.curCore s.curThread.val pc = if s.curThread.val = 4 then s1
      else ((s1.modPart (s1.core s.curCore).asidN fun p => { p with wdLast := s1.cycle }).countQuantum s.curCore s.curThread.val).stepPend
        s.curCore s.curThread.val := by rw [← hs1]; rfl
  have hcur : s1.cur = s.cur.retired pc := by
    rw [State.cur, hcc, hct, State.ctx, hthr]
  have hasid : (s1.core s.curCore).asidN = s.curK.asidN := by
    have := hcore s.curCore
    rw [State.curK, ← this]; rfl
  by_cases h4 : s.curThread.val = 4
  · have h4' : s.curThread = 4 := Fin.ext h4
    rw [e, if_pos h4]
    exact {
      cur := by rw [hcur]; rfl
      pend := by rw [hcur, if_pos h4']
      thread := by rw [hthr, hcur]
      threads := hoth
      core := fun c => by rw [← hcore c]
      det := fun c _ => by rw [← hcore c]
      part := fun a => by simp [hparts, h4']
      rest := by rw [hparts] at *; exact hrest }
  · have h4' : s.curThread ≠ 4 := fun h => h4 (by rw [h]; rfl)
    rw [e, if_neg h4]
    generalize hs2 : (s1.modPart (s1.core s.curCore).asidN fun p => { p with wdLast := s1.cycle }) = s2
    generalize hs3 : s2.countQuantum s.curCore s.curThread.val = s3
    have h2thr : ∀ c u, s2.thr c u = s1.thr c u := fun c u => by rw [← hs2, modPart_thr]
    have h2core : ∀ c, s2.core c = s1.core c := fun c => by rw [← hs2, modPart_core]
    have h3thr : ∀ c u, s3.thr c u = s1.thr c u := fun c u => by rw [← hs3, countQuantum_thr, h2thr]
    have h3core : ∀ c, { s3.core c with det := (s1.core c).det } = s1.core c := fun c => by
      rw [← hs3, ← h2core]; exact countQuantum_core s2 _ _ c
    have h3cc : s3.curCore = s.curCore := by
      have := congrArg State.curCore (countQuantum_rest s2 s.curCore s.curThread.val)
      rw [hs3] at this
      rw [show s3.curCore = s2.curCore from this, ← hs2, modPart_curCore, hcc]
    have h3ct : s3.curThread = s.curThread := by
      have := congrArg State.curThread (countQuantum_rest s2 s.curCore s.curThread.val)
      rw [hs3] at this
      rw [show s3.curThread = s2.curThread from this, ← hs2, modPart_curThread, hct]
    have h3ctx : s3.ctx s.curCore s.curThread.val = s.cur.retired pc := by
      rw [State.ctx, h3thr, hthr]
    have h1part : s1.part = s.part := by funext a; simp [State.part, hparts]
    have hlaunch1 : (s2.part (s1.core s.curCore).asidN).launch = (s.part s.curK.asidN).launch ∧
        (s2.part (s1.core s.curCore).asidN).dbg = (s.part s.curK.asidN).dbg := by
      rw [← h1part, ← hs2, ← hasid]
      by_cases hr : s1.running (s1.core s.curCore).asidN = true
      · rw [part_modPart _ _ _ hr]; exact ⟨rfl, rfl⟩
      · have hr' : ¬ (tget s1.parts (s1.core s.curCore).asidN).isSome = true := hr
        unfold State.modPart
        rw [if_neg hr']; exact ⟨rfl, rfl⟩
    have hlaunch : (s2.launchOf s.curCore).deterministic = (s.launchOf s.curCore).deterministic := by
      simp only [State.launchOf, h2core]
      rw [hlaunch1.1]; rfl
    have hparts3 : s3.parts = s2.parts := by
      have := congrArg State.parts (countQuantum_rest s2 s.curCore s.curThread.val)
      rw [hs3] at this
      exact this
    have h3asid : (s3.core s.curCore).asidN = (s1.core s.curCore).asidN := by
      have := congrArg Core.asidN (h3core s.curCore)
      exact this
    have hstep : s3.stepped (s3.core s.curCore).asidN (s3.ctx s.curCore s.curThread.val).tid = s.stepped s.curK.asidN s.cur.tid := by
      have hp : (s3.part (s1.core s.curCore).asidN).dbg = (s.part s.curK.asidN).dbg := by
        rw [← hlaunch1.2]; simp [State.part, hparts3]
      have ht : (s3.ctx s.curCore s.curThread.val).tid = s.cur.tid := by rw [h3ctx]; rfl
      simp only [State.stepped, h3asid, hp, ht]
    have h4thr := stepPend_thr s3 s.curCore s.curThread.val ht
    rw [hstep, h3ctx] at h4thr
    have h4rest := stepPend_rest s3 s.curCore s.curThread.val
    generalize hs4 : s3.stepPend s.curCore s.curThread.val = s4 at *
    have h4cc : s4.curCore = s.curCore := (show s4.curCore = s3.curCore from have := congrArg State.curCore h4rest; this).trans h3cc
    have h4ct : s4.curThread = s.curThread := (show s4.curThread = s3.curThread from have := congrArg State.curThread h4rest; this).trans h3ct
    have h4cur : s4.cur = { s.cur.retired pc with pend := (s.cur.retired pc).pendStep (s.stepped s.curK.asidN s.cur.tid) } := by
      rw [State.cur, h4cc, h4ct, State.ctx, h4thr]
    have h4core : ∀ c, { s4.core c with threads := (s3.core c).threads } = s3.core c := fun c => by
      rw [← hs4]; exact stepPend_core s3 _ _ c
    exact {
      cur := by rw [h4cur]; rfl
      pend := by rw [h4cur, if_neg h4']
      thread := by rw [h4thr, h3thr, hthr, h4cur]
      threads := fun c u h => by rw [← hs4, stepPend_thr_other _ _ _ _ _ h, h3thr, hoth c u h]
      core := fun c => by
        have a := congrArg (fun k : Core => { k with threads := (s.core c).threads, det := (s.core c).det }) (h4core c)
        have b := congrArg (fun k : Core => { k with threads := (s.core c).threads, det := (s.core c).det }) (h3core c)
        have d := hcore c
        have d' := congrArg (fun k : Core => { k with det := (s.core c).det }) d
        exact a.trans (b.trans d')
      det := fun c h => by
        have a := congrArg Core.det (h4core c)
        have h' : c ≠ s.curCore ∨ (s2.launchOf s.curCore).deterministic = false ∨ s.curThread.val ≠ 0 := by
          rw [hlaunch]
          rcases h with h | h | h
          · exact Or.inl h
          · exact Or.inr (Or.inl h)
          · exact Or.inr (Or.inr fun g => h (Fin.ext g))
        have b := countQuantum_det s2 s.curCore s.curThread.val c h'
        rw [hs3, h2core] at b
        have d := congrArg Core.det (hcore c)
        exact (show (s4.core c).det = (s3.core c).det from a).trans (b.trans d)
      part := fun a => by
        have h43 : s4.parts = s3.parts := by have := congrArg State.parts h4rest; exact this
        have hcyc : s1.cycle = s.cycle := by have := congrArg State.cycle hrest; exact this
        rw [h43, hparts3, ← hs2, tget_modPart, hparts, hasid, hcyc]
        by_cases ha : a = s.curK.asidN
        · simp [ha, h4']
        · simp [ha]
      rest := by
        have h32 := countQuantum_rest s2 s.curCore s.curThread.val
        rw [hs3] at h32
        have h21 : { s2 with parts := s1.parts } = s1 := by
          rw [← hs2]; unfold State.modPart; split <;> rfl
        have a := congrArg (fun z : State => { z with cores := s.cores, parts := s.parts }) h4rest
        have b := congrArg (fun z : State => { z with cores := s.cores, parts := s.parts }) h32
        have d := congrArg (fun z : State => { z with cores := s.cores, parts := s.parts }) h21
        have f := congrArg (fun z : State => { z with parts := s.parts }) hrest
        exact a.trans (b.trans (d.trans f)) }

/-- An instruction that only changes its unit's context, and retires. -/
theorem retire_runsTo (s : State) (f : Ctx → Ctx) (pc : Word) (o : Host.Outcome State Fault Refusal)
    (h : o = .next ((s.modCur f).retireAt s.curCore s.curThread.val pc)) : RunsTo o s f pc :=
  ⟨_, h, retireAt_retired (s.modCur f) pc⟩

/-! ## Issuing -/

theorem emptyMarked_of_full (x : Ctx) (srcs : List (Reg × Bool)) (h : ∀ p ∈ srcs, x.isFull p.1 = true) : x.emptyMarked srcs = none := by
  induction srcs with
  | nil => rfl
  | cons p r ih =>
    obtain ⟨q, m⟩ := p
    have h1 : x.isFull q = true := h (q, m) (List.mem_cons_self ..)
    simp [Ctx.emptyMarked, h1, ih fun p hp => h p (List.mem_cons_of_mem _ hp)]

/-- An instruction whose sources and destination are full does what its body says (R194, R195). -/
theorem issue_full (srcs : List (Reg × Bool)) (dest : Option Reg) (body : State → Res) (s : State)
    (hs : ∀ p ∈ srcs, s.cur.isFull p.1 = true) (hd : ∀ r, dest = some r → s.cur.isFull r = true) :
    issue srcs dest body s = .next (body s).next := by
  have h1 : s.cur.ready srcs dest = true := by
    simp only [Ctx.ready, Bool.and_eq_true, List.all_eq_true]
    refine ⟨fun p hp => hs p hp, ?_⟩
    cases dest with
    | none => rfl
    | some r => simpa using hd r rfl
  simp [issue, emptyMarked_of_full _ _ hs, h1, Res.out]

/-- Every instruction that issues answers a next state, whatever its registers hold. -/
theorem issue_next (srcs : List (Reg × Bool)) (dest : Option Reg) (body : State → Res) (s : State) : ∃ t, issue srcs dest body s = .next t := by
  unfold issue
  split
  · exact ⟨_, rfl⟩
  · split
    · exact ⟨_, rfl⟩
    · exact ⟨_, rfl⟩

end Sys2Proof.Machine
end

