-- ==== Sys2Proof/Laws/Operands.lean ====
section
/-! SUPPORT. What each operand form does when its registers are full. -/

namespace Sys2Proof.Machine

theorem FullAt.sub {s : State} {rs : List Reg} (h : FullAt s rs) {r : Reg} (hr : r ∈ rs) : s.cur.isFull r = true := h r hr

/-- A body that only updates its unit's context and retires. -/
theorem issue_runsTo (srcs : List (Reg × Bool)) (dest : Option Reg) (body : State → Res) (f : Ctx → Ctx) (s : State)
    (hs : ∀ p ∈ srcs, s.cur.isFull p.1 = true) (hd : ∀ r, dest = some r → s.cur.isFull r = true)
    (hb : body s = .retire (s.modCur f)) (hp : (f s.cur).pc = s.cur.pc) : RunsTo (issue srcs dest body s) s f (s.cur.pc + 4) := by
  apply retire_runsTo
  rw [issue_full srcs dest body s hs hd, hb]
  simp [Res.next, State.retire, hp]

/-- A body that transfers control. -/
theorem issue_jumpsTo (srcs : List (Reg × Bool)) (dest : Option Reg) (body : State → Res) (f : Ctx → Ctx) (pc : Word) (s : State)
    (hs : ∀ p ∈ srcs, s.cur.isFull p.1 = true) (hd : ∀ r, dest = some r → s.cur.isFull r = true)
    (hb : body s = .jump pc (s.modCur f)) : RunsTo (issue srcs dest body s) s f pc := by
  apply retire_runsTo
  rw [issue_full srcs dest body s hs hd, hb]
  simp [Res.next]

theorem opRR_runsTo (f : Word → Word → Word) (s : State) (d a b : Reg) (ma mb : Bool) (h : FullAt s [a, b, d]) :
    RunsTo (opRR f d a b ma mb s) s (fun c => c.setX d (f (s.cur.xr a) (s.cur.xr b))) (s.cur.pc + 4) := by
  apply issue_runsTo
  · simpa using ⟨h a (by simp), h b (by simp)⟩
  · simpa using h d (by simp)
  · rfl
  · simp

theorem opR_runsTo (f : Word → Word) (s : State) (d a : Reg) (ma : Bool) (h : FullAt s [a, d]) :
    RunsTo (opR f d a ma s) s (fun c => c.setX d (f (s.cur.xr a))) (s.cur.pc + 4) := by
  apply issue_runsTo
  · simpa using h a (by simp)
  · simpa using h d (by simp)
  · rfl
  · simp

/-- `opRR_runsTo` with the result in another form. -/
theorem opRR_gives (f : Word → Word → Word) (s : State) (d a b : Reg) (ma mb : Bool) (v : Word) (h : FullAt s [a, b, d])
    (hv : f (s.cur.xr a) (s.cur.xr b) = v) : RunsTo (opRR f d a b ma mb s) s (fun c => c.setX d v) (s.cur.pc + 4) := by
  rw [← hv]
  exact opRR_runsTo f s d a b ma mb h

/-- `opR_runsTo` with the result in another form. -/
theorem opR_gives (f : Word → Word) (s : State) (d a : Reg) (ma : Bool) (v : Word) (h : FullAt s [a, d])
    (hv : f (s.cur.xr a) = v) : RunsTo (opR f d a ma s) s (fun c => c.setX d v) (s.cur.pc + 4) := by
  rw [← hv]
  exact opR_runsTo f s d a ma h

theorem setThr_self (k : Core) (t : Nat) : k.setThr t (k.thr t) = k := by
  unfold Core.setThr Core.thr vset vget
  by_cases h : t < 5 <;> simp [h]

/-- An update that changes nothing of the unit's context changes no core. -/
theorem core_modCur_id (s : State) (f : Ctx → Ctx) (h : f s.cur = s.cur) (c : Nat) : (s.modCur f).core c = s.core c := by
  by_cases hc : c = s.curCore
  · subst hc
    have h' : f ((s.core s.curCore).thr s.curThread.val).ctx = ((s.core s.curCore).thr s.curThread.val).ctx := h
    simp only [State.modCur, State.modCtx, core_modCore, Core.modCtx, h']
    exact setThr_self _ _
  · simp [State.modCur, State.modCtx, core_modCore_other _ _ _ _ hc]

/-- A retirement from a state is one from the state with an update that changes nothing. -/
theorem Retired.modCur_id {s t : State} {pc : Word} (r : Retired s t pc) (f : Ctx → Ctx) (h : f s.cur = s.cur) : Retired (s.modCur f) t pc := by
  have hc := core_modCur_id s f h
  have hthr : ∀ c u, (s.modCur f).thr c u = s.thr c u := fun c u => by simp [State.thr, hc]
  have hcur : (s.modCur f).cur = s.cur := by rw [cur_modCur, h]
  have hk : (s.modCur f).curK = s.curK := hc _
  have hl : (s.modCur f).launchOf (s.modCur f).curCore = s.launchOf s.curCore := by
    have hp : (s.modCur f).part = s.part := rfl
    simp [State.launchOf, hc, hp]
  exact {
    cur := by rw [hcur]; exact r.cur
    pend := by rw [hcur, hk]; exact r.pend
    thread := by simpa [hthr] using r.thread
    threads := fun c u hne => by rw [hthr]; exact r.threads c u hne
    core := fun c => by rw [hc]; exact r.core c
    det := fun c hcond => by rw [hc]; rw [hl] at hcond; exact r.det c hcond
    part := fun a => by rw [hk]; exact r.part a
    rest := by
      have := congrArg (fun z : State => { z with cores := (s.modCur f).cores }) r.rest
      exact this }

/-- The result of a producer (R193): x0 takes none. -/
theorem issue_produces (srcs : List (Reg × Bool)) (d : Reg) (body : State → Res) (v : Word) (s : State)
    (hs : ∀ p ∈ srcs, s.cur.isFull p.1 = true) (hd : s.cur.isFull d = true) (hb : body s = .retire (s.produce d v)) :
    RunsTo (issue srcs (some d) body s) s (fun c => if d = 0 then c else { c.markEmpty d with producers := c.producers ++ [(d.toNat, v)] })
      (s.cur.pc + 4) := by
  by_cases h : d = 0
  · refine ⟨_, issue_full srcs (some d) body s hs (fun r e => by cases e; exact hd), ?_⟩
    rw [hb]
    simp only [h, State.produce, if_true, Res.next]
    exact (retireAt_retired s _).modCur_id _ rfl
  · apply issue_runsTo srcs (some d) body _ s hs (fun r e => by cases e; exact hd)
    · rw [hb]; simp only [State.produce, h, if_false]
    · simp only [h, if_false, Ctx.markEmpty]

end Sys2Proof.Machine
end

