-- ==== Sys2Proof/Tests/Slice0.lean ====
section
/-! SUPPORT. The model's own tests: what WellFormed and the decoder refuse, words written from the encoding tables, one step of single
instructions, and, for each statement, concrete states that meet its hypotheses. The helper state is the launch that stands for a load from outside (log 29). -/

set_option Elab.async false

namespace Sys2Proof.Tests

open Sys2Proof Sys2Proof.Machine

/-! ## Helper states -/

/-- Thread 0 of core 0 of a privileged launch, about to fetch. -/
def base : State := State.hosted State.reset

/-- The same, with one change to the issuing context, to the launch, to the core. -/
def at_ (f : Ctx → Ctx) : State := base.modCur f
def withLaunch (f : Launch → Launch) : State := base.modPart 0 fun p => { p with launch := f p.launch }
def withCore (f : Core → Core) : State := base.modCore 0 f

/-- An unprivileged launch and a deterministic one. -/
def user : State := withLaunch fun l => { l with privileged := false }
def det : State := withLaunch fun l => { l with deterministic := true }

/-- The device address 0x20_0000, its key, and a state with it in x1. -/
def devAddr : Word := 0x4000000000200000
def devKey : Nat := hbmKey 0x200000
def dev : State := at_ fun x => x.setX 1 devAddr

/-- A peg of zeros. -/
def noPeg : Peg := { w := Vector.replicate 8 0, enqt := 0, enqLcore := 0, stolen := false }

/-- The base state with words of memory written. -/
def poked (s : State) (l : List (Nat × Nat × Nat)) : State := l.foldl (fun s e => s.pokeBytes e.1 (leBytes e.2.1 e.2.2)) s

/-! ## What WellFormed refuses -/

/-- f32 does not exist (R191): in the destination, each source, and the addend. -/
theorem wf_refuses_f_registers :
    (Instr.faddS 32 0 0 false false).wf = false ∧ (Instr.faddS 0 32 0 false false).wf = false ∧ (Instr.faddD 0 0 63 false false).wf = false ∧ (Instr.fmaD 0 0 0 32 false).wf = false ∧
    (Instr.fsqrtS 0 32 false).wf = false ∧ (Instr.fcmpEqS 63 32 0 false false).wf = false ∧ (Instr.ldfW 32 63 0 false).wf = false ∧ (Instr.faddS 31 31 31 false false).wf = true := by decide

/-- m16 does not exist (R191). -/
theorem wf_refuses_m_registers :
    (Instr.mand 16 0 0 false false).wf = false ∧ (Instr.mand 0 16 0 false false).wf = false ∧ (Instr.mand 0 0 16 false false).wf = false ∧ (Instr.mshl 0 0 63 false false).wf = true ∧
    (Instr.mmovMM 0 16 false).wf = false ∧ (Instr.mand 15 15 15 false false).wf = true := by decide

/-- A wake destination is x0 to x5 (R261, R275); scope codes 6 and 7 are reserved (R79). -/
theorem wf_refuses_wakes_and_scopes :
    (Instr.joinw 6 0 false).wf = false ∧ (Instr.joinw 5 0 false).wf = true ∧ (Instr.barwait 6 0 0 false false).wf = false ∧ (Instr.barwait 5 0 0 false false).wf = true ∧
    (Instr.fence 6 0).wf = false ∧ (Instr.fence 5 15).wf = true := by decide

/-- Reserved encodings: an unassigned major and function (ILLOP); fields that must be zero, registers outside their file, a scope and a wake destination out of range (RSVFLD). -/
theorem decode_refuses_reserved_encodings :
    decode 0x00000000 = .error .illop ∧ decode 0xFFFFFFFF = .error .illop ∧ decode (0b11111#5 ++ 0b00#2 ++ 0#6 ++ 0#6 ++ 0#6 ++ 0b0000001#7) = .error .illop ∧
    decode (0b10111#5 ++ 0b10#2 ++ 0#6 ++ 0#6 ++ 0#6 ++ 0b0000001#7) = .error .rsvfld ∧ decode (0b00000#5 ++ 0b00#2 ++ 0#6 ++ 0#6 ++ 0b100000#6 ++ 0b1000001#7) = .error .rsvfld ∧
    decode (0b000001100000#12 ++ 0b0#1 ++ 0#6 ++ 0#6 ++ 0b0111100#7) = .error .rsvfld ∧ decode (0b00001#5 ++ 0b00#2 ++ 0#6 ++ 0#6 ++ 0b000110#6 ++ 0b1000110#7) = .error .rsvfld := by
  and_intros <;> rfl

/-! ## Decoding: one word of every coded instruction, its bits laid out from the formats and the tables of functions (R188, R197) -/

theorem decodes_words_00 :
    decode 0x016AEC01#32 = .ok (.add 24 23 45 false false) ∧ decode 0x09C04681#32 = .ok (.sub 13 2 56 false false) ∧ decode 0x11D82701#32 = .ok (.and 14 1 59 false false) ∧
    decode 0x1E6EFC01#32 = .ok (.or 56 55 13 true true) ∧ decode 0x20769D81#32 = .ok (.xor 59 52 14 false false) ∧ decode 0x2E4E7E01#32 = .ok (.sll 60 51 9 true true) ∧
    decode 0x37992301#32 = .ok (.srl 6 9 51 true true) ∧ decode 0x39F08581#32 = .ok (.sra 11 4 62 false false) ∧ decode 0x4066DC81#32 = .ok (.min 57 54 12 false false) ∧
    decode 0x4F1B2B01#32 = .ok (.max 22 25 35 true true) ∧ decode 0x51E8E401#32 = .ok (.minu 8 7 61 false false) ∧ decode 0x58855281#32 = .ok (.maxu 37 42 16 false false) ∧
    decode 0x66855281#32 = .ok (.slt 37 42 16 true true) ∧ decode 0x68561F81#32 = .ok (.sltu 63 48 10 false false) ∧ decode 0x70D41781#32 = .ok (.seq 47 32 26 false false) ∧
    decode 0x7F728D81#32 = .ok (.sne 27 20 46 true true) ∧ decode 0x86D41781#32 = .ok (.mul 47 32 26 true true) ∧ decode 0x8F424E81#32 = .ok (.mulh 29 18 40 true true) := by
  and_intros <;> rfl

theorem decodes_words_01 :
    decode 0x91910381#32 = .ok (.mulhu 7 8 50 false false) ∧ decode 0x9EFCB501#32 = .ok (.div 42 37 31 true true) ∧ decode 0xA027D881#32 = .ok (.divu 49 62 4 false false) ∧
    decode 0xA9130B81#32 = .ok (.rem 23 24 34 false false) ∧ decode 0xB67EBD01#32 = .ok (.remu 58 53 15 true true) ∧ decode 0xBA077A01#32 = .ok (.clz 52 59 true) ∧
    decode 0xC2067E01#32 = .ok (.ctz 60 51 true) ∧ decode 0xCA00A501#32 = .ok (.popc 10 5 true) ∧ decode 0xD162CC81#32 = .ok (.mkga 25 22 44 false false) ∧
    decode 0xD8001301#32 = .ok (.gcoord 38) ∧ decode 0x85720F82#32 = .ok (.addi 31 16 2135 false) ∧ decode 0xB31E9D83#32 = .ok (.andi 59 52 2865 true) ∧
    decode 0xAA6D7204#32 = .ok (.ori 36 43 2726 true) ∧ decode 0x3ABC1785#32 = .ok (.xori 47 32 939 true) ∧ decode 0x05F5B106#32 = .ok (.slti 34 45 95 false) ∧
    decode 0x3A82EC07#32 = .ok (.sltiu 24 23 936 false) ∧ decode 0x0274B508#32 = .ok (.slli 42 37 39 false) ∧ decode 0x00492309#32 = .ok (.srli 6 9 4 true) := by
  and_intros <;> rfl

theorem decodes_words_02 :
    decode 0x01934A8A#32 = .ok (.srai 21 26 25 false) ∧ decode 0x3883078B#32 = .ok (.lui 15 115736) ∧ decode 0x6802C88C#32 = .ok (.auipc 17 213014) ∧
    decode 0xDCCEBD0D#32 = .ok (.jal 58 452213) ∧ decode 0x641A2F0E#32 = .ok (.jalr 30 17 1601 true) ∧ decode 0x65E9428F#32 = .ok (.bfx 5 10 30 25 true) ∧
    decode 0x8E434A90#32 = .ok (.bfi 21 26 36 35 false) ∧ decode 0xA0379991#32 = .ok (.sel 51 60 6 16 true) ∧ decode 0xB081AD12#32 = .ok (.beq 26 32 1434 false false) ∧
    decode 0x8B52E193#32 = .ok (.bne 46 20 1091 true true) ∧ decode 0xFBA90C94#32 = .ok (.blt 16 42 2009 true true) ∧ decode 0xC76E1915#32 = .ok (.bge 33 27 1586 true true) ∧
    decode 0xE0E02116#32 = .ok (.bltu 2 56 1794 false false) ∧ decode 0x3FF84997#32 = .ok (.bgeu 4 62 499 true true) ∧ decode 0x805F7A18#32 = .ok (.ldB 52 59 2053 true) ∧
    decode 0x861E3F19#32 = .ok (.ldH 62 49 2145 true) ∧ decode 0xFA85F01A#32 = .ok (.ldW 32 47 4008 false) ∧ decode 0x7D9FB91B#32 = .ok (.ldD 50 61 2009 true) := by
  and_intros <;> rfl

theorem decodes_words_03 :
    decode 0x23CFF81C#32 = .ok (.ldzB 48 63 572 true) ∧ decode 0x258EBD1D#32 = .ok (.ldzH 58 53 600 true) ∧ decode 0x5915721E#32 = .ok (.ldzW 36 43 1425 false) ∧
    decode 0x7719819F#32 = .ok (.ldfW 3 12 1905 true) ∧ decode 0xF003C8A0#32 = .ok (.ldfD 17 30 3840 false) ∧ decode 0xD7FF7CA1#32 = .ok (.stB 63 55 1721 true true) ∧
    decode 0xDBD7DEA2#32 = .ok (.stH 53 61 1757 true true) ∧ decode 0x20AE3A23#32 = .ok (.stW 43 35 276 false false) ∧ decode 0x2FE712A4#32 = .ok (.stD 57 49 357 true true) ∧
    decode 0x07200C25#32 = .ok (.stfW 8 0 56 true true) ∧ decode 0x086924A6#32 = .ok (.stfD 26 18 73 false false) ∧ decode 0x014A6E27#32 = .ok (.ldnbB 28 19 41 false false) ∧
    decode 0x091B2B27#32 = .ok (.ldnbH 22 25 35 false false) ∧ decode 0x17E8E427#32 = .ok (.ldnbW 8 7 61 true true) ∧
    decode 0x197AAD27#32 = .ok (.ldnbD 26 21 47 false false) ∧ decode 0x22020027#32 = .ok (.twait 16 true) ∧ decode 0xDDC04028#32 = .ok (.stvaB 2 56 46 true) ∧
    decode 0xC9910029#32 = .ok (.stvaH 8 50 36 true) := by
  and_intros <;> rfl

theorem decodes_words_04 :
    decode 0x7562C02A#32 = .ok (.stvaW 22 44 58 false) ∧ decode 0xD1F0802B#32 = .ok (.stvaD 4 62 40 true) ∧ decode 0x003799AC#32 = .ok (.amoaddW 51 60 6 false false) ∧
    decode 0x06A5D0AD#32 = .ok (.amoaddD 33 46 20 true true) ∧ decode 0x019103AE#32 = .ok (.amoaddWAcq 7 8 50 false false) ∧
    decode 0x063FB92F#32 = .ok (.amoaddDAcq 50 61 7 true true) ∧ decode 0x076AEC30#32 = .ok (.amoaddWRel 24 23 45 true true) ∧
    decode 0x00C456B1#32 = .ok (.amoaddDRel 45 34 24 false false) ∧ decode 0x06D417B2#32 = .ok (.amoaddWSc 47 32 26 true true) ∧
    decode 0x00465EB3#32 = .ok (.amoaddDSc 61 50 8 false false) ∧ decode 0x093BA92C#32 = .ok (.amoandW 18 29 39 false false) ∧
    decode 0x0FA9E02D#32 = .ok (.amoandD 0 15 53 true true) ∧ decode 0x0F62CCAE#32 = .ok (.amoandWAcq 25 22 44 true true) ∧
    decode 0x08CC762F#32 = .ok (.amoandDAcq 44 35 25 false false) ∧ decode 0x09992330#32 = .ok (.amoandWRel 6 9 51 false false) ∧
    decode 0x0E3799B1#32 = .ok (.amoandDRel 51 60 6 true true) ∧ decode 0x0E9513B2#32 = .ok (.amoandWSc 39 40 18 true true) ∧
    decode 0x08075AB3#32 = .ok (.amoandDSc 53 58 0 false false) := by
  and_intros <;> rfl

theorem decodes_words_05 :
    decode 0x160F7A2C#32 = .ok (.amoorW 52 59 1 true true) ∧ decode 0x109D332D#32 = .ok (.amoorD 38 41 19 false false) ∧
    decode 0x1199232E#32 = .ok (.amoorWAcq 6 9 51 false false) ∧ decode 0x163799AF#32 = .ok (.amoorDAcq 51 60 6 true true) ∧
    decode 0x1762CCB0#32 = .ok (.amoorWRel 25 22 44 true true) ∧ decode 0x10CC7631#32 = .ok (.amoorDRel 44 35 25 false false) ∧
    decode 0x1066DCB2#32 = .ok (.amoorWSc 57 54 12 false false) ∧ decode 0x16F495B3#32 = .ok (.amoorDSc 43 36 30 true true) ∧
    decode 0x183FB92C#32 = .ok (.amoxorW 50 61 7 false false) ∧ decode 0x1EADF02D#32 = .ok (.amoxorD 32 47 21 true true) ∧
    decode 0x190B6A2E#32 = .ok (.amoxorWAcq 20 27 33 false false) ∧ decode 0x1EA5D0AF#32 = .ok (.amoxorDAcq 33 46 20 true true) ∧
    decode 0x1FF085B0#32 = .ok (.amoxorWRel 11 4 62 true true) ∧ decode 0x185E3F31#32 = .ok (.amoxorDRel 62 49 11 false false) ∧
    decode 0x189513B2#32 = .ok (.amoxorWSc 39 40 18 false false) ∧ decode 0x1E075AB3#32 = .ok (.amoxorDSc 53 58 0 true true) ∧
    decode 0x27424EAC#32 = .ok (.amominW 29 18 40 true true) ∧ decode 0x21D007AD#32 = .ok (.amominD 15 0 58 false false) := by
  and_intros <;> rfl

theorem decodes_words_06 :
    decode 0x271B2B2E#32 = .ok (.amominWAcq 22 25 35 true true) ∧ decode 0x20B591AF#32 = .ok (.amominDAcq 35 44 22 false false) ∧
    decode 0x21E0C4B0#32 = .ok (.amominWRel 9 6 60 false false) ∧ decode 0x264E7E31#32 = .ok (.amominDRel 60 51 9 true true) ∧
    decode 0x208D7232#32 = .ok (.amominWSc 36 43 17 false false) ∧ decode 0x261F3B33#32 = .ok (.amominDSc 54 57 3 true true) ∧
    decode 0x29520FAC#32 = .ok (.amomaxW 31 16 42 false false) ∧ decode 0x2FC046AD#32 = .ok (.amomaxD 13 2 56 true true) ∧
    decode 0x28BDB12E#32 = .ok (.amomaxWAcq 34 45 23 false false) ∧ decode 0x2F130BAF#32 = .ok (.amomaxDAcq 23 24 34 true true) ∧
    decode 0x2E465EB0#32 = .ok (.amomaxWRel 61 50 8 true true) ∧ decode 0x29E8E431#32 = .ok (.amomaxDRel 8 7 61 false false) ∧
    decode 0x288552B2#32 = .ok (.amomaxWSc 37 42 16 false false) ∧ decode 0x2E171BB3#32 = .ok (.amomaxDSc 55 56 2 true true) ∧
    decode 0x316AEC2C#32 = .ok (.amoswapW 24 23 45 false false) ∧ decode 0x37F8A52D#32 = .ok (.amoswapD 10 5 63 true true) ∧
    decode 0x374A6E2E#32 = .ok (.amoswapWAcq 28 19 41 true true) ∧ decode 0x30E4D4AF#32 = .ok (.amoswapDAcq 41 38 28 false false) := by
  and_intros <;> rfl

theorem decodes_words_07 :
    decode 0x31B181B0#32 = .ok (.amoswapWRel 3 12 54 false false) ∧ decode 0x361F3B31#32 = .ok (.amoswapDRel 54 57 3 true true) ∧
    decode 0x31E8E432#32 = .ok (.amoswapWSc 8 7 61 false false) ∧ decode 0x377AAD33#32 = .ok (.amoswapDSc 26 21 47 true true) ∧
    decode 0x39D007AC#32 = .ok (.amofaddW 15 0 58 false false) ∧ decode 0x3F424EAD#32 = .ok (.amofaddD 29 18 40 true true) ∧
    decode 0x388D722E#32 = .ok (.amofaddWAcq 36 43 17 false false) ∧ decode 0x3F23C8AF#32 = .ok (.amofaddDAcq 17 30 36 true true) ∧
    decode 0x3E769DB0#32 = .ok (.amofaddWRel 59 52 14 true true) ∧ decode 0x39D82731#32 = .ok (.amofaddDRel 14 1 59 false false) ∧
    decode 0x389D3332#32 = .ok (.amofaddWSc 38 41 19 false false) ∧ decode 0x3E0F7A33#32 = .ok (.amofaddDSc 52 59 1 true true) ∧
    decode 0x1ADC3734#32 = .ok (.amocasW 46 33 27 13 false) ∧ decode 0xBE4E7E35#32 = .ok (.amocasD 60 51 9 31 true) ∧ decode 0xC99103B6#32 = .ok (.amocasWAcq 7 8 50 36 true) ∧
    decode 0x223FB937#32 = .ok (.amocasDAcq 50 61 7 17 false) ∧ decode 0x776AEC38#32 = .ok (.amocasWRel 24 23 45 59 false) ∧
    decode 0x9CC456B9#32 = .ok (.amocasDRel 45 34 24 14 true) := by
  and_intros <;> rfl

theorem decodes_words_08 :
    decode 0xDDC046BA#32 = .ok (.amocasWSc 13 2 56 46 true) ∧ decode 0x79520FBB#32 = .ok (.amocasDSc 31 16 42 60 false) ∧ decode 0x0300003C#32 = .ok (.fence 3 0) ∧
    decode 0x0800003C#32 = .ok (.fenceLoop) ∧ decode 0x100389BC#32 = .ok (.femark 19 28 false) ∧ decode 0x1806003C#32 = .ok (.fewait 48 false) ∧
    decode 0x6B5018BD#32 = .ok (.ctlrd 49 1717) ∧ decode 0x186046BE#32 = .ok (.ctlwr 13 2 390 false) ∧ decode 0x468142BF#32 = .ok (.ctlset 5 10 1128 false) ∧
    decode 0xB5E389C0#32 = .ok (.ctlclr 19 28 2910 false) ∧ decode 0x00C86641#32 = .ok (.faddS 12 3 25 false false) ∧ decode 0x0E3BA941#32 = .ok (.fsubS 18 29 7 true true) ∧
    decode 0x16F8A541#32 = .ok (.fmulS 10 5 31 true true) ∧ decode 0x1E7AAD41#32 = .ok (.fdivS 26 21 15 true true) ∧ decode 0x22022F41#32 = .ok (.fsqrtS 30 17 true) ∧
    decode 0x2EB9A141#32 = .ok (.fminS 2 13 23 true true) ∧ decode 0x30A9E041#32 = .ok (.fmaxS 0 15 21 false false) ∧
    decode 0x38520FC1#32 = .ok (.fcmpEqS 31 16 10 false false) := by
  and_intros <;> rfl

theorem decodes_words_09 :
    decode 0x404A6E41#32 = .ok (.fcmpLtS 28 19 9 false false) ∧ decode 0x48993341#32 = .ok (.fcmpLeS 38 9 19 false false) ∧ decode 0x520152C1#32 = .ok (.fclassS 37 10 true) ∧
    decode 0x58130BC1#32 = .ok (.fsgnjS 23 24 2 false false) ∧ decode 0x662BE841#32 = .ok (.fsgnjnS 16 31 5 true true) ∧
    decode 0x6E3389C1#32 = .ok (.fsgnjxS 19 28 6 true true) ∧ decode 0x72026E41#32 = .ok (.fmvXS 28 19 true) ∧ decode 0x7807E841#32 = .ok (.fmvFS 16 63 false) ∧
    decode 0x067AAD42#32 = .ok (.faddD 26 21 15 true true) ∧ decode 0x08896242#32 = .ok (.fsubD 4 11 17 false false) ∧
    decode 0x104A6E42#32 = .ok (.fmulD 28 19 9 false false) ∧ decode 0x18C86642#32 = .ok (.fdivD 12 3 25 false false) ∧ decode 0x2000E442#32 = .ok (.fsqrtD 8 7 false) ∧
    decode 0x280B6A42#32 = .ok (.fminD 20 27 1 false false) ∧ decode 0x361B2B42#32 = .ok (.fmaxD 22 25 3 true true) ∧ decode 0x3EE0C4C2#32 = .ok (.fcmpEqD 9 6 28 true true) ∧
    decode 0x46F8A542#32 = .ok (.fcmpLtD 10 5 31 true true) ∧ decode 0x4E2BF842#32 = .ok (.fcmpLeD 48 31 5 true true) := by
  and_intros <;> rfl

theorem decodes_words_10 :
    decode 0x500399C2#32 = .ok (.fclassD 51 28 false) ∧ decode 0x5EA1C0C2#32 = .ok (.fsgnjD 1 14 20 true true) ∧ decode 0x60992342#32 = .ok (.fsgnjnD 6 9 19 false false) ∧
    decode 0x688142C2#32 = .ok (.fsgnjxD 5 10 16 false false) ∧ decode 0x7000A542#32 = .ok (.fmvXD 10 5 false) ∧ decode 0x7A052342#32 = .ok (.fmvFD 6 41 true) ∧
    decode 0x0A02AD43#32 = .ok (.fcvtSD 26 21 true) ∧ decode 0x100389C3#32 = .ok (.fcvtLD 19 28 false) ∧ decode 0x1A01C0C3#32 = .ok (.fcvtLuD 1 14 true) ∧
    decode 0x2000A543#32 = .ok (.fcvtDS 10 5 false) ∧ decode 0x320142C3#32 = .ok (.fcvtLS 5 10 true) ∧ decode 0x38030BC3#32 = .ok (.fcvtLuS 23 24 false) ∧
    decode 0x42076A43#32 = .ok (.fcvtDL 20 59 true) ∧ decode 0x4A03A943#32 = .ok (.fcvtSL 18 29 true) ∧ decode 0x5A00C4C3#32 = .ok (.fcvtLuL 9 6 true) ∧
    decode 0x62024EC3#32 = .ok (.fcvtDLu 29 18 true) ∧ decode 0x680007C3#32 = .ok (.fcvtSLu 15 0 false) ∧ decode 0x70026E43#32 = .ok (.fcvtLLu 28 19 false) := by
  and_intros <;> rfl

theorem decodes_words_11 :
    decode 0x94E0C4C4#32 = .ok (.fmaS 9 6 28 10 true) ∧ decode 0x38520FC5#32 = .ok (.fmaD 31 16 10 28 false) ∧ decode 0x071B2B46#32 = .ok (.spawn 22 25 35 true true) ∧
    decode 0x0A022046#32 = .ok (.joinw 0 17 true) ∧ decode 0x10378046#32 = .ok (.jdec 60 6 false false) ∧ decode 0x18076046#32 = .ok (.done 59 false) ∧
    decode 0x20000046#32 = .ok (.yield) ∧ decode 0x2A04A046#32 = .ok (.susp 37 true) ∧ decode 0x3000C4C6#32 = .ok (.stealctl 9 6 false) ∧
    decode 0x38012346#32 = .ok (.mbq 6 9 false) ∧ decode 0x1E5EC647#32 = .ok (.send 12 54 203 true true) ∧ decode 0x20092047#32 = .ok (.reply 9 1 false) ∧
    decode 0x58354847#32 = .ok (.chset 16 42 6 true true) ∧ decode 0x67381DC7#32 = .ok (.chblk 59 231 false) ∧ decode 0x8B1803C7#32 = .ok (.chunblk 7 99 true) ∧
    decode 0x0006C048#32 = .ok (.barriv 54 false) ∧ decode 0x0F0341C8#32 = .ok (.barwait 3 26 32 true true) ∧ decode 0x07910049#32 = .ok (.cdef 8 50 true true) := by
  and_intros <;> rfl

theorem decodes_words_12 :
    decode 0x0E074049#32 = .ok (.cbind 58 0 true true) ∧ decode 0x12060049#32 = .ok (.cunbind 48 true) ∧ decode 0x18170049#32 = .ok (.cst 56 2 false false) ∧
    decode 0x22032B49#32 = .ok (.csnap 22 25 true) ∧ decode 0x2EF495C9#32 = .ok (.cld 43 36 30 true true) ∧ decode 0x300012C9#32 = .ok (.commit 37) ∧
    decode 0x38001B49#32 = .ok (.abandon 54) ∧ decode 0x4004D4C9#32 = .ok (.cstat 41 38 false) ∧ decode 0x003FB94A#32 = .ok (.vadd 50 61 7 false false) ∧
    decode 0x089513CA#32 = .ok (.vsub 39 40 18 false false) ∧ decode 0x178142CA#32 = .ok (.vmul 5 10 48 true true) ∧ decode 0x1E4E7E4A#32 = .ok (.vmax 60 51 9 true true) ∧
    decode 0x213389CA#32 = .ok (.vmin 19 28 38 false false) ∧ decode 0x2A032B4A#32 = .ok (.vabs 22 25 true) ∧ decode 0x3203E84A#32 = .ok (.vneg 16 31 true) ∧
    decode 0x38073B4A#32 = .ok (.vcvt 54 57 false) ∧ decode 0x42077A4A#32 = .ok (.vred 52 59 true) ∧ decode 0x48B591CA#32 = .ok (.vcmp 35 44 22 false false) := by
  and_intros <;> rfl

theorem decodes_words_13 :
    decode 0x5006FC4A#32 = .ok (.vmov 56 55 false) ∧ decode 0x59A9E04A#32 = .ok (.vshf 0 15 53 false false) ∧ decode 0x6000004A#32 = .ok (.vwait) ∧
    decode 0xC5A1C0CB#32 = .ok (.vfma 1 14 52 34 true) ∧ decode 0x9562CCCC#32 = .ok (.vsel 25 22 44 10 true) ∧ decode 0x0205724D#32 = .ok (.vexp 36 43 true) ∧
    decode 0x0A0046CD#32 = .ok (.vlog 13 2 true) ∧ decode 0x120389CD#32 = .ok (.vrcp 19 28 true) ∧ decode 0x1A05B14D#32 = .ok (.vrsq 34 45 true) ∧
    decode 0x22026E4D#32 = .ok (.vtanh 28 19 true) ∧ decode 0x2A04D4CD#32 = .ok (.vsigm 41 38 true) ∧ decode 0x4000664D#32 = .ok (.vexpA 12 3 false) ∧
    decode 0x4807F84D#32 = .ok (.vlogA 48 63 false) ∧ decode 0x50067E4D#32 = .ok (.vrcpA 60 51 false) ∧ decode 0x5A028DCD#32 = .ok (.vrsqA 27 20 true) ∧
    decode 0x60071BCD#32 = .ok (.vtanhA 55 56 false) ∧ decode 0x68030BCD#32 = .ok (.vsigmA 23 24 false) ∧ decode 0x001103CE#32 = .ok (.mand 7 8 2 false false) := by
  and_intros <;> rfl

theorem decodes_words_14 :
    decode 0x0819234E#32 = .ok (.mor 6 9 3 false false) ∧ decode 0x1039A14E#32 = .ok (.mxor 2 13 7 false false) ∧ decode 0x180103CE#32 = .ok (.mnot 7 8 false) ∧
    decode 0x2160C4CE#32 = .ok (.mshl 9 6 44 false false) ∧ decode 0x2999234E#32 = .ok (.mshr 6 9 51 false false) ∧ decode 0x320017CE#32 = .ok (.mpop 47 0 true) ∧
    decode 0x3803A14E#32 = .ok (.mmovMX 2 29 false) ∧ decode 0x420095CE#32 = .ok (.mmovXM 43 4 true) ∧ decode 0x4A01234E#32 = .ok (.mmovMM 6 9 true) ∧
    decode 0x01130BCF#32 = .ok (.enqM 23 24 34 false false false) ∧ decode 0x0FC046CF#32 = .ok (.enqV 13 2 56 true true) ∧
    decode 0x1162CCCF#32 = .ok (.enqC 25 22 44 false false) ∧ decode 0x2200A54F#32 = .ok (.qmig 10 5 true) ∧ decode 0x0205E050#32 = .ok (.publ 47 true) ∧
    decode 0x0A06FC50#32 = .ok (.wmrd 56 55 true) ∧ decode 0x17520050#32 = .ok (.baddq 16 42 true true) ∧ decode 0x1A0007D0#32 = .ok (.bqtake 15 0 true) ∧
    decode 0x02002751#32 = .ok (.ddvar 14 1 true) := by
  and_intros <;> rfl

theorem decodes_words_15 :
    decode 0x08465ED1#32 = .ok (.ddrestrict 61 50 8 false false) ∧ decode 0x11D82751#32 = .ok (.ddexist 14 1 59 false false) ∧
    decode 0x198142D1#32 = .ok (.ddcount 5 10 48 false false) ∧ decode 0x20ECE451#32 = .ok (.ddmask 8 39 29 false false) ∧ decode 0x2803E051#32 = .ok (.ddref 31 false) ∧
    decode 0x32030051#32 = .ok (.ddderef 24 true) ∧ decode 0x38006651#32 = .ok (.ddswap 12 3 false) ∧ decode 0x400010D1#32 = .ok (.ddcollect 33) ∧
    decode 0x48053351#32 = .ok (.ddstat 38 41 false) ∧ decode 0x52012051#32 = .ok (.ddinit 9 true) ∧ decode 0xEFC86651#32 = .ok (.ddapply 12 3 57 13 true true) ∧
    decode 0x53F8A552#32 = .ok (.ddite 10 5 63 41 false) ∧ decode 0x0003C8D3#32 = .ok (.ecall 17 30 false) ∧ decode 0x0806E053#32 = .ok (.halt 55 false) ∧
    decode 0x120181D3#32 = .ok (.sleep 3 12 true) ∧ decode 0x18000053#32 = .ok (.bkpt) ∧ decode 0x2201A153#32 = .ok (.perfrd 2 13 true) ∧
    decode 0x2A077A53#32 = .ok (.enrd 52 59 true) := by
  and_intros <;> rfl

/-! ## One step of single instructions: results by hand from the rules -/

/-- The state after an instruction of the issuing thread. -/
noncomputable def after (i : Instr) (s : State) : State := match exec i s with | .next t => t | _ => s
def with12 (a b : Word) : State := at_ fun x => (x.setX 1 a).setX 2 b
def withF (a b : Word) : State := at_ fun x => (x.setF 1 a).setF 2 b

-- R231, R232: sums wrap; a source that is also the destination is read first; a shift by 64 is a shift by 0.
theorem test_add_wraps : (after (.add 1 1 2 false false) (with12 (BitVec.allOnes 64) 2)).cur.xr 1 = 1 := by decide +kernel
theorem test_sll_takes_six_bits : (after (.sll 3 1 2 false false) (with12 5 64)).cur.xr 3 = 5 := by decide +kernel
theorem test_sra_keeps_the_sign : (after (.sra 3 1 2 false false) (with12 0x8000000000000000 63)).cur.xr 3 = BitVec.allOnes 64 := by decide +kernel
theorem test_mulh_of_minus_ones : (after (.mulh 3 1 2 false false) (with12 (BitVec.allOnes 64) (BitVec.allOnes 64))).cur.xr 3 = 0 := by decide +kernel
theorem test_mulhu_of_all_ones : (after (.mulhu 3 1 2 false false) (with12 (BitVec.allOnes 64) (BitVec.allOnes 64))).cur.xr 3 = 0xFFFFFFFFFFFFFFFE := by decide +kernel
theorem test_clz_of_one : (after (.clz 3 1 false) (with12 1 0)).cur.xr 3 = 63 := by decide +kernel
theorem test_slti_is_signed : (after (.slti 3 1 0xFFF false) (with12 0xFFFFFFFFFFFFFFFE 0)).cur.xr 3 = 1 := by decide +kernel
theorem test_lui_sign_extends : (after (.lui 3 0x40000) base).cur.xr 3 = 0xFFFFFFFFC0000000 := by decide +kernel
theorem test_bfi_inserts : (after (.bfi 2 1 4 3 false) (with12 0xFB (BitVec.allOnes 64))).cur.xr 2 = 0xFFFFFFFFFFFFFFBF := by decide +kernel

-- R193, R233: the overflowing quotient is the dividend; it is on its way while the register is empty.
theorem test_div_overflow :
    let x := (after (.div 3 1 2 false false) (with12 0x8000000000000000 (BitVec.allOnes 64))).cur
    x.producers = [(3, 0x8000000000000000)] ∧ x.isFull 3 = false := by decide +kernel

-- R233, R393, R397: a divisor of zero stops the unit with code 0x1D, which its slot records, at the instruction.
theorem test_div_by_zero_stops :
    let t := after (.div 3 1 2 false false) (with12 1 0)
    (t.thr 0 0).running = false ∧ (tget (t.die 0).slots 0).map (fun sl => (sl.cause, sl.ctx.pc)) = some (0x1D, base.cur.pc) := by decide +kernel

-- R238: the link is written, and a taken branch goes backwards.
theorem test_jal_links : (after (.jal 1 0x7FFFF) base).cur.xr 1 = base.cur.pc + 4 ∧ (after (.jal 1 0x7FFFF) base).cur.pc = base.cur.pc - 4 := by decide +kernel
theorem test_bltu_is_unsigned : (after (.bltu 1 2 4 false false) (with12 (BitVec.allOnes 64) 1)).cur.pc = base.cur.pc + 4 ∧ (after (.blt 1 2 4 false false) (with12 (BitVec.allOnes 64) 1)).cur.pc = base.cur.pc + 16 := by
  decide +kernel

-- R77, R239: little-endian; a byte load sign-extends; a store to device memory, its neighbours unchanged.
theorem test_ld_b_sign_extends : (after (.ldB 3 1 0 false) (poked dev [(devKey, 4, 0x80)])).cur.producers = [(3, 0xFFFFFFFFFFFFFF80)] := by decide +kernel
theorem test_st_h_writes_two_bytes :
    (after (.stH 2 1 0 false false) ((poked dev [(devKey + 2, 1, 7)]).modCur fun x => x.setX 2 0x11223344)).readLe devKey 4 = 0x00073344 := by decide +kernel

-- R247: AMOADD reaches its home's engine and its register is empty.
theorem test_amoadd_leaves : ((after (.amoaddD 3 1 2 false false) dev).bay (homeBay devKey)).ate.input.length = 1 ∧ (after (.amoaddD 3 1 2 false false) dev).cur.isFull 3 = false := by decide +kernel

-- R211 to R219: 1 + 2 = 3; 1/3 rounds to even and raises NX; 0/0 is the canonical NaN with NV.
theorem test_fadd_s : (after (.faddS 3 1 2 false false) (withF 0x3F800000 0x40000000)).cur.fr 3 = 0x40400000 := by decide +kernel
theorem test_fdiv_s_rounds :
    let x := (after (.fdivS 3 1 2 false false) (withF 0x3F800000 0x40400000)).cur
    x.fr 3 = 0x3EAAAAAB ∧ x.fctl.toNat / 2 ^ 10 % 64 = 1 := by decide +kernel
theorem test_fmul_d : (after (.fmulD 3 1 2 false false) (withF 0x4000000000000000 0xC008000000000000)).cur.fr 3 = 0xC018000000000000 := by decide +kernel
theorem test_fcvt_l_d_truncates_by_mode : (after (.fcvtLD 3 1 false) (withF 0x4004000000000000 0)).cur.xr 3 = 2 := by decide +kernel

-- R295, R302: masks are 16 bits wide.
theorem test_mshl_drops_bits : (after (.mshl 1 1 2 false false) ((with12 0 15).modCur fun x => x.setM 1 3)).cur.mr 1 = 0x8000 := by decide +kernel
theorem test_mpop : (after (.mpop 3 1 false) (at_ fun x => x.setM 1 0xF00F)).cur.xr 3 = 8 := by decide +kernel

-- R187: the machine runs a word placed where it fetches: ADDI x1, x1, 5.
theorem test_step_runs_addi :
    (match step (base.withFetchWord 32 0x00502082) with | .next t => (t.ctx 0 0).xr 1 | _ => 0) = 5 := by decide +kernel

-- R190, R235: x0 discards; MKGA of die 3, row 35, column 31.
theorem test_mkga : (after (.mkga 3 1 2 false false) (with12 0x3231F 8)).cur.xr 3 = 0x10000003_8FE00008 := by decide +kernel

/-! ## Witnesses of the hypotheses: integers, control, memory -/

theorem witness_divisions : FullAt (at_ fun x => x.setX 1 7) [1, 2, 3] ∧ (at_ fun x => x.setX 1 7).cur.xr 2 = 0 ∧
    FullAt (at_ fun x => (x.setX 1 7).setX 2 2) [1, 2, 3] ∧ (at_ fun x => (x.setX 1 7).setX 2 2).cur.xr 2 ≠ 0 := by
  simp only [FullAt]; decide +kernel

theorem witness_integer : FullAt base [1, 2, 3] ∧ FullAt base [0, 63, 0] := by simp only [FullAt]; decide +kernel

/-- A field that just fits and one that does not, with trapping enabled and not. -/
theorem witness_bitfield : FullAt base [1, 2, 3, 4] ∧ (60#6).toNat + (3#6).toNat + 1 ≤ 64 ∧ 64 < (61#6).toNat + (3#6).toNat + 1 ∧
    base.cur.warn.getLsbD 63 = false ∧ (at_ fun x => { x with warn := 0x8000000000000000 }).cur.warn.getLsbD 63 = true := by
  simp only [FullAt]; decide +kernel

/-- The last byte of the last scratchpad of a die, a row outside the mesh, an offset outside the scratchpad. -/
theorem witness_mkga :
    (let s := at_ fun x => (x.setX 1 (BitVec.ofNat 64 (3 * 65536 + 35 * 256 + 31))).setX 2 131071
     FullAt s [1, 2, 3] ∧ s.cur.xr 1 = BitVec.ofNat 64 (3 * 65536 + 35 * 256 + 31) ∧ s.cur.xr 2 = BitVec.ofNat 64 131071) ∧
    (let s := at_ fun x => (x.setX 1 (BitVec.ofNat 64 (36 * 256))).setX 2 131072
     s.cur.xr 1 = BitVec.ofNat 64 (0 * 65536 + 36 * 256 + 0) ∧ s.cur.xr 2 = BitVec.ofNat 64 131072) := by
  simp only [FullAt]; decide +kernel

theorem witness_control : FullAt base [1, 2] ∧ (base.cur.xr 1 + (8#12).signExtend 64).toNat % 4 = 0 ∧ (base.cur.xr 1 + (2#12).signExtend 64).toNat % 4 ≠ 0 := by
  simp only [FullAt]; decide +kernel

/-- Targets at both ends of the spaces below 4, above it, and in a reserved space, and the fetch there. -/
theorem witness_targets :
    (0x3000000000000000#64).toNat % 4 = 0 ∧ (0x3000000000000000#64).toNat / 2 ^ 60 < 4 ∧ (0x8000000000000000#64).toNat / 2 ^ 60 ≠ 4 ∧
    (let s := at_ fun x => { x with pc := 0x5000000000000000 }
     s.check (s.agent s.curCore) .fetch 1 4 s.cur.pc = .error (.cause .fetchfault { d0 := s.cur.pc }) ∧ s.issuable s.curCore s.curThread.val = true ∧ s.cur.redo = none ∧
       s.boundary.isNone = true ∧ s.cur.wait ≠ .held) := by decide +kernel

/-- A register that is empty, for the sources A and B and the destination. -/
theorem witness_registers : (at_ fun x => x.markEmpty 1).cur.isFull 1 = false ∧ (at_ fun x => x.markEmpty 1).cur.isFull 2 = true := by decide +kernel

theorem witness_loads_and_stores :
    FullAt dev [1, 2] ∧ dev.cur.xr 1 + (0#12).signExtend 64 = devAddr ∧ Memory.wf dev.mem = true ∧ dev.badIn devKey 8 = none ∧ dev.badPartly devKey 8 = none ∧
    ReachesMemory dev .load true false 8 devAddr devKey ∧ ReachesMemory dev .store false true 8 devAddr devKey ∧
    ReachesMemory dev .load true false 1 devAddr devKey ∧ ReachesMemory dev .store false true 4 devAddr devKey := by
  simp only [FullAt, ReachesMemory]; decide +kernel

/-- The lowest reserved space, the system window of an unprivileged launch, an address off its boundary, and an access whose check fails. -/
theorem witness_failed_checks : 8 ≤ (0x8000000000000000#64).toNat / 2 ^ 60 ∧ (0x7000000000000000#64).toNat / 2 ^ 60 = 7 ∧
    (user.launchOf user.curCore).privileged = false ∧ (0x4000000000200001#64).toNat / 2 ^ 60 < 7 ∧ (0x4000000000200001#64).toNat % 8 ≠ 0 ∧
    base.cur.redo = none ∧ base.reach .load 8 8 (base.cur.xr 1 + (1#12).signExtend 64) = .error (.cause .ldalign { d0 := 1, d1 := 8 }) ∧
    base.reach .store 8 8 (base.cur.xr 1 + (1#11).signExtend 64) = .error (.cause .stalign { d0 := 1, d1 := 8 }) := by decide +kernel

/-- The issuing thread's own scratchpad by its global address, and the same word's key. -/
def ownAddr : Word := 0x1000000000000000
def heldLine : State := dev.modBay (homeBay devKey) fun y => { y with ate := { y.ate with hot := [devKey / 64], input := [{ arrival := 0, rank := 1, op := .jdec devKey 5 1 0 0 }] } }

/-- A load and a store performed at once; at a core that is streamed; forwarded to the ATE that holds the line; through the loopback port, with room and full. -/
theorem witness_ways_of_an_access :
    AtOnce (dev.touchTlb dev.curCore devAddr) devAddr devKey ∧ (dev.touchTlb dev.curCore devAddr).badIn devKey 8 = none ∧ (dev.touchTlb dev.curCore devAddr).badPartly devKey 8 = none ∧
    (let s := withCore fun k => { k with migrating := some 2 }
     ReachesMemory s .load true false 8 0 (scratchKey 0 0) ∧ s.streaming (scratchKey 0 0) = true) ∧
    (let s := heldLine
     ReachesMemory s .load true false 8 devAddr devKey ∧ ReachesMemory s .store false true 8 devAddr devKey ∧ s.streaming devKey = false ∧ s.ownName devAddr = false ∧ s.lineHeld devKey = true) ∧
    (let s := at_ fun x => x.setX 1 ownAddr
     ReachesMemory s .load true false 8 ownAddr (scratchKey 0 0) ∧ ReachesMemory s .store false true 8 ownAddr (scratchKey 0 0) ∧ s.streaming (scratchKey 0 0) = false ∧ s.ownName ownAddr = true ∧ s.curK.loopFull = false) ∧
    (let r : LoopReq := { uid := 99, rank := 1, loc := scratchKey 0 64, size := 8, act := .store 0 }
     let s := (at_ fun x => x.setX 1 ownAddr).modCore 0 fun k => { k with loop := List.replicate 16 r }
     ReachesMemory s .load true false 8 ownAddr (scratchKey 0 0) ∧ s.streaming (scratchKey 0 0) = false ∧ s.ownName ownAddr = true ∧ s.curK.loopFull = true) := by
  simp only [AtOnce, ReachesMemory]; decide +kernel

theorem witness_timed_leave :
    FullAt dev [1, 2, 3] ∧ dev.timedReach .load 8 (dev.cur.xr 1) (dev.cur.xr 2) = .ok (.mem devKey) ∧ dev.timedReach .store 4 (dev.cur.xr 1) (dev.cur.xr 3) = .ok (.mem devKey) ∧
    dev.mustFollow dev.cur.uid false devAddr 8 (.mem devKey) = false ∧ dev.mustFollow dev.cur.uid true devAddr 4 (.mem devKey) = false ∧
    dev.timedBad false 8 (.mem devKey) = none ∧ dev.timedBad true 4 (.mem devKey) = none ∧
    dev.bpData true false devAddr 8 = false ∧ dev.bpData false true devAddr 4 = false ∧ dev.interlocked false devAddr 8 = false ∧ dev.interlocked true devAddr 4 = false ∧
    (dev.cur.xr 2).toNat ≤ (dev.gtime dev.curCore).toNat ∧ (dev.gtime dev.curCore).toNat < (dev.cur.xr 1).toNat := by
  simp only [FullAt]; decide +kernel

/-- A timed store and a timed load of the issuing thread at the input of die 0's memory controllers, on time and late. -/
def timedStore (t : Word) : Timed := { dev.timedOf true 8 devAddr t 5 0 0 with loc := devKey }
def timedLoad : Timed := { dev.timedOf false 8 devAddr 0 0 3 0 with loc := devKey }
def atHome (a : Timed) : State := dev.modTimed 20000 fun b => { b with incoming := [a] }
def late (s : State) : State := s.modDie 0 fun d => { d with gtu := { d.gtu with count := 100 } }

theorem witness_homes :
    (atHome (timedStore 0)).timedEntrant 20000 true = some (timedStore 0) ∧ ((atHome (timedStore 0)).enterTimed 20000 (timedStore 0)).onTime = true ∧
    (late (atHome (timedStore 0))).timedEntrant 20000 true = some (timedStore 0) ∧ ((late (atHome (timedStore 0))).enterTimed 20000 (timedStore 0)).onTime = false ∧
    (atHome timedLoad).timedEntrant 20000 false = some timedLoad ∧
    (let s := late (dev.modTimed 20000 fun b => { b with loads := [timedLoad] })
     (s.timedBuf 20000).stores = [] ∧ (s.timedBuf 20000).loads = [timedLoad] ∧ s.timedDue 20000 timedLoad = true ∧ timedLoad.store = false) ∧
    (let s := late (dev.modTimed 20000 fun b => { b with stores := [timedStore 0] })
     (s.timedBuf 20000).stores = [timedStore 0] ∧ (s.timedBuf 20000).loads = [] ∧ s.timedDue 20000 (timedStore 0) = true ∧ (timedStore 0).store = true) ∧
    (let s := at_ fun x => { x with wait := .twait 0 }
     (s.ctx 0 0).wait = .twait 0 ∧ (s.thr 0 0).running = true ∧ (0#64).toNat ≤ (s.gtime 0).toNat) ∧
    (let t := { dev.timedOf true 8 0 0 5 0 0 with loc := scratchKey 0 0 }
     let l := { dev.timedOf false 8 0 0 0 3 0 with loc := scratchKey 0 0 }
     let s := late (dev.modTimed 0 fun b => { b with stores := [t], loads := [l] })
     s.homeMoves 0 = false ∧ (s.timedBuf 0).stores = [t] ∧ (s.timedBuf 0).loads = [l] ∧ t.store = true ∧ l.store = false ∧ t.tick = l.tick ∧ s.timedDue 0 t = true ∧ s.timedDue 0 l = true ∧
       (withCore fun k => { k with migrating := some 2 }).homeMoves 0 = true) ∧
    (late dev).homeMoves 20000 = false ∧ heldLine.lineHeld (timedStore 0).loc = true ∧ dev.lineHeld (timedStore 0).loc = false ∧ timedLoad.peer = none ∧
    dev.badPartly devKey 8 = none ∧ dev.badIn devKey 8 = none := by decide +kernel

/-- An outcome that met its deadline, a miss in mode 0 and a miss in mode 2. -/
theorem witness_outcomes :
    let o := fun (missed : Bool) (mode : Word) => ({ acc := { timedStore 0 with dlmode := mode }, missed := missed } : StvaOutcome)
    let s := fun (missed : Bool) (mode : Word) => withCore fun k => { k with outcomes := [o missed mode] }
    ((s false 0).core 0).outcomes = [o false 0] ∧ (o false 0).missed = false ∧ (o true 1).missed = true ∧ (1#64).toNat % 4 < 2 ∧ 2 ≤ (2#64).toNat % 4 ∧ (2#64).toNat % 4 ≠ 0 ∧ (det.launchOf 0).deterministic = true := by
  decide +kernel

theorem witness_atomics :
    FullAt dev [1, 2, 3, 4] ∧ ReachesMemory dev .atomic true true 8 (dev.cur.xr 1) devKey ∧ ReachesMemory dev .atomic true true 4 (dev.cur.xr 1) devKey ∧ dev.badIn devKey 8 = none ∧
    (dev.touchTlb dev.curCore devAddr).badIn devKey 8 = none ∧ (dev.touchTlb dev.curCore devAddr).accessesOut dev.cur.uid = false ∧
    (let s := atHome (timedStore 0)
     FullAt s [1, 2, 3, 4] ∧ ReachesMemory s .atomic true true 8 (s.cur.xr 1) devKey ∧ (s.touchTlb s.curCore (s.cur.xr 1)).accessesOut s.cur.uid = true) ∧
    (let s := at_ fun x => x.setX 1 0x7000600100000080
     FullAt s [1, 2, 3, 4] ∧ s.reachScalar .atomic 8 8 (s.cur.xr 1) = .ok (.window 0x7000600100000080) ∧ s.bpData true true (s.cur.xr 1) 8 = false ∧ s.interlocked true (s.cur.xr 1) 8 = false ∧
       s.mustFollow s.cur.uid true (s.cur.xr 1) 8 (.window 0x7000600100000080) = false ∧ (s.touchTlb s.curCore (s.cur.xr 1)).orderWaits .sc = false) := by
  simp only [FullAt, ReachesMemory]; decide +kernel

/-- A request at the engine of the home of `devKey`. -/
def request (op : AteOp) : AteReq := { arrival := 0, rank := 1, op := op }
def atEngine (op : AteOp) : State := { (dev.modBay (homeBay devKey) fun y => { y with ate := { y.ate with input := [request op] } }) with cycle := 1 }

theorem witness_engines :
    (atEngine (.amo 7 8 devKey 5 1 3)).atePick (homeBay devKey) = some (request (.amo 7 8 devKey 5 1 3)) ∧
    (atEngine (.cas 4 devKey 0 9 1 3)).atePick (homeBay devKey) = some (request (.cas 4 devKey 0 9 1 3)) ∧
    Memory.wf (atEngine (.cas 4 devKey 0 9 1 3)).mem = true ∧ (atEngine (.cas 4 devKey 0 9 1 3)).readLe devKey 4 = (0#64).toNat % 2 ^ 32 := by decide +kernel

/-- Outstanding loads and stores and none; the last assigned scope and the first reserved one. -/
theorem witness_fences :
    (atHome timedLoad).loadsOut base.cur.uid = true ∧ (atHome (timedStore 0)).storesOut base.cur.uid = true ∧ base.loadsOut base.cur.uid = false ∧ base.storesOut base.cur.uid = false ∧
    (5#3).toNat < 6 ∧ 6 ≤ (6#3).toNat := by decide +kernel

/-- The last word of the scratchpad, the first address past it, a misaligned one, a full and a free watch list, and a write that meets a watched word. -/
theorem witness_watches :
    (let s := at_ fun x => { x.setX 1 131064 with watches := List.replicate 4 { reg := 5, off := 0 } }
     FullAt s [1, 2] ∧ (s.cur.xr 1).toNat < 131072 ∧ (s.cur.xr 1).toNat % 8 = 0 ∧ 4 ≤ s.cur.watches.length ∧ s.check (s.agent s.curCore) .load 8 8 (s.cur.xr 1) = .ok (.mem (scratchKey 0 131064))) ∧
    base.interlocked false 131064 8 = false ∧ (withCore fun k => { k with wmarks := vset k.wmarks 0 { Wmark.reset with busy := true, limit := 0x20000 } }).interlocked false 131064 8 = true ∧
    base.cur.watches.length < 4 ∧ 131072 ≤ (131072#64).toNat ∧ (131060#64).toNat % 8 ≠ 0 ∧
    ({ reg := 5, off := 16 } : Watch).off < 23 + 1 ∧ 23 < ({ reg := 5, off := 16 } : Watch).off + 8 := by
  simp only [FullAt]; decide +kernel

/-! ## Witnesses: floating point, control registers, system instructions -/

/-- 1/3 rounds and raises NX alone, which traps with bit 24 of FCTL set and not without it; 0/0 raises NV. -/
theorem witness_floating :
    trapOf base.cur.fctl 1 = none ∧ trapOf (base.cur.fctl ||| 0x1000000) 1 = some .fpinx ∧ trapOf 0x3F000000 16 = some .fpinv ∧ trapOf 0x3F000000 33 = some .fpinx ∧
    trapOf 0x20000000 32 = some .fpsat := by decide +kernel

/-- A NaN operand and two numbers; NV trapped and not. -/
theorem witness_comparisons :
    fp32.read false 0x7FC00000 = .nan ∧ fp32.read false 0x3F800000 ≠ .nan ∧ FullAt base [1, 2] ∧ base.cur.fctl.getLsbD 28 = false ∧ (0x10000000#64).getLsbD 28 = true ∧
    (base.cur.xr 1).toInt ≥ 0 := by simp only [FullAt]; decide +kernel

/-- Values out of range below and above, and the last ones inside, of the conversions to signed integers. -/
theorem witness_conversions :
    (roundAt 0 false 3 62 false 0).1 = 3 * 2 ^ 62 ∧ (2 ^ 63 - 1 : Int) < 3 * 2 ^ 62 ∧ -(3 * 2 ^ 62) < -(2 ^ 63 : Int) ∧ (roundAt 0 true 1 63 false 0).1 = 2 ^ 63 ∧
    fp64.read false 0x7FF0000000000000 = .inf false ∧ fp64.read false 0x4008000000000000 = .fin false 6755399441055744 (-51) := by decide +kernel

/-- A value that rounds without overflow in each direction, and a rounding mode of R216. -/
theorem witness_convert : (fp32.encode 0 false false (.fin false 1 (-30))).2.of = false ∧ (e4m3.encode 4 false false (.fin true 27 (-4))).2.of = false ∧ (4 : Nat) < 5 ∧
    fp16.read false 0x3C00 ≠ .nan ∧ fp16.read false 0x7E00 = .nan := by decide +kernel

/-- An unassigned number, a hidden register, a read-only one; a register of the DDE in a deterministic launch. -/
theorem witness_control_registers :
    0x004 ∉ assignedCtl ∧ 0x033 ∈ hiddenCtl ∧ 0x020 ∈ assignedCtl ∧ 0x020 ∉ writableCtl ∧ (user.launchOf user.curCore).privileged = false ∧
    0x7FF ∈ assignedCtl ∧ 0x7FF ∉ hiddenCtl ∧ (det.launchOf det.curCore).deterministic = true ∧ 0x400 ≤ (0x7FF#12).toNat ∧ det.curThread ≠ 4 ∧ FullAt det [1] ∧
    (base.launchOf base.curCore).deterministic = false ∧ (base.launchOf base.curCore).privileged = true := by
  simp only [FullAt]; decide +kernel

/-- CTLWR of a legal and an illegal RFCFG, of APXCTL without CLR. -/
theorem witness_control_writes :
    (let s := at_ fun x => x.setX 1 128
     FullAt s [1, 2] ∧ (s.cur.xr 1 &&& 0x1FFFF).toNat % 128 = 0 ∧ (s.cur.xr 1).getLsbD 2 = false) ∧ ((64#64) &&& 0x1FFFF).toNat % 128 ≠ 0 ∧
    (base.launchOf base.curCore).privileged = true := by
  simp only [FullAt]; decide +kernel

/-- A handler and a task; SLEEP with a bound that has been reached and with one that has not. -/
theorem witness_system :
    (at_ fun x => { x with kind := .handler 1 0 16 0 0 0 }).cur.isHandler = true ∧ base.cur.isHandler = false ∧ FullAt base [1, 2] ∧
    (let s := late (at_ fun x => x.setX 1 100)
     s.cur.xr 1 ≠ 0 ∧ (s.cur.xr 1).toNat ≤ (s.gtime s.curCore).toNat) ∧ ¬ (1 ≤ (base.gtime base.curCore).toNat) := by
  simp only [FullAt]; decide +kernel

theorem witness_sleepers :
    let s := at_ fun x => { x with wait := .sleep 3 0 0 0, fills := 1 }
    (s.ctx 0 0).wait = .sleep 3 0 0 0 ∧ (s.thr 0 0).running = true ∧ (0 : Nat) < (s.ctx 0 0).fills ∧ ¬ ((0 : Nat) < (s.core 0).queued) := by decide +kernel

/-- The boundaries of PERFRD's and ENRD's selectors. -/
theorem witness_counters : FullAt base [1, 2] ∧ (10#64).toNat = 10 ∧ 10 < (11#64).toNat ∧ (0xFF#64).toNat < 0x100 ∧ (0x17F#64).toNat = 0x110 + 32 * 3 + 15 ∧ 0x180 ≤ (0x180#64).toNat ∧
    2 < (3#64).toNat := by simp only [FullAt]; decide +kernel

/-! ## Witnesses: tasks, messages, cells -/

/-- A parent in space 4 and none, a mode above 1, a domain wider than the launch's, room for one peg and none, a resumed peg whose image reads. -/
theorem witness_spawn :
    FullAt base [1, 2, 3, 4, 5] ∧ (base.cur.xr 2).toNat % 16 = 0 ∧ 1 < (2#64).toNat % 16 ∧ 1 ≤ (0x4000000000000010#64).toNat / 2 ^ 60 ∧ (0x4000000000000010#64).toNat / 2 ^ 60 ≤ 4 ∧
    ¬ ((0x5000000000000010#64).toNat / 2 ^ 60 ≤ 4) ∧ base.cur.tmpl.toNat / 16 % 16 ≤ (base.launchOf 0).widest ∧ base.curK.deque.length < 64 + base.curK.spill ∧
    (withLaunch fun l => { l with widest := 0 }).launchOf 0 = { base.launchOf 0 with widest := 0 } ∧ 0 < ((0x10#16).toNat / 16 % 16) ∧
    (let s := withCore fun k => { k with deque := List.replicate 64 noPeg, tidCount := 2 ^ 32 }
     64 + s.curK.spill ≤ s.curK.deque.length ∧ 2 ^ 32 ≤ s.curK.tidCount) ∧ base.curK.tidCount < 2 ^ 32 ∧ Quiet base ∧
    (let s := at_ fun x => (x.setX 1 devAddr).setX 2 1
     let ks := [devKey, devKey + 16, devKey + 32, devKey + 48]
     let s1 := s.touchTlb s.curCore devAddr
     let s2 := ks.foldl (fun t p => t.correct p 16) s1
     (s.cur.xr 2).toNat % 16 = 1 ∧ s.cur.wide = [] ∧ s.cur.redo = none ∧ s.reachNew .load 64 64 (s.cur.xr 1) = .ok (.mem devKey) ∧ s.wideKeys (s.cur.xr 1) 4 = .ok ks ∧
       s.interlocked false (s.cur.xr 1) 64 = false ∧ s.amoOut s.cur.uid = false ∧ (∀ p ∈ ks, s.meetsOut s.cur.uid p 16 = false ∧ s1.badIn p 16 = none) ∧
       (vget (pegOf (ks.flatMap fun p => s1.bytesAt p 16)) 1 0).toNat / 2 ^ 52 % 16 ≤ (s.launchOf 0).widest ∧ ArgsFull s2 ∧ Quiet s2) ∧
    (0x0030000000000000#64).toNat < 2 ^ 58 ∧ (0x0030000000000000#64).toNat / 2 ^ 52 % 16 < 4 ∧ 4 ≤ (0x0040000000000000#64).toNat / 2 ^ 52 % 16 := by
  simp only [FullAt, ArgsFull, Quiet]; decide +kernel

theorem witness_joins :
    FullAt dev [1, 2, 3] ∧ ArgsFull dev ∧ dev.cur.isHandler = false ∧ tfree dev.curK.joins 64 = some 0 ∧ (dev.cur.xr 1).toNat % 32 = 0 ∧ 1 ≤ (dev.cur.xr 1).toNat / 2 ^ 60 ∧
    (dev.cur.xr 1).toNat / 2 ^ 60 ≤ 4 ∧
    (let t := (dev.touchTlb dev.curCore devAddr).correct devKey 16
     HomeReached dev 16 (dev.cur.xr 1) devKey t ∧ HomeReached dev 32 (dev.cur.xr 1) devKey t ∧ Quiet t ∧ ArgsFull t ∧ tfree t.curK.joins 64 = some 0) ∧
    (let j : JoinSlot := { peg := noPeg, dest := 3, va := devAddr, barrier := false, phase := 0, value := none, window := 0 }
     let s := dev.modCore 0 fun k => { k with joins := (List.range 64).map fun i => (i, j) }
     let t := (s.touchTlb s.curCore devAddr).correct devKey 16
     HomeReached s 16 (s.cur.xr 1) devKey t ∧ HomeReached s 32 (s.cur.xr 1) devKey t ∧ Quiet t ∧ ArgsFull t ∧ tfree t.curK.joins 64 = none) ∧
    (0x5000000000000000#64).toNat % 32 = 0 ∧ ¬ ((0x5000000000000000#64).toNat / 2 ^ 60 ≤ 4) ∧ (devAddr + 8).toNat % 32 ≠ 0 ∧ (devAddr + 8).toNat / 2 ^ 60 < 7 ∧
    (at_ fun x => { x with kind := .handler 1 0 16 0 0 0 }).cur.isHandler = true ∧ (devAddr + 8).toNat % 16 ≠ 0 := by
  simp only [FullAt, ArgsFull, Quiet, HomeReached]; decide +kernel

/-- Requests at a record of count 0, 1 and 2, and at an object expecting 1 and 2 arrivals. -/
theorem witness_records :
    (∀ op ∈ [AteOp.joinw devKey 1 0 0 3, .jdec devKey devAddr 5 1 0, .barwait devKey 0 1 0 0 3, .barriv devKey 0], (atEngine op).atePick (homeBay devKey) = some (request op)) ∧
    Memory.wf (atEngine (.jdec devKey devAddr 5 1 0)).mem = true ∧ (atEngine (.jdec devKey devAddr 5 1 0)).readLe devKey 8 = 0 ∧
    (let s := poked (atEngine (.jdec devKey devAddr 5 1 0)) [(devKey, 8, 2)]
     Memory.wf s.mem = true ∧ 1 < s.readLe devKey 8) ∧
    (let s := poked (atEngine (.joinw devKey 1 0 0 3)) [(devKey, 8, 1)]
     let w := fun (b : Bool) => ({ loc := devKey, core := 0, slot := 1, barrier := b, phase := 0 } : Waiter)
     let t := s.modBay (homeBay devKey) fun y => { y with ate := { y.ate with waiters := [w false] } }
     let u := (atEngine (.barwait devKey 0 1 0 0 3)).modBay (homeBay devKey) fun y => { y with ate := { y.ate with waiters := List.replicate 16 (w true) } }
     s.readLe devKey 8 ≠ 0 ∧ (s.bay (homeBay devKey)).ate.waitersAt devKey false = [] ∧ s.rootAt devKey = none ∧ (t.bay (homeBay devKey)).ate.waitersAt devKey false ≠ [] ∧
       u.readLe (devKey + 24) 8 ≤ (0#64).toNat ∧ ((s.bay (homeBay devKey)).ate.waitersAt devKey true).length < 16 ∧ 16 ≤ ((u.bay (homeBay devKey)).ate.waitersAt devKey true).length) ∧
    (let s := poked (atEngine (.barwait devKey 0 1 0 0 3)) [(devKey + 24, 8, 1)]
     (0#64).toNat < s.readLe (devKey + 24) 8) ∧
    (let s := poked (atEngine (.barriv devKey 0)) [(devKey, 4, 2)]
     s.readLe (devKey + 4) 4 + 1 < s.readLe devKey 4) ∧
    (let s := poked (atEngine (.barriv devKey 0)) [(devKey, 4, 1)]
     s.readLe (devKey + 4) 4 + 1 = s.readLe devKey 4 ∧ s.readLe (devKey + 8) 8 % 2 ^ 48 = 0 ∧ s.readLe (devKey + 16) 8 = 0) := by decide +kernel

/-- A root of a queue whose completion record is at `devKey`. -/
def aRoot : Root := { loc := devKey, qid := 0, index := 0, qcb := 0x300000, sig := 0 }

/-- A settled task without and with a parent, a handler, a refusal's handler, a formula task; a suspension to device memory. -/
theorem witness_unit_ends :
    FullAt base [1] ∧ ArgsFull base ∧ base.cur.unsettled = false ∧ Quiet base ∧ base.cur.kind = .task ∧ base.cur.w2 = 0 ∧ base.outcomesDue base.curK.asidN base.cur.tid = false ∧
    (let s := at_ fun x => { x.setX 1 devAddr with w2 := devAddr }
     s.cur.w2 ≠ 0 ∧ s.cur.w2.toNat % 16 = 0 ∧ s.cur.w2.toNat / 2 ^ 60 = 4 ∧ s.rootRecord s.curK.asidN s.cur.w2 = false ∧
       (s.touchTlb s.curCore s.cur.w2).cur.unsettled = false ∧ (s.touchTlb s.curCore s.cur.w2).outcomesDue 0 s.cur.tid = false ∧ Quiet (s.touchTlb s.curCore s.cur.w2) ∧
       s.check (s.agent s.curCore) .atomic 8 8 s.cur.w2 = .ok (.mem devKey) ∧ s.check (s.agent s.curCore) .store 64 64 devAddr = .ok (.mem devKey) ∧
       s.interlocked true devAddr 64 = false ∧ s.badPartly devKey 64 = none) ∧
    (let s := (at_ fun x => { x with w2 := 0x7000300000200000 }).modSched 0 fun q => { q with roots := [aRoot] }
     s.cur.w2 ≠ 0 ∧ s.rootRecord s.curK.asidN s.cur.w2 = true ∧ s.cur.unsettled = false ∧ s.outcomesDue 0 s.cur.tid = false ∧ Quiet s) ∧
    (let s := at_ fun x => { x with kind := .handler 1 0 16 0 0 0 }
     s.cur.unsettled = false ∧ s.cur.isHandler = true ∧ s.curK.refSlots + s.cur.sends.length ≤ 256) ∧
    (at_ fun x => { x with kind := .refusal 0 0 0 0 }).cur.unsettled = false ∧ (at_ fun x => { x with kind := .formula 1 1 }).cur.unsettled = false := by
  simp only [FullAt, ArgsFull, Quiet]; decide +kernel

theorem witness_fills :
    let s := at_ fun x => { x with producers := [(63, 9)], watchFills := [{ reg := 1, off := 0, value := 7, cycle := 0 }] }
    (63#6) ≠ 0 ∧ (s.thr 0 0).running = true ∧ (s.ctx 0 0).producers.find? (fun p => p.1 == (63#6).toNat) = some ((63#6).toNat, 9) ∧
    (s.ctx 0 0).watchFills.find? (fun p => p.reg == (1#6).toNat) = some { reg := (1#6).toNat, off := 0, value := 7, cycle := 0 } := by decide +kernel

/-- Work for the idle thread 1: a ready entry alone, one beside a less and a more urgent peg, a peg alone, a victim's peg. -/
theorem witness_work :
    let peg : Nat → Peg := fun pri => { noPeg with w := #v[devAddr, BitVec.ofNat 64 (pri * 2 ^ 48), 0, 0, 0, 0, 0, 0] }
    let e : ReadyEntry := { age := 0, enqt := 0, item := .peg (peg 3) }
    base.mayTake 0 1 = true ∧ (withCore fun k => { k with ready := [e] }).mayTake 0 1 = true ∧ ((withCore fun k => { k with ready := [e] }).core 0).firstReady = some e ∧
    (peg 3).pri ≤ (base.core 0).urgency e.item ∧ (base.core 0).urgency e.item < (peg 4).pri ∧ (base.core 0).firstReady = none ∧ (base.launchOf 0).deterministic = false ∧
    (let s := base.modCore 1 fun k => { k with asid := some 0, deque := [peg 1] }
     (s.core 1).asid = (s.core 0).asid ∧ takeOldest (fun q => q.stealable 1 0) (s.core 1).deque = some (peg 1, []) ∧ (s.core 0).ready = [] ∧ (s.core 0).deque = []) ∧
    (vget (peg 1).w 1 0).toNat < 2 ^ 58 ∧ (peg 1).sdom < 4 := by decide +kernel

theorem witness_done_messages :
    let op := AteOp.done devKey devAddr 5 1 0 0
    let s := atEngine op
    let j : JoinSlot := { peg := noPeg, dest := 3, va := devAddr, barrier := false, phase := 0, value := some 7, window := 0 }
    s.atePick (homeBay devKey) = some (request op) ∧ s.badIn devKey 16 = none ∧ { s with bad := [devKey] }.badIn devKey 16 ≠ none ∧
    { s with bad := [devKey] }.atePick (homeBay devKey) = some (request op) ∧ s.readLe devKey 8 = 0 ∧ (poked s [(devKey, 8, 1)]).readLe devKey 8 ≠ 0 ∧
    (let t := withCore fun k => { k with joins := [(0, j)] }
     (t.core 0).receives = true ∧ (t.launchOf 0).deterministic = false ∧ tget (t.core 0).joins 0 = some j ∧ j.value = some 7) := by decide +kernel

/-- The shortest and the longest message, and the first length below and above; a payload at the end of the scratchpad; no such core; the quota spent; a full buffer. -/
theorem witness_messages :
    let desc : Nat → Nat → Word := fun len off => BitVec.ofNat 64 (len * 2 ^ 32 + off)
    (∀ e ∈ [(16, 0), (256, 0x1FF10)], (desc e.1 e.2).toNat < 2 ^ 41 ∧ (desc e.1 e.2).toNat / 2 ^ 17 % 2 ^ 15 = 0 ∧ (desc e.1 e.2).toNat / 2 ^ 32 % 512 = e.1 ∧
      (desc e.1 e.2).toNat % 2 ^ 17 = e.2 ∧ e.2 % 16 = 0 ∧ e.2 + e.1 - 16 ≤ 131072) ∧ (0 : Nat) < 16 ∧ 256 < 272 ∧ 131072 < 0x1FF20 + 256 - 16 ∧
    (let s := at_ fun x => x.setX 2 (desc 32 0)
     FullAt s [1, 2] ∧ s.namedCore (s.cur.xr 1) = some 0 ∧ s.namedCore 1 = none ∧ s.cur.isHandler = false ∧ s.curK.refSlots < 256 ∧ Quiet s ∧
       s.cur.stall = .no ∧ s.interlocked false (BitVec.ofNat 64 0) 16 = false ∧ s.aliasBytes 0 0 16 = .ok (List.replicate 16 0) ∧
       (let full := s.modCore 0 fun k => { k with refOut := 256 }
        256 ≤ full.curK.refSlots ∧ full.aliasBytes 0 0 16 = .ok (List.replicate 16 0)) ∧
       (match { s with bad := [scratchKey 0 0] }.aliasBytes 0 0 16 with | .error _ => true | .ok _ => false) = true ∧
       (let m : Msg := { kind := 0, chan := 1, stid := 0, seq := 0, slc := 0, payload := [], fromCore := 0, fromThread := 0, fromUid := 1, target := 0, window := 0 }
        let w := s.modCur fun x => { x with stall := .send m }
        w.cur.stall = .send m ∧ w.curK.refSlots < 256 ∧ 256 ≤ (w.modCore 0 fun k => { k with refOut := 256 }).curK.refSlots)) ∧
    (let s := at_ fun x => { x.setX 2 (desc 32 0) with kind := .handler 1 0 16 0 0 0 }
     s.replyTo.bind (fun x => s.lcoreCore s.curK.asidN x) = some 0 ∧ s.cur.isHandler = true ∧ s.cur.sends.length < 8) ∧
    (det.launchOf det.curCore).deterministic = true ∧ ((withLaunch fun l => { l with deterministic := true, qwin := 0 }).launchOf 0).quota < 0 + 16 := by
  simp only [FullAt, Quiet]; decide +kernel

/-- A valid and a bad channel entry, a core of the launch and none, the last channel and the first number past it. -/
theorem witness_channels :
    FullAt base [1, 2, 3] ∧ (0x8000000000000000#64).toNat / 2 ^ 48 % 2 ^ 11 = 0 ∧ (0x8000000000000000#64).toNat % 4 = 0 ∧ (0x8000000000000002#64).toNat % 4 ≠ 0 ∧
    base.namedCore 0 = some 0 ∧ base.namedCore 1 = none ∧ (base.launchOf base.curCore).deterministic = false ∧ (det.launchOf det.curCore).deterministic = true ∧ det.namedCore 0 = some det.curCore ∧
    (255#64).toNat < 256 ∧ 256 ≤ (256#64).toNat ∧
    (let s := (withLaunch fun l => { l with deterministic := true, lcores := [(0, 0), (1, 1)] }).modCore 1 fun k => { k with asid := some 0, holds := true, lcore := 1 }
     s.namedCore 1 = some 1 ∧ 1 ≠ s.curCore) := by
  simp only [FullAt]; decide +kernel

/-- Arrivals at a core with and without a ring, with an open channel, with one blocked and one unset, with a full ring, with one that a pad record must end, in a deterministic launch, at a core without a context. -/
theorem witness_arrivals :
    let m : Msg := { kind := 0, chan := 1, stid := 0, seq := 0, slc := 0, payload := List.replicate 16 0, fromCore := 0, fromThread := 0, fromUid := 1, target := 0, window := 0 }
    let r := fun (f : Core → Core) => withCore fun k => f { k with inbound := [m], mbSize := 256, chans := [(1, 0x8000000000000000)] }
    ((r id).core 0).inbound = [m] ∧ ((r id).core 0).migrating = none ∧ Memory.wf (r id).mem = true ∧ ((r id).core 0).holds = true ∧ ((r id).launchOf 0).deterministic = false ∧
    ((r id).core 0).chanOpen 1 = true ∧ 0 + (16 + 16) ≤ 0 + ((r id).core 0).mbSize ∧ ((r id).core 0).mbBase = 0 ∧
    ((r fun k => { k with chans := [(1, 0xC000000000000000)] }).core 0).chanOpen 1 = false ∧ ((r fun k => { k with chans := [(1, 0xC000000000000000)] }).core 0).chanV 1 = true ∧
    (let k := (r fun k => { k with mbHead := 224, mbUsed := 16 }).core 0
     k.mbBase + (k.mbHead - k.mbBase + k.mbUsed) % k.mbSize = 240 ∧ k.mbBase + k.mbSize = 256 ∧ k.mbSize - k.mbUsed = 240) ∧ ((r fun k => { k with mbSize := 0 }).core 0).mbSize = 0 ∧ ((r fun k => { k with chans := [] }).core 0).chanV 1 = false ∧
    ((r fun k => { k with mbUsed := 240 }).core 0).mbSize - ((r fun k => { k with mbUsed := 240 }).core 0).mbUsed < 32 ∧
    ((r fun k => { k with holds := false }).core 0).holds = false ∧ ((r fun k => { k with holds := false }).core 0).scarf = none ∧
    (let s := det.modCore 0 fun k => { k with inbound := [m] }
     (s.core 0).inbound = [m] ∧ (s.launchOf 0).deterministic = true ∧ (s.core 0).holds = true) := by decide +kernel

/-- A refusal at a core with and without a valid channel 255 and in a deterministic launch; a window that may close. -/
theorem witness_refusals :
    let r : RefusalMsg := { reason := 0, slc := 0, seq := 0, hdr0 := 0, hdr1 := 0, window := 0 }
    (let s := withCore fun k => { k with refIn := [r], chans := [(255, 0x8000000000000000)] }
     (s.core 0).refIn = [r] ∧ (s.core 0).receives = true ∧ (s.launchOf 0).deterministic = false ∧ (s.core 0).chanV 255 = true ∧ tfree (s.core 0).refusals 256 = some 0) ∧
    (base.core 0).chanV 255 = false ∧
    (let s := det.modCore 0 fun k => { k with refIn := [r], det := { k.det with ended := 256 } }
     (s.core 0).refIn = [r] ∧ (s.core 0).receives = true ∧ (s.launchOf 0).deterministic = true) ∧
    (det.modCore 0 fun k => { k with det := { k.det with ended := 256 } }).mayClose 0 = true := by decide +kernel

/-- Cell requests: descriptors that read, a cell address and a bad one, the smallest and largest lengths of CST. -/
theorem witness_cell_requests :
    (let s := at_ fun x => (x.setX 1 0x6000000000000000).setX 2 devAddr
     let ks := fun (n : Nat) => (List.range n).map fun i => devKey + 16 * i
     FullAt s [1, 2, 3] ∧ Quiet s ∧ s.cur.wide = [] ∧ s.cur.redo = none ∧ s.amoOut s.cur.uid = false ∧ (s.cur.xr 1).toNat / 2 ^ 52 = 0x600 ∧
       (∀ e ∈ [(32, 32), (16, 80)], s.reachNew .load e.1 e.2 (s.cur.xr 2) = .ok (.mem devKey) ∧ s.wideKeys (s.cur.xr 2) (e.2 / 16) = .ok (ks (e.2 / 16)) ∧
         s.interlocked false (s.cur.xr 2) e.2 = false ∧ ∀ p ∈ ks (e.2 / 16), s.meetsOut s.cur.uid p 16 = false ∧ (s.touchTlb s.curCore (s.cur.xr 2)).badIn p 16 = none) ∧
       (s.launchOf s.curCore).deterministic = false) ∧ (det.launchOf det.curCore).deterministic = true ∧ (0x4000000000000000#64).toNat / 2 ^ 52 ≠ 0x600 ∧
    (∀ n ∈ [1, 131072], (BitVec.ofNat 64 (n * 2 ^ 32)).toNat < 2 ^ 50 ∧ (BitVec.ofNat 64 (n * 2 ^ 32)).toNat / 2 ^ 17 % 2 ^ 15 = 0 ∧
      (BitVec.ofNat 64 (n * 2 ^ 32)).toNat / 2 ^ 32 % 2 ^ 18 = n ∧ (BitVec.ofNat 64 (n * 2 ^ 32)).toNat % 2 ^ 17 + n ≤ 131072) ∧
    131072 < (BitVec.ofNat 64 (131073 * 2 ^ 32)).toNat / 2 ^ 32 % 2 ^ 18 := by
  simp only [FullAt, Quiet]; decide +kernel

/-- A partition with one cell, recalculating with and without a waiting commit, and with nothing recalculating. -/
def aCell : Cell :=
  { etype := 0, rank := 1, ext := Vector.replicate 4 1, bufA := devAddr, bufB := devAddr + 64, tagA := some 0, tagB := none, cgen := 0,
    bind := { entry := none, prec := [] }, waiting := [], state := .idle, cnt := 0, dist := 0, counter := 0, reclaim := none, copy := none, task := none }
def sheet (f : Sdir → Sdir) : State := base.modPart 0 fun p => { p with sdir := f { p.sdir with cells := [(0, aCell)] } }

theorem witness_sheet :
    (tget ((sheet id).part 0).sdir.cells (0#64).toNat).isSome = true ∧ tget ((sheet id).part 0).sdir.cells (1#64).toNat = none ∧ 2 ^ 20 ≤ (0x100000#64).toNat ∧
    ((sheet id).part 0).sdir.recalc = false ∧ ((sheet id).part 0).sdir.waitc = false ∧ ((sheet fun d => { d with recalc := true }).part 0).sdir.recalc = true ∧
    ((sheet fun d => { d with recalc := true, waitc := true }).part 0).sdir.waitc = true ∧ FullAt (sheet id) [1, 2] ∧ 0 = (sheet id).curK.asidN ∧
    tget ((sheet id).part 0).sdir.cells ((sheet id).cur.xr 1).toNat = some aCell ∧ (0x8000000000000000#64).toNat = 2 ^ 63 := by
  simp only [FullAt]; decide +kernel

/-- Snapshots: all four slots open, one free, a generation that is published and one not committed; a handle's slot open and free; a read of a cell. -/
theorem witness_snapshots :
    let n : Snap := { gen := some 0, mode := 0, want := 0, dest := 3, pc := 0, order := 0 }
    (∀ j, j < 4 → vget (at_ fun x => { x with snaps := Vector.replicate 4 (some n) }).cur.snaps j none ≠ none) ∧ FullAt base [1, 2, 3] ∧ base.cur.xr 1 = 0 ∧ base.cur.freeSnap = some 0 ∧
    base.bindCurrent base.curCore = some 0 ∧ (0x8000000000000000#64).toNat = 2 ^ 63 + 0 ∧ 0 ≤ (base.part base.curK.asidN).sdir.pgen ∧
    (base.part base.curK.asidN).sdir.openGen < 2 ∧ (0x8000000000000002#64).toNat = 2 ^ 63 + 2 ∧ (0xC000000000000003#64).toNat = 3 * 2 ^ 62 + 3 ∧
    (let s := (sheet id).modCur fun x => { (x.setX 1 0x6000000000000000).setX 2 1 with snaps := vset x.snaps 0 (some n) }
     s.cur.xr 1 = BitVec.ofNat 64 (0x600 * 2 ^ 52 + 0 * 2 ^ 32 + 0) ∧ tget (s.part s.curK.asidN).sdir.cells 0 = some aCell ∧ s.selGen (s.cur.xr 2) = some (some 0) ∧ aCell.cgen ≤ 0 ∧
       0 < aCell.bytes ∧ s.cellRead s.curK.asidN 0 0 (min 8 (aCell.bytes - 0)) 0 = .ok devAddr ∧
       s.cur.redo = none ∧ s.reach .load 1 (min 8 (aCell.bytes - 0)) devAddr = .ok (.mem devKey) ∧ s.moveWait s.cur = false ∧
       s.mustFollow s.cur.uid false devAddr (min 8 (aCell.bytes - 0)) (.mem devKey) = false ∧ (s.touchTlb s.curCore devAddr).badIn devKey (min 8 (aCell.bytes - 0)) = none) := by
  simp only [FullAt]; decide +kernel

/-- The directory's own steps: a generation that may close, a READY cell with room, a notice with four and five acknowledgements, its time come, a snapshot waiting for it. -/
theorem witness_sheet_steps :
    base.running 0 = true ∧
    (let d := ((sheet fun d => { d with recalc := true, closedGen := false }).part 0).sdir
     d.recalc = true ∧ d.closedGen = false ∧ (∀ p ∈ d.csts, p.gen ≠ d.pgen + 1) ∧ d.abandonq = []) ∧
    (let c := { aCell with bind := { entry := some 0x4000000000100000, prec := [] }, state := .ready }
     let s := sheet fun d => { d with cells := [(0, c)], recalc := true }
     s.handoutRoom 0 = true ∧ (s.part 0).sdir.nextReady = some 0 ∧ tget (s.part 0).sdir.cells 0 = some c ∧ (s.part 0).sdir.tidCount < 2 ^ 32 ∧
       (match s.prepare 0 0 1 with | .ready _ t => t.running 0 | _ => false) = true) ∧
    (let d := ((sheet fun d => { d with notice := some (1, 0), acks := [0, 1, 2, 3], released := true }).part 0).sdir
     d.notice.isSome = true ∧ 4 ∉ d.acks ∧ 5 ≤ d.acks.length + 1 ∧ d.notice = some (1, 0) ∧ d.released = true ∧ (0#64).toNat ≤ base.pkg.gmCount.toNat) ∧
    (let n : Snap := { gen := none, mode := 0, want := 0, dest := 3, pc := 0, order := 0 }
     let s := at_ fun x => { x with snaps := vset x.snaps 0 (some n) }
     s.unitCtx s.cur.uid = some s.cur ∧ s.unitCore s.cur.uid = some 0 ∧ vget s.cur.snaps 0 none = some n ∧ n.gen = none ∧ s.snapNow 0 n = some 0) := by decide +kernel

/-! ## Witnesses: vector engine, matrix engine -/

/-- A dense record of rank 1 in memory (R286): element type, base address, elements. -/
def record (etype base n : Nat) : BitVec 512 := BitVec.ofNat 512 (base + (n - 1) * 2 ^ 64 + etype * 2 ^ 256 + 2 ^ 264)

/-- Records of one type at the scratchpad's bytes 0, 64, 128 and 192, named by x1 to x4, of n elements at 4096, 1024, 2048 and 3072. -/
def recs (etype n : Nat) : State :=
  poked (at_ fun x => ((x.setX 2 64).setX 3 128).setX 4 192) [(scratchKey 0 0, 64, (record etype 4096 n).toNat), (scratchKey 0 64, 64, (record etype 1024 n).toNat),
    (scratchKey 0 128, 64, (record etype 2048 n).toNat), (scratchKey 0 192, 64, (record etype 3072 n).toNat)]

/-- A command of the issuing unit. -/
def cmd (top : Nat) (rc ra rb rx : BitVec 512) : Cmd :=
  { top := top, word := BitVec.ofNat 256 (top * 2 ^ 248 + 2 ^ 244), ra := ra, rb := rb, rc := rc, rx := rx, ry := 0, sa := 0, sb := 0, fctl := 0, apxctl := 0, msk := 1, perm := false,
    uid := base.cur.uid, core := 0, asid := 0, token := 0, seq := 0, pos := 0, flags := 0, t2rsv := false, aux := 0, snap := none, snapOrd := none, tid := 0, thr := 0,
    gotA := [], gotB := [], gotX := [], kept := [], fault := none, redo := none, boff := 0, carry := 0, enqCycle := 0, hid := none, win := 0, fb := false }

/-- Records that pass their checks and records of different types; an address outside the alias and off its boundary; a full queue and one with room. -/
theorem witness_vector_issue :
    (let s := recs 0 4
     FullAt s [1, 2, 3, 4] ∧ s.curVectors.length < 8 ∧ Quiet s ∧ (∀ v ∈ ([0, 64, 128] : List Nat), v / 2 ^ 60 = 0 ∧ v % 64 = 0) ∧
       (match s.readRecords [s.cur.xr 1, s.cur.xr 2, s.cur.xr 3] with
        | .ok (d0 :: srcs, t) => decide (shapeCheck (roleOf 0x40) (t.launchOf s.curCore).gang (t.hasLcore s.curK.asidN) (0, Shape.of d0) ([64, 128].zip (srcs.map Shape.of)) = none)
        | _ => false) = true) ∧
    shapeCheck (roleOf 0x40) false (fun _ => true) (0, Shape.of (record 0 4096 4)) [(64, Shape.of (record 9 1024 4)), (128, Shape.of (record 0 2048 4))] = some (.shapebad, {}) ∧
    [0x1000000000000000#64, 64].find? (fun v => decide (v.toNat / 2 ^ 60 ≠ 0 ∨ v.toNat % 64 ≠ 0)) = some 0x1000000000000000 ∧
    [64#64, 32].find? (fun v => decide (v.toNat / 2 ^ 60 ≠ 0 ∨ v.toNat % 64 ≠ 0)) = some 32 ∧
    8 ≤ (at_ fun x => { x with vq := List.replicate 8 (cmd 0x40 0 0 0 0) }).curVectors.length ∧ (0x49 : Nat) ≠ 0x71 := by
  simp only [FullAt, Quiet]; decide +kernel

/-- Elements of FP32, of INT8 and of INT32 that read, a NaN and a number, a condition record and none, the conversion's destination types. -/
theorem witness_vector_elements :
    (let s := poked (recs 0 4) [(scratchKey 0 1024, 4, 0x3F800000), (scratchKey 0 2048, 4, 0x7FC00000), (scratchKey 0 3072, 4, 0x40000000)]
     let got := fun (b : Nat) => (elemRead (cmd 0x40 0 0 0 0) (Shape.of (record 0 b 4)) [] ((Shape.of (record 0 b 4)).bcast [0, 0, 0, 0]) s).toOption.map (·.1)
     got 1024 = some 0x3F800000 ∧ got 2048 = some 0x7FC00000 ∧ got 3072 = some 0x40000000 ∧ fp32.read false 0x7FC00000 = .nan ∧ fp32.read false 0x3F800000 ≠ .nan ∧ 0x3F800000 < 2 ^ (1 + 8 + 23)) ∧
    (let s := poked (recs 9 4) [(scratchKey 0 1024, 4, 0x80000000)]
     (elemRead (cmd 0x40 0 0 0 0) (Shape.of (record 9 1024 4)) [] [0, 0, 0, 0] s).toOption.map (·.1) = some 0x80000000 ∧
       (elemRead (cmd 0x40 0 0 0 0) (Shape.of (record 8 1024 4)) [] [3, 0, 0, 0] s).toOption.map (·.1) = some 0x80) ∧
    etFmt 0 = some fp32 ∧ etFmt 3 = some e4m3 ∧ (Shape.of (record 8 0 1)).etype = 8 ∧ (Shape.of (record 9 0 1)).etype = 9 ∧ (Shape.of 0).ver = 0 ∧ (Shape.of (record 0xC 0 1)).ver ≠ 0 := by decide +kernel

/-- Steps of a vector-stream command: four elements to read and compute, to write, with elements left, one whose first read meets a cause, one whose source has not come, a write
that meets a cause, one without room at the loopback port; the end of a command whose last write is on its way and of one whose writes are made. -/
theorem witness_vector_steps :
    let keep := fun (q : Cmd) => engKeep (fun _ => vecKept q (Shape.of q.rc) (Shape.of q.ra) (Shape.of q.rb) (Shape.of q.rx)) (stepLen q.pos 64 (Shape.of q.rc).count - q.kept.length) (q.pos + q.kept.length) q.kept (recs 0 4)
    let put := fun (q : Cmd) => engEach (fun i => vecPut q (Shape.of q.rc) i ((q.kept[i - q.pos]?.map Kept.val).getD 0)) q.kept.length q.pos (recs 0 4)
    let code := fun (e : Option EMiss) => e.map fun e => match e.m with | .cause c _ => c.code | _ => 0
    let read := fun (q : Cmd) => { q with kept := List.replicate 4 { val := 1 } }
    (let q := cmd 0x40 (record 0 4096 4) (record 0 1024 4) (record 0 2048 4) 0
     let s := withCore fun k => { k with vsq := [q] }
     q.hid = none ∧ q.top < 0x100 ∧ (s.core 0).vsq = [q] ∧ (keep q).2.2 = none ∧ (keep q).1.length = 4 ∧ (put (read q)).2.2 = none ∧ (put (read q)).1.length = 4 ∧
       (put (read q)).2.1.firstFailed (put (read q)).1 = none ∧ putsFit 16 0 (put (read q)).1 = 4 ∧ (Shape.of q.rc).count ≤ q.pos + 4 ∧ (Shape.of q.rc).loc ≠ 2 ∧ s.putsOut q.uid q.seq = false ∧
       (s.modCore 0 fun k => { k with loop := [{ uid := q.uid, rank := 0, loc := scratchKey 0 0, size := 4, act := .put 0 0 q.seq }] }).putsOut q.uid q.seq = true) ∧
    (let q := cmd 0x40 (record 0 4096 65) (record 0 1024 65) (record 0 2048 65) 0
     q.pos + 64 < (Shape.of q.rc).count) ∧
    (let q := cmd 0x40 (record 0 4096 4) (record 0 0x8000000000000000 4) (record 0 2048 4) 0
     (keep q).1 = [] ∧ code (keep q).2.2 = some Cause.access.code) ∧
    (let q := cmd 0x40 (record 0 4096 4) (record 0 0 4 + BitVec.ofNat 512 (2 ^ 269)) (record 0 2048 4) 0
     (keep q).2.2.map (fun e => match e.m with | .busy => true | _ => false) = some true) ∧
    (let q := cmd 0x40 (record 0 0x8000000000000000 4) (record 0 1024 4) (record 0 2048 4) 0
     (put (read q)).1 = [] ∧ code (put (read q)).2.2 = some Cause.access.code) ∧
    (let q := cmd 0x40 (record 0 0x1000000000001000 4) (record 0 1024 4) (record 0 2048 4) 0
     (put (read q)).1.length = 4 ∧ putsFit 0 0 (put (read q)).1 = 0) ∧
    (let q := cmd 0x60 (record 0 4096 4) (record 0 1024 4) 0 0
     let s := at_ fun x => { x with vq := [q] }
     (s.thr 0 0).running = true ∧ s.queueOf (.vq (s.ctx 0 0).uid) = [q] ∧ 0x60 ≤ q.top ∧ q.top < 0x70 ∧ q.computed 64 (Shape.of q.rc).count = false ∧
       (read q).computed 64 (Shape.of q.rc).count = true) := by decide +kernel

/-- Steps of a special function over 65 elements, 64 in a step: with the queue of the SFU empty; behind another command's request, with room and full; with its own request first, with elements
left to enter and none. A command that an ended unit left in its thread's queue. -/
theorem witness_special_functions :
    let q := cmd 0x60 (record 0 4096 65) (record 0 1024 65) 0 0
    let mine : SfuReq := { uid := q.uid, seq := q.seq, pos := 0, stream := false, fb := false }
    let other := { mine with uid := 99 }
    let s := fun (l : List SfuReq) => (at_ fun x => { x with vq := [q] }).modCore 0 fun k => { k with sfu := l }
    let d := Shape.of q.rc
    let a := Shape.of q.ra
    let none_ := Shape.of 0
    let s1 := fun (l : List SfuReq) => ((s l).runHead q).pullAll ((s l).bindCmd q [a]) d a none_ none_ 64
    let put := fun (l : List SfuReq) => ((s1 l).1.putHead (.vq (base.ctx 0 0).uid) (s1 l).2)
    let next := fun (l : List SfuReq) => (s1 l).2.pos + (((put l).core (s1 l).2.core).sfu.filter fun e => e.uid == (s1 l).2.uid && e.seq == (s1 l).2.seq).length * 64
    q.hid = none ∧ (s []).queueOf (.vq (base.ctx 0 0).uid) = [q] ∧ ((s []).thr 0 0).past = [] ∧ ((s []).thr 0 0).running = true ∧
    (∀ e ∈ [([], 0), ([other], 0), (List.replicate 32 other, 0), ([mine], 64), ([mine, mine], 128)], ((put e.1).core (s1 e.1).2.core).sfu = e.1 ∧ next e.1 = e.2) ∧
    0 < d.count ∧ 64 < d.count ∧ d.count ≤ 128 ∧ [other].length < 32 ∧ 32 ≤ (List.replicate 32 other).length ∧
    ((base.modThr 0 0 fun t => { t with past := [q] }).thr 0 0).past = [q] := by decide +kernel

theorem witness_masks : FullAt base [1, 2, 3] ∧ base.curVectors = [] ∧ (at_ fun x => { x with vq := [cmd 0x40 0 0 0 0] }).curVectors ≠ [] := by
  simp only [FullAt]; decide +kernel

/-- The unit of a command on its thread, not in a slot and not stepped; a command with and without a cause, with and without a token. -/
theorem witness_command_ends :
    let q := cmd 0x40 0 0 0 0
    (base.thr 0 0).running = true ∧ base.findUnit q.uid = some (0, 0) ∧ (base.ctx 0 0).uid = q.uid ∧ base.inSlot q.uid = false ∧ base.stepped q.asid q.tid = false ∧
    trapOf q.fctl q.flags = none ∧ trapOf (q.fctl ||| 0x1000000) 1 = some .fpinx ∧ q.token = 0 ∧ (5#6) ≠ 0 := by decide +kernel

/-- A word at scratchpad byte 512 with x5 naming it, over the records of `recs`. -/
def worded (etype : Nat) (word : Nat) : State := poked ((recs etype 4).modCur fun x => x.setX 5 512) [(scratchKey 0 512, 32, word)]

/-- ENQ: a token that is a source and one that is not, an address off its boundary and outside the alias, an unassigned operation, a wrong version, MMBM unprivileged. -/
theorem witness_enq_checks :
    (let s := worded 0 (0x11 * 2 ^ 248 + 2 ^ 244)
     let t := fun (w : Nat) => Tcw.of (BitVec.ofNat 256 w)
     FullAt s [5, 0, 6] ∧ ((6#6) ≠ 0 ∧ (6#6) ≠ 5) ∧ (s.cur.xr 5).toNat / 2 ^ 60 = 0 ∧ (s.cur.xr 5).toNat % 32 = 0 ∧ (s.readAlias 32 (s.cur.xr 5)).toOption.isSome = true ∧
       topClass (t (0x0A * 2 ^ 248)).top = none ∧ (topClass (t (0x11 * 2 ^ 248)).top).isSome = true ∧ (t (0x11 * 2 ^ 248)).ver ≠ 1 ∧ (t (0x11 * 2 ^ 248 + 2 ^ 244 + 2 ^ 192)).reserved = false ∧
       (t (0x11 * 2 ^ 248 + 2 ^ 244 + 2 ^ 193)).reserved = true ∧ (t (0x15 * 2 ^ 248 + 2 ^ 244)).top = 0x15 ∧ (t (0x15 * 2 ^ 248 + 2 ^ 244)).ver = 1 ∧
       (t (0x15 * 2 ^ 248 + 2 ^ 244)).reserved = false ∧ (user.launchOf user.curCore).privileged = false) ∧
    (0x30#64).toNat % 32 ≠ 0 ∧ 8 ≤ (0x8000000000000000#64).toNat / 2 ^ 60 ∧ (0x4000000000000000#64).toNat % 32 = 0 ∧ (0x4000000000000000#64).toNat / 2 ^ 60 ≠ 0 := by
  simp only [FullAt]; decide +kernel

/-- ENQ of a matrix, a vector-stream and a copy command whose records pass; a queue field against the operation's class, with TE and without. -/
theorem witness_enq_accepts :
    let top := fun (s : State) => Tcw.of (BitVec.ofNat 256 (leNat (s.bytesAt (scratchKey 0 512) 32)))
    let sound := fun (s : State) (cls : Nat) => FullAt s [5, 0, 6] ∧ (s.readAlias 32 (s.cur.xr 5)).toOption.isSome = true ∧ (top s).ver = 1 ∧ (top s).reserved = false ∧ (top s).top ≠ 0x15 ∧
      (∀ m ∈ (top s).mixes, m.1 = false) ∧ topClass (top s).top = some cls ∧ s.enqWaits cls (top s) = false
    (let s := worded 0 (0x12 * 2 ^ 248 + 2 ^ 244 + 64 * 2 ^ 77)
     sound s 0 ∧ (top s).mxOffs = [64] ∧
       (match s.readRecords [64] with
        | .ok (rs, t) => t.plainRecords [(64, Shape.of (rebase (top s).base (recAt rs 0)), true)] == none && t.mxChecks (top s) [Shape.of (rebase (top s).base (recAt rs 0))] == none
        | _ => false) = true) ∧
    (let s := worded 0 (0x40 * 2 ^ 248 + 2 ^ 244 + 64 * 2 ^ 111 + 128 * 2 ^ 94)
     sound s 1 ∧ hasB (top s).top = true ∧ (top s).rc = 0 ∧ (top s).ra = 64 ∧ (top s).rb = 128 ∧
       (match s.readRecords [0, 64, 128] with
        | .ok (rs, t) => decide (shapeCheck (roleOf 0x40) (t.launchOf t.curCore).gang (t.hasLcore t.curK.asidN) (0, Shape.of (recAt rs 0))
            [(64, Shape.of (rebase (top s).base (recAt rs 1))), (128, Shape.of (recAt rs 2))] = none)
        | _ => false) = true) ∧
    (let s := worded 0 (0x80 * 2 ^ 248 + 2 ^ 244 + 64 * 2 ^ 111)
     sound s 2 ∧ (top s).wm = false ∧
       (match s.readRecords [64, 0] with
        | .ok (rs, t) => t.plainRecords [(64, Shape.of (rebase (top s).base (recAt rs 0)), false), (0, Shape.of (recAt rs 1), true)] == none &&
            t.copyChecks (top s) (Shape.of (rebase (top s).base (recAt rs 0))) (Shape.of (recAt rs 1)) (Shape.of 0) == none
        | _ => false) = true) ∧
    base.cur.warn.getLsbD 63 = false ∧ (at_ fun x => { x with warn := 0x8000000000000000 }).cur.warn.getLsbD 63 = true := by
  simp only [FullAt]; decide +kernel

/-- A product of one element by one column at the head of core 0's queue. -/
def product (top word : Nat) (et : Nat) : Cmd := { cmd top 0 (record et 1024 1) 0 0 with word := BitVec.ofNat 256 (top * 2 ^ 248 + 2 ^ 244 + 2 * 2 ^ 236 + word) }
def headed (q : Cmd) : State := withCore fun k => { k with mq := [q] }

/-- A product that runs, one that continues in the wrong mode, one that meets a cause. -/
theorem witness_products :
    let t := fun (q : Cmd) => Tcw.of q.word
    let result := fun (q : Cmd) => mmResult 0 q (t q) ((headed q).sizeOf q (t q)) (headed q)
    (let q := product 0x01 0 2
     (headed q).curK.mq = [q] ∧ q.hid = none ∧ ((t q).acc = false) ∧ ((headed q).sizeOf q (t q)).u ≠ 0 ∧ ((headed q).modMe 0 fun m => { m with bondBad := true }).bondFails 0 = true ∧ (headed q).bondFails 0 = false ∧ (result q).toOption.isSome = true) ∧
    (let q := { product 0x08 0 8 with word := BitVec.ofNat 256 (0x08 * 2 ^ 248 + 2 ^ 244 + 2 ^ 236) }
     (t q).acc = true ∧ (t q).clr = false ∧ ((headed q).core 0).me.int32 ≠ (mmFmt (t q).mmTop).int) ∧
    (let q := { product 0x01 0 2 with ra := record 2 0x8000000000000000 1 }
     (match result q with | .error e => (match e.m with | .cause c _ => c == .access | _ => false) | _ => false) = true) := by decide +kernel

/-- Groups with a NaN, with infinities of one sign and of both, of zeros, and of finite products of different exponents. -/
theorem witness_sums :
    (let ps := [Fv.nan, .fin false 1 0]
     Fv.nan ∈ ps) ∧
    (let ps := [Fv.inf false, .inf true]
     Fv.inf false ∈ ps ∧ Fv.inf true ∈ ps) ∧
    (let ps := [Fv.inf true, .fin false 1 0]
     Fv.inf true ∈ ps ∧ Fv.inf (!true) ∉ ps ∧ Fv.nan ∉ ps) ∧
    expo 3 5 = 6 ∧ expo 1 0 ≤ 6 ∧ (Fv.fin true 3 5 ∈ [Fv.fin true 3 5, .fin false 1 0, .fin false 0 0]) := by decide +kernel

/-- MLOADB, one that runs through and one whose writes are on their way, MCLR, MDRAIN, MMASK and MREDB at the head; four MREDBs of a bent that agree; a chain that may move. -/
theorem witness_matrix_commands :
    (let q := { cmd 0x10 0 (record 2 1024 4) 0 0 with word := BitVec.ofNat 256 (0x10 * 2 ^ 248 + 2 ^ 244 + 2 * 2 ^ 192) }
     let s := (headed q).runHead q
     let r := Shape.of q.ra
     let e := loadElems r ((headed q).core 0).me.fenced (r.count - q.pos) (s.bindCmd q [r]) s
     (headed q).curK.mq = [q] ∧ ((headed q).core 0).me.fenced = false ∧ e.2.2 = none ∧ e.1.carry = 0 ∧ (e.2.1.zeroUnits e.1 r).putsOut e.1.uid e.1.seq = false ∧
       s.lineHeld (windowKey 0 0) = false ∧
       (s.modCore 0 fun k => { k with loop := [{ uid := q.uid, rank := 0, loc := windowKey 0 0, size := 16, act := .put 0 0 q.seq }] }).putsOut q.uid q.seq = true) ∧
    (let q := { cmd 0x12 (record 0 4096 4) 0 0 0 with word := BitVec.ofNat 256 (0x12 * 2 ^ 248 + 2 ^ 244) }
     (headed q).curK.mq = [q] ∧ q.hid = none ∧ (Tcw.of q.word).msk = false ∧ (Shape.of q.rc).count = 4) ∧
    (let q := { cmd 0x13 0 0 0 0 with word := BitVec.ofNat 256 (0x13 * 2 ^ 248 + 2 ^ 244 + 512) }
     (Shape.of q.ra).ver = 0 ∧ (engRead q 16 16 512 (headed q)).toOption.map (·.1) = some 0 ∧ (maskOfBlock 0).map (·.kind) = some 0) ∧
    (let q := fun (c : Nat) => { cmd 0x14 0 0 0 0 with core := c, pos := 1, word := BitVec.ofNat 256 (0x14 * 2 ^ 248 + 2 ^ 244 + 2 * 2 ^ 236) }
     let s := [0, 1, 32, 33].zipIdx.foldl (fun (s : State) c => s.modCore c.1 fun k => { k with asid := some 0, holds := true, lcore := c.2, mq := [q c.1] })
       (withLaunch fun l => { l with lcores := [(0, 0), (1, 1), (2, 32), (3, 33)] })
     s.redbMeet 0 = some [(0, q 0), (1, q 1), (32, q 32), (33, q 33)] ∧ (Shape.of (q 0).rc).ver = 0 ∧
       ∀ o ∈ [1, 32, 33], (Tcw.of (q o).word).cx = (Tcw.of (q 0).word).cx ∧ (s.core o).me.int32 = (s.core 0).me.int32 ∧ (Tcw.of (q o).word).clr = (Tcw.of (q 0).word).clr) := by decide +kernel

/-- A chain, MCLR and MDRAIN behind another command, that may move to core 1 of the bent. -/
theorem witness_chain :
    let q := fun (top : Nat) => { cmd top 0 0 0 0 with perm := true }
    let s := (headed (q 0x12)).modCore 1 fun k => { k with asid := some 0, holds := true, me := { k.me with chain := false } }
    let s := s.modCore 0 fun k => { k with mq := [q 0x12, q 0x11, q 0x12] }
    s.chainMoves 0 1 = some ([q 0x12], [q 0x11, q 0x12], []) := by decide +kernel
/-! ## Witnesses: copies, publications, reductions, diagrams -/

/-- A copy of four FP32 elements of the scratchpad in the streamers of core 0, with some packets, and its command. -/
def copyCmd : Cmd := cmd 0x80 (record 0 4096 4) (record 0 1024 4) 0 0
def copying (o : CopyOp) : State := withCore fun k => { k with copies := [(7, o)] }
def packet (landAt : Option Word) (acks : Nat) : Packet := { first := 0, count := 4, bytes := List.replicate 16 1, hid := none, redo := none, stamp := none, pos := 0, landAt := landAt, acks := acks }

/-- An engine's access to the private alias, of a core with no shadowed buffer, no error, no watermark and no held line in its way. -/
theorem engKey_alias (s : State) (q : Cmd) (al n off : Nat) (hs : (s.part (s.agent q.core).asid).launch.shadows = []) (hoff : off + n ≤ 0x20000) (hn : 0 < n) (hal : off % al = 0)
    (hb : s.bad = []) (hw : s.weak = []) (hm : s.wmBlocked q.core none (BitVec.ofNat 64 off) n = false) (ht : s.turnWait q.uid q.seq (scratchKey q.core off) (q.loops false (BitVec.ofNat 64 off)) = false) (hr : q.redo = none) :
    engKey q false false al n (BitVec.ofNat 64 off) s = .ok (some (scratchKey q.core off), s) := by
  have h1 : (BitVec.ofNat 64 off).toNat = off := by simp [BitVec.toNat_ofNat]; omega
  have h2 : fieldOf off 60 4 = 0 := by simp [fieldOf]; omega
  have h3 : fieldOf off 17 43 = 0 := by simp [fieldOf]; omega
  have hc : s.checkTo false (s.agent q.core) .engRead al n (BitVec.ofNat 64 off) = .ok (.mem (scratchKey q.core off)) := by
    simp [State.checkTo, State.checkNamed, h1, h2, h3, hal, State.area, hs]
    simp [State.agent, show ¬ 0x20000 < off + n by omega]
  have he : s.engReach q false false al n (BitVec.ofNat 64 off) = .ok (.mem (scratchKey q.core off)) := by
    simp only [State.engReach, hr, Option.filter_none, Bool.false_eq_true, if_false, hc, Except.bind, State.resolveCell]
  simp [engKey, wfield, h1, h2, he, hm, ht, State.badIn, hb, State.correct, hw, State.touchTlb]

/-- A source element's read does not depend on what the packet holds so far. -/
theorem copy_reads (got : List Byte) (e old : Nat) (he : e < 4) :
    let o := CopyOp.start copyCmd 0
    let w := (copying o).modCopy 0 7 fun _ => { o with read := o.read + e, unit := old, cmd := { o.cmd with gotA := got } }
    copyRead { o.cmd with gotA := got } (Shape.of o.cmd.ra) (Shape.of o.cmd.rb) o.cmd.tcw.gathers (o.read + e) w = .ok (.bits (w.readLe (scratchKey 0 (1024 + 4 * e)) 4) 64, w) := by
  intro o w
  have hm : (w.core 0).wmarks = Vector.replicate 8 Wmark.reset := rfl
  have hg : o.cmd.tcw.gathers = false := by decide +kernel
  have hl : (Shape.of o.cmd.ra).loc = 0 := by decide +kernel
  have hw : (Shape.of o.cmd.ra).w = 32 := by decide +kernel
  have ha : (Shape.of o.cmd.ra).align = 4 := by decide +kernel
  have hx : ∀ e, e < 4 → (Shape.of o.cmd.ra).elem ((Shape.of o.cmd.ra).index e) = (BitVec.ofNat 64 (1024 + 4 * e), 0, 4) := by decide +kernel
  have hu : ∀ e, e < 4 → keyUnit (scratchKey 0 (1024 + 4 * e)) = 64 := by decide +kernel
  have hb : ∀ n, w.wmBlocked 0 none (BitVec.ofNat 64 (1024 + 4 * e)) n = false := by
    intro n
    simp only [State.wmBlocked, hm, upTo, List.any_eq_false, List.mem_range]
    intro i hi
    interval_cases i <;> simp [vget, Wmark.reset]
  have ht : w.turnWait o.cmd.uid o.cmd.seq (scratchKey 0 (1024 + 4 * e)) (o.cmd.loops false (BitVec.ofNat 64 (1024 + 4 * e))) = false := by interval_cases e <;> rfl
  have hk : engKey { o.cmd with gotA := got } false false 4 4 (BitVec.ofNat 64 (1024 + 4 * e)) w = .ok (some (scratchKey 0 (1024 + 4 * e)), w) :=
    engKey_alias w _ 4 4 _ rfl (by omega) (by omega) (by omega) rfl rfl (hb 4) ht rfl
  have h5 : wfield (BitVec.ofNat 64 (1024 + 4 * e)) 60 4 ≠ 5 := by interval_cases e <;> decide +kernel
  rw [hg]
  simp only [copyRead, copySource, elemRead, engRead, hl, hw, ha, show o.read + e = e from Nat.zero_add e]
  simp only [Bool.not_false, ite_true, pure_bind, hx e he, h5, if_false]
  show (engKey { o.cmd with gotA := got } false false 4 4 (BitVec.ofNat 64 (1024 + 4 * e)) w >>= _) = _
  rw [hk]
  show ((engKey { o.cmd with gotA := got } false false 4 4 (BitVec.ofNat 64 (1024 + 4 * e)) w >>= _) >>= _) = _
  rw [hk]
  simp only [← hu e he]
  rfl

/-- A copy and a gather at the head of a queue; a copy that may read all its elements at once. -/
theorem witness_copies :
    (∀ top ∈ [0x80, 0x81], let q := { copyCmd with top := top }
      let s := withCore fun k => { k with cq := [q] }
      (s.core 0).cq = [q] ∧ q.hid = none ∧ usesCells [Shape.of q.ra] = false) ∧
    (let o := CopyOp.start copyCmd 0
     (copying o).copyOp 0 7 = some o ∧ o.freedGap = none ∧ (copying o).mayRead 0 7 o = true ∧ (copying o).streamTurn 0 7 o = true ∧ o.cmd.gotA = [] ∧ o.barWait = 0 ∧
       4 = min (packetElems o.cmd.tcw (Shape.of o.cmd.ra).w) ((Shape.of o.cmd.rc).count - o.read)) := by decide +kernel

/-- The elements of a packet of FP32 elements lie at their keys in the scratchpad. -/
theorem packet_keys (i : Nat) (hi : i < 4) :
    let o := { CopyOp.start copyCmd 0 with read := 4, packets := [(0, packet none 0)], nextPkt := 1 }
    let c := Shape.of o.cmd.rc
    let addr := (c.elem (c.index (0 + i))).1
    addr.toNat / 2 ^ 60 ≠ 5 ∧ engKey o.cmd true o.cmd.tcw.shd (c.w / 8) (c.w / 8) addr (copying o) = .ok (some (scratchKey 0 (4096 + 4 * i)), copying o) := by
  interval_cases i <;> decide +kernel

/-- A packet on its way; a copy with a packet on its way, one with counts outstanding, one with nothing left to do. -/
theorem witness_packets :
    let o := { CopyOp.start copyCmd 0 with read := 4, packets := [(0, packet none 0)], nextPkt := 1 }
    (copying o).copyOp 0 7 = some o ∧ tget o.packets 0 = some (packet none 0) ∧ (Shape.of o.cmd.rc).loc = 0 ∧ 8 ∣ (Shape.of o.cmd.rc).w ∧ 0 < (Shape.of o.cmd.rc).w ∧ o.barWait = 0 ∧ o.packets ≠ [] ∧
    (let puts := (List.range 4).map fun i => [Put.mem (scratchKey 0 (4096 + 4 * i)) 4 1 false]
     (copying o).firstFailed puts = none ∧ putsFit 16 0 puts = 4) ∧ (∀ i, i < 4 → (copying o).lineHeld (scratchKey 0 (4096 + 4 * i)) = false) ∧ (copying o).putsOut o.cmd.uid o.cmd.seq = false ∧
    putsFit 3 0 ((List.range 4).map fun i => [Put.mem (scratchKey 0 (4096 + 4 * i)) 4 1 true]) = 3 ∧
    (let e := { o with packets := [] }
     (copying e).copyOp 0 7 = some e ∧ e.cmd.gotA = [] ∧ e.barOut = 0 ∧ e.allRead = true ∧ (copying e).copyRemote 0 7 false = false) := by decide +kernel

/-- A COPYX with a landing handler whose entry holds DONE. -/
theorem witness_landing :
    let q := { copyCmd with top := 0x81, word := BitVec.ofNat 256 (0x81 * 2 ^ 248 + 2 ^ 244 + 64 * 2 ^ 236 + 3 * 2 ^ 200) }
    let o := { CopyOp.start q 0 with read := 4, packets := [(0, packet none 0)], nextPkt := 1 }
    let entry := BitVec.ofNat 64 (0x300000 + 4 * 2 ^ 60)
    let k := hbmKey 0x300000
    let s := poked ((copying o).modCore 0 fun k => { k with chans := [(3, BitVec.ofNat 64 (2 ^ 63 + 0x300000))] }) [(k, 4, ((encode (.done 0 false)).getD 0).toNat)]
    s.copyOp 0 7 = some o ∧ tget o.packets 0 = some (packet none 0) ∧ (packet none 0).bytes.length ≤ 256 ∧ s.mayHandle 0 7 0 o (packet none 0) = true ∧ (Shape.of q.rc).base.toNat ≤ ((Shape.of q.rc).elem ((Shape.of q.rc).index 0)).1.toNat ∧
    ((Shape.of q.rc).elem ((Shape.of q.rc).index 0)).1.toNat + 16 ≤ (Shape.of q.rc).base.toNat + (Shape.of q.rc).denseBytes ∧ (s.thr 0 4).landingOn ≠ some (7, 0) ∧
    s.check (s.agent 0) .fetch 1 4 entry = .ok (.mem k) ∧ s.badIn k 4 = none ∧ some (BitVec.ofNat 32 (s.readLe k 4)) = encode (.done 0 false) ∧ (Shape.of q.rc).denseBytes = 16 := by decide +kernel

/-- A launch with a shadowed buffer: a PUBL that may go, one behind an outstanding access and one behind a command that writes it; a number without a buffer and the first past the last. -/
def buffer : Shadow := { name := 0x1000000000008000, size := 1024, sel := false }
def shadowed : State := (withLaunch fun l => { l with shadows := [(3, buffer)] }).modCur fun x => x.setX 1 3

theorem witness_publications :
    FullAt shadowed [1, 2] ∧ (shadowed.cur.xr 1).toNat ≤ 255 ∧ shadowed.shadowEntry shadowed.curK.asidN 3 = some buffer ∧ shadowed.shadowEntry 0 4 = none ∧ 255 < (256#64).toNat ∧
    shadowed.accessesOut shadowed.cur.uid = false ∧ (∀ q ∈ shadowed.threadCmds, shadowed.writesBuf 3 q = false) ∧
    ((atHome (timedStore 0)).accessesOut base.cur.uid = true) ∧ Memory.wf shadowed.mem = true ∧
    (let s := shadowed.modCur fun x => { x with wait := .publ 3 }
     (s.ctx 0 0).wait = .publ 3 ∧ (s.thr 0 0).running = true ∧ s.shadowEntry (s.core 0).asidN 3 = some buffer) ∧
    (let x := { shadowed.cur with wait := .publ 3 }
     let sl : Slot := { ctx := x, kind := 3, cause := 0, more := false, det := {}, asid := 0, lcore := 0, core := 0, thread := 0, resumeAt := none, resumeOn := 0 }
     let s := (shadowed.modThr 0 0 fun t => { t with running := false }).modDie 0 fun d => { d with slots := [(0, sl)] }
     s.savedPubl 0 = some x ∧ s.shadowEntry (s.core 0).asidN 3 = some buffer) ∧
    (let q := { cmd 0x80 (record 0 0x8000 4) (record 0 1024 4) 0 0 with word := BitVec.ofNat 256 (0x80 * 2 ^ 248 + 2 ^ 244 + 2 ^ 240) }
     shadowed.writesBuf 3 q = true ∧ q ∈ (shadowed.modCore 0 fun k => { k with cq := [q] }).threadCmds) := by
  simp only [FullAt]; decide +kernel

/-- WMRD of channel 7 and 8, QMIG of 1 and 2, BQTAKE of an object with blocks left and with none. -/
theorem witness_block_queues :
    (7#64).toNat ≤ 7 ∧ 7 < (8#64).toNat ∧ (1#64).toNat < 2 ∧ 2 ≤ (2#64).toNat ∧ FullAt dev [1, 2] ∧ ReachesMemory dev .atomic false false 16 (dev.cur.xr 1) devKey ∧ dev.loadsOut dev.cur.uid = false ∧
    (let s := at_ fun x => x.setX 1 0x7000600100000080
     s.reachScalar .atomic 16 16 (s.cur.xr 1) = .ok (.window 0x7000600100000080) ∧ s.interlocked true (s.cur.xr 1) 16 = false ∧ s.mustFollow s.cur.uid false (s.cur.xr 1) 16 (.window 0x7000600100000080) = false ∧
       s.loadsOut s.cur.uid = false) ∧ (dev.touchTlb dev.curCore devAddr).badIn devKey 16 = none ∧
    ({ dev with bad := [devKey] }.touchTlb dev.curCore devAddr).badIn devKey 16 = some devKey ∧
    (dev.launchOf dev.curCore).deterministic = false ∧ (det.launchOf det.curCore).deterministic = true ∧
    (atEngine (.bqtake devKey 1 3)).atePick (homeBay devKey) = some (request (.bqtake devKey 1 3)) ∧ (request (.bqtake devKey 1 3)).op = .bqtake devKey 1 3 ∧
    (let s := poked (atEngine (.bqtake devKey 1 3)) [(devKey + 8, 8, 1)]
     s.readLe devKey 8 < s.readLe (devKey + 8) 8) ∧ (atEngine (.bqtake devKey 1 3)).readLe (devKey + 8) 8 ≤ (atEngine (.bqtake devKey 1 3)).readLe devKey 8 := by
  simp only [FullAt, ReachesMemory]; decide +kernel

/-- A reduction of two FP32 elements at 1024 into accumulators at 4096, with and without scales, that passes its checks and one that does not; the values its element reads. -/
def reduction (isc : Nat) (itype : Nat) : BitVec 512 := BitVec.ofNat 512 (4096 + 1024 * 2 ^ 64 + 2048 * 2 ^ 128 + itype * 2 ^ 320 + isc * 2 ^ 328 + 1 * 2 ^ 340)
def reduce (isc itype : Nat) : State := poked (recs 0 4) [(scratchKey 0 0, 64, (reduction isc itype).toNat), (scratchKey 0 2048, 1, 127)]

theorem witness_reductions :
    let q := fun (isc : Nat) => { cmd 0x100 0 (reduction isc 0) 0 0 with aux := 0 }
    (let s := reduce 0 0
     FullAt s [1, 2] ∧ s.curVectors.length < 8 ∧ Quiet s ∧ (s.cur.xr 1).toNat / 2 ^ 60 = 0 ∧ (s.cur.xr 1).toNat % 64 = 0 ∧ (0x20#64).toNat % 64 ≠ 0 ∧
       (match s.readRecords [s.cur.xr 1] with | .ok ([r], t) => decide (t.baddChecks (Baddq.of r) ((Baddq.of r).e0 0) = false) | _ => false) = true) ∧
    (reduce 0 15).baddChecks (Baddq.of (reduction 0 15)) 0 = true ∧
    (∀ isc ∈ [0, 1], let s := reduce isc 0
      let d := Baddq.of (reduction isc 0)
      d.isc = decide (isc = 1) ∧ (engRead (q isc) 8 8 (BitVec.ofNat 64 d.acc) s).toOption.map (·.1) = some 0 ∧ (packedRead (q isc) d.inp d.itype 0 s).toOption.map (·.1) = some 0 ∧
        (packedRead (q isc) d.iscl 8 0 s).toOption.map (·.1) = some 127 ∧ (engKey (q isc) true false 8 8 (BitVec.ofNat 64 d.acc) s).toOption.map (·.1) = some (some (scratchKey 0 4096))) ∧
    (∃ e, fa36.read false 0 = .fin false 0 e) ∧ (∃ y, fa36.read false y = .nan) ∧ (∃ y n, fa36.read false y = .inf n) ∧
    (let s := (reduce 0 0).modCur fun x => { x with vq := [q 0] }
     let d := Baddq.of (reduction 0 0)
     (s.thr 0 0).running = true ∧ (s.thr 0 0).past = [] ∧ s.queueOf (.vq (s.ctx 0 0).uid) = [q 0] ∧ (q 0).top = 0x100 ∧ (q 0).hid = none ∧ d.outen = false ∧
       (baddAcc (q 0) d 0 0 s).toOption.isSome = true ∧ (baddPut (q 0) d 0 5 s).toOption.isSome = true ∧
       (let o := Baddq.of (reduction 0 0 + BitVec.ofNat 512 (3 * 2 ^ 324 + 2 ^ 329 + 2 ^ 331 + 0x3000 * 2 ^ 192 + 0x3800 * 2 ^ 256))
        o.outen = true ∧ o.osc = true ∧ o.otype = 3 ∧ (packedPut (q 0) o.shd o.out o.otype 0 1 s).toOption.isSome = true)) := by
  simp only [FullAt, Quiet]
  refine ⟨by decide +kernel, by decide +kernel, by decide +kernel, ⟨-153, by decide +kernel⟩, ⟨fa36.cnan, by decide +kernel⟩, ⟨fa36.bitsOf (.inf false), false, by decide +kernel⟩, by decide +kernel⟩

/-- The scale code of a run whose largest magnitude is 1, and of one at each end of the codes; packed elements of 8, 4 and 6 bits, the last in one byte and in two. -/
theorem witness_runs :
    (let y := fa36.bitsOf (.fin true 1 0)
     ∃ m e, fa36.read false y = .fin true m e ∧ (m : Int) = 2 ^ (-e).toNat ∧ runCode 3 [0, y] = 119) ∧
    runCode 3 [fa36.bitsOf (.fin false 1 (-126))] = 0 ∧ 8 ∣ elemBits 3 ∧ elemBits 6 < 8 ∧
    (∀ e ∈ [(0, 0), (1, 1)], let w := elemBits 6
      (e.2 = 0 → e.1 * w % 8 + w ≤ 8) ∧ (e.2 = 1 → 8 < e.1 * w % 8 + w)) ∧
    (∀ off ∈ [2048, 2049], (engKey (cmd 0x100 0 0 0 0) true false 1 1 (BitVec.ofNat 64 off) base).toOption.map (·.1) = some (some (scratchKey 0 off))) := by
  refine ⟨⟨2 ^ 27, -27, by decide +kernel⟩, by decide +kernel, by decide +kernel, by decide +kernel, by decide +kernel, by decide +kernel⟩

/-- A diagram space of 1,024 nodes and 1,024 buckets over four variables, node 1 the variable at level 0, node 2 free. -/
def space : Dds := { srvdie := 0, nodeBase := 0x400000, bktBase := 0x410000, nn := 10, nb := 10, ocsh := 1, vars := 4, alloc := 1, limit := 1023, freeHead := 2, hits := 0, misses := 0 }
def spaced (f : Ctx → Ctx) (l : List (Nat × Nat × Nat)) : State :=
  poked { (at_ f) with spaces := [(0, space)] } ([(hbmKey 0x400000, 4, 0xFFFFFFFF), (hbmKey 0x400010, 16, 2 ^ 16 + 2 ^ 63), (hbmKey 0x400020, 4, 0xFFFE)] ++ l)
def diagram : State := spaced id []

theorem witness_diagram_requests :
    diagram.accessesOut diagram.cur.uid = false ∧ ((atHome (timedStore 0)).accessesOut base.cur.uid = true) ∧ FullAt diagram [1, 2, 3, 4] ∧ Quiet diagram ∧
    (match diagram.ddServeReq 0 (diagram.curReq 3 (.dd 9 0 0 0)) 9 0 0 0 with | .ans (.x _ _) => true | _ => false) = true ∧
    (match diagram.ddServeReq 0 (diagram.curReq 3 (.dd 0 4 0 0)) 0 4 0 0 with | .ans (.cause c _ _) => c == .ddorder | _ => false) = true := by
  simp only [FullAt, Quiet]; decide +kernel

/-- The space is ready; a variable whose bucket holds its node and one whose bucket is empty; the first number past the variables; edges at a node and at the terminal; a constant. -/
theorem witness_diagram_operands :
    DdReady diagram space ∧ (diagram.part 0).ddValid space.vars = true ∧ (3#64).toNat < space.vars ∧ space.vars ≤ (4#64).toNat ∧
    (let s := spaced id [(ddBucketKey space 0 (2 ^ 31) 0, 4, 1)]
     let n := ddNodeAt s space 1
     s.readLe (ddBucketKey space ((s.part 0).ddLevOf space.vars 0) (2 ^ 31) 0) 4 = 1 ∧ n.level = 0 ∧ n.low = 2 ^ 31 ∧ n.high = 0) ∧
    diagram.readLe (ddBucketKey space 3 (2 ^ 31) 0) 4 = 0 ∧ space.alloc < space.limit ∧ 0 < space.freeHead ∧ space.freeHead < 2 ^ space.nn ∧
    DdEdge diagram space 1 ∧ DdEdge diagram space 0x80000001 ∧ DdEdge diagram space (ddConst false) ∧ DdSound diagram space 1 ∧ 2 ^ 32 ≤ (0x100000000#64).toNat ∧
    (ddNodeAt diagram space 1).ref = 1 ∧ (ddNodeAt diagram space 0).ref = 0xFFFF ∧ (ddNodeAt (spaced id [(hbmKey 0x400012, 2, 0)]) space 1).ref = 0 := by
  simp only [DdReady, DdEdge, DdSound, Quiet]; decide +kernel

/-- Weights of 1 for DDCOUNT; the largest and the smallest window of DDMASK. -/
theorem witness_diagram_tables :
    (let s := spaced (fun x => x.setX 2 0x800) ((List.range 8).map fun i => (scratchKey 0 (0x800 + 8 * i), 8, 0x3FF0000000000000))
     (s.cur.xr 2).toNat % 16 = 0 ∧ (s.cur.xr 2).toNat + 16 * space.vars ≤ 0x20000 ∧ space.vars ≤ 1023 ∧ ∀ i, i < 2 * space.vars → s.readLe (scratchKey s.curCore ((s.cur.xr 2).toNat + 8 * i)) 8 = 0x3FF0000000000000) ∧
    (∀ e ∈ [(0, 4, 15), (3, 1, 1)], let s := spaced (fun x => x.setX 2 0x1FFF0) [(scratchKey 0 0x1FFF0, 16, e.1 + (e.2.1 - 1) * 2 ^ 16 + e.2.2 * 2 ^ 64)]
      (s.cur.xr 2).toNat % 16 = 0 ∧ (s.cur.xr 2).toNat + 16 ≤ 0x20000 ∧ 1 ≤ e.2.1 ∧ e.2.1 ≤ 16 ∧ e.1 + e.2.1 ≤ space.vars ∧ e.2.2 < 2 ^ e.2.1 ∧
        s.readLe (scratchKey s.curCore (s.cur.xr 2).toNat) 16 = e.1 + (e.2.1 - 1) * 2 ^ 16 + e.2.2 * 2 ^ 64) := by decide +kernel

/-- No node at levels 1 and 2, which DDSWAP exchanges; the last level. -/
theorem witness_swap : (∀ i, 0 < i → i < 2 ^ space.nn → (ddNodeAt diagram space i).level ≠ 1 ∧ (ddNodeAt diagram space i).level ≠ 2) ∧ 1 + 1 < space.vars ∧ space.vars ≤ 3 + 1 ∧ space.alloc ≤ space.limit := by
  have h : ∀ i, i < 2 ^ space.nn → (ddNodeAt diagram space i).level ≠ 1 ∧ (ddNodeAt diagram space i).level ≠ 2 := by decide +kernel
  exact ⟨fun i _ => h i, by decide, by decide, by decide⟩

/-- A table of n free nodes from a key on, before the rest of a memory. -/
def freeNodes : Nat → Nat → List Host.Cell → List Host.Cell
  | _, 0, r => r
  | k, n + 1, r => (k, 0xFE) :: (k + 1, 0xFF) :: freeNodes (k + 16) n r

theorem memGet_freeNodes (e : Byte) (r : List Host.Cell) : ∀ (n k i : Nat), i < n →
    memGet e (freeNodes k n r) (k + 16 * i) = 0xFE ∧ memGet e (freeNodes k n r) (k + 16 * i + 1) = 0xFF
  | 0, _, _, h => absurd h (by omega)
  | n + 1, k, 0, _ => by simp [freeNodes, memGet]
  | n + 1, k, i + 1, h => by
    have ih := memGet_freeNodes e r n (k + 16) i (by omega)
    rw [show k + 16 + 16 * i = k + 16 * (i + 1) by omega] at ih
    simp only [freeNodes, memGet, show k ≠ k + 16 * (i + 1) by omega, show ¬ k + 16 * (i + 1) < k by omega, show k + 1 ≠ k + 16 * (i + 1) by omega,
      show ¬ k + 16 * (i + 1) < k + 1 by omega, show k ≠ k + 16 * (i + 1) + 1 by omega, show ¬ k + 16 * (i + 1) + 1 < k by omega,
      show k + 1 ≠ k + 16 * (i + 1) + 1 by omega, show ¬ k + 16 * (i + 1) + 1 < k + 1 by omega, if_false]
    exact ih

theorem memGet_append (e : Byte) (k : Nat) (r : List Host.Cell) : ∀ l : List Host.Cell, (∀ c ∈ l, c.1 < k) → memGet e (l ++ r) k = memGet e r k
  | [], _ => rfl
  | c :: l, h => by
    have hc := h c (by simp)
    obtain ⟨i, b⟩ := c
    simp only [List.cons_append, memGet, show i ≠ k by simp at hc; omega, show ¬ k < i by simp at hc; omega, if_false]
    exact memGet_append e k r l fun d hd => h d (by simp [hd])

/-- Two bytes at a node's key give its level. -/
theorem level_of_bytes (s : State) (d : Dds) (i : Nat) (h0 : s.byteAt (hbmKey (d.nodeBase + 16 * i)) = 0xFE) (h1 : s.byteAt (hbmKey (d.nodeBase + 16 * i) + 1) = 0xFF) :
    (ddNodeAt s d i).level = 0xFFFE := by
  simp only [ddNodeAt, State.readLe, State.bytesAt, upTo, List.range_succ, List.range_zero, List.nil_append, List.cons_append, List.map_cons, leNat, Nat.add_zero, h0, h1]
  have e0 : (0xFE : Byte).toNat = 254 := rfl
  have e1 : (0xFF : Byte).toNat = 255 := rfl
  rw [e0, e1]
  omega

/-- The diagram with every node but the terminal free; with node 1 unreferenced at level 0, in the bucket of its triple, and the others free. -/
def emptied : State := { diagram with mem := base.mem ++ [(hbmKey 0x400000, 0xFF), (hbmKey 0x400001, 0xFF), (hbmKey 0x400002, 0xFF), (hbmKey 0x400003, 0xFF)] ++ freeNodes (hbmKey 0x400010) 1023 [] }
def withDead : State :=
  { diagram with mem := base.mem ++ [(hbmKey 0x400000, 0xFF), (hbmKey 0x400001, 0xFF), (hbmKey 0x400002, 0xFF), (hbmKey 0x400003, 0xFF)] ++ freeNodes (hbmKey 0x400020) 1022 [(ddBucketKey space 0 0 0, 1)] }

theorem witness_nothing_to_collect : DdReady emptied space ∧ ∀ i, 0 < i → i < 2 ^ space.nn → ¬ ((ddNodeAt emptied space i).level < 0xFFFE ∧ (ddNodeAt emptied space i).ref = 0) := by
  refine ⟨by simp only [DdReady, Quiet]; decide +kernel, fun i h0 h1 => ?_⟩
  have hk : hbmKey (space.nodeBase + 16 * i) = hbmKey 0x400010 + 16 * (i - 1) := by simp only [hbmKey, space]; omega
  have hl : ∀ c ∈ base.mem ++ [(hbmKey 0x400000, (0xFF : Byte)), (hbmKey 0x400001, 0xFF), (hbmKey 0x400002, 0xFF), (hbmKey 0x400003, 0xFF)], c.1 < hbmKey 0x400010 := by decide +kernel
  have hm := memGet_freeNodes Config.emptyByte [] 1023 (hbmKey 0x400010) (i - 1) (by simp only [space] at h1; omega)
  rw [level_of_bytes emptied space i (by
      rw [hk, State.byteAt, emptied, memGet_append _ _ _ _ fun c hc => Nat.lt_of_lt_of_le (hl c hc) (by omega)]; exact hm.1) (by
      rw [hk, State.byteAt, emptied, memGet_append _ _ _ _ fun c hc => Nat.lt_of_lt_of_le (hl c hc) (by omega)]; exact hm.2)]
  simp

theorem witness_one_to_collect : DdReady withDead space ∧ (∀ i, 0 < i → i < 2 ^ space.nn → ((ddNodeAt withDead space i).level < 0xFFFE ∧ (ddNodeAt withDead space i).ref = 0 ↔ i = 1)) ∧
    (ddNodeAt withDead space 1).low % 2 ^ 31 = 0 ∧ (ddNodeAt withDead space 1).high % 2 ^ 31 = 0 ∧
    withDead.readLe (ddBucketKey space (ddNodeAt withDead space 1).level (ddNodeAt withDead space 1).low (ddNodeAt withDead space 1).high) 4 = 1 := by
  refine ⟨by simp only [DdReady, Quiet]; decide +kernel, fun i h0 h1 => ?_, by decide +kernel, by decide +kernel, by decide +kernel⟩
  by_cases hi : i = 1
  · subst hi
    exact ⟨fun _ => rfl, fun _ => by decide +kernel⟩
  have hk : hbmKey (space.nodeBase + 16 * i) = hbmKey 0x400020 + 16 * (i - 2) := by simp only [hbmKey, space]; omega
  have hl : ∀ c ∈ base.mem ++ [(hbmKey 0x400000, (0xFF : Byte)), (hbmKey 0x400001, 0xFF), (hbmKey 0x400002, 0xFF), (hbmKey 0x400003, 0xFF)], c.1 < hbmKey 0x400020 := by decide +kernel
  have hm := memGet_freeNodes Config.emptyByte [(ddBucketKey space 0 0 0, 1)] 1022 (hbmKey 0x400020) (i - 2) (by simp only [space] at h1; omega)
  rw [level_of_bytes withDead space i (by
      rw [hk, State.byteAt, withDead, memGet_append _ _ _ _ fun c hc => Nat.lt_of_lt_of_le (hl c hc) (by omega)]; exact hm.1) (by
      rw [hk, State.byteAt, withDead, memGet_append _ _ _ _ fun c hc => Nat.lt_of_lt_of_le (hl c hc) (by omega)]; exact hm.2)]
  exact ⟨fun h => absurd h.1 (by decide), fun h => absurd h hi⟩

/-- Descriptors of DDINIT at both ends of its fields; writes of DDORD with a reserved bit and without, with nodes and without. -/
theorem witness_diagram_setup :
    (user.launchOf user.curCore).privileged = false ∧
    (let s := poked (at_ fun x => x.setX 1 0x1FFC0) [(scratchKey 0 0x1FFC0, 64, 10 * 2 ^ 47 + 10 * 2 ^ 52 + 2 ^ 57 + 0x400000 * 2 ^ 192 + 0x404000 * 2 ^ 256)]
     (s.launchOf s.curCore).privileged = true ∧ (s.launchOf s.curCore).deterministic = false ∧ (s.launchOf s.curCore).shadows = [] ∧ s.curK.holds = true ∧ Quiet s ∧ FullAt s [1] ∧ s.bad = [] ∧ s.weak = [] ∧
       Memory.wf s.mem = true ∧ (s.cur.xr 1).toNat % 64 = 0 ∧ (s.cur.xr 1).toNat + 64 ≤ 0x20000 ∧
       s.readLe (scratchKey s.curCore (s.cur.xr 1).toNat) 64 = (1 - 1) + 10 * 2 ^ 47 + 10 * 2 ^ 52 + 1 * 2 ^ 57 + 0 * 2 ^ 62 + 0 * 2 ^ 64 + 0x400000 * 2 ^ 192 + 0x404000 * 2 ^ 256 ∧
       0x400000 + 16 * 2 ^ 10 ≤ 0x404000 ∧ tget s.spaces 0 = none ∧ (s.part 0).qreqs = [] ∧ (s.die 0).cacheBlocks + 1 ≤ 16) ∧
    (0x0FFF0FFF0FFF0FFF#64) &&& 0xF000F000F000F000 = 0 ∧ (0x1000#64) &&& 0xF000F000F000F000 ≠ 0 ∧ base.running 0 = true ∧ (1023 : Nat) < 1024 ∧
    tget base.spaces 0 = none ∧ tget diagram.spaces 0 = some space ∧ space.alloc ≠ 0 ∧ space.limit < 2 ^ 31 := by
  simp only [FullAt, Quiet]; decide +kernel

/-- Two equal children and two different ones, with the first free node's level free and chains and buckets inside the table. -/
theorem witness_make_node : DdReady diagram space ∧ (ddNodeAt diagram space space.freeHead).level = 0xFFFE ∧ (0x80000001 : Nat) < 2 ^ 32 ∧ 3 < space.vars ∧ 0x80000001 % 2 ^ 31 < 2 ^ space.nn ∧
    (∀ i, i < 2 ^ space.nn → (ddNodeAt diagram space i).chain < 2 ^ space.nn) ∧ (∀ b, b < 2 ^ space.nb → diagram.readLe (hbmKey (space.bktBase + 4 * b)) 4 < 2 ^ space.nn) := by
  refine ⟨by simp only [DdReady, Quiet]; decide +kernel, by decide +kernel, by decide, by decide, by decide, by decide +kernel, by decide +kernel⟩
/-! ## Witnesses: translation, held accesses, peers, errors, clocks -/

/-- Tables at 0x20000, 0x21000, 0x22000 that map virtual address 0x8000000000 to the last frame of device memory and the page after it to the frame before, writable, in addition to
the launch's own. -/
def tables : State := poked base [(hbmKey (hostedTable + 8), 8, 0x20000 + 1), (hbmKey 0x20000, 8, 0x21000 + 1), (hbmKey 0x21000, 8, 0x22000 + 1), (hbmKey 0x22000, 8, 0x5FFFFF0000 + 3 + 4 * 1),
  (hbmKey 0x22008, 8, 0x5FFFFE0000 + 3 + 4 * 1), (hbmKey (hostedTable + 16), 8, 3)]

theorem witness_walks :
    tables.bad = [] ∧ tables.running 0 = true ∧ (tables.part 0).launch.ptbase = hostedTable ∧ ((withLaunch fun l => { l with ptbase := 0x6000000000 }).part 0).launch.ptbase = 0x6000000000 ∧
    (let e := fun (t i : Nat) => tables.readLe (hbmKey (t + 8 * i)) 8
     e hostedTable (0x8000000000 / 2 ^ 39 % 512) = 0x20000 + 1 ∧ e 0x20000 (0x8000000000 / 2 ^ 30 % 512) = 0x21000 + 1 ∧ e 0x21000 (0x8000000000 / 2 ^ 21 % 512) = 0x22000 + 1 ∧
       e 0x22000 (0x8000000000 / 2 ^ 16 % 32) = 0x5FFFFF0000 + 3 + 4 * 1 ∧ e hostedTable (0x10000000000 / 2 ^ 39 % 512) % 4 = 3 ∧ e hostedTable 3 % 2 = 0) ∧
    (tables.die 0).walks = [] ∧ (tables.core 0).asid = some 0 ∧ (tables.core 0).tlb = [] ∧ (tables.bay (tlbBay 0)).tlb = [] ∧
    (let w := walk tables 0 0 0x8000000000
     w.res = .page 3 0x5FFFFF0000 true false ∧ (tables.die 0).walks.length + w.path.length ≤ 256) ∧ (walk tables 0 0 0x18000000000).res = .fail 0 := by decide +kernel

/-- An entry in the walk cache is used where the walker's free choice takes it. -/
def walkCached : State := tables.modDie 0 fun d => { d with walks := [{ asid := 0, level := 0, pre := 1, table := 0x20000 }] }
theorem witness_walk_cache (h : Config.useCached (Nat.pair walkCached.freshCount (Nat.pair 2 1)) = true) : walkCached.cachedTable 0 0 0 1 = some 0x20000 := by
  show (if Config.useCached (Nat.pair walkCached.freshCount (Nat.pair 2 1)) then some 0x20000 else none) = some 0x20000
  rw [if_pos h]

/-- An open notification of a held load of thread 0, its record written or not, a stalled access, none at all. -/
def heldAccess : Held :=
  { hid := 9, asid := 0, space := 4, peer := 0, vag := 0x1800000, addr := 0x18000000000, reason := 0, kind := .load, cause := .xlate, va := 0x4000018000000000, size := 8, who := .thread base.cur.uid }
def notification : Notif := { hid := 9, asid := 0, space := 4, peer := 0, vag := 0x1800000, reason := 0, fetch := false, kind := .load, cause := .xlate, written := false }
def holding : State := (at_ fun x => { x with wait := .held }).modDie 0 fun d => { d with held := [heldAccess], notifs := [notification], stalled := [heldAccess] }

theorem witness_holds :
    let d := holding.die 0
    d.notifs.find? (fun n => !n.written) = some notification ∧ d.nringFull = false ∧ (d.held.filter fun h => h.hid == 9) = [heldAccess] ∧ heldAccess.who = .thread base.cur.uid ∧
    holding.findUnit base.cur.uid = some (0, 0) ∧ (holding.ctx 0 0).wait = .held ∧ d.stalled = [heldAccess] ∧ d.held.length < 4096 ∧ d.notifs.find? (fun m => m.hid == 9) = some notification ∧
    d.notifs.find? (fun m => m.hid == 8) = none ∧ d.notifs.filter (fun m => m.asid == 0) = [notification] ∧ d.notifs.filter (fun m => m.asid == 1) = [] ∧ notification.hid < 2 ^ 16 ∧ notification.vag < 2 ^ 32 ∧
    (let tried := holding.modDie 0 fun e => { e with stalled := [] }
     heldAccess.space = 4 ∧ tried.stillFails 0 heldAccess = some 0 ∧ tried.stillFails 0 { heldAccess with addr := 0x200000 } = none) := by decide +kernel

/-- An accepted invalidation that covers a timed access on its way, and one that does not; one behind a system core's store that waits at an ATE, and behind an inbound access of a peer. -/
def invalidation (asid : Nat) : InvCmd := { seq := 4, scope := 0, asid := asid, va := 0x200000, bytes := 65536, dies := 15, stamp := 9, cycle := 0, rma := 0, removed := true }
def timedOnItsWay : State := (base.modDie 0 fun d => { d with invPend := [invalidation 0] }).modTimed (homeOf devKey) fun b => { b with
  incoming := [{ store := true, loc := devKey, size := 8, data := 0, t := 0, skew := 0, uid := base.cur.uid, tid := 0, core := 0, thread := 0, reg := 0, va := devAddr, dlmode := 0, throttle := false, unlocked := false, arr := 0, onTime := true, order := 3, op := 0, peer := none }] }
theorem witness_invalidations : (timedOnItsWay.die 0).invPend = [invalidation 0] ∧ timedOnItsWay.invWaits (invalidation 0) = true ∧ timedOnItsWay.invWaits (invalidation 1) = false ∧ (2 : Nat) < 3 ∧
    (let i := { invalidation 0 with removed := false }
     let s := base.modDie 0 fun d => { d with invPend := [i] }
     let stored := s.modBay (homeBay devKey) fun b => { b with ate := { b.ate with input := [{ arrival := 0, rank := 40000, op := .sys devKey 8 true 0 0 }] } }
     (s.die 0).invPend = [i] ∧ i.removed = false ∧ s.sysStoresOut i = false ∧ (stored.die 0).invPend = [i] ∧ stored.sysStoresOut i = true) ∧
    0 < ({ invalidation 0 with rma := 1 } : InvCmd).rma := by
  decide +kernel

/-- A request to a peer of the issuing thread: a store, a load to x, to f, of bytes that a wide read takes; inbound accesses that translate, over one page or two, and one that does not. -/
def toPeer (write fp : Bool) (size : Nat) : RemoteReq :=
  { id := 5, asid := 0, uid := base.cur.uid, core := 0, thread := 0, port := 0, write := write, fp := fp, va := 0x5001000000000000, size := size, signed := false, dest := 3, value := 0, timed := none,
    copy := none, mask := 0, held := false }
def asked (r : RemoteReq) : State := base.modPkg fun p => { p with remotes := [r] }
def inboundReq (write : Bool) (va : Word) (timed : Option RmaTime) : RmaReq := { asid := 0, va := va, write := write, size := 8, data := leBytes 8 1, timed := timed }
def inbound (q : RmaReq) : State := tables.modPkg fun p => { p with rmaIn := [q] }

theorem witness_peers :
    (∀ e ∈ [(true, false, 8, false), (false, false, 8, true), (false, true, 8, false), (false, false, 64, false)], let r := toPeer e.1 e.2.1 e.2.2.1
      (asked r).pkg.remotes.find? (fun q => q.id == 5 && !q.held && (asked r).remoteTurn q) = some r ∧ r.copy = none ∧ r.timed = none ∧ (asked r).findUnit r.uid = some (0, 0) ∧ r.goneOn = e.2.2.2) ∧
    base.pkg.remotes.find? (fun r => r.id == 5 && !r.held && base.remoteTurn r) = none ∧ (base.thr 0 0).running = true ∧ (base.die (coreDie 0)).held.length < 4096 ∧ (base.die (coreDie 0)).stalled = [] ∧
    coreDie 0 < 4 ∧ (1 : Nat) ≠ 0 ∧ (8 : Nat) < 64 ∧ base.running 1 = false := by decide +kernel

theorem witness_inbound :
    (∀ w ∈ [false, true], ∀ tm ∈ [none, some { t := 7, bound := 3, throttle := false }], let q := inboundReq w 0x4000008000000000 tm
      (inbound q).pkg.rmaIn = [q] ∧ q.sent = false ∧ q.data.length = 8 ∧ 0 < q.size ∧ (inbound q).rmaPieces q.asid q.va.toNat q.write q.size = .ok [(hbmKey 0x5FFFFF0000, 8)] ∧
        ((lineParts [(hbmKey 0x5FFFFF0000, 8)]).all fun p => !(inbound q).lineHeld p.1) = true) ∧
    (inbound (inboundReq false 0x4000008000000000 none)).turns = [] ∧ tables.putsOut 0 0 = false ∧ tables.bad = [] ∧ tables.weak = [] := by
  decide +kernel

/-- Inbound writes over two pages, one that is sent already, with its writes out and not, and a read that does not translate. -/
theorem witness_inbound_sent :
    (let q := inboundReq true 0x400000800000FFFC none
     (inbound q).rmaPieces q.asid q.va.toNat q.write q.size = .ok [(hbmKey 0x5FFFFFFFFC, 4), (hbmKey 0x5FFFFE0000, 4)] ∧
       ((lineParts [(hbmKey 0x5FFFFFFFFC, 4), (hbmKey 0x5FFFFE0000, 4)]).all fun p => !(inbound q).lineHeld p.1) = true) ∧
    (let q := { inboundReq true 0x4000008000000000 none with sent := true }
     let waits := (inbound q).modBay (homeBay devKey) fun b => { b with ate := { b.ate with input := [{ arrival := 0, rank := 1, op := .put devKey 8 0 0 0 0 }] } }
     q.sent = true ∧ (inbound q).putsOut 0 0 = false ∧ waits.putsOut 0 0 = true ∧ waits.pkg.rmaIn = [q]) ∧
    (let q := inboundReq false 0x4000018000000000 none
     (walk (inbound q) 0 q.asid (q.va.toNat % 2 ^ 48)).res = .fail 0) := by decide +kernel

/-- A granule of device memory with an uncorrectable error, a correctable one and none, with the log empty, with an earlier error in it and with one of the same cycle. -/
theorem witness_errors :
    let s := { base with bad := [hbmKey 0x200000], weak := [hbmKey 0x200040] }
    s.granuleSize (hbmKey 0x200000) = 64 ∧
    let logged := fun (at_ : Nat) => s.modDie 0 fun d => { d with eccstat := 1, eccaddr := BitVec.ofNat 64 (hbmKey 0x200040), eccAt := at_ }
    (hbmKey 0x200000) % s.granuleSize (hbmKey 0x200000) = 0 ∧ keyDie (hbmKey 0x200000) = 0 ∧ hbmKey 0x200000 ∈ s.bad ∧ hbmKey 0x200040 ∉ s.bad ∧ hbmKey 0x200040 ∈ s.weak ∧ hbmKey 0x200080 ∉ s.bad ∧
    hbmKey 0x200080 ∉ s.weak ∧ (s.die 0).eccstat.getLsbD 0 = false ∧ ((logged 0).die 0).eccstat.getLsbD 0 = true ∧
    ((logged (s.cycle + 1)).die 0).eccAt ≠ (logged (s.cycle + 1)).cycle ∧ ((logged s.cycle).die 0).eccAt = (logged s.cycle).cycle ∧ hbmKey 0x200000 < ((logged s.cycle).die 0).eccaddr.toNat := by decide +kernel

/-- The dies' clocks in each state, at the bounds of SKEWB: a quarter in RELOCK, a half in LOCKED, one beyond; counts are equal, so OFFS is half the difference of the transit times. -/
def clocked (st : GtuState) (good bad : Nat) : State := State.reset.modDie 0 fun d => { d with gtu := { d.gtu with state := st, good := good, bad := bad } }
theorem witness_clocks :
    (∀ st ∈ [GtuState.free, .holdover, .relock, .locked], let s := clocked st 15 3
      s.pkg.minimal = false ∧ (s.die 0).gtu.state = st ∧ 15 ≤ (s.die 0).gtu.good ∧ 3 ≤ (s.die 0).gtu.bad ∧ (s.die 0).gtu.count.toNat = s.pkg.gmCount.toNat ∧ s.pkg.skewb = 32) ∧
    ((clocked .relock 14 2).die 0).gtu.good < 15 ∧ ((clocked .relock 14 2).die 0).gtu.bad < 3 ∧
    exchangeOffs 0 0 5 (0 + 0 + 5 + 16) = 8 ∧ exchangeOffs 0 18 18 18 = -9 ∧ 4 * (8 : Int).natAbs ≤ 32 ∧ 32 < 4 * (-9 : Int).natAbs ∧
    exchangeOffs 0 32 32 32 = -16 ∧ exchangeOffs 0 0 0 34 = 17 ∧ 2 * (-16 : Int).natAbs ≤ 32 ∧ 32 < 2 * (17 : Int).natAbs ∧ exchangeOffs 0 1 1 1 < 0 := by decide +kernel

/-- Grandmasters: disciplined from outside at port 3, domain 7, with the protocol's progress `q`, and a session that was granted interface 4 and one that was not. -/
def disciplined (q : Ptp) : State := State.reset.modPkg fun p => { p with
  ext := true, extPort := 3, extDomain := 7, extAllow := 40, skewxValid := true, skewxBound := 100, ptp := q, sessions := [{ id := 1, ifaces := [(4, some 0)] }, { id := 2, ifaces := [(4, none)] }] }
def following : Ptp := { Ptp.reset with best := some ([9], 2), syncSeq := some 6, syncOut := none, reqSeq := 6, reqOut := some 5, delay := some 2, offset := some (-7) }
theorem witness_grandmaster :
    let s := disciplined following
    s.pkg.minimal = false ∧ (s.pkg.sessions.find? (fun x => x.id == 1)) = some { id := 1, ifaces := [(4, some 0)] } ∧ (s.pkg.sessions.find? (fun x => x.id == 2)) = some { id := 2, ifaces := [(4, none)] } ∧
    s.pkg.sessions.find? (fun x => x.id == 3) = none ∧ (3 : Nat) < 16 ∧ s.pkg.ext = true ∧ s.pkg.extPort = 3 ∧ s.pkg.extDomain = 7 ∧ State.reset.pkg.ext = false ∧
    (disciplined Ptp.reset).pkg.ptp.best = none ∧ (disciplined Ptp.reset).pkg.ptp.delay = none ∧ (disciplined Ptp.reset).pkg.ptp.offset = none ∧
    s.pkg.ptp.best = some ([9], 2) ∧ lexLt [8] [9] = true ∧ lexLt [9] [9] = false ∧ s.pkg.ptp.syncSeq = some 6 ∧ s.pkg.ptp.syncOut = none ∧ s.pkg.ptp.delay = some 2 ∧ s.pkg.ptp.reqOut = some 5 ∧
    (disciplined { following with syncOut := some 1 }).pkg.ptp.syncOut = some 1 ∧ s.pkg.ptp.reqSeq = 6 ∧ s.pkg.ptp.offset = some (-7) ∧
    (s.pkg.skewxBound ≠ 0 ∧ s.pkg.skewxBound < (101 : Int).natAbs) ∧ ¬ s.pkg.skewxBound < (-100 : Int).natAbs ∧ (-16000000 : Int) ≤ -16000000 ∧ (-16000001 : Int) < -16000000 ∧
    BitVec.ofInt 64 (-(-16000001 : Int)) ≠ 0 := by decide +kernel

/-! ## Witnesses: queues, launches, quanta -/

/-- A queue of four descriptors at 0x300000 with its control block at 0x310000, known to the launch, mapped to slot 0 or not. -/
def qcbAt : Nat := 0x310000
def withQueue (mapped : Bool) (head tail : Nat) : State :=
  let s := poked base [(hbmKey qcbAt, 8, 0x300000), (hbmKey (qcbAt + 8), 8, head + tail * 2 ^ 32), (hbmKey (qcbAt + 24), 8, 2 ^ 32 + 2 * 2 ^ 39 + 5 * 2 ^ 52)]
  s.modSched 0 fun q => { q with
    queues := [{ qid := 5, qcb := qcbAt, pendSince := none }]
    slots := if mapped then vset q.slots 0 { Hqs.reset with v := true, qcb := qcbAt, qid := 5, logsz := 2, ring := 0x300000, head := head, tail := tail } else q.slots }

theorem witness_queues :
    (let s := withQueue true 0 1
     s.running 0 = true ∧ (s.part 0).active = true ∧ (s.part 0).launch.deterministic = false ∧ (s.part 0).sched.queues.find? (fun u => u.qid == 5) = some { qid := 5, qcb := qcbAt, pendSince := none } ∧
       s.slotOfQcb 0 qcbAt = some 0 ∧ (s.hqs 0 0).tail = 1 ∧ (s.hqs 0 0).logsz = 2 ∧ (4 + 2 ^ 32 - 0) % 2 ^ 32 ≤ 2 ^ 2 ∧ 2 ^ 2 < (5 + 2 ^ 32 - 0) % 2 ^ 32 ∧ (4 + 2 ^ 32 - 1) % 2 ^ 32 < 2 ^ 31 ∧ (s.hqs 0 0).v = true) ∧
    (let s := withQueue false 0 1
     s.slotOfQcb 0 qcbAt = none ∧ s.qcbV qcbAt = true ∧ s.qcbTail qcbAt = 1 ∧ s.qcbLogsz qcbAt = 2 ∧ s.qcbHead qcbAt = 0 ∧ (s.hqs 0 15).v = false ∧ (4 + 2 ^ 32 - s.qcbHead qcbAt) % 2 ^ 32 ≤ 2 ^ s.qcbLogsz qcbAt) ∧
    (det.part 0).launch.deterministic = true ∧ (det.part 0).active = true := by decide +kernel

/-- A ready head whose descriptor makes a root; a task queue with an entry and a pull. -/
theorem witness_selection :
    (let s := (poked (withQueue true 0 1) [(hbmKey 0x300000, 8, 0x4000000000100000), (hbmKey 0x300008, 8, 0xFFFF * 2 ^ 32)]).modHqs 0 0 fun h => { h with readySince := some 0 }
     let s1 := s.refreshHeads 0
     let d := s.descrAt 0x300000
     s.selectSlot 0 = some 0 ∧ s1.selectSlot 0 = some 0 ∧ s1.selectTime 0 = true ∧ (s.hqs 0 0).headAt = 0x300000 ∧ s.badIn (hbmKey 0x300000) 64 = none ∧ (s.part 0).launch.malformed d = false ∧
       (s.part 0).sched.rootCount < 2 ^ 32 ∧ Memory.wf s.mem = true ∧ s.lcoreCore 0 ((nth 0 d 1).toNat / 2 ^ 32 % 2 ^ 16) = none) ∧
    (base.refreshHeads 0).selectSlot 0 = none ∧
    (let e : TaskEntry := { age := 0, root := false, peg := noPeg }
     let s := base.modSched 0 fun q => { q with pulls := [(0, 0)], taskq := [e] }
     (s.part 0).sched.pulls = [(0, 0)] ∧ (s.part 0).sched.firstTask = some e) := by decide +kernel

/-- A request that may start on bent 0 of a machine with its clocks locked, with a reserve bent; the launch that stands in for a load, stopping, frozen, and without progress. -/
theorem witness_launches :
    (let r : LaunchReq := { asid := 0, bents := [0], reserve := [1], gateways := [], launch := hostedLaunch, slott := 0, queues := [], diagram := 0, clear := [], rplctl := 0, rplbase := 0, rpllen := 0 }
     let s := (State.reset.modDie 0 fun d => { d with gtu := { d.gtu with state := .locked } }).modPkg fun p => { p with launchReqs := [r] }
     s.pkg.launchReqs.find? (fun r => s.launchReady r) = some r ∧ (r.cores ++ r.spares).Nodup ∧ (∀ c ∈ r.cores, c < 4608)) ∧
    base.pkg.launchReqs.find? (fun r => base.launchReady r) = none ∧
    (let s := (at_ fun _ => Ctx.reset).modPart 0 fun p => { p with stopping := true, halts := [{ quantum := 0, time := 5, lcore := 0, cycle := 3, status := 7 }, { quantum := 0, time := 5, lcore := 1, cycle := 3, status := 8 }] }
     let s := s.modThr 0 0 fun t => { t with running := false }
     s.running 0 = true ∧ (s.part 0).stopping = true ∧ (s.part 0).frozen = false ∧ s.launchSettled 0 = true ∧ (s.part 0).launch.deterministic = false ∧
       (s.modPart 0 fun p => { p with frozen := true }).launchSettled 0 = true ∧ ∀ g ∈ (s.part 0).halts, g ≠ { quantum := 0, time := 5, lcore := 0, cycle := 3, status := 7 } → (5 : Nat) < g.time.toNat ∨ (5 = g.time ∧ 0 < g.lcore)) ∧
    (let s := { (base.modPart 0 fun p => { p with wdcfg := 1 }) with cycle := 1200 }
     (s.part 0).stopping = false ∧ (s.part 0).wdcfg.toNat % 2 ^ 32 ≠ 0 ∧ (s.part 0).wdLast + 1200 * ((s.part 0).wdcfg.toNat % 2 ^ 32) ≤ s.cycle ∧ ∀ d, d < 4 → ∀ e ∈ (s.die d).slots, e.2.asid ≠ 0) := by decide +kernel

/-- A quantum that every core has ended, with nothing to serve; one that is not over; a BQTAKE to serve of an object with blocks left and with none. -/
theorem witness_quanta :
    (let s := det.modCore 0 fun k => { k with det := { k.det with ended := 1 } }
     let p := s.part 0
     s.running 0 = true ∧ p.launch.deterministic = true ∧ p.stopping = false ∧ p.frozen = false ∧ p.dbg.rplctl = 0 ∧ s.quantumOver 0 = true ∧ p.qreqs = [] ∧ p.sched.kicks = [] ∧ p.sched.pulls = [] ∧
       p.sdir.closable = false ∧ p.sdir.cells = [] ∧ (∀ i, i < 16 → (s.hqs 0 i).v = false ∧ (s.hqs 0 i).readySince = none) ∧ (∀ d, d < 4 → (s.die d).slots = []) ∧
       ∀ c ∈ s.launchCores 0, p.sched.quanta < (s.core c).det.ended) ∧ det.quantumOver 0 = false ∧
    (let r : QReq := { core := 0, thread := 0, uid := base.cur.uid, lcore := 0, quantum := 0, dest := 3, op := .bqtake devKey devAddr }
     let s := poked (det.modPart 0 fun p => { p with qreqs := [r] }) [(devKey + 8, 8, 1)]
     r.op = .bqtake devKey devAddr ∧ r ∈ (s.part 0).qreqs ∧ s.readLe devKey 8 < s.readLe (devKey + 8) 8 ∧ det.readLe (devKey + 8) 8 ≤ det.readLe devKey 8) := by decide +kernel
/-! ## Witnesses: stops, slots, migration -/

/-- A word where thread 0 fetches. -/
def fetching (w : Nat) : State := base.withFetchWord 32 w

/-- A slot of a die that holds the launch's unit, and a full context storage. -/
def slotOf (kind : Nat) (x : Ctx) : Slot :=
  { ctx := x, kind := kind, cause := 0x10, more := false, det := {}, asid := 0, lcore := 0, core := 0, thread := 0, resumeAt := none, resumeOn := 0 }
def slotted (kind : Nat) (f : Ctx → Ctx) : State := base.modDie 0 fun d => { d with slots := [(0, slotOf kind (f base.cur))] }

def fullSlots : Nat → Tbl Slot
  | 0 => []
  | n + 1 => (n, slotOf 0 base.cur) :: fullSlots n

theorem tget_fullSlots : ∀ n i, i < n → tget (fullSlots n) i = some (slotOf 0 base.cur)
  | 0, _, h => absurd h (by omega)
  | n + 1, i, h => by
    by_cases hi : n = i
    · simp [fullSlots, tget, hi]
    · simp only [fullSlots, tget, hi, if_false]
      exact tget_fullSlots n i (by omega)

/-- The context storage of the die is full. -/
theorem witness_no_slot : tfree ((base.modDie 0 fun d => { d with slots := fullSlots 4096 }).die 0).slots 4096 = none := by
  have h : ((base.modDie 0 fun d => { d with slots := fullSlots 4096 }).die 0).slots = fullSlots 4096 := rfl
  rw [h, tfree, List.find?_eq_none]
  intro i hi
  rw [tget_fullSlots 4096 i (by simpa [upTo] using hi)]
  simp

theorem witness_stops :
    (base.ctx 0 0).kind = .task ∧ (base.ctx 0 0).w1.toNat / 2 ^ 57 % 2 = 0 ∧ coreDie 0 < 4 ∧ tfree (base.die 0).slots 4096 = some 0 ∧ (base.die 0).stopWait = [] ∧
    (tgetD (base.die 0).stopRing (base.die 0).stopNext 0).getLsbD 127 = false ∧ tfree (slotted 0 id |>.die 0).slots 4096 = some 1 := by decide +kernel

/-- A stopped thread that is the oldest, one that is not, a record that waits with the ring's entry free and taken. -/
theorem witness_stops_wait :
    (let st : Stopped := { kind := 0, cause := 0x10, det := {}, age := 5 }
     let s := base.modThr 0 0 fun t => { t with running := false, stopped := some st }
     (s.thr 0 0).stopped = some st ∧ st.kind ≠ 1 ∧ s.oldestStopped 0 = some (0, 0) ∧ tfree (s.die 0).slots 4096 = some 0 ∧ (s.ctx 0 0).kind = .task ∧ (s.ctx 0 0).w1.toNat / 2 ^ 57 % 2 = 0 ∧ s.oldestStopped 0 ≠ some (0, 1)) ∧
    (let r : StopRec := { kind := 0, slot := 0, cause := 0x10, asid := 0, lcore := 0, tid := 0, thr := some 1 }
     let s := base.modDie 0 fun d => { d with stopWait := [r] }
     r.thr = some 1 ∧ r.sc = none ∧ base.lcoreCore r.asid r.lcore = some 0 ∧
     (s.die 0).stopWait = [r] ∧ (s.die 0).ringBlocked = false ∧ ((s.modDie 0 fun d => { d with stopRing := [(0, BitVec.ofNat 128 (2 ^ 127))] }).die 0).ringBlocked = true) := by decide +kernel

/-- Slots of each kind, an empty one, of the launch and of another; a deterministic launch. -/
theorem witness_slots :
    (∀ kind ∈ [0, 1, 2, 3, 4], tget ((slotted kind id).die 0).slots 0 = some (slotOf kind base.cur)) ∧ tget (base.die 0).slots 0 = none ∧ base.lcoreCore 0 0 = some 0 ∧ (slotOf 3 base.cur).asid ≠ 1 ∧
    (base.part 0).launch.deterministic = false ∧ (det.part 0).launch.deterministic = true ∧ base.running 0 = true ∧ (slotOf 0 base.cur).ctx.kind = .task ∧ (slotOf 0 base.cur).ctx.w2 = 0 ∧
    (let w := devAddr
     w ≠ 0 ∧ base.rootRecord 0 w = false ∧ w.toNat % 16 = 0 ∧ 1 ≤ w.toNat / 2 ^ 60 ∧ w.toNat / 2 ^ 60 ≤ 4 ∧ base.check (base.agent (base.slotCore (slotOf 0 base.cur))) .atomic 8 8 w = .ok (.mem devKey)) ∧
    (slotOf 1 { base.cur with kind := .handler 1 0 16 0 0 0 }).ctx.kind = .handler 1 0 16 0 0 0 ∧ (slotOf 1 { base.cur with kind := .refusal 0 0 0 0 }).ctx.kind = .refusal 0 0 0 0 := by decide +kernel

/-- Threads to deschedule: running, waiting, idle; thread 3 and 4; a launch and an LCORE that do not exist. -/
theorem witness_deschedule :
    base.lcoreCore 0 0 = some 0 ∧ base.lcoreCore 0 1 = none ∧ base.running 0 = true ∧ base.running 1 = false ∧ (base.thr 0 0).running = true ∧ (base.ctx 0 0).wait = .no ∧ (base.thr 0 3).running = false ∧
    (3 : Nat) < 4 ∧ (let x := (at_ fun x => { x with wait := .twait 9 }).ctx 0 0
     x.wait ≠ .no ∧ x.stopsDue = []) ∧
    (let p : Pending := { cause := .genabandon, det := {} }
     let x := (at_ fun x => { x with wait := .twait 9, pend := [p] }).ctx 0 0
     x.wait ≠ .no ∧ x.pend = [p] ∧ p.late = false ∧ p.eng = false ∧ x.badRegs = [] ∧ p.cause ≠ .dlmiss) := by decide +kernel

/-- Threads at whose boundary no stop is due, at which a deschedule is, and at which an access is to go on. -/
theorem witness_boundary :
    (base.thr 0 3).running = false ∧ (base.thr 0 0).running = true ∧ (base.ctx 0 0).stopsDue = [] ∧ (base.ctx 0 0).desched = false ∧
    (let s := fetching 0x00000041
     let s := s.modCur fun x => { x with desched := true }
     (s.ctx 0 0).stopsDue = [] ∧ (s.ctx 0 0).desched = true ∧ (s.ctx 0 0).redo = none ∧ (s.preciseStop 0 0).isNone = true) ∧
    ((at_ fun x => { x with redo := some { word := 0x41, va := devAddr, addr := 0x200000 } }).ctx 0 0).redo ≠ none := by decide +kernel

/-- A launch with core 0 at work and bent 1, cores 2, 3, 34 and 35, in reserve; the same while core 0 moves, and after. -/
def reserve : State := [2, 3, 34, 35].foldl (fun s c => s.modCore c fun k => { k with asid := some 0, holds := false }) (withLaunch fun l => { l with mask := [0, 1] })

theorem witness_migration :
    reserve.running 0 = true ∧ reserve.lcoreCore 0 0 = some 0 ∧ reserve.lcoreCore 0 1 = none ∧ reserve.reserveBent 0 2 = true ∧ reserve.reserveBent 0 1 = false ∧ (reserve.movesOf 0 0 0 2).map (fun m => (m.src, m.dst)) = [(0, 2)] ∧
    (reserve.core 0).migrating = none ∧ (reserve.core 0).holds = true ∧
    (let s := reserve.modCore 0 fun k => { k with migrating := some 2 }
     (s.core 0).migrating = some 2 ∧ (s.movesTo 2).map (fun m => (m.src, m.dst)) = [(0, 2)] ∧ (s.core 0).migDie = 0 ∧ (s.core 0).asid = some 0 ∧ (s.core 0).lcore = 0 ∧ Memory.wf s.mem = true ∧ s.bad = [] ∧ s.mustFinish 0 = false ∧
       (s.modCore 0 fun k => { k with mq := [{ cmd 0x12 0 0 0 0 with pos := 1 }] }).mustFinish 0 = true) ∧
    (let m : Msg := { kind := 0, chan := 1, stid := 0, seq := 0, slc := 0, payload := [], fromCore := 0, fromThread := 0, fromUid := 1, target := 0, window := 0 }
     let s := reserve.modCore 0 fun k => { k with scarf := some 2, holds := false, inbound := [m] }
     (s.core 0).scarf = some 2 ∧ (s.core 0).holds = false ∧ (s.core 0).inbound = [m] ∧ ((s.modCore 0 fun k => { k with inbound := [] }).core 0).scarfQueue = 0) ∧ (base.core 0).scarf = none := by decide +kernel

/-- A system core at work, frozen and halted, with the ring of records free and not. -/
theorem witness_double_faults :
    (base.die 0).stopWait = [] ∧ (base.die 0).ringBlocked = false ∧ ((base.modDie 0 fun d => { d with stopRing := [(0, BitVec.ofNat 128 (2 ^ 127))] }).die 0).ringBlocked = true ∧
    let s := fun (halted frozen : Bool) => base.modPkg fun p => { p with sysCores := vset p.sysCores 7 { SysCore.reset with halted := halted, frozen := frozen } }
    ∀ e ∈ [(true, false), (false, false), (false, true)], (vget (s e.1 e.2).pkg.sysCores 7 SysCore.reset).halted = e.1 ∧ (vget (s e.1 e.2).pkg.sysCores 7 SysCore.reset).frozen = e.2 := by decide +kernel

/-! ## Witnesses: debug, registers, power, start, service, sideband -/

/-- Monitors: enabled with rising edges and a sample below the first, at one, and at the last; not enabled; a reserved source. -/
def monitored (cfg : Word) : State :=
  base.modPart 0 fun p => { p with dbg := { p.dbg with mons := vset p.dbg.mons 3 { Monitor.reset with cfg := cfg, edges := #v[0x0004000300020001, 0x0008000700060005, 0x000C000B000A0009, 0x000F000E000D] } } }
theorem witness_monitors :
    let m := vget ((monitored 0x8000000000000000).part 0).dbg.mons 3 Monitor.reset
    let edge := fun (i : Nat) => (vget m.edges (i / 4) 0).toNat / 2 ^ (16 * (i % 4)) % 2 ^ 16
    m.cfg.getLsbD 63 = true ∧ m.cfg.toNat / 2 ^ 59 % 16 < 8 ∧ 0 < edge 0 ∧ (∀ j, j < 14 → edge j ≤ edge (j + 1)) ∧ edge (1 - 1) ≤ 1 ∧ 1 < edge 1 ∧ edge (14 - 1) ≤ 14 ∧ 14 < edge 14 ∧ (∀ i, i < 15 → edge i ≤ min 70000 65535) ∧
    (vget ((monitored 0).part 0).dbg.mons 3 Monitor.reset).cfg.getLsbD 63 = false ∧ 8 ≤ (0xC000000000000000#64).toNat / 2 ^ 59 % 16 := by decide +kernel

/-- Legal and illegal configurations of the deque, the ring and the record file, at their bounds. -/
theorem witness_registers_of_cores :
    (let v := BitVec.ofNat 64 (2048 * 2 ^ 17)
     v.toNat / 2 ^ 17 % 2 ^ 16 = 2048 ∧ v.toNat % 2 ^ 17 % 64 = 0 ∧ v.toNat % 2 ^ 17 + 64 * 2048 ≤ 0x20000 ∧ (base.core 0).deque.length - 64 ≤ 2048 ∧ (∀ p ∈ ((withCore fun k => { k with deque := [noPeg] }).core 0).deque, p.spill = none ∧ p.weak = [] ∧ p.bad = [])) ∧ 2048 < (BitVec.ofNat 64 (2049 * 2 ^ 17)).toNat / 2 ^ 17 % 2 ^ 16 ∧
    (let v := BitVec.ofNat 64 (256 * 2 ^ 17)
     (base.core 0).mbUsed = 0 ∧ v.toNat / 2 ^ 17 % 2 ^ 9 = 256 ∧ v.toNat % 2 ^ 17 % 256 = 0 ∧ v.toNat % 2 ^ 17 + 256 * 256 ≤ 0x20000) ∧ 256 < (BitVec.ofNat 64 (257 * 2 ^ 17)).toNat / 2 ^ 17 % 2 ^ 9 ∧
    (128#64).toNat % 2 ^ 17 % 128 = 0 ∧ (64#64).toNat % 2 ^ 17 % 128 ≠ 0 ∧ base.running 0 = true ∧ (0x7000600100000001 % 8 ≠ 0) := by decide +kernel

/-- Accesses at the end of device memory, to a line for which a request waits, and to each word of a queue control block. -/
theorem witness_system_cores :
    (7 : Nat) < 8 ∧ 0x5FFFFFFFF8 % 8 = 0 ∧ 0x5FFFFFFFF8 + 8 ≤ 0x6000000000 ∧ base.bad = [] ∧ base.weak = [] ∧ (0x7000300000000001#64).toNat % 8 ≠ 0 ∧ (0x4000000000000000#64).toNat / 2 ^ 60 ≠ 7 ∧
    base.inQcb 0x200000 = false ∧ base.lineHeld devKey = false ∧
    (let s := base.modBay (homeBay devKey) fun b => { b with ate := { b.ate with hot := [devKey / 64], input := [{ arrival := 0, rank := 0, op := .bqtake devKey base.cur.uid 3 }] } }
     s.lineHeld devKey = true ∧ s.inQcb 0x200000 = false) ∧
    (let s := withQueue false 0 1
     s.inQcb qcbAt = true ∧ qcbAt % 64 = 0 ∧ s.inQcb (qcbAt + 24) = true ∧ (qcbAt + 24) % 64 = 24 ∧ s.inQcb (qcbAt + 56) = true ∧ s.inQcb (qcbAt + 64) = false ∧ s.bad = []) := by decide +kernel

/-- Power below, at and above its limits; a die under 90 % for the sixteenth time. -/
theorem witness_power :
    let cap := max 600 (min 2000 (State.reset.pkg.pwrcap.toNat % 2 ^ 16))
    State.reset.pkg.minimal = false ∧ (State.reset.die 0).floor ≤ 7 ∧ 1050 < 1051 ∧ cap = 2000 ∧ cap < 2001 ∧ ¬ (cap < 2000 ∨ 4000 < 4000 ∨ 1000 < 1000 ∨ 840 < 840) ∧
    ¬ (10 * 2000 < 9 * cap ∧ 10 * 4000 < 36000 ∧ 10 * 1000 < 9000 ∧ 10 * 840 < 7560) ∧ (10 * 1799 < 9 * cap ∧ 10 * 3599 < 36000 ∧ 10 * 899 < 9000 ∧ 10 * 755 < 7560) ∧
    (State.reset.die 0).under + 1 < 16 ∧ 16 ≤ ((State.reset.modDie 0 fun d => { d with under := 15 }).die 0).under + 1 ∧ base.running 0 = true := by decide +kernel

theorem witness_start :
    State.reset.pkg.readyWritten = false ∧ base.pkg.readyWritten = true ∧ State.reset.pkg.minimal = false ∧ (1 : Nat) ≤ 1 ∧ (3 : Nat) ≤ 3 ∧ (base.cores.map Prod.fst).Nodup ∧
    (State.reset.modPkg fun p => { p with fails := 2 }).pkg.fails = 2 := by decide +kernel

/-- Sessions: 64 open, none open and no common version, and one; measurements of 32 bytes; minimal mode; an image slot with room behind its end. -/
theorem witness_service :
    64 ≤ (State.reset.modPkg fun p => { p with sessions := List.replicate 64 { id := 0, ifaces := [] } }).pkg.sessions.length ∧ State.reset.pkg.sessions.length < 64 ∧
    (∀ v, (1, some v) ∉ ([] : List (Nat × Option Nat))) ∧
    (let s := State.reset.modPkg fun p => { p with sessions := [{ id := 1, ifaces := [(1, some 0), (6, some 0)] }, { id := 2, ifaces := [(1, some 0), (6, none)] }] }
     (s.pkg.sessions.find? (fun x => x.id == 1)) = some { id := 1, ifaces := [(1, some 0), (6, some 0)] } ∧ (∃ g ∈ [(1, some 0), (6, some 0)], g.1 = 6 ∧ g.2.isSome = true) ∧
       (s.pkg.sessions.find? (fun x => x.id == 2)) = some { id := 2, ifaces := [(1, some 0), (6, none)] } ∧ (∀ g ∈ [((1 : Nat), some (0 : Nat)), (6, none)], g.1 = 6 → g.2 = none) ∧
       s.pkg.sessions.find? (fun x => x.id == 3) = none) ∧ (∃ v, State.reset.pkg.version 1 (Config.ifaceMin 1) (Config.ifaceMin 1) = some v) ∧ (7 : Nat) < 8 ∧ State.reset.pkg.minimal = false ∧
    (State.reset.modPkg fun p => { p with minimal := true }).pkg.minimal = true ∧ (List.replicate 32 (0#8)).length = 32 ∧ (∀ j, j < 8 → (vget State.reset.pkg.meas j []).length = 32) ∧
    0 ≤ State.reset.pkg.imageA.length ∧ 0 ≤ State.reset.pkg.imageB.length := by
  refine ⟨by decide +kernel, by decide +kernel, by simp, by decide +kernel, ⟨Config.ifaceMin 1, ?_⟩, by decide, by decide +kernel, by decide +kernel, by decide, by decide +kernel, by decide, by decide⟩
  have h : State.reset.pkg.offers 1 = true := by decide +kernel
  simp [Pkg.version, Config.ifaceRange, h]

/-- The sideband with and without an address, in HDR and outside, with its interrupts on and off. -/
theorem witness_sideband :
    let s := fun (a : Option Nat) (hdr on : Bool) => State.reset.modPkg fun p => { p with i3c := { p.i3c with dynAddr := a, hdr := hdr, ibiOn := on } }
    (s (some 9) false true).pkg.i3c.hdr = false ∧ (s (some 9) false true).pkg.i3c.dynAddr.isSome = true ∧ (s none false true).pkg.i3c.dynAddr = none ∧ (s none false true).pkg.i3c.ibiOn = true ∧
    (s none false false).pkg.i3c.ibiOn = false ∧ (s none true true).pkg.i3c.hdr = true ∧ (1#8).toNat < 2 ∧ (0xA5#8) = 0xA5 := by decide +kernel

/-! ## Witnesses: the step -/

/-- An event that is due; a machine that cannot issue; a word that decodes, at a boundary with nothing pending, with and without a breakpoint; one that does not decode; an early cause; a pending cause. -/
theorem witness_step :
    (let s := fetching 0x00000041
     s.agenda = [] ∧ s.issuable s.curCore s.curThread.val = true ∧ s.cur.redo = none ∧ s.cur.wait ≠ .held ∧ (let k := hbmKey 0x100000
       s.check (s.agent s.curCore) .fetch 1 4 s.cur.pc = .ok (.mem k) ∧ s.badIn k 4 = none ∧ decode (BitVec.ofNat 32 (s.readLe k 4)) = .ok (.faddS 0 0 0 false false) ∧
       Instr.early (.faddS 0 0 0 false false) (s.fetched k) = none ∧ (s.fetched k).cur.stopsDue = [] ∧ (s.fetched k).cur.desched = false ∧ (s.fetched k).bpFetch = false ∧
       (let b := s.modPart 0 fun p => { p with dbg := { p.dbg with bpCtl := vset p.dbg.bpCtl 0 0x8000000000000000, bpAddr := vset p.dbg.bpAddr 0 s.cur.pc } }
        (b.fetched k).bpFetch = true))) ∧
    decode 0x0000007F = .error .illop ∧ State.reset.agenda = [] ∧ State.reset.issuable State.reset.curCore State.reset.curThread.val = false ∧
    (Instr.early (.halt 0 false) user).map (·.1.code) = some Cause.priv.code ∧
    (Instr.early (.bfx 1 2 61 3 false) (at_ fun x => { x with warn := 0x8000000000000000 })).map (·.1.code) = some Cause.mixtrap.code ∧
    (at_ fun x => { x with pend := [{ cause := .step, det := {} }] }).boundary.isSome = true ∧
    (base.advance false).cores.all (fun p => p.2.loop.isEmpty) = true := by decide +kernel

/-- An access that goes on after a hold; a fetch that is misaligned, that the launch may not make, that meets an uncorrectable error, and that is held. -/
theorem witness_fetches :
    (let s := at_ fun x => { x with redo := some { word := 0x00000041, va := devAddr, addr := 0x200000 } }
     s.agenda = [] ∧ s.issuable s.curCore s.curThread.val = true ∧ s.cur.redo.isSome = true ∧ decode 0x00000041 = .ok (.faddS 0 0 0 false false) ∧ Instr.early (.faddS 0 0 0 false false) s = none) ∧
    (let cause := fun (s : State) => match s.check (s.agent s.curCore) .fetch 1 4 s.cur.pc with | .error (.cause c _) => some c | _ => none
     let a := at_ fun x => { x with pc := 2 }
     let b := at_ fun x => { x with pc := 0x5000000000000000 }
     let c := { base with bad := [hbmKey hostedNext] }
     a.issuable a.curCore a.curThread.val = true ∧ cause a = some .fetchalign ∧ cause b = some .fetchfault ∧ cause c = some .eccunc ∧ c.boundary.isNone = true ∧ c.cur.wait ≠ .held ∧ c.cur.redo = none) ∧
    (let s := { base with bad := [hbmKey 0x100000] }
     s.check (s.agent s.curCore) .fetch 1 4 s.cur.pc = .ok (.mem (hbmKey 0x100000)) ∧ s.badIn (hbmKey 0x100000) 4 = some (hbmKey 0x100000) ∧ s.boundary.isNone = true ∧ s.cur.wait ≠ .held) ∧
    (let s := at_ fun x => { x with pc := 0x4000018000000000 }
     (match s.check (s.agent s.curCore) .fetch 1 4 s.cur.pc with | .error (.held 4 _ _ r _) => r == 0 | _ => false) = true ∧ s.boundary.isNone = true ∧ s.cur.wait ≠ .held ∧
       (s.modCur fun x => { x with pend := [{ cause := .step, det := {} }] }).boundary.isSome = true) := by decide +kernel

/-- A memory in its canonical form that a step starts from. -/
theorem witness_canonical : Memory.wf base.mem = true ∧ Memory.wf State.reset.mem = true := by decide +kernel

/-- A well-formed instruction with its word. -/
theorem witness_encodings : (Instr.add 24 23 45 false false).wf = true ∧ (encode (.add 24 23 45 false false)).isSome = true ∧ decode ((encode (.add 24 23 45 false false)).getD 0) = .ok (.add 24 23 45 false false) := by
  decide +kernel

/-! ## Witnesses: clauses at further boundaries -/

/-- MKGA with a reserved coordinate bit; selectors in the gaps of PERFRD's map. -/
theorem witness_reserved_operands (sel : Nat) (h : sel = 11 ∨ sel = 0x103 ∨ sel = 0x10F ∨ sel = 0x16F ∨ sel = 0x180) :
    (∀ die row col : Nat, die < 4 → row ≤ 35 → col < 32 → ¬ (0x1000000#64 = BitVec.ofNat 64 (die * 65536 + row * 256 + col))) ∧
    10 < sel ∧ ¬ (∃ i < 4, ∃ j < 32, sel = 0x100 + 32 * i + j ∧ (j < 3 ∨ 16 ≤ j)) := by
  refine ⟨fun die row col hd hr hc he => ?_, by omega, ?_⟩
  · have := congrArg BitVec.toNat he
    simp only [BitVec.toNat_ofNat] at this
    omega
  · rintro ⟨i, hi, j, hj, he, ho⟩
    omega

/-- The image of a resumed peg, a descriptor, a record and a suspended peg's line: named by no core and with no line held. -/
theorem witness_turns :
    (∀ p ∈ [devKey, devKey + 16, devKey + 32, devKey + 48, devKey + 64], dev.turnWait dev.cur.uid threadSeq p (dev.ownName devAddr) = false) ∧ dev.ownName devAddr = false ∧
    (dev.ownName devAddr && dev.curK.loopFull) = false ∧ dev.reach .store 64 64 devAddr = .ok (.mem devKey) ∧ (dev.touchTlb dev.curCore devAddr).lineHeld devKey = false ∧
    (let s := at_ fun x => x.setX 1 0x7000600100000080
     (s.cur.xr 1).toNat % 32 = 0 ∧ s.reachScalar .atomic 1 8 (s.cur.xr 1) = .ok (.window 0x7000600100000080) ∧ s.bpData false false (s.cur.xr 1) 8 = false ∧
       s.interlocked true (s.cur.xr 1) 8 = false ∧ s.mustFollow s.cur.uid false (s.cur.xr 1) 8 (.window 0x7000600100000080) = false ∧ Quiet (s.touchTlb s.curCore (s.cur.xr 1))) := by
  simp only [Quiet]; decide +kernel

/-- A formula task that a command of its own still uses, and one whose commands have ended. -/
theorem witness_formula_task :
    let s := at_ fun x => { x with kind := .formula 1 1, w1 := 7 }
    s.cur.unsettled = false ∧ s.outcomesDue s.curK.asidN s.cur.tid = false ∧ s.taskBusy s.curK.asidN s.cur.tid = false ∧
    (s.modCore 0 fun k => { k with cq := [{ cmd 0x80 0 0 0 0 with tid := 7 }] }).taskBusy s.curK.asidN s.cur.tid = true := by decide +kernel

/-- A message of a window whose park region has room and one without. -/
theorem witness_park_region :
    let m : Msg := { kind := 0, chan := 1, stid := 0, seq := 0, slc := 0, payload := List.replicate 16 0, fromCore := 0, fromThread := 0, fromUid := 1, target := 0, window := 0 }
    det.parkFull 0 m = true ∧ (withLaunch fun l => { l with deterministic := true, parkSize := 4096, qwin := 4096 }).parkFull 0 m = false ∧
    (∀ n : Msg, base.cur.stall ≠ .send n) := by
  refine ⟨by decide +kernel, by decide +kernel, fun n h => ?_⟩
  exact absurd (show Stall.no = .send n from h) (by simp)

/-- CSNAP's cases: no generation to bind to, one that recalculates, generations to come, snapshots bound and unbound; CLD's causes. -/
theorem witness_snapshot_cases :
    let n : Snap := { gen := none, mode := 0, want := 0, dest := 3, pc := 0, order := 0 }
    let again := sheet fun d => { d with recalc := true }
    base.cur.freeSnap = some 0 ∧ (at_ fun x => { x with kind := .formula 1 1 }).cur.freeSnap = some 0 ∧
    (again.part 0).sdir.recalc = true ∧ (again.part 0).sdir.pgen < 1 ∧ 1 ≤ (again.part 0).sdir.openGen ∧ (again.part 0).sdir.openGen < 3 ∧ (0x4000000000000000#64).toNat = 2 ^ 62 ∧
    (let x := (at_ fun x => { x with snaps := vset (vset x.snaps 0 (some n)) 1 (some { n with gen := some 0 }) }).cur
     vget x.snaps 0 none = some n ∧ n.gen = none ∧ vget x.snaps 1 none = some { n with gen := some 0 } ∧ vget x.snaps 2 none = none) ∧
    (0x5FF0000000000000#64).toNat / 2 ^ 52 ≠ 0x600 ∧ (0x6000000000000004#64).toNat % 2 ^ 32 % 8 ≠ 0 ∧
    (let s := again.modCur fun x => { x with snaps := vset (vset x.snaps 0 (some { n with gen := some 0 })) 1 (some n) }
     s.selGen 5 = none ∧ s.selGen 4 = none ∧ s.selGen 1 = some (some 0) ∧ s.selGen 2 = some none ∧ s.cur.redo = none ∧ tget (s.part s.curK.asidN).sdir.cells 1 = none) ∧
    (0 : Nat) < { aCell with cgen := 1 }.cgen ∧ { aCell with cgen := 1 }.bufFor 0 = some (false, devAddr, 0) ∧ { aCell with tagA := some 1 }.bufFor 0 = none ∧
    { aCell with state := .stale }.unfinished = true ∧ aCell.bytes ≤ 8 := by decide +kernel

/-- A COMMIT behind a CST that waits for its cell; the notice's last acknowledgement and its time. -/
theorem witness_commit_behind :
    (let s := sheet fun d => { d with recalc := true, waitq := [base.cur.uid] }
     s.commitBlocked 0 99 = true) ∧ (sheet id).commitBlocked 0 1 = false := by decide +kernel

/-- A refusal at a core whose channel 255 is open and at one where it is blocked. -/
theorem witness_refusal_channel :
    ((withCore fun k => { k with chans := [(255, 0x8000000000000000)] }).core 0).chanOpen 255 = true ∧
    ((withCore fun k => { k with chans := [(255, 0xC000000000000000)] }).core 0).chanOpen 255 = false ∧
    ((withCore fun k => { k with chans := [(255, 0xC000000000000000)] }).core 0).chanV 255 = true := by decide +kernel

/-- A landing thread before an ADDI, a DONE and a word that a handler may not run. -/
def landing (w : Nat) : State := { poked (base.modCtx 0 4 fun x => { x with pc := 0x4000000000300000 }) [(hbmKey 0x300000, 4, w)] with curThread := 4 }
theorem witness_landing_words :
    ∀ e ∈ [((encode (.add 3 1 2 false false)).getD 0, Instr.add 3 1 2 false false), ((encode (.done 0 false)).getD 0, .done 0 false), ((encode (.jdec 1 2 false false)).getD 0, .jdec 1 2 false false)],
      let s := landing e.1.toNat
      s.curCore = 0 ∧ s.curThread.val = 4 ∧ s.check (s.agent s.curCore) .fetch 1 4 (s.ctx 0 4).pc = .ok (.mem (hbmKey 0x300000)) ∧ s.badIn (hbmKey 0x300000) 4 = none ∧
        BitVec.ofNat 32 (s.readLe (hbmKey 0x300000) 4) = e.1 ∧ decode e.1 = .ok e.2 ∧ (Machine.Instr.early e.2 (s.fetched (hbmKey 0x300000))).isNone = true := by decide +kernel
theorem witness_landing_majors :
    (let m := ((encode (.add 3 1 2 false false)).getD 0).toNat % 128
     1 ≤ m ∧ m ≤ 0x11) ∧
    (let m := ((encode (.jdec 1 2 false false)).getD 0).toNat % 128
     ¬ ((1 ≤ m ∧ m ≤ 0x11) ∨ (0x18 ≤ m ∧ m ≤ 0x20) ∨ m = 0x3D ∨ (0x41 ≤ m ∧ m ≤ 0x45) ∨ m = 0x4E)) := by decide +kernel

/-- A unit that is stepped, whose command's cause takes the step's place. -/
theorem witness_not_stepped : base.stepped 0 base.cur.tid = false := by decide +kernel

/-- A product of one element by one column whose operands are found: in the private alias and the core's own window, with nothing in their way. -/
theorem witness_products_complete :
    let q := product 0x01 0 2
    let s1 := (headed q).runHead q
    let t := Tcw.of q.word
    let z := s1.sizeOf q t
    let bound := s1.bindCmd q ([Shape.of q.ra, Shape.of q.rc, Shape.of q.rx, Shape.of q.ry].filter fun r => r.ver != 0)
    let s2 := (s1.pullAny bound.core (Shape.of bound.rx) bound.gotX).2
    (headed q).curK.mq = [q] ∧ q.hid = none ∧ t.cin = false ∧ t.acc = false ∧ t.top = 1 ∧ (s1.pullAny bound.core (Shape.of bound.rx) bound.gotX).1 = [] ∧
    (z.m, z.n, z.k0, z.k1, z.u) = (1, 1, 0, 1, 1) ∧
    (let r := Shape.of bound.ra
     let va := (r.elem [0, 0, 0, 0]).1
     r.loc = 0 ∧ 8 ≤ r.w ∧ va = 1024 ∧ s2.engReach bound false false r.align (r.elem [0, 0, 0, 0]).2.2 va = .ok (.mem (scratchKey 0 1024)) ∧ s2.wmBlocked bound.core none va 4 = false ∧
       s2.turnWait bound.uid bound.seq (scratchKey 0 1024) (bound.loops false va) = false ∧ s2.badIn (scratchKey 0 1024) 4 = none) ∧
    (let k := windowKey bound.core (t.aux % 2 ^ 18)
     s2.turnWait bound.uid bound.seq k false = false ∧ s2.badIn k 16 = none ∧ s2.weak = []) := by decide +kernel
theorem witness_products_found :
    let q := product 0x01 0 2
    let s := (headed q).runHead q
    (s.correct (scratchKey 0 1024) 4).touchTlb q.core 1024 = s ∧ s.correct (windowKey 0 0) 16 = s := ⟨rfl, rfl⟩

/-- A sound edge and the terminal, and runs of the recursions on the cofactors of node 1. -/
theorem witness_recursions :
    DdSees diagram space 1 ∧ DdSees diagram space 0 ∧ DdSees diagram space (2 ^ 31) ∧ tget diagram.spaces 0 = some space ∧ ddLevelAt diagram space 1 = 0 ∧ ddLevelAt diagram space 0 = 0xFFFF ∧
    ddCofAt diagram space 1 0 0 = 2 ^ 31 ∧ ddCofAt diagram space 1 0 1 = 0 ∧ DdEdge (diagram.countCache 0) space 1 ∧ Quiet diagram ∧
    (∀ e ∈ [(2 ^ 31, 2 ^ 31), (0, 0)], (match (ddApply 0 8 4 e.1 0).run.run diagram with | (.ok v, _) => v == e.2 | _ => false) = true) ∧
    (match (ddIsCube space (space.vars + 1) 1).run.run diagram with | (.ok v, _) => v | _ => false) = true ∧
    (match (ddSkipCube space 0 (space.vars + 1) 1).run.run diagram with | (.ok v, _) => v == 1 | _ => false) = true := by
  simp only [DdSees, DdSound, DdEdge, Quiet]
  and_intros <;> decide +kernel

/-- The oldest request of the host through a session that has interface 6 and one that has not; the static address of the sideband and another. -/
theorem witness_host_requests :
    let s := State.reset.modPkg fun p => { p with sessions := [{ id := 1, ifaces := [(1, some 0), (6, some 0)] }, { id := 2, ifaces := [(1, some 0), (6, none)] }], hostReqs := [{ session := 1, ask := .bootwhy }] }
    s.pkg.hostReqs = [{ session := 1, ask := .bootwhy }] ∧ HostAsk.bootwhy.iface = 6 ∧ (∃ g ∈ [((1 : Nat), some (0 : Nat)), (6, some 0)], g.1 = HostAsk.bootwhy.iface ∧ g.2.isSome = true) ∧
    (∀ g ∈ [((1 : Nat), some (0 : Nat)), (6, none)], g.1 = HostAsk.bootwhy.iface → g.2 = none) ∧ (0x5C * 128 + 9) / 128 = 0x5C ∧ (0x5D * 128 + 9) / 128 ≠ 0x5C := by decide +kernel

/-- A narrow access of a register by a system core, and one off its boundary. -/
theorem witness_narrow_accesses : (4 : Nat) ≠ 8 ∧ (0x7000600100000012#64).toNat % 4 ≠ 0 ∧ 0 < 8 := by decide

end Sys2Proof.Tests
end

section
namespace Sys2Proof.Machine

/-! ### What a correction, a logged error and a cached translation leave unchanged -/

/-- What every step of a fold keeps, the fold keeps. -/
theorem foldl_keeps {α β : Type} (p : State → β) (f : State → α → State) (h : ∀ s a, p (f s a) = p s) (l : List α) (s : State) :
    p (l.foldl f s) = p s := by
  induction l generalizing s with
  | nil => rfl
  | cons a r ih => rw [List.foldl_cons, ih, h]

/-- A state with the dies and the weak granules of another. -/
def State.withErrors (t s : State) : State := { t with dies := s.dies, weak := s.weak }

/-- A correction changes the dies' error counts and the weak granules, and nothing else (R72). -/
theorem correct_rest (s u : State) (k n : Nat) : (s.correct k n).withErrors u = s.withErrors u := by
  unfold State.correct
  split
  · rfl
  · refine foldl_keeps (State.withErrors · u) _ ?_ _ s
    intro t g
    rfl

section Correct

variable (s : State) (k n : Nat)

@[simp] theorem correct_mem : (s.correct k n).mem = s.mem := by have h := congrArg State.mem (correct_rest s s k n); exact h
@[simp] theorem correct_bad : (s.correct k n).bad = s.bad := by have h := congrArg State.bad (correct_rest s s k n); exact h
@[simp] theorem correct_cores : (s.correct k n).cores = s.cores := by have h := congrArg State.cores (correct_rest s s k n); exact h
@[simp] theorem correct_bays : (s.correct k n).bays = s.bays := by have h := congrArg State.bays (correct_rest s s k n); exact h
@[simp] theorem correct_parts : (s.correct k n).parts = s.parts := by have h := congrArg State.parts (correct_rest s s k n); exact h
@[simp] theorem correct_spaces : (s.correct k n).spaces = s.spaces := by have h := congrArg State.spaces (correct_rest s s k n); exact h
@[simp] theorem correct_pkg : (s.correct k n).pkg = s.pkg := by have h := congrArg State.pkg (correct_rest s s k n); exact h
@[simp] theorem correct_turns : (s.correct k n).turns = s.turns := by have h := congrArg State.turns (correct_rest s s k n); exact h
@[simp] theorem correct_cycle : (s.correct k n).cycle = s.cycle := by have h := congrArg State.cycle (correct_rest s s k n); exact h
@[simp] theorem correct_agenda : (s.correct k n).agenda = s.agenda := by have h := congrArg State.agenda (correct_rest s s k n); exact h
@[simp] theorem correct_curCore : (s.correct k n).curCore = s.curCore := by have h := congrArg State.curCore (correct_rest s s k n); exact h
@[simp] theorem correct_curThread : (s.correct k n).curThread = s.curThread := by have h := congrArg State.curThread (correct_rest s s k n); exact h
@[simp] theorem correct_nextUid : (s.correct k n).nextUid = s.nextUid := by have h := congrArg State.nextUid (correct_rest s s k n); exact h
@[simp] theorem correct_nextAge : (s.correct k n).nextAge = s.nextAge := by have h := congrArg State.nextAge (correct_rest s s k n); exact h
@[simp] theorem correct_freshCount : (s.correct k n).freshCount = s.freshCount := by have h := congrArg State.freshCount (correct_rest s s k n); exact h

@[simp] theorem correct_core (c : Nat) : (s.correct k n).core c = s.core c := by simp [State.core]
@[simp] theorem correct_thr (c u : Nat) : (s.correct k n).thr c u = s.thr c u := by simp [State.thr]
@[simp] theorem correct_cur : (s.correct k n).cur = s.cur := by simp [State.cur, State.ctx]

end Correct

theorem correctWalk_rest (s u : State) (t : Trans) : (s.correctWalk t).withErrors u = s.withErrors u :=
  foldl_keeps (State.withErrors · u) _ (fun v k => correct_rest v u k 8) _ s

theorem noteWalk_rest (s u : State) (die : Nat) (t : Trans) : (s.noteWalk die t).withErrors u = s.withErrors u := by
  unfold State.noteWalk
  dsimp only
  split
  · exact correctWalk_rest s u t
  · exact correctWalk_rest s u t

/-- A state with the dies, the weak granules, the cores and the bays of another. -/
def State.withCaches (t s : State) : State := { t with dies := s.dies, weak := s.weak, cores := s.cores, bays := s.bays }

/-- Caching a translation changes the cores' and bays' caches, and what its walk corrects and caches beside the walkers (R31, R32, R72). -/
theorem cacheWalk_rest (s u : State) (c asid va : Nat) : (s.cacheWalk c asid va).withCaches u = s.withCaches u := by
  have h : ((s.noteWalk (coreDie c) (s.lookup c asid va))).withCaches u = s.withCaches u :=
    congrArg (fun t : State => { t with cores := u.cores, bays := u.bays }) (noteWalk_rest s u (coreDie c) (s.lookup c asid va))
  unfold State.cacheWalk
  dsimp only
  split
  · exact h
  · exact h

theorem touchTlb_rest (s u : State) (c : Nat) (va : Word) : (s.touchTlb c va).withCaches u = s.withCaches u := by
  unfold State.touchTlb
  split
  · exact cacheWalk_rest s u _ _ _
  · rfl
/-- A core with other cached translations. -/
def Core.withTlb (k : Core) (l : List Tlb) : Core := { k with tlb := l }

section TouchTlb

variable (s : State) (c : Nat) (va : Word)

@[simp] theorem touchTlb_mem : (s.touchTlb c va).mem = s.mem := by have h := congrArg State.mem (touchTlb_rest s s c va); exact h
@[simp] theorem touchTlb_bad : (s.touchTlb c va).bad = s.bad := by have h := congrArg State.bad (touchTlb_rest s s c va); exact h
@[simp] theorem touchTlb_parts : (s.touchTlb c va).parts = s.parts := by have h := congrArg State.parts (touchTlb_rest s s c va); exact h
@[simp] theorem touchTlb_spaces : (s.touchTlb c va).spaces = s.spaces := by have h := congrArg State.spaces (touchTlb_rest s s c va); exact h
@[simp] theorem touchTlb_pkg : (s.touchTlb c va).pkg = s.pkg := by have h := congrArg State.pkg (touchTlb_rest s s c va); exact h
@[simp] theorem touchTlb_turns : (s.touchTlb c va).turns = s.turns := by have h := congrArg State.turns (touchTlb_rest s s c va); exact h
@[simp] theorem touchTlb_cycle : (s.touchTlb c va).cycle = s.cycle := by have h := congrArg State.cycle (touchTlb_rest s s c va); exact h
@[simp] theorem touchTlb_agenda : (s.touchTlb c va).agenda = s.agenda := by have h := congrArg State.agenda (touchTlb_rest s s c va); exact h
@[simp] theorem touchTlb_curCore : (s.touchTlb c va).curCore = s.curCore := by have h := congrArg State.curCore (touchTlb_rest s s c va); exact h
@[simp] theorem touchTlb_curThread : (s.touchTlb c va).curThread = s.curThread := by have h := congrArg State.curThread (touchTlb_rest s s c va); exact h
@[simp] theorem touchTlb_nextUid : (s.touchTlb c va).nextUid = s.nextUid := by have h := congrArg State.nextUid (touchTlb_rest s s c va); exact h
@[simp] theorem touchTlb_nextAge : (s.touchTlb c va).nextAge = s.nextAge := by have h := congrArg State.nextAge (touchTlb_rest s s c va); exact h
@[simp] theorem touchTlb_freshCount : (s.touchTlb c va).freshCount = s.freshCount := by have h := congrArg State.freshCount (touchTlb_rest s s c va); exact h

@[simp] theorem core_modBay (b d : Nat) (f : Bay → Bay) : (s.modBay b f).core d = s.core d := rfl

theorem noteWalk_core (die d : Nat) (t : Trans) : (s.noteWalk die t).core d = s.core d := by
  have h := congrArg (fun u : State => u.core d) (noteWalk_rest s s die t)
  exact h

theorem touchTlb_core (d : Nat) : ((s.touchTlb c va).core d).withTlb [] = (s.core d).withTlb [] := by
  unfold State.touchTlb
  split
  · unfold State.cacheWalk
    dsimp only
    split
    · by_cases hd : d = c
      · subst hd
        rw [core_modBay, core_modCore, noteWalk_core]
        rfl
      · rw [core_modBay, core_modCore_other _ _ _ _ hd, noteWalk_core]
    · rw [noteWalk_core]
  · rfl

@[simp] theorem touchTlb_thr (d u : Nat) : (s.touchTlb c va).thr d u = s.thr d u := by
  have h := congrArg (fun k : Core => k.thr u) (touchTlb_core s c va d)
  exact h

@[simp] theorem touchTlb_cur : (s.touchTlb c va).cur = s.cur := by simp [State.cur, State.ctx]

end TouchTlb

/-! ### Samples and requests leave the threads as they are -/

section Leave

variable (s : State) (c src rank : Nat) (op : AteOp)

@[simp] theorem sampledAt_curCore : (s.sampledAt c src).curCore = s.curCore := rfl
@[simp] theorem sampledAt_curThread : (s.sampledAt c src).curThread = s.curThread := rfl
@[simp] theorem sampledAt_core (d : Nat) : (s.sampledAt c src).core d = s.core d := rfl
@[simp] theorem sampledAt_thr (d u : Nat) : (s.sampledAt c src).thr d u = s.thr d u := rfl
@[simp] theorem sampledAt_cur : (s.sampledAt c src).cur = s.cur := rfl
@[simp] theorem ateSend_curCore : (s.ateSend rank op).curCore = s.curCore := rfl
@[simp] theorem ateSend_curThread : (s.ateSend rank op).curThread = s.curThread := rfl
@[simp] theorem ateSend_core (d : Nat) : (s.ateSend rank op).core d = s.core d := rfl
@[simp] theorem ateSend_thr (d u : Nat) : (s.ateSend rank op).thr d u = s.thr d u := rfl
@[simp] theorem ateSend_cur : (s.ateSend rank op).cur = s.cur := rfl

end Leave

/-! ### Retiring after an update of the issuing context -/

/-- A retirement right after an update of the issuing unit's context that leaves its program counter. -/
theorem retire_modCur_retired (s : State) (f : Ctx → Ctx) (pc : Word) (hpc : (f s.cur).pc = pc) : Retired (s.modCur f) (s.modCur f).retire (pc + 4) := by
  have h := retireAt_retired (s.modCur f) ((s.modCur f).cur.pc + 4)
  have e : (s.modCur f).cur.pc = pc := by rw [cur_modCur, hpc]
  rw [e] at h
  rw [State.retire, e]
  exact h

@[simp] theorem pc_markEmpty (x : Ctx) (r : Reg) : (x.markEmpty r).pc = x.pc := by unfold Ctx.markEmpty; split <;> rfl

@[simp] theorem pc_setF (x : Ctx) (r : Reg) (v : Word) : (x.setF r v).pc = x.pc := rfl

/-- A retirement right after the issuing unit has become a producer (R193). -/
theorem retire_produce_retired (s : State) (d : Reg) (v : Word) : Retired (s.modCur (producing d v)) (s.produce d v).retire (s.cur.pc + 4) := by
  by_cases h : d = 0
  · have h1 : s.produce d v = s := if_pos h
    have h2 : producing d v s.cur = s.cur := if_pos h
    rw [h1]
    exact (retireAt_retired s _).modCur_id _ h2
  · have h1 : s.produce d v = s.modCur (producing d v) := by
      unfold State.produce producing
      simp only [if_neg h]
    rw [h1]
    exact retire_modCur_retired s _ _ (by unfold producing; rw [if_neg h]; exact pc_markEmpty s.cur d)

/-! ### A scalar access that passes its checks -/

/-- An access that reaches memory goes on there, once its translation may be cached (R32). -/
theorem scalarAccess_reaches {s : State} {kind : AccKind} {ld st : Bool} {n k : Nat} {ea : Word} (h : ReachesMemory s kind ld st n ea k)
    (go : Hit → State → Res) : scalarAccess kind ld st n n ea go s = go (.mem k) (s.touchTlb s.curCore ea) := by
  obtain ⟨hreach, hbp, hlock, hfollow⟩ := h
  simp [scalarAccess, hreach, hbp, hlock, hfollow]

end Sys2Proof.Machine
end

section
namespace Sys2Proof.Machine

/-! ### An atomic that caching its translation makes wait -/

/-- Caching a translation leaves the errors met in the memories that no engine writes (R73). -/
theorem touchTlb_badIn {s : State} (c : Nat) (va : Word) (k n : Nat) (h : s.bad = []) : (s.touchTlb c va).badIn k n = none := by
  simp [State.badIn, h]

/-- An instruction that leaves its thread's count of retired instructions at zero has not run. -/
theorem not_runsTo_of_retired {s t : State} {f : Ctx → Ctx} {pc : Word}
    (ht : (t.thr s.curCore s.curThread.val).retired = 0) : ¬ RunsTo (.next t) s f pc := by
  rintro ⟨u, he, hr⟩
  obtain rfl : t = u := by injection he
  have h := congrArg Thread.retired hr.thread
  rw [modCur_curCore, modCur_curThread, ht] at h
  have hpos : 0 < satN 64 (((s.modCur f).thr s.curCore s.curThread.val).retired + 1) := by
    unfold satN
    omega
  exact absurd h (Nat.ne_of_lt hpos)

/-- The issuing core of `twins`: thread 0 of the hosted state's core 0, with a device address in x1, and an LDNB outstanding. -/
def issuer : Core :=
  ((State.hosted State.reset).core 0).modCtx 0 fun x => { x with x := vset x.x 1 0x4000000000200000, ldnbs := [1] }

/-- A state in which threads of two cores run under one handle, and the table of cores names core 1 before core 0. The first thread under the
handle is core 1's, which has no load outstanding; a translation cached for core 0 puts a second entry for core 0 before core 1's. -/
def twins : State := { State.hosted State.reset with cores := [(1, (State.hosted State.reset).core 0), (0, issuer)] }

/-- The key of the byte at the address in x1 of `twins`. -/
def twinsKey : Nat := hbmKey 0x200000

/-- `twins` once the translation of the address in x1 may be cached. -/
def twinsTouched : State := twins.touchTlb twins.curCore (twins.cur.xr 1)

theorem twins_reaches_word : ReachesMemory twins .atomic true true 4 (twins.cur.xr 1) twinsKey := by
  refine ⟨?_, ?_, ?_, ?_⟩ <;> decide +kernel

theorem twins_reaches_block : ReachesMemory twins .atomic false false 16 (twins.cur.xr 1) twinsKey := by
  refine ⟨?_, ?_, ?_, ?_⟩ <;> decide +kernel

theorem twins_fullAt (rs : List Reg) (h : ∀ r ∈ rs, r = 0 ∨ r = 1) : FullAt twins rs := by
  intro r hr
  obtain rfl | rfl := h r hr
  · decide +kernel
  · decide +kernel

theorem twinsTouched_badIn (n : Nat) : twinsTouched.badIn twinsKey n = none := touchTlb_badIn _ _ _ _ (by decide +kernel)

/-- Once its translation is cached, the issuing thread is no longer the first under its handle, and core 1's loads are its own no more. -/
theorem twinsTouched_loadsOut : twinsTouched.loadsOut twins.cur.uid = true := by decide +kernel

theorem twinsTouched_retired : (twinsTouched.thr twins.curCore twins.curThread.val).retired = 0 := by decide +kernel

/-- The acquire atomic of `twins` stays where it is. -/
theorem twins_amoaddWAcq_stays : exec (.amoaddWAcq 0 1 0 false false) twins = .next twinsTouched := by
  have hfull := twins_fullAt [1, 0] (by decide)
  rw [exec_amoaddWAcq, execAmoaddWAcq, amo, issue_full _ _ _ _ (fun p hp => hfull p.1 (List.mem_map_of_mem hp)) (by intro r hr; cases hr; rfl)]
  unfold atomicAccess
  rw [scalarAccess_reaches twins_reaches_word]
  have hwait : twinsTouched.orderWaits .acq = true := by
    rw [← twinsTouched_loadsOut, State.orderWaits, twinsTouched, touchTlb_cur]
  have hbad := twinsTouched_badIn 4
  rw [twinsTouched] at hbad hwait ⊢
  simp only [hbad, hwait, if_true]
  rfl

/-- The block request of `twins` stays where it is. -/
theorem twins_bqtake_stays : exec (.bqtake 0 1 false) twins = .next twinsTouched := by
  have hfull := twins_fullAt [1] (by decide)
  rw [exec_bqtake, execBqtake, issue_full _ _ _ _ (fun p hp => hfull p.1 (List.mem_map_of_mem hp)) (by intro r hr; cases hr; rfl)]
  have hwait : twinsTouched.loadsOut twinsTouched.cur.uid = true := by
    rw [← twinsTouched_loadsOut, twinsTouched, touchTlb_cur]
  dsimp only
  rw [scalarAccess_reaches twins_reaches_block, ← twinsTouched]
  simp only [hwait, if_true]
  rfl

/-- Refutes O7: an acquire atomic waits for the loads of the unit under its thread's handle once its own translation is cached, and where the
table of cores is out of order and two threads run under one handle, that unit is another one than before. -/
theorem not_atomicsLeaveForTheirHome : ¬ Obligations.AtomicsLeaveForTheirHome := by
  unfold Obligations.AtomicsLeaveForTheirHome
  intro h
  obtain ⟨hforms, -⟩ := h twins 0 1 0 0 false false twinsKey
  have hacq : (Instr.amoaddWAcq 0 1 0 false false, 0, 4, AmoOrder.acq) ∈ amoForms 0 1 0 false false := by
    simp [amoForms, amoSet]
  obtain ⟨-, -, hleaves⟩ := hforms (twins_fullAt _ (by decide)) _ hacq
  have hruns := hleaves twins_reaches_word (twinsTouched_badIn 4) (by rintro (h | h) <;> cases h)
  rw [twins_amoaddWAcq_stays] at hruns
  refine not_runsTo_of_retired ?_ hruns
  simpa using twinsTouched_retired

/-- Refutes O40, in the clause of BQTAKE: a block request waits for the loads of the unit under its thread's handle once its own translation is
cached, and where the table of cores is out of order and two threads run under one handle, that unit is another one than before. -/
theorem not_publicationsWatermarksAndBlockQueues : ¬ Obligations.PublicationsWatermarksAndBlockQueues := by
  unfold Obligations.PublicationsWatermarksAndBlockQueues
  intro h
  obtain ⟨-, -, hregs, -⟩ := h twins 0 1 false twinsKey 0 { name := 0, size := 0, sel := false }
  obtain ⟨-, -, -, -, -, hblock⟩ := hregs (twins_fullAt _ (by decide))
  obtain ⟨-, hgood⟩ := hblock twins_reaches_block (by decide +kernel)
  obtain ⟨hleaves, -⟩ := hgood (twinsTouched_badIn 16)
  have hruns := hleaves (by decide +kernel)
  rw [twins_bqtake_stays] at hruns
  refine not_runsTo_of_retired ?_ hruns
  simpa using twinsTouched_retired

end Sys2Proof.Machine
end

section
namespace Sys2Proof.Machine

/-! ### What the passing of time leaves unchanged -/

theorem mem_tput {α : Type} {t : Tbl α} {k : Nat} {v : α} {p : Nat × α} (h : p ∈ tput t k v) : p = (k, v) ∨ p ∈ t := by
  induction t with
  | nil => exact .inl (by simpa [tput] using h)
  | cons q r ih =>
    obtain ⟨i, a⟩ := q
    simp only [tput] at h
    split at h
    · simpa using h
    · split at h
      · simp only [List.mem_cons] at h ⊢
        tauto
      · simp only [List.mem_cons] at h ⊢
        rcases h with h | h
        · exact .inr (.inl h)
        · have := ih h
          tauto

theorem mem_of_tget {α : Type} {t : Tbl α} {k : Nat} {v : α} (h : tget t k = some v) : (k, v) ∈ t := by
  induction t with
  | nil => cases h
  | cons p r ih =>
    obtain ⟨i, a⟩ := p
    simp only [tget] at h
    split at h
    · simp_all
    · exact List.mem_cons_of_mem _ (ih h)

/-- Nothing waits in a loopback port (R58). -/
def State.portsIdle (s : State) : Prop := ∀ p ∈ s.cores, p.2.loop = []

theorem portsIdle_iff (s : State) : s.portsIdle ↔ s.cores.all (fun p => p.2.loop.isEmpty) = true := by
  simp [State.portsIdle]

theorem State.portsIdle.core {s : State} (h : s.portsIdle) (c : Nat) : (s.core c).loop = [] := by
  unfold State.core tgetD
  cases hc : tget s.cores c with
  | none => rfl
  | some k => exact h _ (mem_of_tget hc)

/-- `t` is `s` after something that changes no byte, no diagram space and no register, and asks for further steps only: what the passing of
time is while no access waits in a loopback port. -/
structure Passes (s t : State) : Prop where
  mem : t.mem = s.mem
  spaces : t.spaces = s.spaces
  ctx : ∀ c u, t.ctx c u = s.ctx c u
  ports : s.portsIdle → t.portsIdle
  agenda : ∃ due, t.agenda = s.agenda ++ due

theorem Passes.refl (s : State) : Passes s s := ⟨rfl, rfl, fun _ _ => rfl, id, [], by simp⟩

theorem Passes.trans {s t u : State} (h : Passes s t) (g : Passes t u) : Passes s u where
  mem := g.mem.trans h.mem
  spaces := g.spaces.trans h.spaces
  ctx := fun c i => (g.ctx c i).trans (h.ctx c i)
  ports := fun i => g.ports (h.ports i)
  agenda := by
    obtain ⟨l, hl⟩ := h.agenda
    obtain ⟨m, hm⟩ := g.agenda
    exact ⟨l ++ m, by rw [hm, hl, List.append_assoc]⟩

/-- A change that leaves the cores alone. -/
theorem Passes.ofCores {s t : State} (due : List Event) (hm : t.mem = s.mem) (hs : t.spaces = s.spaces) (hc : t.cores = s.cores)
    (ha : t.agenda = s.agenda ++ due) : Passes s t where
  mem := hm
  spaces := hs
  ctx := fun c u => by simp [State.ctx, State.thr, State.core, hc]
  ports := fun h => by simpa [State.portsIdle, hc] using h
  agenda := ⟨due, ha⟩

/-- A change of every core that leaves the contexts and the loopback ports alone. -/
theorem Passes.ofMap {s t : State} (f : Nat → Core → Core) (hm : t.mem = s.mem) (hs : t.spaces = s.spaces) (hc : t.cores = tmap s.cores f)
    (ha : t.agenda = s.agenda) (hctx : ∀ c k u, ((f c k).thr u).ctx = (k.thr u).ctx) (hloop : ∀ c k, (f c k).loop = k.loop) : Passes s t where
  mem := hm
  spaces := hs
  ctx := fun c u => by
    simp only [State.ctx, State.thr, State.core, tgetD, hc, tget_tmap]
    cases tget s.cores c with
    | none => rfl
    | some k => exact hctx c k u
  ports := fun h p hp => by
    rw [hc, tmap] at hp
    obtain ⟨q, hq, rfl⟩ := List.mem_map.mp hp
    exact (hloop q.1 q.2).trans (h q hq)
  agenda := ⟨[], by rw [ha, List.append_nil]⟩

/-- A change of one core that leaves its contexts and its loopback port alone. -/
theorem Passes.modCore (s : State) (c : Nat) (f : Core → Core) (hctx : ∀ k u, ((f k).thr u).ctx = (k.thr u).ctx)
    (hloop : ∀ k, (f k).loop = k.loop) : Passes s (s.modCore c f) where
  mem := rfl
  spaces := rfl
  ctx := fun d u => by
    by_cases h : d = c
    · subst h
      simp only [State.ctx, State.thr, core_modCore, hctx]
    · simp only [State.ctx, State.thr, core_modCore_other _ _ _ _ h]
  ports := fun h p hp => by
    obtain rfl | hp := mem_tput hp
    · exact (hloop _).trans (h.core c)
    · exact h p hp
  agenda := ⟨[], by simp⟩

section Pieces

variable (s : State)

theorem passes_post (es : List Event) : Passes s (s.post es) := .ofCores es rfl rfl rfl rfl

theorem passes_modPkg (f : Pkg → Pkg) : Passes s (s.modPkg f) := .ofCores [] rfl rfl rfl (by simp)

theorem passes_modDie (d : Nat) (f : Die → Die) : Passes s (s.modDie d f) := .ofCores [] rfl rfl rfl (by simp)

theorem passes_setCur (c t : Nat) : Passes s (s.setCur c t) := .ofCores [] rfl rfl rfl (by simp [State.setCur])

theorem passes_endSamples : Passes s s.endSamples := by
  unfold State.endSamples
  split
  · exact .refl s
  · exact .ofCores [] rfl rfl rfl (by simp)

theorem Thread.accrue_ctx (th : Thread) (d : Nat) : (th.accrue d).ctx = th.ctx := by
  unfold Thread.accrue
  split <;> rfl

/-- The threads' counters of a cycle (R422). -/
def Core.accrue (d : Nat) (k : Core) : Core := if k.asid.isNone then k else { k with threads := k.threads.map fun th => th.accrue d }

theorem Core.accrue_ctx (d : Nat) (k : Core) (u : Nat) : ((k.accrue d).thr u).ctx = (k.thr u).ctx := by
  unfold Core.accrue
  split
  · rfl
  · unfold Core.thr vget
    split
    · simp [Thread.accrue_ctx]
    · rfl

theorem Core.accrue_loop (d : Nat) (k : Core) : (k.accrue d).loop = k.loop := by
  unfold Core.accrue
  split <;> rfl

theorem passes_tickCycle : Passes s s.tickCycle :=
  .ofMap (fun _ k => k.accrue (Config.ticksAt (s.cycle + 1) - Config.ticksAt s.cycle)) rfl rfl rfl rfl
    (fun _ k u => k.accrue_ctx _ u) (fun _ k => k.accrue_loop _)

theorem passes_foldl {α : Type} (f : State → α → State) (h : ∀ s a, Passes s (f s a)) (l : List α) : Passes s (l.foldl f s) := by
  induction l generalizing s with
  | nil => exact .refl s
  | cons a r ih => exact (h s a).trans (ih (f s a))

theorem passes_setCurrents : Passes s s.setCurrents := passes_foldl s _ (fun t d => passes_modDie t d _) _

theorem passes_setRamps : Passes s s.setRamps := by
  unfold State.setRamps
  dsimp only
  split
  · exact .refl s
  · exact passes_foldl s _ (fun t i => passes_modDie t i _) _

theorem passes_carryOut (session : Nat) (a : HostAsk) : Passes s (s.carryOut session a) := by
  cases a with
  | launch r => exact passes_modPkg s fun p => { p with launchReqs := p.launchReqs ++ [r] }
  | kick asid qid tail => exact passes_post s _
  | memory ws => exact passes_post s _
  | power addr value => exact passes_post s _
  | bootwhy => exact passes_modPkg s fun p => { p with hostOut := p.hostOut ++ [.bootwhy session s.pkg.bootwhy] }
  | reset => exact passes_post s _
  | debug addr value => exact passes_post s _

theorem passes_request (session iface : Nat) (f : State → State) (hf : Passes s (f s)) : Passes s (s.request session iface f) := by
  unfold State.request
  split
  · exact .refl s
  · split
    · exact hf
    · exact passes_modPkg s _

theorem passes_serveHost : Passes s s.serveHost := by
  unfold State.serveHost
  split
  · exact .refl s
  · exact (passes_modPkg s _).trans (passes_request _ _ _ _ (passes_carryOut _ _ _))

theorem passes_takeIrqs : Passes s s.takeIrqs := by
  unfold State.takeIrqs
  split
  · exact .refl s
  · exact passes_modPkg s _

/-- A core whose slots idle in a cycle, or not. -/
def Core.idled (b : Bool) (k : Core) : Core := if b then { k with idleSlots := satN 64 (k.idleSlots + 1) } else k

theorem Core.idled_ctx (b : Bool) (k : Core) (u : Nat) : ((k.idled b).thr u).ctx = (k.thr u).ctx := by
  unfold Core.idled
  split <;> rfl

theorem Core.idled_loop (b : Bool) (k : Core) : (k.idled b).loop = k.loop := by
  unfold Core.idled
  split <;> rfl

theorem passes_passIdle (lo hi : Option Nat) : Passes s (s.passIdle lo hi) :=
  .ofMap (fun c k => k.idled (k.asid.isSome && lo.all (fun l => decide (l < s.issueKey c)) && hi.all (fun h => decide (s.issueKey c < h))))
    rfl rfl rfl rfl (fun _ k u => k.idled_ctx _ u) (fun _ k => k.idled_loop _)

/-- Idle ports have nothing to drain. -/
theorem drainLoops_idle {s : State} (h : s.portsIdle) (lo hi : Option Nat) : s.drainLoops lo hi = s := by
  have hnone : (s.cores.filter fun p => !p.2.loop.isEmpty) = [] := by
    rw [List.filter_eq_nil_iff]
    intro p hp
    simp [h p hp]
  unfold State.drainLoops
  rw [hnone]
  rfl

theorem passes_idleAndDrain {s : State} (h : s.portsIdle) (lo hi lo' hi' : Option Nat) : Passes s ((s.passIdle lo hi).drainLoops lo' hi') := by
  have hp := passes_passIdle s lo hi
  rw [drainLoops_idle (hp.ports h)]
  exact hp

theorem passes_seek {s t : State} (h : s.portsIdle) {lo : Option Nat} (ht : s.seek lo = some t) : Passes s t := by
  unfold State.seek at ht
  obtain ⟨p, -, rfl⟩ := Option.map_eq_some_iff.mp ht
  exact (passes_idleAndDrain h _ _ _ _).trans (passes_setCur _ _ _)

theorem passes_newCycle {s : State} (h : s.portsIdle) : Passes s s.newCycle := by
  have hclock := (passes_endSamples s).trans (passes_tickCycle _)
  have hpower : Passes s.endSamples.tickCycle
      (if s.endSamples.tickCycle.cycle % 1200 = 0 then s.endSamples.tickCycle.setCurrents else s.endSamples.tickCycle) := by
    split
    · exact passes_setCurrents _
    · exact .refl _
  have hstart := ((hclock.trans hpower).trans (passes_setRamps _)).trans (passes_serveHost _)
  have hidle := hstart.ports h
  unfold State.newCycle
  dsimp only
  split
  · rename_i t ht
    exact ((hstart.trans (passes_seek hidle ht)).trans (passes_takeIrqs t)).trans (passes_post _ _)
  · exact ((hstart.trans (passes_idleAndDrain hidle _ _ _ _)).trans (passes_takeIrqs _)).trans (passes_post _ _)

/-- The count of free values is no part of what time keeps. -/
theorem passes_freshCount {t : State} (h : Passes s t) : Passes s { t with freshCount := t.freshCount + 1 } :=
  h.trans (.ofCores [] rfl rfl rfl (by simp))

/-- The passing of time, while no access waits in a loopback port. -/
theorem passes_advance {s : State} (h : s.portsIdle) (waited : Bool) : Passes s (s.advance waited) := by
  have hslot : Passes s (if waited then s.modCurK fun k => { k with idleSlots := satN 64 (k.idleSlots + 1) } else s) := by
    split
    · exact .modCore s _ _ (fun _ _ => rfl) (fun _ => rfl)
    · exact .refl s
  have hidle := hslot.ports h
  unfold State.advance
  dsimp only
  split
  · exact passes_freshCount s (passes_newCycle h)
  · split
    · exact passes_freshCount s (passes_setCur s _ _)
    · split
      · rename_i t ht
        exact passes_freshCount s ((hslot.trans (passes_seek hidle ht)).trans (passes_post _ _))
      · exact passes_freshCount s (((hslot.trans (passes_idleAndDrain hidle _ _ _ _)).trans (passes_setCur _ _ _)).trans (passes_post _ _))

end Pieces

end Sys2Proof.Machine
end

section
namespace Sys2Proof.Machine

/-! ### The cases of a step and of a fetch -/

section Step

variable {s : State}

theorem step_of_agenda {e : Event} {rest : List Event} (h : s.agenda = e :: rest) :
    step s = exec e.toInstr { s with agenda := rest, freshCount := s.freshCount + 1 } := by
  unfold step
  rw [h]

theorem step_of_idle (ha : s.agenda = []) (hf : s.fetch = .idle) : step s = .next (s.advance false) := by
  unfold step
  rw [ha, hf]

theorem step_of_stop {t : State} (ha : s.agenda = []) (hf : s.fetch = .stop t) : step s = .next (t.advance (s.waited t)) := by
  unfold step
  rw [ha, hf]

theorem step_of_word {w : BitVec 32} {f t : State} (ha : s.agenda = []) (hf : s.fetch = .word w f) (hr : runWord w f = .next t) :
    step s = .next (t.advance (s.waited t)) := by
  unfold step
  rw [ha, hf]
  dsimp only
  rw [hr]
  rfl

theorem fetch_of_not_issuable (h : s.issuable s.curCore s.curThread.val = false) : s.fetch = .idle := by
  simp [State.fetch, h]

/-- An access that goes on after a hold keeps its word (R44). -/
theorem fetch_of_redo {r : Redo} (h : s.issuable s.curCore s.curThread.val = true) (hr : s.cur.redo = some r) : s.fetch = .word r.word s := by
  simp [State.fetch, h, hr]

section Fetch

variable (hi : s.issuable s.curCore s.curThread.val = true) (hr : s.cur.redo = none)
include hi hr

theorem fetch_of_cause {c : Cause} {d : Detail} (h : s.check (s.agent s.curCore) .fetch 1 4 s.cur.pc = .error (.cause c d)) :
    s.fetch = if c = .fetchalign ∨ c = .fetchfault then .stop (s.trap c d) else s.fetchStop fun s => (s.noteEcc c d).trap c d := by
  unfold State.fetch
  simp only [hi, hr, h, Bool.not_true, Bool.false_eq_true, if_false]

theorem fetch_of_held {sp peer addr reason : Nat} {c : Cause}
    (h : s.check (s.agent s.curCore) .fetch 1 4 s.cur.pc = .error (.held sp peer addr reason c)) :
    s.fetch = s.fetchStop fun t => t.holdCur .fetch s.cur.pc sp peer addr reason c := by
  unfold State.fetch
  simp only [hi, hr, h, Bool.not_true, Bool.false_eq_true, if_false]

theorem fetch_of_bad {k g : Nat} (h : s.check (s.agent s.curCore) .fetch 1 4 s.cur.pc = .ok (.mem k)) (hb : s.badIn k 4 = some g) :
    s.fetch = s.fetchStop fun s => (s.logRange k 4).trap .eccunc { d0 := BitVec.ofNat 64 g } := by
  unfold State.fetch
  simp only [hi, hr, h, hb, Bool.not_true, Bool.false_eq_true, if_false]

theorem fetch_of_word {k : Nat} (h : s.check (s.agent s.curCore) .fetch 1 4 s.cur.pc = .ok (.mem k)) (hb : s.badIn k 4 = none)
    (hw : s.cur.wait ≠ .held) : s.fetch = .word (BitVec.ofNat 32 (s.readLe k 4)) (s.fetched k) := by
  unfold State.fetch
  simp only [hi, hr, h, hb, if_neg hw, Bool.not_true, Bool.false_eq_true, if_false]

end Fetch

theorem fetchStop_of_boundary {b : State} (f : State → State) (h : s.boundary = some b) : s.fetchStop f = .stop b := by
  simp [State.fetchStop, h]

theorem fetchStop_of_free (f : State → State) (h : s.boundary = none) (hw : s.cur.wait ≠ .held) : s.fetchStop f = .stop (f s) := by
  simp [State.fetchStop, h, hw]

/-- No stop is due at the boundary of a unit with no pending cause and no deschedule request. -/
theorem boundary_of_free (h : s.cur.stopsDue = []) (hd : s.cur.desched = false) : s.boundary = none := by
  unfold State.boundary
  split
  · rfl
  · unfold State.boundaryOf
    have hcur : s.ctx s.curCore s.curThread.val = s.cur := rfl
    simp only [hcur, h, hd]
    rfl

/-- An access that goes on after a hold has passed its boundary (R44). -/
theorem boundary_of_redo {r : Redo} (h : s.cur.redo = some r) : s.boundary = none := by
  simp [State.boundary, h]

theorem bpFetch_of_redo {r : Redo} (h : s.cur.redo = some r) : s.bpFetch = false := by
  simp [State.bpFetch, h]

end Step

section RunWord

variable {s : State} {w : BitVec 32} {i : Instr}

theorem runWord_of_undecoded {c : Cause} (h : decode w = .error c) : runWord w s = .next (s.trap c { d0 := w.zeroExtend 64 }) := by
  simp [runWord, h]

theorem runWord_of_early {c : Cause} {d : Detail} (h : decode w = .ok i) (he : Instr.early i s = some (c, d)) :
    runWord w s = .next (s.earlyTrap c d) := by
  simp [runWord, h, he]

theorem runWord_of_boundary {t : State} (h : decode w = .ok i) (he : Instr.early i s = none) (hb : s.boundary = some t) :
    runWord w s = .next t := by
  simp [runWord, h, he, hb]

theorem runWord_of_bpFetch (h : decode w = .ok i) (he : Instr.early i s = none) (hb : s.boundary = none) (hp : s.bpFetch = true) :
    runWord w s = .next (s.trap .bkpt) := by
  simp [runWord, h, he, hb, hp]

theorem runWord_of_free (h : decode w = .ok i) (he : Instr.early i s = none) (hb : s.boundary = none) (hp : s.bpFetch = false) :
    runWord w s = exec i s := by
  simp [runWord, h, he, hb, hp]

end RunWord

/-- Settles O57: each clause is a case of the fetch and of what its word does, and time changes no byte and no register piece by piece. -/
theorem stepRunsTheDecodedInstruction : Obligations.StepRunsTheDecodedInstruction := by
  unfold Obligations.StepRunsTheDecodedInstruction
  intro s
  dsimp only
  refine ⟨?due, ?idle, ?word, ?redo, ?cause, ?bad, ?held, ?time⟩
  case due => exact fun e rest h => step_of_agenda h
  case idle => exact fun ha h => step_of_idle ha (fetch_of_not_issuable h)
  case word =>
    rintro k w ⟨ha, hi⟩ hredo hwait hfetch hbad rfl
    have hf := fetch_of_word hi hredo hfetch hbad hwait
    refine ⟨fun c hc => step_of_word ha hf (runWord_of_undecoded hc), fun i hdec => ⟨?_, ?_, ?_, ?_⟩⟩
    · intro c d he hc
      refine step_of_word ha hf ?_
      rw [runWord_of_early hdec he, State.earlyTrap, if_neg hc]
    · intro d he
      refine step_of_word ha hf ?_
      rw [runWord_of_early hdec he, State.earlyTrap, if_pos rfl]
    · exact fun t he hb => step_of_word ha hf (runWord_of_boundary hdec he hb)
    · intro he hstops hdesched
      have hb := boundary_of_free hstops hdesched
      refine ⟨fun hp => step_of_word ha hf (runWord_of_bpFetch hdec he hb hp), fun hp t ht => step_of_word ha hf ?_⟩
      rw [runWord_of_free hdec he hb hp, ht]
  case redo =>
    rintro r i t ⟨ha, hi⟩ hredo hdec he ht
    refine step_of_word ha (fetch_of_redo hi hredo) ?_
    rw [runWord_of_free hdec he (boundary_of_redo hredo) (bpFetch_of_redo hredo), ht]
  case cause =>
    rintro c d ⟨ha, hi⟩ hredo hfetch
    have hf := fetch_of_cause hi hredo hfetch
    refine ⟨fun hc => step_of_stop ha ?_, fun hc1 hc2 hb hw => step_of_stop ha ?_⟩
    · rw [hf, if_pos hc]
    · rw [hf, if_neg (not_or.mpr ⟨hc1, hc2⟩), fetchStop_of_free _ hb hw]
  case bad =>
    rintro k g ⟨ha, hi⟩ hredo hfetch hbad hb hw
    refine step_of_stop ha ?_
    rw [fetch_of_bad hi hredo hfetch hbad, fetchStop_of_free _ hb hw]
  case held =>
    rintro sp peer addr reason c ⟨ha, hi⟩ hredo hfetch
    have hf := fetch_of_held hi hredo hfetch
    refine ⟨fun t hb => step_of_stop ha ?_, fun hb hw => step_of_stop ha ?_⟩
    · rw [hf, fetchStop_of_boundary _ hb]
    · rw [hf, fetchStop_of_free _ hb hw]
  case time =>
    intro t waited hports
    have h := passes_advance ((portsIdle_iff t).mpr hports) waited
    exact ⟨h.mem, h.spaces, h.ctx, h.agenda⟩

end Sys2Proof.Machine
end

section
namespace Sys2Proof.Machine

/-! ### Scalar loads and stores -/

/-- The signed value of a w-bit number, extended to a word, is the sign extension of its w bits. -/
theorem sext_eq_signExtend (v w : Nat) (hw : 0 < w) : sext v w = (BitVec.ofNat w v).signExtend 64 := by
  have hpow : 2 * 2 ^ (w - 1) = 2 ^ w := by rw [← Nat.pow_succ', Nat.succ_eq_add_one, Nat.sub_add_cancel hw]
  have hsigned : toSigned w v = (BitVec.ofNat w v).toInt := by
    rw [toSigned, BitVec.toInt, BitVec.toNat_ofNat]
    by_cases h : v % 2 ^ w < 2 ^ (w - 1)
    · rw [if_pos h, if_pos (by omega)]
    · rw [if_neg h, if_neg (by omega)]
      norm_cast
  rw [sext, BitVec.signExtend, hsigned]

theorem loadValue_signed (n v : Nat) (hn : 0 < n) : loadValue true n v = (BitVec.ofNat (8 * n) v).signExtend 64 := by
  rw [loadValue, if_pos rfl, sext_eq_signExtend v (8 * n) (by omega)]

theorem loadValue_unsigned (n v : Nat) : loadValue false n v = BitVec.ofNat 64 v := by
  rw [loadValue, if_neg (by decide)]

/-- The bytes of a state depend on its memory alone. -/
theorem readLe_of_mem {s t : State} (h : t.mem = s.mem) (k n : Nat) : t.readLe k n = s.readLe k n := by
  simp [State.readLe, State.bytesAt, State.byteAt, h]

theorem byteAt_of_mem {s t : State} (h : t.mem = s.mem) (k : Nat) : t.byteAt k = s.byteAt k := by
  simp [State.byteAt, h]

section Ways

variable {s t : State} {d : Reg} {n k : Nat} {ea v : Word} {signed fp : Bool}

/-- A load of memory, performed at once. -/
theorem loadAt_now (h : ReachesMemory s .load true false n ea k) (hb : (s.touchTlb s.curCore ea).badIn k n = none)
    (hw : AtOnce (s.touchTlb s.curCore ea) ea k) :
    loadAt fp signed d n ea s = loadInto fp signed d n (s.readLe k n) ((s.touchTlb s.curCore ea).correct k n) := by
  obtain ⟨hstream, hheld, hown⟩ := hw
  unfold loadAt
  rw [scalarAccess_reaches h]
  simp [loadKey, hb, hstream, hheld, hown, readLe_of_mem (touchTlb_mem s s.curCore ea)]

/-- A load of memory, performed later. -/
theorem loadAt_leaves (h : ReachesMemory s .load true false n ea k) (hb : (s.touchTlb s.curCore ea).badIn k n = none)
    (hw : LeavesBy (s.touchTlb s.curCore ea) ea k n (.read k n signed s.cur.uid d fp) (.load signed d fp) t) :
    loadAt fp signed d n ea s = loadLater fp d t := by
  unfold loadAt
  rw [scalarAccess_reaches h]
  rcases hw with ⟨hstream, rfl⟩ | ⟨hstream, hown, hfull, rfl⟩ | ⟨hstream, hown, hheld, rfl⟩
  · simp [loadKey, hb, hstream]
  · simp [loadKey, hb, hstream, hown, hfull]
  · simp [loadKey, hb, hstream, hown, hheld]

/-- A load held by a full loopback port (R58). -/
theorem loadAt_stays (h : ReachesMemory s .load true false n ea k) (hb : (s.touchTlb s.curCore ea).badIn k n = none)
    (hstream : (s.touchTlb s.curCore ea).streaming k = false) (hown : (s.touchTlb s.curCore ea).ownName ea = true)
    (hfull : (s.touchTlb s.curCore ea).curK.loopFull = true) : loadAt fp signed d n ea s = .stay (s.touchTlb s.curCore ea) := by
  unfold loadAt
  rw [scalarAccess_reaches h]
  simp [loadKey, hb, hstream, hown, hfull]

/-- A store to memory, performed at once. -/
theorem storeAt_now (h : ReachesMemory s .store false true n ea k) (hb : (s.touchTlb s.curCore ea).badPartly k n = none)
    (hw : AtOnce (s.touchTlb s.curCore ea) ea k) : storeAt n v ea s = .retire ((s.touchTlb s.curCore ea).writeLe k n v.toNat) := by
  obtain ⟨hstream, hheld, hown⟩ := hw
  unfold storeAt
  rw [scalarAccess_reaches h]
  simp [storeKey, hb, hstream, hheld, hown]

/-- A store to memory, performed later. -/
theorem storeAt_leaves (h : ReachesMemory s .store false true n ea k) (hb : (s.touchTlb s.curCore ea).badPartly k n = none)
    (hw : LeavesBy (s.touchTlb s.curCore ea) ea k n (.write k n v s.cur.uid) (.store v) t) : storeAt n v ea s = .retire t := by
  unfold storeAt
  rw [scalarAccess_reaches h]
  rcases hw with ⟨hstream, rfl⟩ | ⟨hstream, hown, hfull, rfl⟩ | ⟨hstream, hown, hheld, rfl⟩
  · simp [storeKey, hb, hstream]
  · simp [storeKey, hb, hstream, hown, hfull]
  · simp [storeKey, hb, hstream, hown, hheld]

/-- A store held by a full loopback port (R58). -/
theorem storeAt_stays (h : ReachesMemory s .store false true n ea k) (hb : (s.touchTlb s.curCore ea).badPartly k n = none)
    (hstream : (s.touchTlb s.curCore ea).streaming k = false) (hown : (s.touchTlb s.curCore ea).ownName ea = true)
    (hfull : (s.touchTlb s.curCore ea).curK.loopFull = true) : storeAt n v ea s = .stay (s.touchTlb s.curCore ea) := by
  unfold storeAt
  rw [scalarAccess_reaches h]
  simp [storeKey, hb, hstream, hown, hfull]

/-- A change of a core outside its threads leaves the threads' contexts. -/
theorem cur_modCore_threads (c : Nat) (f : Core → Core) (hf : ∀ x : Core, (f x).threads = x.threads) : (s.modCore c f).cur = s.cur := by
  have hthr : ∀ x u, (f x).thr u = x.thr u := fun x u => by simp [Core.thr, hf]
  by_cases h : s.curCore = c
  · subst h
    simp [State.cur, State.ctx, State.thr, hthr]
  · simp [State.cur, State.ctx, State.thr, core_modCore_other _ _ _ _ h]

/-- An access that leaves its thread leaves the thread's context as it is. -/
theorem leavesBy_cur {op : AteOp} {act : LoopAct} (h : LeavesBy s ea k n op act t) : t.cur = s.cur ∧ t.curCore = s.curCore := by
  rcases h with ⟨-, rfl⟩ | ⟨-, -, -, rfl⟩ | ⟨-, -, -, rfl⟩
  · exact ⟨cur_modCore_threads _ _ fun _ => rfl, rfl⟩
  · exact ⟨cur_modCore_threads _ _ fun _ => rfl, rfl⟩
  · exact ⟨rfl, rfl⟩

end Ways

/-! ### Loads: the instruction forms -/

section Loads

variable {s t : State} {d a : Reg} {imm : BitVec 12} {ma : Bool} {n k : Nat} {ea : Word} {signed : Bool}

theorem loadX_full (hf : FullAt s [a, d]) (hea : ea = s.cur.xr a + imm.signExtend 64) :
    loadX signed n d a imm ma s = .next (loadAt false signed d n ea s).next := by
  subst hea
  refine issue_full _ _ _ _ (by simpa using hf.sub (r := a) (by simp)) ?_
  intro r hr
  obtain rfl : d = r := by injection hr
  exact hf.sub (by simp)

theorem loadF_full (hf : FullAt s [a]) (hea : ea = s.cur.xr a + imm.signExtend 64) :
    loadF n d a imm ma s = .next (loadAt true false d n ea s).next := by
  subst hea
  exact issue_full _ _ _ _ (by simpa using hf.sub (r := a) (by simp)) (by intro r hr; cases hr)

/-- A value for an x register that is there retires with its destination a producer's. -/
theorem loadInto_x_retired (s1 : State) (v : Nat) (pc : Word) (hpc : s1.cur.pc = pc) :
    Retired ((s1.sampledAt s1.curCore 0).modCur (producing d (loadValue signed n v))) (loadInto false signed d n v s1).next (pc + 4) := by
  have h := retire_produce_retired (s1.sampledAt s1.curCore 0) d (loadValue signed n v)
  rw [sampledAt_cur, hpc] at h
  exact h

theorem loadInto_f_retired (s1 : State) (v : Nat) (pc : Word) (hpc : s1.cur.pc = pc) :
    Retired ((s1.sampledAt s1.curCore 0).modCur fun c => c.setF d (BitVec.ofNat 64 v)) (loadInto true signed d n v s1).next (pc + 4) :=
  retire_modCur_retired (s1.sampledAt s1.curCore 0) _ pc (by rw [pc_setF, sampledAt_cur, hpc])

theorem loadX_now (hf : FullAt s [a, d]) (hea : ea = s.cur.xr a + imm.signExtend 64)
    (h : ReachesMemory s .load true false n ea k) (hb : (s.touchTlb s.curCore ea).badIn k n = none) (hw : AtOnce (s.touchTlb s.curCore ea) ea k) :
    RunsTo (loadX signed n d a imm ma s) (((s.touchTlb s.curCore ea).correct k n).sampledAt s.curCore 0)
      (producing d (loadValue signed n (s.readLe k n))) (s.cur.pc + 4) := by
  refine ⟨_, loadX_full hf hea, ?_⟩
  rw [loadAt_now h hb hw]
  have hr := loadInto_x_retired (d := d) (signed := signed) (n := n) ((s.touchTlb s.curCore ea).correct k n) (s.readLe k n) s.cur.pc (by simp)
  rw [correct_curCore, touchTlb_curCore] at hr
  exact hr

theorem loadF_now (hf : FullAt s [a]) (hea : ea = s.cur.xr a + imm.signExtend 64)
    (h : ReachesMemory s .load true false n ea k) (hb : (s.touchTlb s.curCore ea).badIn k n = none) (hw : AtOnce (s.touchTlb s.curCore ea) ea k) :
    RunsTo (loadF n d a imm ma s) (((s.touchTlb s.curCore ea).correct k n).sampledAt s.curCore 0)
      (fun c => c.setF d (BitVec.ofNat 64 (s.readLe k n))) (s.cur.pc + 4) := by
  refine ⟨_, loadF_full hf hea, ?_⟩
  rw [loadAt_now h hb hw]
  have hr := loadInto_f_retired (d := d) (signed := false) (n := n) ((s.touchTlb s.curCore ea).correct k n) (s.readLe k n) s.cur.pc (by simp)
  rw [correct_curCore, touchTlb_curCore] at hr
  exact hr

theorem loadX_leaves (hf : FullAt s [a, d]) (hea : ea = s.cur.xr a + imm.signExtend 64)
    (h : ReachesMemory s .load true false n ea k) (hb : (s.touchTlb s.curCore ea).badIn k n = none)
    (hw : LeavesBy (s.touchTlb s.curCore ea) ea k n (.read k n signed s.cur.uid d false) (.load signed d false) t) :
    RunsTo (loadX signed n d a imm ma s) (t.sampledAt s.curCore 0) (fun x => x.markEmpty d) (s.cur.pc + 4) := by
  obtain ⟨hcur, hcore⟩ := leavesBy_cur hw
  rw [touchTlb_cur] at hcur
  rw [touchTlb_curCore] at hcore
  refine ⟨_, loadX_full hf hea, ?_⟩
  rw [loadAt_leaves h hb hw, ← hcore]
  exact retire_modCur_retired (t.sampledAt t.curCore 0) _ _ (by rw [pc_markEmpty, sampledAt_cur, hcur])

theorem loadF_leaves (hf : FullAt s [a]) (hea : ea = s.cur.xr a + imm.signExtend 64)
    (h : ReachesMemory s .load true false n ea k) (hb : (s.touchTlb s.curCore ea).badIn k n = none)
    (hw : LeavesBy (s.touchTlb s.curCore ea) ea k n (.read k n false s.cur.uid d true) (.load false d true) t) :
    loadF n d a imm ma s = .next (t.sampledAt s.curCore 0).awaitAnswer := by
  obtain ⟨-, hcore⟩ := leavesBy_cur hw
  rw [touchTlb_curCore] at hcore
  rw [loadF_full hf hea, loadAt_leaves h hb hw, ← hcore]
  rfl

theorem loadX_stays (hf : FullAt s [a, d]) (hea : ea = s.cur.xr a + imm.signExtend 64)
    (h : ReachesMemory s .load true false n ea k) (hb : (s.touchTlb s.curCore ea).badIn k n = none)
    (hstream : (s.touchTlb s.curCore ea).streaming k = false) (hown : (s.touchTlb s.curCore ea).ownName ea = true)
    (hfull : (s.touchTlb s.curCore ea).curK.loopFull = true) : loadX signed n d a imm ma s = .next (s.touchTlb s.curCore ea) := by
  rw [loadX_full hf hea, loadAt_stays h hb hstream hown hfull]
  rfl

theorem loadF_stays (hf : FullAt s [a]) (hea : ea = s.cur.xr a + imm.signExtend 64)
    (h : ReachesMemory s .load true false n ea k) (hb : (s.touchTlb s.curCore ea).badIn k n = none)
    (hstream : (s.touchTlb s.curCore ea).streaming k = false) (hown : (s.touchTlb s.curCore ea).ownName ea = true)
    (hfull : (s.touchTlb s.curCore ea).curK.loopFull = true) : loadF n d a imm ma s = .next (s.touchTlb s.curCore ea) := by
  rw [loadF_full hf hea, loadAt_stays h hb hstream hown hfull]
  rfl

end Loads

theorem loadsReadMemory : LoadsReadMemory := by
  unfold LoadsReadMemory
  intro s d a imm ma ea k hea
  refine ⟨fun hf => ⟨?_, ?_, ?_, ?_, ?_, ?_, ?_, ?_⟩, fun hf => ⟨?_, ?_, ?_⟩⟩
  · rintro ⟨h, hb⟩ hw
    have hr := loadX_now (signed := true) (ma := ma) hf hea h hb hw
    rwa [loadValue_signed _ _ (by decide)] at hr
  · rintro ⟨h, hb⟩ hw
    have hr := loadX_now (signed := true) (ma := ma) hf hea h hb hw
    rwa [loadValue_signed _ _ (by decide)] at hr
  · rintro ⟨h, hb⟩ hw
    have hr := loadX_now (signed := true) (ma := ma) hf hea h hb hw
    rwa [loadValue_signed _ _ (by decide)] at hr
  · rintro ⟨h, hb⟩ hw
    have hr := loadX_now (signed := true) (ma := ma) hf hea h hb hw
    rwa [loadValue_signed _ _ (by decide), BitVec.signExtend_eq] at hr
  · exact fun ⟨h, hb⟩ hw => loadX_now (signed := false) hf hea h hb hw
  · exact fun ⟨h, hb⟩ hw => loadX_now (signed := false) hf hea h hb hw
  · exact fun ⟨h, hb⟩ hw => loadX_now (signed := false) hf hea h hb hw
  · intro p hp
    have hform : exec p.1 s = loadX p.2.2 p.2.1 d a imm ma s := by
      simp only [List.mem_cons, List.not_mem_nil, or_false] at hp
      rcases hp with rfl | rfl | rfl | rfl | rfl | rfl | rfl <;> rfl
    dsimp only
    rw [hform]
    exact ⟨fun ⟨h, hb⟩ t hw => loadX_leaves hf hea h hb hw, fun ⟨h, hb⟩ hs ho hl => loadX_stays hf hea h hb hs ho hl⟩
  · exact fun ⟨h, hb⟩ hw => loadF_now hf hea h hb hw
  · exact fun ⟨h, hb⟩ hw => loadF_now hf hea h hb hw
  · intro p hp
    have hform : exec p.1 s = loadF p.2 d a imm ma s := by
      simp only [List.mem_cons, List.not_mem_nil, or_false] at hp
      rcases hp with rfl | rfl <;> rfl
    dsimp only
    rw [hform]
    exact ⟨fun ⟨h, hb⟩ t hw => loadF_leaves hf hea h hb hw, fun ⟨h, hb⟩ hs ho hl => loadF_stays hf hea h hb hs ho hl⟩

end Sys2Proof.Machine
end

section
namespace Sys2Proof.Machine

/-! ### What a write leaves of the issuing context -/

/-- The registers of a context, its floating-point control and mix registers, and its program counter. -/
def Ctx.regs (x : Ctx) := (x.x, x.f, x.m, x.fctl, x.warn, x.pc)

theorem fireWatches_regs (x : Ctx) (off n now : Nat) (word : Nat → Word) : (x.fireWatches off n now word).regs = x.regs := rfl

/-- A thread whose unit, where it is the one with a handle, takes an update. -/
def Thread.updated (uid : Nat) (f : Ctx → Ctx) (th : Thread) : Thread :=
  if th.running || th.stopped.isSome then { th with ctx := if th.ctx.uid = uid then f th.ctx else th.ctx } else th

theorem Thread.updated_regs (uid : Nat) (f : Ctx → Ctx) (hf : ∀ y, (f y).regs = y.regs) (th : Thread) : (th.updated uid f).ctx.regs = th.ctx.regs := by
  unfold Thread.updated
  split
  · split
    · exact hf th.ctx
    · rfl
  · rfl

/-- A core whose threads and ready units take an update by handle. -/
def Core.updated (uid : Nat) (f : Ctx → Ctx) (k : Core) : Core :=
  { k with
    threads := k.threads.map (Thread.updated uid f)
    ready := k.ready.map fun e =>
      match e.item with
      | .ctx c => { e with item := .ctx (if c.uid = uid then f c else c) }
      | _ => e }

theorem modUnit_cores (s : State) (uid : Nat) (f : Ctx → Ctx) : (s.modUnit uid f).cores = tmap s.cores fun _ => Core.updated uid f := rfl

theorem Core.updated_regs (uid : Nat) (f : Ctx → Ctx) (hf : ∀ y, (f y).regs = y.regs) (k : Core) (u : Nat) :
    ((k.updated uid f).thr u).ctx.regs = (k.thr u).ctx.regs := by
  unfold Core.thr vget Core.updated
  dsimp only
  split
  · rw [Vector.getElem_map]
    exact Thread.updated_regs uid f hf _
  · rfl

theorem modUnit_cur_regs (s : State) (uid : Nat) (f : Ctx → Ctx) (hf : ∀ y, (f y).regs = y.regs) : (s.modUnit uid f).cur.regs = s.cur.regs := by
  unfold State.cur State.ctx State.thr State.core tgetD
  rw [modUnit_cores, tget_tmap]
  change ((((tget s.cores s.curCore).map (Core.updated uid f)).getD Core.reset).thr s.curThread.val).ctx.regs = _
  cases tget s.cores s.curCore with
  | none => rfl
  | some k => exact Core.updated_regs uid f hf k _

theorem fireWatches_cur_regs (s : State) (k n : Nat) : (s.fireWatches k n).cur.regs = s.cur.regs := by
  unfold State.fireWatches
  split
  · rfl
  · exact foldl_keeps (fun t => t.cur.regs) _ (fun t x => modUnit_cur_regs t _ _ fun y => fireWatches_regs y _ _ _ _) _ s

theorem headReady_cur (s : State) (asid slot : Nat) : (s.headReady asid slot).cur = s.cur := by
  unfold State.headReady State.modPart
  split <;> rfl

theorem readyDeps_cur (s : State) (k n : Nat) : (s.readyDeps k n).cur = s.cur := by
  unfold State.readyDeps
  refine foldl_keeps State.cur _ ?_ _ s
  intro t d
  rw [headReady_cur]
  rfl

theorem repair_cur (s : State) (k n : Nat) : (s.repair k n).cur = s.cur := by
  unfold State.repair
  split <;> rfl

/-- A write changes no register (R249: it ends watches, whose values are on their way). -/
theorem writeLe_cur_regs (s : State) (k n v : Nat) : (s.writeLe k n v).cur.regs = s.cur.regs := by
  unfold State.writeLe State.writeBytes
  split
  · rfl
  · rw [State.afterWrite, readyDeps_cur, fireWatches_cur_regs, repair_cur]
    rfl

/-- A retirement moves the program counter and leaves the other registers. -/
theorem Retired.cur_eq {s t : State} {pc : Word} (h : Retired s t pc) :
    t.cur.x = s.cur.x ∧ t.cur.f = s.cur.f ∧ t.cur.m = s.cur.m ∧ t.cur.fctl = s.cur.fctl ∧ t.cur.warn = s.cur.warn := by
  rw [h.cur]
  exact ⟨rfl, rfl, rfl, rfl, rfl⟩

theorem Retired.mem {s t : State} {pc : Word} (h : Retired s t pc) : t.mem = s.mem := by
  have hr := congrArg State.mem h.rest
  exact hr

/-! ### Stores: the instruction forms -/

/-- What a store of n bytes, performed at once, comes to. -/
def StoreDone (s s1 : State) (k n : Nat) (v : Word) (o : Host.Outcome State Fault Refusal) : Prop :=
  ∃ t, o = .next t ∧ Retired (s1.writeLe k n v.toNat) t (s.cur.pc + 4) ∧
    t.readLe k n = v.toNat % 256 ^ n ∧ (∀ j, j < k ∨ k + n ≤ j → t.byteAt j = s.byteAt j) ∧ Memory.wf t.mem = true ∧
    (∀ q, t.cur.xr q = s.cur.xr q) ∧ t.cur.f = s.cur.f ∧ t.cur.m = s.cur.m ∧ t.cur.fctl = s.cur.fctl ∧ t.cur.warn = s.cur.warn

/-- A write of a state with the same memory and the same issuing context, which retires. -/
theorem storeDone_of_retire {s s1 : State} (hmem : s1.mem = s.mem) (hcur : s1.cur = s.cur) (hwf : Memory.wf s.mem = true) (k n : Nat) (v : Word) :
    StoreDone s s1 k n v (.next (s1.writeLe k n v.toNat).retire) := by
  have hregs := writeLe_cur_regs s1 k n v.toNat
  rw [hcur] at hregs
  obtain ⟨hx, hf, hm, hfctl, hwarn, hpc⟩ : _ ∧ _ ∧ _ ∧ _ ∧ _ ∧ _ := by simpa only [Ctx.regs, Prod.mk.injEq] using hregs
  have hwf1 : Memory.wf s1.mem = true := by rw [hmem, hwf]
  have hr : Retired (s1.writeLe k n v.toNat) (s1.writeLe k n v.toNat).retire (s.cur.pc + 4) := by
    rw [← hpc]
    exact retireAt_retired _ _
  obtain ⟨gx, gf, gm, gfctl, gwarn⟩ := hr.cur_eq
  refine ⟨_, rfl, hr, ?_, ?_, ?_, ?_, gf.trans hf, gm.trans hm, gfctl.trans hfctl, gwarn.trans hwarn⟩
  · rw [readLe_of_mem hr.mem, readLe_writeLe _ _ _ _ hwf1]
  · intro j hj
    rw [byteAt_of_mem hr.mem, byteAt_writeLe_other _ _ _ _ _ hwf1 hj, byteAt_of_mem hmem]
  · rw [hr.mem]
    exact writeLe_wf _ _ _ _ hwf1
  · intro q
    rw [Ctx.xr, Ctx.xr, gx, hx]

section Stores

variable {s : State} {o : Host.Outcome State Fault Refusal} {n k : Nat} {ea v : Word}

/-- Everything that is said of one store form: at once, later, or held. -/
theorem storeAt_cases (hwf : Memory.wf s.mem = true) (ho : o = .next (storeAt n v ea s).next)
    (h : ReachesMemory s .store false true n ea k) (hb : (s.touchTlb s.curCore ea).badPartly k n = none) :
    (AtOnce (s.touchTlb s.curCore ea) ea k → StoreDone s (s.touchTlb s.curCore ea) k n v o) ∧
    (∀ t, LeavesBy (s.touchTlb s.curCore ea) ea k n (.write k n v s.cur.uid) (.store v) t → RunsTo o t id (s.cur.pc + 4)) ∧
    ((s.touchTlb s.curCore ea).streaming k = false → (s.touchTlb s.curCore ea).ownName ea = true →
      (s.touchTlb s.curCore ea).curK.loopFull = true → o = .next (s.touchTlb s.curCore ea)) := by
  subst ho
  refine ⟨fun hw => ?_, fun t hw => ?_, fun hs ho hl => ?_⟩
  · rw [storeAt_now h hb hw]
    exact storeDone_of_retire (touchTlb_mem ..) (touchTlb_cur ..) hwf k n v
  · have hcur := (leavesBy_cur hw).1
    rw [touchTlb_cur] at hcur
    rw [storeAt_leaves h hb hw, ← hcur]
    exact ⟨_, rfl, (retireAt_retired t _).modCur_id id rfl⟩
  · rw [storeAt_stays h hb hs ho hl]
    rfl

variable {r a : Reg} {imm : BitVec 11} {ms ma : Bool}

theorem storeX_full (hf : FullAt s [a, r]) (hea : ea = s.cur.xr a + imm.signExtend 64) :
    storeX n r a imm ms ma s = .next (storeAt n (s.cur.xr r) ea s).next := by
  subst hea
  exact issue_full _ _ _ _ (by simpa using ⟨hf.sub (r := a) (by simp), hf.sub (r := r) (by simp)⟩) (by intro r hr; cases hr)

theorem storeF_full (hf : FullAt s [a]) (hea : ea = s.cur.xr a + imm.signExtend 64) :
    storeF n r a imm ma s = .next (storeAt n (s.cur.fr r) ea s).next := by
  subst hea
  exact issue_full _ _ _ _ (by simpa using hf.sub (r := a) (by simp)) (by intro r hr; cases hr)

end Stores

theorem storesWriteMemory : StoresWriteMemory := by
  unfold StoresWriteMemory
  intro s r a imm ms ma ea k hea hwf
  refine ⟨fun hf => ⟨?_, ?_, ?_, ?_⟩, fun hf => ⟨?_, ?_⟩⟩
  · exact storeAt_cases hwf (storeX_full hf hea)
  · exact storeAt_cases hwf (storeX_full hf hea)
  · exact storeAt_cases hwf (storeX_full hf hea)
  · exact storeAt_cases hwf (storeX_full hf hea)
  · exact storeAt_cases hwf (storeF_full hf hea)
  · exact storeAt_cases hwf (storeF_full hf hea)

/-! ### Checks that stop an access -/

section Checks

variable {s : State} {va : Word}

theorem wfield_space (va : Word) : wfield va 60 4 = va.toNat / 2 ^ 60 := by
  have h := va.isLt
  simp only [wfield, fieldOf, Nat.shiftRight_eq_div_pow]
  omega

/-- Outside spaces 0x4 to 0x6, or without a hold, an access is checked from the first condition on (R40, R44). -/
theorem reach_of_new (h : s.cur.redo = none ∨ 7 ≤ va.toNat / 2 ^ 60) (kind : AccKind) (align n : Nat) :
    s.reach kind align n va = s.reachNew kind align n va := by
  unfold State.reach
  cases hr : s.cur.redo with
  | none => rfl
  | some r =>
    have hsp : 7 ≤ wfield va 60 4 := by
      rw [wfield_space]
      exact h.resolve_left (by simp [hr])
    dsimp only
    rw [if_neg (by omega), if_neg (by omega)]

theorem reachNew_of_cause {kind : AccKind} {align n : Nat} {c : Cause} {det : Detail}
    (h : s.checkNamed (s.agent s.curCore) kind align n va = .error (.cause c det)) : s.reachNew kind align n va = .error (.cause c det) := by
  simp [State.reachNew, State.check, State.checkTo, h]

theorem checkNamed_of_reserved {g : Agent} (h : 8 ≤ va.toNat / 2 ^ 60) (kind : AccKind) (align n : Nat) :
    s.checkNamed g kind align n va = .error (.cause .access { d0 := va, d1 := BitVec.ofNat 64 n }) := by
  have hsp : 8 ≤ fieldOf va.toNat 60 4 := by
    rw [← wfield_space] at h
    exact h
  unfold State.checkNamed
  dsimp only
  rw [if_pos hsp]

theorem checkNamed_of_unprivileged {g : Agent} (h : va.toNat / 2 ^ 60 = 7) (hp : g.privileged = false) (kind : AccKind) (align n : Nat) :
    s.checkNamed g kind align n va = .error (.cause .priv { d0 := va }) := by
  have hsp : fieldOf va.toNat 60 4 = 7 := by
    rw [← wfield_space] at h
    exact h
  unfold State.checkNamed
  dsimp only
  rw [if_neg (by omega), if_pos ⟨hsp, by simp [hp]⟩]

theorem checkNamed_of_misaligned {g : Agent} {kind : AccKind} (hk : kind ≠ .fetch) (h : va.toNat / 2 ^ 60 < 7) {align : Nat} (ha : va.toNat % align ≠ 0) (n : Nat) :
    s.checkNamed g kind align n va = .error (.cause (alignCause kind) { d0 := va, d1 := BitVec.ofNat 64 n }) := by
  have hsp : fieldOf va.toNat 60 4 < 7 := by
    rw [← wfield_space] at h
    exact h
  have h7 : fieldOf va.toNat 60 4 ≠ 7 := by omega
  unfold State.checkNamed
  dsimp only
  rw [if_neg (by omega), if_neg (fun c => h7 c.1), if_neg (fun c => hk c.1), if_neg (fun c => hk c.1), if_neg (fun c => h7 c.1), if_pos ha]

theorem reachScalar_of_cause {kind : AccKind} {align n : Nat} {c : Cause} {det : Detail} (h : s.reach kind align n va = .error (.cause c det)) :
    s.reachScalar kind align n va = .error (.cause c det) := by
  simp [State.reachScalar, h]

/-- A scalar access whose check fails with a cause stops its unit with it, an uncorrectable error logged (R40, R73). -/
theorem scalarAccess_of_cause {kind : AccKind} {ld st : Bool} {align n : Nat} {c : Cause} {det : Detail} (go : Hit → State → Res)
    (h : s.reach kind align n va = .error (.cause c det)) : scalarAccess kind ld st align n va go s = .trap c det (s.noteEcc c det) := by
  simp [scalarAccess, reachScalar_of_cause h, Miss.res]

end Checks

theorem failedChecksStopTheAccess : FailedChecksStopTheAccess := by
  unfold FailedChecksStopTheAccess
  intro s d a immL immS ma va hf
  have hfa : FullAt s [a] := fun r hr => hf r (by simp_all)
  refine ⟨fun h k n => ?_, fun h hp k n => ?_, fun hr h n hn => ⟨?_, ?_, ?_⟩, fun c det hva h => ⟨?_, ?_⟩, fun c det hva h => ⟨?_, ?_⟩⟩
  · rw [reach_of_new (.inr (by omega))]
    exact reachNew_of_cause (checkNamed_of_reserved h k n n)
  · rw [reach_of_new (.inr (by omega))]
    exact reachNew_of_cause (checkNamed_of_unprivileged h hp k n n)
  · rw [reach_of_new (.inl hr)]
    exact reachNew_of_cause (checkNamed_of_misaligned (by decide) h hn n)
  · rw [reach_of_new (.inl hr)]
    exact reachNew_of_cause (checkNamed_of_misaligned (by decide) h hn n)
  · rw [reach_of_new (.inl hr)]
    exact reachNew_of_cause (checkNamed_of_misaligned (by decide) h hn n)
  · rw [exec_ldD, execLdD, loadX_full hf hva, loadAt, scalarAccess_of_cause _ h]
    rfl
  · rw [exec_ldfD, execLdfD, loadF_full hfa hva, loadAt, scalarAccess_of_cause _ h]
    rfl
  · rw [exec_stD, execStD, storeX_full hf hva, storeAt, scalarAccess_of_cause _ h]
    rfl
  · rw [exec_stfD, execStfD, storeF_full hfa hva, storeAt, scalarAccess_of_cause _ h]
    rfl

/-- Settles O9: each form is a load or a store at its address, which is performed at once, leaves its thread, waits for the port, or stops. -/
theorem loadsAndStoresReachMemory : Obligations.LoadsAndStoresReachMemory :=
  ⟨loadsReadMemory, storesWriteMemory, failedChecksStopTheAccess⟩

end Sys2Proof.Machine
end

section
namespace Sys2Proof.Machine

/-! ### Page walks -/

section Walk

variable {s : State} {die asid va fuel level base : Nat}

/-- The key of the entry that a walk reads at a level. -/
def entryKey (va level base : Nat) : Nat := hbmKey (base + 8 * fieldOf va (levelShift level).1 (levelShift level).2)

/-- A hit in the walk cache stands for the table read (R31). -/
theorem walkFrom_of_cached {t : Nat} (h : s.cachedTable die asid level (va >>> (levelShift level).1) = some t) :
    walkFrom s die asid va (fuel + 1) level base = walkFrom s die asid va fuel (level + 1) t := by
  rw [walkFrom]
  simp only [h]

section Read

variable (hc : s.cachedTable die asid level (va >>> (levelShift level).1) = none) (hb : s.badIn (entryKey va level base) 8 = none)
include hc hb

theorem walkFrom_of_invalid (hv : fieldOf (s.readLe (entryKey va level base) 8) 0 1 = 0) :
    walkFrom s die asid va (fuel + 1) level base = { res := .fail 0, read := [entryKey va level base], path := [] } := by
  have hb' := hb
  unfold entryKey at hb' hv ⊢
  rw [walkFrom]
  simp only [hc, hb', hv, if_true]

/-- A leaf at level 0 is not valid (R29). -/
theorem walkFrom_of_topLeaf (hlevel : level = 0) (hv : fieldOf (s.readLe (entryKey va level base) 8) 0 1 ≠ 0)
    (hl : fieldOf (s.readLe (entryKey va level base) 8) 1 1 = 1) :
    walkFrom s die asid va (fuel + 1) level base = { res := .fail 1, read := [entryKey va level base], path := [] } := by
  subst hlevel
  have hb' := hb
  unfold entryKey at hb' hv hl ⊢
  rw [walkFrom]
  simp only [hc, hb', hv, hl, if_false]
  split <;> simp

end Read

theorem fieldOf_eq (v lo n : Nat) : fieldOf v lo n = v / 2 ^ lo % 2 ^ n := by rw [fieldOf, Nat.shiftRight_eq_div_pow]

/-- Do the fields of a list lie below bit `hi`, each below the one before it? -/
def FieldsBelow : Nat → List (Nat × Nat × Nat) → Prop
  | _, [] => True
  | hi, (lo, n, _) :: r => lo + n ≤ hi ∧ FieldsBelow lo r

theorem packNat_lt {fs : List (Nat × Nat × Nat)} {hi : Nat} (h : FieldsBelow hi fs) : packNat fs < 2 ^ hi := by
  induction fs generalizing hi with
  | nil => exact Nat.two_pow_pos hi
  | cons p r ih =>
    obtain ⟨lo, n, v⟩ := p
    obtain ⟨hlo, hr⟩ := h
    calc v % 2 ^ n * 2 ^ lo + packNat r < (v % 2 ^ n + 1) * 2 ^ lo := by rw [Nat.succ_mul]; exact Nat.add_lt_add_left (ih hr) _
      _ ≤ 2 ^ n * 2 ^ lo := Nat.mul_le_mul_right _ (Nat.mod_lt _ (Nat.two_pow_pos n))
      _ = 2 ^ (lo + n) := by rw [← pow_add, Nat.add_comm]
      _ ≤ 2 ^ hi := Nat.pow_le_pow_right (by decide) hlo

/-- The first field of a packed number. -/
theorem packNat_head {r : List (Nat × Nat × Nat)} {lo : Nat} (h : FieldsBelow lo r) (n v : Nat) :
    packNat ((lo, n, v) :: r) / 2 ^ lo = v % 2 ^ n := by
  rw [packNat, Nat.add_comm, Nat.add_mul_div_right _ _ (Nat.two_pow_pos lo), Nat.div_eq_of_lt (packNat_lt h), Nat.zero_add]

/-- The later fields of a packed number. -/
theorem packNat_tail {lo l m : Nat} (h : l + m ≤ lo) (n v : Nat) (r : List (Nat × Nat × Nat)) :
    packNat ((lo, n, v) :: r) / 2 ^ l % 2 ^ m = packNat r / 2 ^ l % 2 ^ m := by
  obtain ⟨d, rfl⟩ := Nat.exists_eq_add_of_le h
  have hsplit : v % 2 ^ n * 2 ^ (l + m + d) = v % 2 ^ n * 2 ^ d * 2 ^ m * 2 ^ l := by rw [pow_add, pow_add]; ring
  rw [packNat, hsplit, Nat.add_comm, Nat.add_mul_div_right _ _ (Nat.two_pow_pos l), Nat.add_mul_mod_self_right]

/-- The fields of an entry that names the next table (R28). -/
theorem pointerEntry_fields {t : Nat} (ht : t % 256 = 0) (hd : t < 0x6000000000) :
    fieldOf (t + 1) 0 1 = 1 ∧ fieldOf (t + 1) 1 1 = 0 ∧ fieldOf (t + 1) 4 4 = 0 ∧ fieldOf (t + 1) 8 40 * 256 = t ∧ fieldOf (t + 1) 48 16 = 0 := by
  obtain ⟨q, rfl⟩ := Nat.dvd_of_mod_eq_zero ht
  have hq : q < 2 ^ 40 := by omega
  have hpack : 256 * q + 1 = packNat [(8, 40, q), (0, 1, 1)] := by
    rw [packNat, Nat.mod_eq_of_lt hq, Nat.mul_comm q]
    rfl
  have hbelow : FieldsBelow 48 [(8, 40, q), (0, 1, 1)] := by simp [FieldsBelow]
  simp only [fieldOf_eq, hpack]
  refine ⟨packNat_tail (by decide) 40 q _, packNat_tail (by decide) 40 q _, packNat_tail (by decide) 40 q _, ?_, ?_⟩
  · rw [packNat_head (by simp [FieldsBelow]), Nat.mod_mod, Nat.mod_eq_of_lt hq, Nat.mul_comm]
  · rw [Nat.div_eq_of_lt (packNat_lt hbelow), Nat.zero_mod]

/-- The fields of an entry that is a leaf with rights W and X (R28). -/
theorem leafEntry_fields {f rights : Nat} (hf : f % 65536 = 0) (hd : f < 0x6000000000) (hr : rights < 4) :
    fieldOf (f + 3 + 4 * rights) 0 1 = 1 ∧ fieldOf (f + 3 + 4 * rights) 1 1 = 1 ∧ fieldOf (f + 3 + 4 * rights) 2 1 = rights % 2 ∧
      fieldOf (f + 3 + 4 * rights) 3 1 = rights / 2 ∧ fieldOf (f + 3 + 4 * rights) 4 4 = 0 ∧ fieldOf (f + 3 + 4 * rights) 8 40 * 256 = f ∧
      fieldOf (f + 3 + 4 * rights) 48 16 = 0 := by
  obtain ⟨q, rfl⟩ : 256 ∣ f := Nat.dvd_of_mod_eq_zero (by omega)
  have hq : q < 2 ^ 40 := by omega
  have hpack : 256 * q + 3 + 4 * rights = packNat [(8, 40, q), (2, 2, rights), (0, 2, 3)] := by
    simp only [packNat, Nat.mod_eq_of_lt hq, Nat.mod_eq_of_lt (show rights < 2 ^ 2 from hr)]
    omega
  have hbelow : FieldsBelow 48 [(8, 40, q), (2, 2, rights), (0, 2, 3)] := by simp [FieldsBelow]
  simp only [fieldOf_eq, hpack]
  refine ⟨?_, ?_, ?_, ?_, ?_, ?_, ?_⟩
  · rw [packNat_tail (by decide), packNat_tail (by decide)]
    rfl
  · rw [packNat_tail (by decide), packNat_tail (by decide)]
    rfl
  · rw [packNat_tail (by decide), packNat_head (by simp [FieldsBelow]), Nat.mod_eq_of_lt (show rights < 2 ^ 2 from hr), Nat.pow_one]
  · rw [packNat_tail (by decide)]
    interval_cases rights <;> rfl
  · rw [packNat_tail (by decide)]
    interval_cases rights <;> rfl
  · rw [packNat_head (by simp [FieldsBelow]), Nat.mod_mod, Nat.mod_eq_of_lt hq, Nat.mul_comm]
  · rw [Nat.div_eq_of_lt (packNat_lt hbelow), Nat.zero_mod]

section Valid

variable (hc : s.cachedTable die asid level (va >>> (levelShift level).1) = none) (hb : s.badIn (entryKey va level base) 8 = none)
include hc hb

/-- A valid entry leads on to the next table, which is cached beside the walkers (R29, R31). -/
theorem walkFrom_of_pointer {t : Nat} (hlevel : level < 3) (he : s.readLe (entryKey va level base) 8 = t + 1)
    (ht : t % (if level = 2 then 256 else 4096) = 0) (hd : t < 0x6000000000) :
    walkFrom s die asid va (fuel + 1) level base =
      { walkFrom s die asid va fuel (level + 1) t with
        read := entryKey va level base :: (walkFrom s die asid va fuel (level + 1) t).read
        path := { asid := asid, level := level, pre := va >>> (levelShift level).1, table := t } :: (walkFrom s die asid va fuel (level + 1) t).path } := by
  have h256 : t % 256 = 0 := by
    split at ht
    · exact ht
    · omega
  obtain ⟨hv, hl, hr4, ha, hr48⟩ := pointerEntry_fields h256 hd
  have hb' := hb
  unfold entryKey at hb' he ⊢
  rw [walkFrom]
  have hlevel3 : (level == 3) = false := by simp; omega
  have halign : ¬ (if level = 2 then ¬ t % 256 = 0 else ¬ t % 4096 = 0) := by
    split at ht
    · next h => rwa [if_pos h, not_not]
    · next h => rwa [if_neg h, not_not]
  simp [hc, hb', he, hv, hl, hr4, ha, hr48, hlevel3, halign, Nat.not_le.mpr hd]

/-- A leaf of the last level gives its frame and rights (R29). -/
theorem walkFrom_of_leaf {f rights : Nat} (hlevel : level = 3) (he : s.readLe (entryKey va level base) 8 = f + 3 + 4 * rights)
    (hr : rights < 4) (hf : f % 65536 = 0) (hd : f < 0x6000000000) :
    walkFrom s die asid va (fuel + 1) level base =
      { res := .page 3 f (rights % 2 = 1) (rights / 2 = 1), read := [entryKey va level base], path := [] } := by
  subst hlevel
  obtain ⟨hv, hl, hw, hx, hr4, ha, hr48⟩ := leafEntry_fields hf hd hr
  have hb' := hb
  unfold entryKey at hb' he ⊢
  rw [walkFrom]
  have halign : f % 2 ^ (levelShift 3).1 = 0 := hf
  simp [hc, hb', he, hv, hl, hw, hx, hr4, ha, hr48, halign, Nat.not_le.mpr hd]

end Valid

end Walk

/-! ### What walks leave in the caches -/

/-- A die with another error count. -/
def Die.withEccstat (e : Die) (w : Word) : Die := { e with eccstat := w }

/-- The later error count stands. -/
theorem Die.withEccstat_withEccstat (e : Die) (v w : Word) : (e.withEccstat v).withEccstat w = e.withEccstat w := rfl

/-- A die with another error count and another walk cache. -/
def Die.withWalks (e : Die) (w : Word) (l : List PathEntry) : Die := { e with eccstat := w, walks := l }

/-- A change of a die that a projection does not see. -/
theorem die_modDie_keeps {β : Type} (p : Die → β) (s : State) (d j : Nat) (f : Die → Die) (hf : ∀ e, p (f e) = p e) :
    p ((s.modDie d f).die j) = p (s.die j) := by
  by_cases hj : j = d
  · subst hj
    by_cases h4 : j < 4
    · rw [die_modDie _ _ _ h4, hf]
    · simp [State.die, vget, h4]
  · rw [die_modDie_other _ _ _ _ hj]

/-- A die that counts one more correction (R75). -/
def Die.countCorrection (e : Die) : Die := e.withEccstat (wput e.eccstat 16 32 (satN 32 (wfield e.eccstat 16 32 + 1)))

/-- A correction changes of a die its error count alone (R72). -/
theorem correct_die (s : State) (k n j : Nat) (w : Word) : ((s.correct k n).die j).withEccstat w = (s.die j).withEccstat w := by
  unfold State.correct
  split
  · rfl
  · refine foldl_keeps (fun t => (t.die j).withEccstat w) _ ?_ _ s
    intro t g
    exact die_modDie_keeps (fun e : Die => e.withEccstat w) t (keyDie g) j Die.countCorrection fun e => e.withEccstat_withEccstat _ w

theorem correctWalk_die (s : State) (t : Trans) (j : Nat) (w : Word) : ((s.correctWalk t).die j).withEccstat w = (s.die j).withEccstat w :=
  foldl_keeps (fun u => (u.die j).withEccstat w) _ (fun u k => correct_die u k 8 j w) _ s

/-- What a walk leaves of a die but for its error count and its walk cache. -/
theorem noteWalk_die (s : State) (die j : Nat) (t : Trans) (w : Word) (l : List PathEntry) :
    ((s.noteWalk die t).die j).withWalks w l = (s.die j).withWalks w l := by
  have h := congrArg (fun e : Die => e.withWalks w l) (correctWalk_die s t j w)
  unfold State.noteWalk
  dsimp only
  split
  · exact h
  · refine (die_modDie_keeps (fun e : Die => e.withWalks w l) (s.correctWalk t) die j _ ?_).trans h
    intro e
    rfl

/-- Do two walk-cache entries stand for the same table? -/
def PathEntry.same (e f : PathEntry) : Bool := f.asid == e.asid && f.level == e.level && f.pre == e.pre

theorem PathEntry.same_iff (e f : PathEntry) : e.same f = true ↔ f.asid = e.asid ∧ f.level = e.level ∧ f.pre = e.pre := by
  simp [PathEntry.same, and_assoc]

theorem cacheInto_of_room {α : Type} {cap n : Nat} {same : α → Bool} {e : α} {l : List α} (h : l.any same = false) (hl : l.length < cap) :
    cacheInto cap n same e l = l ++ [e] := by
  simp [cacheInto, h, hl]

/-- While there is room, what is put into a cache is there after it, with what was there before. -/
theorem mem_cacheInto {cap n : Nat} {e : PathEntry} {l : List PathEntry} (hl : l.length < cap) :
    (∀ f ∈ l, f ∈ cacheInto cap n e.same e l) ∧ (∃ q ∈ cacheInto cap n e.same e l, e.same q = true) ∧ (cacheInto cap n e.same e l).length ≤ l.length + 1 := by
  unfold cacheInto
  split
  · next h =>
    obtain ⟨q, hq, hs⟩ := List.any_eq_true.mp h
    exact ⟨fun f hf => hf, ⟨q, hq, hs⟩, Nat.le_succ _⟩
  · refine ⟨fun f hf => ?_, ⟨e, ?_, (PathEntry.same_iff e e).mpr ⟨rfl, rfl, rfl⟩⟩, ?_⟩
    · simp [hf]
    · simp
    · simp

theorem mem_foldl_cacheInto {cap n : Nat} (es l : List PathEntry) (hl : l.length + es.length ≤ cap) :
    (∀ f ∈ l, f ∈ es.foldl (fun l e => cacheInto cap n e.same e l) l) ∧
      ∀ e ∈ es, ∃ q ∈ es.foldl (fun l e => cacheInto cap n e.same e l) l, e.same q = true := by
  induction es generalizing l with
  | nil => exact ⟨fun f hf => hf, fun e he => by cases he⟩
  | cons e r ih =>
    rw [List.length_cons] at hl
    obtain ⟨hkeep, ⟨q, hq, hs⟩, hlen⟩ := mem_cacheInto (n := n) (e := e) (show l.length < cap by omega)
    obtain ⟨ikeep, iall⟩ := ih (cacheInto cap n e.same e l) (by omega)
    refine ⟨fun f hf => ikeep f (hkeep f hf), fun f hf => ?_⟩
    rcases List.mem_cons.mp hf with rfl | hf
    · exact ⟨q, ikeep q hq, hs⟩
    · exact iall f hf

/-- The tables that a walk passed are cached beside the walkers, where the walk cache has room for them (R31). -/
theorem noteWalk_walks (s : State) {die : Nat} (hd : die < 4) (t : Trans) (hroom : (s.die die).walks.length + t.path.length ≤ 256) :
    ∀ p ∈ t.path, ∃ q ∈ ((s.noteWalk die t).die die).walks, q.asid = p.asid ∧ q.level = p.level ∧ q.pre = p.pre := by
  intro p hp
  have hwalks := congrArg Die.walks (correctWalk_die s t die 0)
  simp only [Die.withEccstat] at hwalks
  obtain ⟨-, hall⟩ := mem_foldl_cacheInto (n := Config.tlbVictim (Nat.pair (s.correctWalk t).freshCount 2)) t.path (s.die die).walks hroom
  obtain ⟨q, hq, hs⟩ := hall p hp
  refine ⟨q, ?_, (PathEntry.same_iff p q).mp hs⟩
  have hne : t.path.isEmpty = false := by
    cases h : t.path with
    | nil => rw [h] at hp; cases hp
    | cons a r => rfl
  unfold State.noteWalk
  simp only [hne, Bool.false_eq_true, if_false]
  rw [die_modDie _ _ _ hd]
  dsimp only
  rw [hwalks]
  exact hq

/-- What is cached neither for a core nor for its bay is walked (R31). -/
theorem lookup_of_uncached {s : State} {c asid va : Nat} (h : ∀ e ∈ (s.core c).tlb ++ (s.bay (tlbBay c)).tlb, e.maps asid va = false) :
    s.lookup c asid va = walk s (coreDie c) asid va := by
  have hcore : (s.core c).tlb.find? (fun e => e.maps asid va) = none :=
    List.find?_eq_none.mpr fun e he => by simp [h e (List.mem_append_left _ he)]
  have hbay : (s.bay (tlbBay c)).tlb.find? (fun e => e.maps asid va) = none :=
    List.find?_eq_none.mpr fun e he => by simp [h e (List.mem_append_right _ he)]
  simp [State.lookup, State.tlbHit, hcore, hbay]

theorem bay_modCore (s : State) (c b : Nat) (f : Core → Core) : (s.modCore c f).bay b = s.bay b := rfl

theorem noteWalk_bay (s : State) (die b : Nat) (t : Trans) : (s.noteWalk die t).bay b = s.bay b := by
  have h := congrArg (fun u : State => u.bay b) (noteWalk_rest s s die t)
  exact h

section CacheWalk

variable {s : State} {c asid va : Nat}

/-- The caches of cores and bays, after a walk that gave no page. -/
theorem cacheWalk_of_fail {r : Nat} (h : (s.lookup c asid va).res = .fail r) : s.cacheWalk c asid va = s.noteWalk (coreDie c) (s.lookup c asid va) := by
  unfold State.cacheWalk
  simp only [h]

/-- A page is cached for its core and its bay, where there is room (R31). -/
theorem cacheWalk_tlb {level frame : Nat} {w x : Bool} (hmap : ∀ e ∈ (s.core c).tlb ++ (s.bay (tlbBay c)).tlb, e.maps asid va = false)
    (h : (s.lookup c asid va).res = .page level frame w x) (hcore : (s.core c).tlb.length < 32) (hbay : (s.bay (tlbBay c)).tlb.length < 1024) :
    let e : Tlb := { asid := asid, level := level, page := va >>> (levelShift level).1, frame := frame, w := w, x := x }
    ((s.cacheWalk c asid va).core c).tlb = (s.core c).tlb ++ [e] ∧ ((s.cacheWalk c asid va).bay (tlbBay c)).tlb = (s.bay (tlbBay c)).tlb ++ [e] := by
  have hnone : ∀ l : List Tlb, (∀ e ∈ l, e.maps asid va = false) → l.any (fun f => f.maps asid va) = false := fun l hl =>
    List.any_eq_false.mpr fun e he => by simp [hl e he]
  unfold State.cacheWalk
  simp only [h]
  refine ⟨?_, ?_⟩
  · rw [core_modBay, core_modCore, noteWalk_core]
    exact cacheInto_of_room (hnone _ fun e he => hmap e (List.mem_append_left _ he)) hcore
  · rw [bay_modBay, bay_modCore, noteWalk_bay]
    exact cacheInto_of_room (hnone _ fun e he => hmap e (List.mem_append_right _ he)) hbay

theorem cacheWalk_die (j : Nat) : (s.cacheWalk c asid va).die j = (s.noteWalk (coreDie c) (s.lookup c asid va)).die j := by
  unfold State.cacheWalk
  dsimp only
  split <;> rfl

theorem cacheWalk_mem : (s.cacheWalk c asid va).mem = s.mem := by
  have h := congrArg State.mem (cacheWalk_rest s s c asid va)
  exact h

end CacheWalk

theorem badIn_of_noBad {s : State} (h : s.bad = []) (k n : Nat) : s.badIn k n = none := by simp [State.badIn, h]

end Sys2Proof.Machine
end

section
namespace Sys2Proof.Machine

section FourLevels

variable {s : State} {die asid va base : Nat}

theorem entryKey_zero : entryKey va 0 base = hbmKey (base + 8 * (va / 2 ^ 39 % 512)) := by simp [entryKey, fieldOf_eq, levelShift]
theorem entryKey_one : entryKey va 1 base = hbmKey (base + 8 * (va / 2 ^ 30 % 512)) := by simp [entryKey, fieldOf_eq, levelShift]
theorem entryKey_two : entryKey va 2 base = hbmKey (base + 8 * (va / 2 ^ 21 % 512)) := by simp [entryKey, fieldOf_eq, levelShift]
theorem entryKey_three : entryKey va 3 base = hbmKey (base + 8 * (va / 2 ^ 16 % 32)) := by simp [entryKey, fieldOf_eq, levelShift]

theorem walk_of_outside (h : 0x6000000000 ≤ (s.part asid).launch.ptbase) : walk s die asid va = { res := .fail 3, read := [], path := [] } := by
  simp only [walk, if_pos h]

theorem walk_of_inside (h : (s.part asid).launch.ptbase < 0x6000000000) :
    walk s die asid va = walkFrom s die asid va 4 0 (s.part asid).launch.ptbase := by
  simp only [walk, if_neg (Nat.not_le.mpr h)]

section Uncached

variable (hbad : s.bad = []) (hc : ∀ level, level < 4 → s.cachedTable die asid level (va >>> (levelShift level).1) = none)
include hbad hc

/-- A walk through three tables to a leaf of the last level, with what it passes (R27 to R29). -/
theorem walkFrom_of_threeTables {t1 t2 t3 f rights : Nat}
    (h0 : s.readLe (entryKey va 0 base) 8 = t1 + 1) (ha1 : t1 % 4096 = 0) (hd1 : t1 < 0x6000000000)
    (h1 : s.readLe (entryKey va 1 t1) 8 = t2 + 1) (ha2 : t2 % 4096 = 0) (hd2 : t2 < 0x6000000000)
    (h2 : s.readLe (entryKey va 2 t2) 8 = t3 + 1) (ha3 : t3 % 256 = 0) (hd3 : t3 < 0x6000000000)
    (h3 : s.readLe (entryKey va 3 t3) 8 = f + 3 + 4 * rights) (hr : rights < 4) (haf : f % 65536 = 0) (hdf : f < 0x6000000000) :
    (walkFrom s die asid va 4 0 base).res = .page 3 f (rights % 2 = 1) (rights / 2 = 1) ∧
      (walkFrom s die asid va 4 0 base).path = [{ asid := asid, level := 0, pre := va / 2 ^ 39, table := t1 },
        { asid := asid, level := 1, pre := va / 2 ^ 30, table := t2 }, { asid := asid, level := 2, pre := va / 2 ^ 21, table := t3 }] := by
  have hb := badIn_of_noBad hbad
  rw [walkFrom_of_pointer (hc 0 (by omega)) (hb _ _) (by omega) h0 ha1 hd1, walkFrom_of_pointer (hc 1 (by omega)) (hb _ _) (by omega) h1 ha2 hd2,
    walkFrom_of_pointer (hc 2 (by omega)) (hb _ _) (by omega) h2 ha3 hd3, walkFrom_of_leaf (hc 3 (by omega)) (hb _ _) rfl h3 hr haf hdf]
  simp [levelShift, Nat.shiftRight_eq_div_pow]

end Uncached

end FourLevels

/-- What a core's walk leaves in the caches and in memory (R29, R31). -/
theorem execPageWalk_of_uncached {s : State} {core asid va : Nat} (hva : va < 2 ^ 48) (hrun : s.running asid = true)
    (hasid : (s.core core).asid = some asid) : execPageWalk core asid va s = .next (s.cacheWalk core asid va) := by
  have h : (s.running asid && (s.core core).asid == some asid && decide (va < 2 ^ 48)) = true := by
    simp only [hrun, hasid, decide_eq_true hva, beq_self_eq_true, Bool.and_self]
  rw [execPageWalk, if_pos h]

theorem coreDie_lt {c : Nat} (h : c < 4608) : coreDie c < 4 := by
  have hg : isGateway c = false := by simp [isGateway]; omega
  rw [coreDie, hg]
  simp only [Bool.false_eq_true, if_false]
  omega

theorem walksFollowTheTables : WalksFollowTheTables := by
  unfold WalksFollowTheTables
  intro s core asid va t1 t2 t3 f rights hbad hva hcore hrun
  dsimp only
  have hb := badIn_of_noBad hbad
  refine ⟨fun h => by rw [walk_of_outside h], fun hin => ⟨fun t ht => ?_, fun hc => ⟨fun hv => ?_, fun hl h48 h4 => ?_, ?_⟩⟩, fun hasid hmap => ?_⟩
  · rw [walk_of_inside hin, walkFrom_of_cached ht]
  · rw [walk_of_inside hin, walkFrom_of_invalid (hc 0 (by omega)) (hb _ _)]
    rw [entryKey_zero, fieldOf_eq]
    omega
  · rw [walk_of_inside hin, walkFrom_of_topLeaf (hc 0 (by omega)) (hb _ _) rfl]
    · rw [entryKey_zero, fieldOf_eq]
      omega
    · rw [entryKey_zero, fieldOf_eq]
      omega
  · intro h0 ha1 hd1 h1 ha2 hd2 h2 ha3 hd3 h3 hr haf hdf
    rw [walk_of_inside hin]
    rw [← entryKey_zero] at h0
    rw [← entryKey_one] at h1
    rw [← entryKey_two] at h2
    rw [← entryKey_three] at h3
    exact walkFrom_of_threeTables hbad hc h0 ha1 hd1 h1 ha2 hd2 h2 ha3 hd3 h3 hr haf hdf
  · have hlook := lookup_of_uncached hmap
    refine ⟨_, execPageWalk_of_uncached hva hrun hasid, cacheWalk_mem, fun level frame wr x hw hl1 hl2 => ?_, fun r hw => ?_, fun hroom => ?_⟩
    · rw [← hlook] at hw
      exact cacheWalk_tlb hmap hw hl1 hl2
    · rw [← hlook] at hw
      rw [cacheWalk_of_fail hw, noteWalk_core, noteWalk_bay]
      exact ⟨rfl, rfl⟩
    · rw [cacheWalk_die, hlook]
      exact noteWalk_walks s (coreDie_lt hcore) _ hroom

end Sys2Proof.Machine
end

section
namespace Sys2Proof.Machine

/-! ### Held accesses -/

/-- The fields of a notification record (R42). -/
theorem notifBits_fields (die count : Nat) (n : Notif) (hdie : die < 4) (hhid : n.hid < 2 ^ 16) (hasid : n.asid < 2 ^ 12) (hreason : n.reason < 16)
    (hcount : count < 2 ^ 13) (hvag : n.vag < 2 ^ 32) :
    let r := (notifBits die n count).toNat
    r % 2 ^ 12 = n.asid ∧ r / 2 ^ 16 % 2 ^ 32 = n.vag ∧ r / 2 ^ 56 % 16 = n.reason ∧ r / 2 ^ 64 % 2 ^ 13 = count ∧ r / 2 ^ 96 % 4 = die ∧ r / 2 ^ 112 = n.hid := by
  unfold notifBits
  generalize n.cause.code = code
  generalize (match n.kind with | .load => 0 | .store => 1 | .atomic => 2 | .fetch => 3 | .engRead => 4 | .engWrite => 5 : Nat) = kind
  dsimp only
  rw [BitVec.toNat_ofNat, Nat.mod_eq_of_lt (packNat_lt (by simp [FieldsBelow]))]
  refine ⟨?_, ?_, ?_, ?_, ?_, ?_⟩
  · rw [← Nat.div_one (packNat _), ← Nat.pow_zero 2]
    iterate 9 rw [packNat_tail (by decide)]
    rw [packNat_head (r := []) trivial, Nat.mod_mod, Nat.mod_eq_of_lt hasid]
  · iterate 8 rw [packNat_tail (by decide)]
    rw [packNat_head (by simp [FieldsBelow]), Nat.mod_mod, Nat.mod_eq_of_lt hvag]
  · rw [show 16 = 2 ^ 4 from rfl]
    iterate 6 rw [packNat_tail (by decide)]
    rw [packNat_head (by simp [FieldsBelow]), Nat.mod_mod]
    exact Nat.mod_eq_of_lt hreason
  · iterate 4 rw [packNat_tail (by decide)]
    rw [packNat_head (by simp [FieldsBelow]), Nat.mod_mod, Nat.mod_eq_of_lt hcount]
  · rw [show 4 = 2 ^ 2 from rfl]
    iterate 2 rw [packNat_tail (by decide)]
    rw [packNat_head (by simp [FieldsBelow]), Nat.mod_mod]
    exact Nat.mod_eq_of_lt hdie
  · rw [packNat_head (by simp [FieldsBelow]), Nat.mod_eq_of_lt hhid]

section Held

variable {s : State} {die hid uid c u : Nat} {n : Notif} {h : Held}

theorem execNotificationRecord_of_next (hdie : die < 4) (hn : (s.die die).notifs.find? (fun n => !n.written) = some n)
    (hroom : (s.die die).nringFull = false) :
    execNotificationRecord die s = .next ((s.modDie die fun e => { e with
      nring := tput e.nring (e.nwr % 512) (notifBits die n ((s.die die).held.filter fun h => h.hid == n.hid).length), nwr := (e.nwr + 1) % 1024
      notifs := e.notifs.map fun m => if m.hid = n.hid then { m with written := true } else m }).raiseIrq die 17) := by
  unfold execNotificationRecord
  simp [hn, hroom, Nat.not_le.mpr hdie]

/-- The state whose notification and its entries are gone from their die. -/
def State.notifClosed (s : State) (die : Nat) (n : Notif) : State :=
  s.modDie die fun d => { d with held := d.held.filter fun h => h.hid ≠ n.hid, notifs := d.notifs.filter fun m => m.hid ≠ n.hid }

variable (hone : ((s.die die).held.filter fun h => h.hid == n.hid) = [h]) (hwho : h.who = .thread uid)
include hone hwho

/-- A replay of a notification with one thread's access lets the thread go on (R43, R44). -/
theorem closeNotif_replay : s.closeNotif die n false = (s.notifClosed die n).releaseThread uid := by
  simp [State.closeNotif, hone, State.reissue, hwho, State.notifClosed]

/-- A kill of a notification with one thread's access stops its unit (R43, R45). -/
theorem closeNotif_kill (hfind : s.findUnit uid = some (c, u)) (hwait : (s.ctx c u).wait = .held) :
    s.closeNotif die n true =
      ((s.notifClosed die n).modCtx c u fun x => { x with wait := .no }).takeStop c u 0 (some n.cause) (h.detail n.cause) := by
  have hfind' : (s.notifClosed die n).findUnit uid = some (c, u) := hfind
  have hwait' : ((s.notifClosed die n).ctx c u).wait = .held := hwait
  unfold State.closeNotif
  simp only [hone, List.foldl_cons, List.foldl_nil, if_true]
  unfold State.killHeld
  simp only [hwho]
  rw [← State.notifClosed]
  simp only [hfind', hwait', if_true]

end Held

section Commands

variable {s : State} {die hid asid : Nat} {n : Notif} (kill : Bool)

theorem fhHid_of_open (h : (s.die die).notifs.find? (fun m => m.hid == hid) = some n) : s.fhHid die hid kill = s.closeNotif die n kill := by
  simp [State.fhHid, h]

theorem fhHid_of_none (h : (s.die die).notifs.find? (fun m => m.hid == hid) = none) :
    s.fhHid die hid kill = s.modDie die fun d => { d with fhErr := true } := by
  simp [State.fhHid, h]

theorem fhAsid_of_one (h : (s.die die).notifs.filter (fun m => m.asid == asid) = [n]) : s.fhAsid die asid kill = s.closeNotif die n kill := by
  simp [State.fhAsid, h]

theorem fhAsid_of_none (h : (s.die die).notifs.filter (fun m => m.asid == asid) = []) : s.fhAsid die asid kill = s := by
  simp [State.fhAsid, h]

end Commands

/-- The die after a held access has taken an entry: the entry stands last among the held ones, under some hold id. -/
theorem parkEntry_held (s : State) {die : Nat} (hdie : die < 4) (h : Held) :
    ∃ hid, (((s.parkEntry die h).2.die die).held = (s.die die).held ++ [{ h with hid := hid }]) ∧ ((s.parkEntry die h).2.die die).stalled = (s.die die).stalled := by
  unfold State.parkEntry
  dsimp only
  split
  · next n _ => exact ⟨n.hid, by rw [die_modDie _ _ _ hdie], by rw [die_modDie _ _ _ hdie]⟩
  · exact ⟨(s.die die).freshHid, by rw [die_modDie _ _ _ hdie], by rw [die_modDie _ _ _ hdie]⟩

/-- A held access under the reason that it meets now. -/
def Held.under (h : Held) (r : Nat) : Held := { h with reason := r, cause := reasonCause r (h.kind = .fetch) }

section Retry

variable {s : State} {die uid : Nat} {h : Held} {rest : List Held}

/-- The state without its oldest stalled access. -/
def State.tried (s : State) (die : Nat) (rest : List Held) : State := s.modDie die fun e => { e with stalled := rest }

variable (hdie : die < 4) (hst : (s.die die).stalled = h :: rest) (hroom : (s.die die).held.length < 4096) (hwho : h.who = .thread uid)
include hst hroom hwho

/-- A stalled access that can go on is made again (R46). -/
theorem execFaultHoldRetry_of_valid (hok : h.space ≠ 4 ∨ (s.tried die rest).stillFails die h = none) :
    execFaultHoldRetry die s = .next ((s.tried die rest).releaseThread uid) := by
  have hnone : (if h.space = 4 then (s.tried die rest).stillFails die h else none) = none := by
    split
    · next h4 => exact hok.resolve_left (fun hn => hn h4)
    · rfl
  unfold execFaultHoldRetry
  simp only [hst, if_neg (Nat.not_le.mpr hroom)]
  rw [← State.tried, hnone]
  simp [State.unstall, hwho]

/-- A stalled access that still fails is parked. -/
theorem execFaultHoldRetry_of_stillFails {r : Nat} (h4 : h.space = 4) (hr : (s.tried die rest).stillFails die h = some r) :
    execFaultHoldRetry die s =
      .next (((s.tried die rest).noteWalk die (walk (s.tried die rest) die h.asid h.addr)).parkEntry die (h.under r)).2 := by
  unfold execFaultHoldRetry
  simp only [hst, if_neg (Nat.not_le.mpr hroom)]
  rw [← State.tried, if_pos h4, hr]
  simp [State.unstall, hwho, Held.under]

include hdie

/-- A stalled access that still fails takes the entry, under the reason that it meets now (R46). -/
theorem execFaultHoldRetry_of_failing {r : Nat} (h4 : h.space = 4) (hr : (s.tried die rest).stillFails die h = some r) :
    ∃ t, execFaultHoldRetry die s = .next t ∧ (t.die die).stalled = rest ∧ ∃ e, (t.die die).held = (s.die die).held ++ [e] ∧ e.va = h.va ∧ e.who = h.who ∧
      e.kind = h.kind ∧ e.reason = r ∧ e.cause = reasonCause r (h.kind = .fetch) := by
  obtain ⟨hid, hheld, hstalled⟩ := parkEntry_held ((s.tried die rest).noteWalk die (walk (s.tried die rest) die h.asid h.addr)) hdie (h.under r)
  have hnote := noteWalk_die (s.tried die rest) die die (walk (s.tried die rest) die h.asid h.addr) 0 []
  have hh := congrArg Die.held hnote
  have hs := congrArg Die.stalled hnote
  simp only [Die.withWalks] at hh hs
  have htried : (s.tried die rest).die die = { s.die die with stalled := rest } := die_modDie _ _ _ hdie
  refine ⟨_, execFaultHoldRetry_of_stillFails hst hroom hwho h4 hr, ?_, { h.under r with hid := hid }, ?_, rfl, rfl, rfl, rfl, rfl⟩
  · rw [hstalled, hs, htried]
  · rw [hheld, hh, htried]

end Retry

theorem heldAccessesAreSettled : HeldAccessesAreSettled := by
  unfold HeldAccessesAreSettled
  intro s die hid asid uid c u n h rest hdie
  refine ⟨execNotificationRecord_of_next hdie, fun hhid hasid hreason hcount hvag => notifBits_fields die _ n hdie hhid hasid hreason hcount hvag,
    fun hst hroom hwho => ⟨fun r h4 hr => execFaultHoldRetry_of_failing hdie hst hroom hwho h4 hr, fun hok => execFaultHoldRetry_of_valid hst hroom hwho hok⟩,
    ?_, fun hn => ⟨?_, ?_⟩, ?_, fun hn => ⟨?_, ?_⟩⟩
  · rintro hn ⟨hone, hwho, hfind, hwait⟩
    refine ⟨?_, ?_⟩
    · rw [exec_fhReplayHid, execFhReplayHid, fhHid_of_open false hn, closeNotif_replay hone hwho]
      rfl
    · rw [exec_fhKillHid, execFhKillHid, fhHid_of_open true hn, closeNotif_kill hone hwho hfind hwait]
      rfl
  · rw [exec_fhReplayHid, execFhReplayHid, fhHid_of_none false hn]
  · rw [exec_fhKillHid, execFhKillHid, fhHid_of_none true hn]
  · rintro hn ⟨hone, hwho, hfind, hwait⟩
    refine ⟨?_, ?_⟩
    · rw [exec_fhReplayAsid, execFhReplayAsid, fhAsid_of_one false hn, closeNotif_replay hone hwho]
      rfl
    · rw [exec_fhKillAsid, execFhKillAsid, fhAsid_of_one true hn, closeNotif_kill hone hwho hfind hwait]
      rfl
  · rw [exec_fhReplayAsid, execFhReplayAsid, fhAsid_of_none false hn]
  · rw [exec_fhKillAsid, execFhKillAsid, fhAsid_of_none true hn]

end Sys2Proof.Machine
end

section
namespace Sys2Proof.Machine

/-! ### Invalidations -/

/-- The core after an invalidation that names its die (R49). -/
def Core.invalidated (k : Core) (i : InvCmd) : Core :=
  { k with
    tlb := k.tlb.filter fun e => !i.coversTlb e
    copies := tmap k.copies fun _ (o : CopyOp) => if i.scope = 3 ∨ i.asid = o.cmd.asid then { o with barLoc := none } else o }

/-- The cores named by the keys of a list lose what an invalidation covers. -/
def State.removeCores (s : State) (i : InvCmd) (l : List (Nat × Core)) : State :=
  l.foldl (fun s p => if i.names (coreDie p.1) then s.modCore p.1 fun k => k.invalidated i else s) s

/-- A state whose bays have lost what an invalidation covers. -/
def State.removeBays (s : State) (i : InvCmd) : State :=
  { s with bays := tmap s.bays fun b (e : Bay) => if i.names (tlbDie b) then { e with tlb := e.tlb.filter fun t => !i.coversTlb t } else e }

/-- The die after an invalidation that names it (R49). -/
def Die.invalidated (e : Die) (i : InvCmd) : Die := { e with walks := e.walks.filter fun t => !i.coversPath t }

/-- The dies of a list lose what an invalidation covers. -/
def State.removeDies (s : State) (i : InvCmd) (l : List Nat) : State :=
  l.foldl (fun s d => if i.names d then s.modDie d fun e => e.invalidated i else s) s

theorem removeTlb_eq (s : State) (i : InvCmd) : s.removeTlb i = ((s.removeCores i s.cores).removeBays i).removeDies i (upTo 4) := rfl

section Parts

variable (s : State) (i : InvCmd)

theorem Core.invalidated_tlb (k : Core) : (k.invalidated i).tlb = k.tlb.filter fun e => !i.coversTlb e := rfl

/-- A core's cached translations after the cores of a list have lost theirs: once or more often, it is the same filter. -/
theorem removeCores_tlb (l : List (Nat × Core)) (c : Nat) :
    ((s.removeCores i l).core c).tlb = if (l.any (fun p => p.1 == c) && i.names (coreDie c)) = true then (s.core c).tlb.filter fun e => !i.coversTlb e else (s.core c).tlb := by
  induction l generalizing s with
  | nil => simp [State.removeCores]
  | cons p r ih =>
    have hstep : s.removeCores i (p :: r) = (if i.names (coreDie p.1) then s.modCore p.1 fun k => k.invalidated i else s).removeCores i r := rfl
    rw [hstep, ih]
    by_cases hn : i.names (coreDie p.1) = true
    · rw [if_pos hn]
      by_cases hc : c = p.1
      · subst hc
        rw [core_modCore, Core.invalidated_tlb, List.filter_filter]
        simp [hn]
      · rw [core_modCore_other _ _ _ _ hc]
        have hp : (p.1 == c) = false := by simpa using Ne.symm hc
        rw [List.any_cons, hp, Bool.false_or]
    · rw [if_neg hn]
      by_cases hc : c = p.1
      · subst hc
        simp [hn]
      · have hp : (p.1 == c) = false := by simpa using Ne.symm hc
        rw [List.any_cons, hp, Bool.false_or]

/-- A core without the copies' kept translations and its own. -/
def Core.withoutTlb (k : Core) : Core := { k with tlb := [], copies := [] }

theorem removeCores_core (l : List (Nat × Core)) (c : Nat) : ((s.removeCores i l).core c).withoutTlb = (s.core c).withoutTlb := by
  refine foldl_keeps (fun t => (t.core c).withoutTlb) _ ?_ l s
  intro t p
  split
  · by_cases hc : c = p.1
    · subst hc
      rw [core_modCore]
      rfl
    · rw [core_modCore_other _ _ _ _ hc]
  · rfl

theorem removeBays_tlb (b : Nat) :
    ((s.removeBays i).bay b).tlb = if i.names (tlbDie b) = true then (s.bay b).tlb.filter fun e => !i.coversTlb e else (s.bay b).tlb := by
  simp only [State.bay, State.removeBays, tgetD, tget_tmap]
  cases tget s.bays b with
  | none => simp [Bay.reset]
  | some e =>
    simp only [Option.map_some, Option.getD_some]
    split <;> rfl

/-- What the removal from the dies leaves of a die, for each of the four. -/
theorem removeDies_die {j : Nat} (hj : j < 4) : (s.removeDies i (upTo 4)).die j = if i.names j = true then (s.die j).invalidated i else s.die j := by
  have hstep : ∀ (t : State) (d : Nat), d < 4 → ∀ e, (if i.names d then t.modDie d fun e => e.invalidated i else t).die e =
      if e = d ∧ i.names d = true then (t.die e).invalidated i else t.die e := by
    intro t d hd e
    by_cases hn : i.names d = true
    · by_cases he : e = d
      · subst he
        rw [if_pos hn, die_modDie _ _ _ hd, if_pos ⟨rfl, hn⟩]
      · rw [if_pos hn, die_modDie_other _ _ _ _ he, if_neg fun h => he h.1]
    · rw [if_neg hn, if_neg fun h => hn h.2]
  have hfold : s.removeDies i (upTo 4) = (upTo 4).foldl (fun s d => if i.names d then s.modDie d fun e => e.invalidated i else s) s := rfl
  rw [hfold, show upTo 4 = [0, 1, 2, 3] from rfl]
  simp only [List.foldl_cons, List.foldl_nil]
  rw [hstep _ 3 (by omega), hstep _ 2 (by omega), hstep _ 1 (by omega), hstep _ 0 (by omega)]
  obtain rfl | rfl | rfl | rfl : j = 0 ∨ j = 1 ∨ j = 2 ∨ j = 3 := by omega
  · simp
  · simp
  · simp
  · simp

/-- The removal from the dies leaves everything else. -/
theorem removeDies_rest (l : List Nat) (u : State) : (s.removeDies i l).withErrors u = s.withErrors u := by
  refine foldl_keeps (State.withErrors · u) _ ?_ l s
  intro t d
  split <;> rfl

theorem removeDies_core (l : List Nat) (c : Nat) : (s.removeDies i l).core c = s.core c := by
  have h := congrArg (fun t : State => t.core c) (removeDies_rest s i l s)
  exact h

theorem removeDies_bay (l : List Nat) (b : Nat) : (s.removeDies i l).bay b = s.bay b := by
  have h := congrArg (fun t : State => t.bay b) (removeDies_rest s i l s)
  exact h

theorem removeDies_mem (l : List Nat) : (s.removeDies i l).mem = s.mem := by
  have h := congrArg (fun t : State => t.mem) (removeDies_rest s i l s)
  exact h

theorem removeCores_keeps {β : Type} (p : State → β) (hp : ∀ (t : State) c f, p (t.modCore c f) = p t) (l : List (Nat × Core)) :
    p (s.removeCores i l) = p s := by
  refine foldl_keeps p _ ?_ l s
  intro t q
  split
  · exact hp t _ _
  · rfl

end Parts

/-- Does an invalidation cover what a cache holds of a launch, at a level, for a page (R49)? -/
def InvCmd.hit (i : InvCmd) (a level page : Nat) : Bool :=
  i.scope == 3 || (if i.scope = 2 then a == i.asid else
    let sh := if level = 0 then 39 else if level = 1 then 30 else if level = 2 then 21 else 16
    decide (a = i.asid ∧ page * 2 ^ sh < i.va + i.bytes ∧ i.va < page * 2 ^ sh + 2 ^ sh))

theorem levelShift_eq (level : Nat) : (levelShift level).1 = if level = 0 then 39 else if level = 1 then 30 else if level = 2 then 21 else 16 := by
  match level with
  | 0 => rfl
  | 1 => rfl
  | 2 => rfl
  | n + 3 => rfl

/-- A page of a launch meets the bytes of an invalidation. -/
theorem meets_eq (a asid sh page va n : Nat) :
    (a == asid && overlap (page * 2 ^ sh) (2 ^ sh) va n) = decide (a = asid ∧ page * 2 ^ sh < va + n ∧ va < page * 2 ^ sh + 2 ^ sh) := by
  simp [overlap, Bool.decide_and, beq_eq_decide]

theorem coversTlb_eq (i : InvCmd) (e : Tlb) : i.coversTlb e = i.hit e.asid e.level e.page := by
  simp only [InvCmd.coversTlb, InvCmd.hit, Tlb.meets, levelShift_eq, meets_eq]

theorem coversPath_eq (i : InvCmd) (e : PathEntry) : i.coversPath e = i.hit e.asid e.level e.pre := by
  simp only [InvCmd.coversPath, InvCmd.hit, PathEntry.meets, levelShift_eq, meets_eq]

theorem names_iff (i : InvCmd) (d : Nat) : i.names d = true ↔ i.dies / 2 ^ d % 2 = 1 := by simp [InvCmd.names, fieldOf_eq]

/-- The translations and entries that `hit` covers, and no others, are gone in `t` from the caches of the dies named. -/
def Removes (s t : State) (named : Nat → Prop) (hit : Nat → Nat → Nat → Bool) : Prop :=
  (∀ c, (named (coreDie c) → (t.core c).tlb = (s.core c).tlb.filter fun e => !hit e.asid e.level e.page) ∧ (¬ named (coreDie c) → (t.core c).tlb = (s.core c).tlb)) ∧
  (∀ b, (named (tlbDie b) → (t.bay b).tlb = (s.bay b).tlb.filter fun e => !hit e.asid e.level e.page) ∧ (¬ named (tlbDie b) → (t.bay b).tlb = (s.bay b).tlb)) ∧
  (∀ j, j < 4 → (named j → (t.die j).walks = (s.die j).walks.filter fun e => !hit e.asid e.level e.pre) ∧ (¬ named j → (t.die j).walks = (s.die j).walks))

/-- A state with the same caches has lost none of them. -/
theorem removes_of_same {s t : State} (named : Nat → Prop) (hc : ∀ c, (t.core c).tlb = (s.core c).tlb) (hb : ∀ b, (t.bay b).tlb = (s.bay b).tlb)
    (hd : ∀ j, (t.die j).walks = (s.die j).walks) : Removes s t named fun _ _ _ => false :=
  ⟨fun c => ⟨fun _ => by simp [hc], fun _ => hc c⟩, fun b => ⟨fun _ => by simp [hb], fun _ => hb b⟩, fun j _ => ⟨fun _ => by simp [hd], fun _ => hd j⟩⟩

theorem tget_of_unlisted {α : Type} {t : Tbl α} {c : Nat} (h : t.any (fun p => p.1 == c) = false) : tget t c = none := by
  induction t with
  | nil => rfl
  | cons p r ih =>
    obtain ⟨i, a⟩ := p
    rw [List.any_cons, Bool.or_eq_false_iff] at h
    have hi : i ≠ c := by simpa using h.1
    rw [tget, if_neg hi, ih h.2]

section RemoveTlb

variable (s : State) (i : InvCmd)

theorem removeTlb_core_tlb (c : Nat) :
    ((s.removeTlb i).core c).tlb = if i.names (coreDie c) = true then (s.core c).tlb.filter fun e => !i.coversTlb e else (s.core c).tlb := by
  rw [removeTlb_eq, removeDies_core]
  change ((s.removeCores i s.cores).core c).tlb = _
  rw [removeCores_tlb]
  cases hl : s.cores.any fun p => p.1 == c with
  | true => simp
  | false =>
    have hcore : s.core c = Core.reset := by simp [State.core, tgetD, tget_of_unlisted hl]
    simp [hcore, Core.reset]

theorem removeTlb_bay_tlb (b : Nat) :
    ((s.removeTlb i).bay b).tlb = if i.names (tlbDie b) = true then (s.bay b).tlb.filter fun e => !i.coversTlb e else (s.bay b).tlb := by
  have hbay : (s.removeCores i s.cores).bay b = s.bay b := removeCores_keeps s i (fun t => t.bay b) (fun _ _ _ => rfl) _
  rw [removeTlb_eq, removeDies_bay, removeBays_tlb, hbay]

theorem removeTlb_die {j : Nat} (hj : j < 4) : (s.removeTlb i).die j = if i.names j = true then (s.die j).invalidated i else s.die j := by
  have hdie : ((s.removeCores i s.cores).removeBays i).die j = s.die j := removeCores_keeps s i (fun t => t.die j) (fun _ _ _ => rfl) _
  rw [removeTlb_eq, removeDies_die _ _ hj, hdie]

theorem removeTlb_mem : (s.removeTlb i).mem = s.mem := by
  rw [removeTlb_eq, removeDies_mem]
  exact removeCores_keeps s i State.mem (fun _ _ _ => rfl) _

theorem removeTlb_core (c : Nat) : ((s.removeTlb i).core c).withoutTlb = (s.core c).withoutTlb := by
  rw [removeTlb_eq, removeDies_core]
  exact removeCores_core s i s.cores c

/-- An invalidation removes what it covers, and no more, from the caches of the dies that it names (R49). -/
theorem removeTlb_removes : Removes s (s.removeTlb i) (fun d => i.dies / 2 ^ d % 2 = 1) i.hit := by
  refine ⟨fun c => ?_, fun b => ?_, fun j hj => ?_⟩
  · rw [removeTlb_core_tlb]
    simp only [← coversTlb_eq, ← names_iff]
    exact ⟨fun h => if_pos h, fun h => if_neg h⟩
  · rw [removeTlb_bay_tlb]
    simp only [← coversTlb_eq, ← names_iff]
    exact ⟨fun h => if_pos h, fun h => if_neg h⟩
  · rw [removeTlb_die s i hj]
    simp only [← coversPath_eq, ← names_iff]
    exact ⟨fun h => by rw [if_pos h]; rfl, fun h => by rw [if_neg h]⟩

/-- It leaves a die's commands as they are. -/
theorem removeTlb_commands {j : Nat} (hj : j < 4) : ((s.removeTlb i).die j).invIssued = (s.die j).invIssued ∧
    ((s.removeTlb i).die j).invPend = (s.die j).invPend ∧ ((s.removeTlb i).die j).invDone = (s.die j).invDone := by
  rw [removeTlb_die s i hj]
  split
  · exact ⟨rfl, rfl, rfl⟩
  · exact ⟨rfl, rfl, rfl⟩

end RemoveTlb

/-- Removal compares with a state that has the same caches. -/
theorem Removes.of_same {s r t : State} {named : Nat → Prop} {hit : Nat → Nat → Nat → Bool} (h : Removes r t named hit)
    (hc : ∀ c, (r.core c).tlb = (s.core c).tlb) (hb : ∀ b, (r.bay b).tlb = (s.bay b).tlb) (hd : ∀ j, (r.die j).walks = (s.die j).walks) :
    Removes s t named hit := by
  obtain ⟨h1, h2, h3⟩ := h
  refine ⟨fun c => ?_, fun b => ?_, fun j hj => ?_⟩
  · have h := h1 c
    rwa [hc] at h
  · have h := h2 b
    rwa [hb] at h
  · have h := h3 j hj
    rwa [hd] at h

section Commands

variable (s : State) (die scope asid va bytes dies : Nat)

/-- The command that a die accepts (R49, R50). -/
def State.invCmd : InvCmd :=
  let i : InvCmd := { seq := ((s.die die).invIssued + 1) % 65536, scope := scope, asid := asid, va := va, bytes := bytes, dies := dies, stamp := s.nextAge, cycle := s.cycle
                      rma := s.pkg.rmaIn.length, removed := true }
  { i with removed := !s.sysStoresOut i }

/-- The state in which a die has accepted it. -/
def State.accepted (i : InvCmd) : State := s.modDie die fun d => { d with invIssued := i.seq, invPend := d.invPend ++ [i] }

theorem invalidate_eq : s.invalidate die scope asid va bytes dies =
    if (s.invCmd die scope asid va bytes dies).removed then
      (s.accepted die (s.invCmd die scope asid va bytes dies)).removeTlb (s.invCmd die scope asid va bytes dies)
    else s.accepted die (s.invCmd die scope asid va bytes dies) := rfl

theorem invCmd_removed : (s.invCmd die scope asid va bytes dies).removed = !s.sysStoresOut (s.invCmd die scope asid va bytes dies) := rfl

theorem accepted_walks (i : InvCmd) (j : Nat) : ((s.accepted die i).die j).walks = (s.die j).walks :=
  die_modDie_keeps Die.walks s die j (fun d => { d with invIssued := i.seq, invPend := d.invPend ++ [i] }) fun _ => rfl

/-- What is said of every command: it is numbered and accepted, removes what it covers or waits for the stores before it, and leaves the rest. -/
def CommandDoes (s : State) (die dies : Nat) (o : Host.Outcome State Fault Refusal) (hit : Nat → Nat → Nat → Bool) : Prop :=
  ∃ t cmd, o = .next t ∧ (t.die die).invIssued = ((s.die die).invIssued + 1) % 65536 ∧ (t.die die).invPend = (s.die die).invPend ++ [cmd] ∧
    cmd.seq = ((s.die die).invIssued + 1) % 65536 ∧ (t.die die).invDone = (s.die die).invDone ∧ t.mem = s.mem ∧ cmd.rma = s.pkg.rmaIn.length ∧
    (s.sysStoresOut cmd = false → cmd.removed = true ∧ Removes s t (fun d => dies / 2 ^ d % 2 = 1) hit) ∧
    (s.sysStoresOut cmd = true → cmd.removed = false ∧ Removes s t (fun d => dies / 2 ^ d % 2 = 1) fun _ _ _ => false) ∧
    ∀ c, (t.core c).withoutTlb = (s.core c).withoutTlb

theorem invalidate_does (hdie : die < 4) :
    CommandDoes s die dies (.next (s.invalidate die scope asid va bytes dies)) (s.invCmd die scope asid va bytes dies).hit := by
  generalize hi : s.invCmd die scope asid va bytes dies = i
  have hseq : i.seq = ((s.die die).invIssued + 1) % 65536 := by rw [← hi]; rfl
  have hrma : i.rma = s.pkg.rmaIn.length := by rw [← hi]; rfl
  have hdies : i.dies = dies := by rw [← hi]; rfl
  have hrem : i.removed = !s.sysStoresOut i := by rw [← hi]; rfl
  have hacc : (s.accepted die i).die die = { s.die die with invIssued := i.seq, invPend := (s.die die).invPend ++ [i] } := die_modDie _ _ _ hdie
  rw [invalidate_eq, hi]
  cases hout : s.sysStoresOut i with
  | true =>
    rw [hout] at hrem
    rw [hrem]
    refine ⟨s.accepted die i, i, rfl, by rw [hacc, ← hseq], by rw [hacc], hseq, by rw [hacc], rfl, hrma, fun h => ?_, fun _ => ⟨hrem, ?_⟩, fun _ => rfl⟩
    · rw [hout] at h
      cases h
    · exact removes_of_same _ (fun _ => rfl) (fun _ => rfl) (accepted_walks s die i)
  | false =>
    rw [hout] at hrem
    rw [hrem]
    obtain ⟨hissued, hpend, hdone⟩ := removeTlb_commands (s.accepted die i) i hdie
    refine ⟨(s.accepted die i).removeTlb i, i, rfl, ?_, ?_, hseq, ?_, removeTlb_mem _ i, hrma, fun _ => ⟨hrem, ?_⟩, fun h => ?_, fun c => ?_⟩
    · rw [hissued, hacc, ← hseq]
    · rw [hpend, hacc]
    · rw [hdone, hacc]
    · have h := removeTlb_removes (s.accepted die i) i
      rw [hdies] at h
      exact h.of_same (fun _ => rfl) (fun _ => rfl) (accepted_walks s die i)
    · rw [hout] at h
      cases h
    · exact removeTlb_core (s.accepted die i) i c

end Commands

/-- The state with other commands waiting at a die. -/
def State.withPend (s : State) (die : Nat) (l : List InvCmd) : State := s.modDie die fun d => { d with invPend := l }

theorem withPend_walks (s : State) (die j : Nat) (l : List InvCmd) : ((s.withPend die l).die j).walks = (s.die j).walks :=
  die_modDie_keeps Die.walks s die j (fun d => { d with invPend := l }) fun _ => rfl

section Complete

variable {s : State} {die : Nat} {i : InvCmd} {rest : List InvCmd} (hpend : (s.die die).invPend = i :: rest)
include hpend

theorem execTlbinvComplete_of_due (hrem : i.removed = true) (hw : s.invWaits i = false) :
    execTlbinvComplete die s = .next (s.modDie die fun d => { d with invPend := rest, invDone := i.seq }) := by
  simp [execTlbinvComplete, hpend, State.invDue, hrem, hw]

theorem execTlbinvComplete_of_waits (hrem : i.removed = true) (hw : s.invWaits i = true) : execTlbinvComplete die s = .next s := by
  simp [execTlbinvComplete, hpend, State.invDue, hrem, hw]

theorem execTlbinvComplete_of_stores (hrem : i.removed = false) (hw : s.sysStoresOut i = true) : execTlbinvComplete die s = .next s := by
  simp [execTlbinvComplete, hpend, State.invDue, hrem, hw]

theorem execTlbinvComplete_of_removing (hrem : i.removed = false) (hw : s.sysStoresOut i = false) :
    execTlbinvComplete die s = .next ((s.withPend die ({ i with removed := true, stamp := s.nextAge, cycle := s.cycle } :: rest)).removeTlb
      { i with removed := true, stamp := s.nextAge, cycle := s.cycle }) := by
  simp [execTlbinvComplete, hpend, State.invDue, hrem, hw, State.withPend]

end Complete

theorem pageBytes_eq (size : Nat) : pageBytes size = if size = 0 then 2 ^ 16 else if size = 1 then 2 ^ 21 else 2 ^ 30 := by
  match size with
  | 0 => rfl
  | 1 => rfl
  | n + 2 => rfl

theorem invalidationsRemoveTranslations : InvalidationsRemoveTranslations := by
  unfold InvalidationsRemoveTranslations
  intro s die asid va dies size hdie
  refine ⟨fun hsize => ?_, fun hsize => ?_, ?_, ?_, fun i rest hpend => ⟨?_, ?_, ?_, fun hrem hw => ?_⟩, fun i hi => ?_⟩
  · have h := invalidate_does s die 1 asid (va / pageBytes size * pageBytes size) (pageBytes size) dies hdie
    have hexec : exec (.tlbinvPage die asid va dies size) s = .next (s.invalidate die 1 asid (va / pageBytes size * pageBytes size) (pageBytes size) dies) := by
      simp [execTlbinvPage, Nat.not_le.mpr hsize]
    rw [← hexec, pageBytes_eq size] at h
    exact h
  · simp [execTlbinvPage, hsize]
  · exact invalidate_does s die 2 asid 0 0 dies hdie
  · exact invalidate_does s die 3 0 0 0 dies hdie
  · exact execTlbinvComplete_of_due hpend
  · exact execTlbinvComplete_of_waits hpend
  · exact execTlbinvComplete_of_stores hpend
  · have hdieEq : ∀ l, (s.withPend die l).die die = { s.die die with invPend := l } := fun l => die_modDie _ _ _ hdie
    obtain ⟨-, hpend', hdone⟩ := removeTlb_commands (s.withPend die ({ i with removed := true, stamp := s.nextAge, cycle := s.cycle } :: rest))
      { i with removed := true, stamp := s.nextAge, cycle := s.cycle } hdie
    refine ⟨_, execTlbinvComplete_of_removing hpend hrem hw, ?_, ?_, removeTlb_mem _ _, ?_⟩
    · rw [hpend', hdieEq]
    · rw [hdone, hdieEq]
    · exact (removeTlb_removes _ _).of_same (fun _ => rfl) (fun _ => rfl) (withPend_walks s die · _)
  · simp [State.invWaits, hi]

/-- Settles O44: walks, held accesses and invalidations, each by the cases of its step. -/
theorem translationsAreWalkedHeldAndInvalidated : Obligations.TranslationsAreWalkedHeldAndInvalidated :=
  ⟨walksFollowTheTables, heldAccessesAreSettled, invalidationsRemoveTranslations⟩

end Sys2Proof.Machine
end

section
namespace Sys2Proof.Machine

/-! ### Remote accesses -/

/-- A list cut to its own length is itself. -/
theorem takeFill_length {α : Type} (d : α) (l : List α) : takeFill d l.length l = l := by
  induction l with
  | nil => rfl
  | cons a r ih => rw [List.length_cons, takeFill, ih]

section Completion

variable {s : State} {req reason cause c u : Nat} {data : List Byte} {r : RemoteReq}

theorem execRemoteCompletion_of_none (status : Nat)
    (h : s.pkg.remotes.find? (fun r => r.id == req && !r.held && s.remoteTurn r) = none) :
    execRemoteCompletion req status reason cause data s = .next s := by
  simp [execRemoteCompletion, h]

section Found

variable (h : s.pkg.remotes.find? (fun r => r.id == req && !r.held && s.remoteTurn r) = some r)
include h

theorem execRemoteCompletion_of_scalar (hcopy : r.copy = none) (htimed : r.timed = none) :
    execRemoteCompletion req 0 reason cause data s = .next ((s.dropRemote req).scalarAnswer r data) := by
  simp [execRemoteCompletion, h, hcopy, htimed]

theorem execRemoteCompletion_of_timed {a : Timed} (hcopy : r.copy = none) (htimed : r.timed = some a) :
    execRemoteCompletion req 0 reason cause data s = .next ((s.dropRemote req).timedAnswer a data) := by
  simp [execRemoteCompletion, h, hcopy, htimed]

/-- A completion that failed is held, with reason 6 where the peer's translation failed and 7 where the transport did (R36). -/
theorem execRemoteCompletion_of_failed {status : Nat} (hs : status ≠ 0) :
    ∃ cz, execRemoteCompletion req status reason cause data s = .next (s.holdRemote r (if status = 1 then 6 else 7) cz) := by
  by_cases h1 : status = 1
  · exact ⟨peerCause cause, by simp [execRemoteCompletion, h, h1]⟩
  · exact ⟨.access, by simp [execRemoteCompletion, h, h1, hs]⟩

end Found

/-- The unit that a home answers goes on past its instruction (R35). -/
theorem answer_of_found {uid : Nat} (f : Ctx → Ctx) (h : s.findUnit uid = some (c, u)) :
    s.answer uid f = (s.modCtx c u f).retireAt c u ((s.ctx c u).pc + 4) := by
  simp [State.answer, h]

/-- An access that joins the held ones of its die, last, where there is room (R41). -/
theorem parkSized_held (s : State) {die : Nat} (hdie : die < 4) (hroom : (s.die die).held.length < 4096) (hst : (s.die die).stalled = [])
    (asid : Nat) (kind : AccKind) (va peer addr why size : Nat) (cz : Cause) (who : Holder) :
    ∃ h : Held, (((s.parkSized die asid kind va 5 peer addr why size cz who).2.die die).held = (s.die die).held ++ [h]) ∧ h.va = BitVec.ofNat 64 va ∧
      h.who = who ∧ h.space = 5 ∧ h.reason = why := by
  have hfull : ¬ (4096 ≤ (s.die die).held.length ∨ (!(s.die die).stalled.isEmpty) = true) := by
    simp [hst, Nat.not_le.mpr hroom]
  have hsp : ¬ ((5 : Nat) = 4) := by decide
  unfold State.parkSized
  simp only [if_neg hsp, if_neg hfull]
  obtain ⟨hid, hheld, -⟩ := parkEntry_held s hdie { hid := 0, asid := asid, space := 5, peer := peer, vag := addr / 65536, addr := addr, reason := why, kind := kind
                                                    cause := cz, va := BitVec.ofNat 64 va, size := size, who := who }
  exact ⟨_, hheld, rfl, rfl, rfl, rfl⟩

/-- Parking changes of a state its dies' entries and what a walk changes; not its cores, nor the package. -/
theorem parkEntry_rest (s t : State) (die : Nat) (h : Held) : (s.parkEntry die h).2.withErrors t = s.withErrors t := by
  unfold State.parkEntry
  dsimp only
  split <;> rfl

theorem parkSized_rest (s t : State) (die asid : Nat) (kind : AccKind) (va space peer addr why size : Nat) (cz : Cause) (who : Holder) :
    (s.parkSized die asid kind va space peer addr why size cz who).2.withErrors t = s.withErrors t := by
  have hwalk : (if space = 4 then s.noteWalk die (walk s die asid addr) else s).withErrors t = s.withErrors t := by
    split
    · exact noteWalk_rest s t die _
    · rfl
  unfold State.parkSized
  dsimp only
  generalize (if space = 4 then s.noteWalk die (walk s die asid addr) else s) = s0 at hwalk ⊢
  split
  · exact hwalk
  · exact (parkEntry_rest _ t die _).trans hwalk

section Hold

variable (hdie : coreDie r.core < 4) (hroom : (s.die (coreDie r.core)).held.length < 4096) (hst : (s.die (coreDie r.core)).stalled = [])
include hdie hroom hst

/-- The kind of a remote access that is held. -/
def RemoteReq.kind (r : RemoteReq) : AccKind :=
  if r.copy.isSome then (if r.write then .engWrite else .engRead) else if r.write then .store else .load

/-- The held request of a thread that has gone on stays in the list (R36, R44). -/
theorem holdRemote_of_goneOn (hgone : r.goneOn = true) (why : Nat) (cz : Cause) :
    (∃ h : Held, ((s.holdRemote r why cz).die (coreDie r.core)).held = (s.die (coreDie r.core)).held ++ [h] ∧ h.va = r.va ∧ h.who = .request r.id ∧
      h.space = 5 ∧ h.reason = why) ∧
    (s.holdRemote r why cz).pkg.remotes = s.pkg.remotes.map fun q => if q.id = r.id then { q with held := true } else q := by
  have heq : s.holdRemote r why cz = ((s.modPkg fun p => { p with remotes := p.remotes.map fun q => if q.id = r.id then { q with held := true } else q }).parkSized
      (coreDie r.core) r.asid r.kind r.va.toNat 5 (wfield r.va 48 8) (wfield r.va 0 48) why r.size cz (.request r.id)).2 := by
    unfold State.holdRemote
    simp only [hgone, or_true, if_true]
    rfl
  rw [heq]
  refine ⟨?_, ?_⟩
  · obtain ⟨h, hheld, hva, hwho, hsp, hr⟩ := parkSized_held
      (s.modPkg fun p => { p with remotes := p.remotes.map fun q => if q.id = r.id then { q with held := true } else q })
      hdie hroom hst r.asid r.kind r.va.toNat (wfield r.va 48 8) (wfield r.va 0 48) why r.size cz (.request r.id)
    exact ⟨h, hheld, by rw [hva, BitVec.ofNat_toNat, BitVec.setWidth_eq], hwho, hsp, hr⟩
  · have h := congrArg (fun t : State => t.pkg.remotes) (parkSized_rest
      (s.modPkg fun p => { p with remotes := p.remotes.map fun q => if q.id = r.id then { q with held := true } else q }) s
      (coreDie r.core) r.asid r.kind r.va.toNat 5 (wfield r.va 48 8) (wfield r.va 0 48) why r.size cz (.request r.id))
    exact h

/-- The thread that waits for its access is held with it (R36, R44). -/
theorem holdRemote_of_waiting (hcopy : r.copy = none) (htimed : r.timed = none) (hgone : r.goneOn = false) (hfind : s.findUnit r.uid = some (c, u))
    (hrun : (s.thr c u).running = true) (hu : u < 5) (why : Nat) (cz : Cause) :
    (∃ h : Held, ((s.holdRemote r why cz).die (coreDie r.core)).held = (s.die (coreDie r.core)).held ++ [h] ∧ h.va = r.va ∧ h.who = .thread r.uid ∧
      h.space = 5 ∧ h.reason = why) ∧ ((s.holdRemote r why cz).ctx c u).wait = .held := by
  have hfind' : (s.dropRemote r.id).findUnit r.uid = some (c, u) := hfind
  have hrun' : ((s.dropRemote r.id).thr c u).running = true := hrun
  obtain ⟨redo, heq⟩ : ∃ redo, s.holdRemote r why cz = (((s.dropRemote r.id).modCtx c u fun x => { x with wait := .held, redo := redo }).parkSized
      (coreDie r.core) r.asid r.kind r.va.toNat 5 (wfield r.va 48 8) (wfield r.va 0 48) why r.size cz (.thread r.uid)).2 := by
    unfold State.holdRemote State.holdWaiting
    simp only [RemoteReq.kind, hcopy, htimed, hgone, Option.isSome_none, Bool.false_eq_true, or_self, if_false, hfind', hrun', if_true]
    exact ⟨_, rfl⟩
  rw [heq]
  refine ⟨?_, ?_⟩
  · obtain ⟨h, hheld, hva, hwho, hsp, hr⟩ := parkSized_held ((s.dropRemote r.id).modCtx c u fun x => { x with wait := .held, redo := redo })
      hdie hroom hst r.asid r.kind r.va.toNat (wfield r.va 48 8) (wfield r.va 0 48) why r.size cz (.thread r.uid)
    exact ⟨h, hheld, by rw [hva, BitVec.ofNat_toNat, BitVec.setWidth_eq], hwho, hsp, hr⟩
  · have h := congrArg (fun t : State => t.ctx c u) (parkSized_rest ((s.dropRemote r.id).modCtx c u fun x => { x with wait := .held, redo := redo }) s
      (coreDie r.core) r.asid r.kind r.va.toNat 5 (wfield r.va 48 8) (wfield r.va 0 48) why r.size cz (.thread r.uid))
    have hctx := ctx_modCtx (s.dropRemote r.id) c u (fun x => { x with wait := .held, redo := redo }) hu
    have hsame : ((((s.dropRemote r.id).modCtx c u fun x => { x with wait := .held, redo := redo }).parkSized
      (coreDie r.core) r.asid r.kind r.va.toNat 5 (wfield r.va 48 8) (wfield r.va 0 48) why r.size cz (.thread r.uid)).2.ctx c u) =
        ((s.dropRemote r.id).modCtx c u fun x => { x with wait := .held, redo := redo }).ctx c u := h
    rw [hsame, hctx]

end Hold

end Completion

end Sys2Proof.Machine
end

section
namespace Sys2Proof.Machine

/-! ### Writes that reach memory at once -/

/-- What a write at once does to the rest of the machine, as an inbound access sees it: the package stays, no line becomes held, and no write is
put on its way. -/
structure Settles (s t : State) : Prop where
  pkg : t.pkg = s.pkg
  free : ∀ k, s.lineHeld k = false → t.lineHeld k = false
  puts : ∀ uid seq, s.putsOut uid seq = false → t.putsOut uid seq = false

theorem Settles.refl (s : State) : Settles s s := ⟨rfl, fun _ h => h, fun _ _ h => h⟩

theorem Settles.trans {s t u : State} (h : Settles s t) (g : Settles t u) : Settles s u :=
  ⟨g.pkg.trans h.pkg, fun k hk => g.free k (h.free k hk), fun i q hp => g.puts i q (h.puts i q hp)⟩

theorem settles_foldl {α : Type} (f : State → α → State) (h : ∀ s a, Settles s (f s a)) (l : List α) (s : State) : Settles s (l.foldl f s) := by
  induction l generalizing s with
  | nil => exact .refl s
  | cons a r ih => exact (h s a).trans (ih (f s a))

theorem lineHeld_of_bays {s t : State} (h : t.bays = s.bays) (k : Nat) : t.lineHeld k = s.lineHeld k := by
  simp [State.lineHeld, State.hotLine, State.bay, h]

/-- A change that leaves the bays, the package and the loopback ports. -/
theorem Settles.ofBays {s t : State} (hp : t.pkg = s.pkg) (hb : t.bays = s.bays) (hc : t.cores.map (·.2.loop) = s.cores.map (·.2.loop)) : Settles s t where
  pkg := hp
  free := fun k hk => by rw [lineHeld_of_bays hb, hk]
  puts := fun uid seq h => by
    have hany : ∀ (p : List LoopReq → Bool), (t.cores.any fun c => p c.2.loop) = s.cores.any fun c => p c.2.loop := fun p => by
      have h := congrArg (fun l => l.any p) hc
      simpa only [List.any_map, Function.comp_def] using h
    unfold State.putsOut at h ⊢
    rw [Bool.or_eq_false_iff] at h ⊢
    rw [hb]
    exact ⟨h.1, (hany fun l => l.any fun r => match r.act with | .put _ _ q => r.uid == uid && q == seq | _ => false).trans h.2⟩

/-- A bay that keeps its hot lines and its requests, and may lose registrations. -/
theorem settles_modBay (s : State) (b : Nat) (f : Bay → Bay) (hhot : ∀ y, (f y).ate.hot = y.ate.hot) (hin : ∀ y, (f y).ate.input = y.ate.input)
    (hdeps : ∀ y, ∀ d ∈ (f y).ate.deps, d ∈ y.ate.deps) : Settles s (s.modBay b f) where
  pkg := rfl
  free := fun k hk => by
    unfold State.lineHeld State.hotLine at hk ⊢
    by_cases h : homeBay k = b
    · rw [h] at hk ⊢
      rw [Bool.or_eq_false_iff] at hk ⊢
      rw [bay_modBay, hhot]
      refine ⟨hk.1, List.any_eq_false.mpr fun d hd => ?_⟩
      exact List.any_eq_false.mp hk.2 d (hdeps _ d hd)
    · rw [bay_modBay_other _ _ _ _ h]
      exact hk
  puts := fun uid seq h => by
    unfold State.putsOut at h ⊢
    rw [Bool.or_eq_false_iff] at h ⊢
    refine ⟨List.any_eq_false.mpr fun p hp => ?_, h.2⟩
    rcases mem_tput hp with rfl | hp
    · dsimp only
      rw [hin]
      unfold State.bay tgetD
      cases hb : tget s.bays b with
      | none => simp [Bay.reset]
      | some y => exact List.any_eq_false.mp h.1 _ (mem_of_tget hb)
    · exact List.any_eq_false.mp h.1 p hp

theorem settles_modUnit (s : State) (uid : Nat) (f : Ctx → Ctx) : Settles s (s.modUnit uid f) := by
  refine .ofBays rfl rfl ?_
  rw [modUnit_cores, tmap, List.map_map]
  rfl

theorem settles_modPart (s : State) (asid : Nat) (f : Partition → Partition) : Settles s (s.modPart asid f) := by
  unfold State.modPart
  split
  · exact .ofBays rfl rfl rfl
  · exact .refl s

theorem settles_afterWrite (s : State) (k n : Nat) : Settles s (s.afterWrite k n) := by
  have hrepair : Settles s (s.repair k n) := by
    unfold State.repair
    split
    · exact .refl s
    · exact .ofBays rfl rfl rfl
  have hfire : ∀ t : State, Settles t (t.fireWatches k n) := fun t => by
    unfold State.fireWatches
    split
    · exact .refl t
    · exact settles_foldl _ (fun u x => settles_modUnit u _ _) _ t
  have hready : ∀ t : State, Settles t (t.readyDeps k n) := fun t => by
    unfold State.readyDeps
    refine settles_foldl _ (fun u d => ?_) _ t
    have hbay := settles_modBay u (homeBay d.1) (fun b => { b with ate := { b.ate with deps := b.ate.deps.filter fun e => e ≠ d } }) (fun _ => rfl) (fun _ => rfl)
      fun y e he => (List.mem_filter.mp he).1
    exact hbay.trans (settles_modPart _ _ _)
  exact (hrepair.trans (hfire _)).trans (hready _)

theorem settles_writeBytes (s : State) (k : Nat) (bs : List Byte) : Settles s (s.writeBytes k bs) := by
  unfold State.writeBytes
  split
  · exact .refl s
  · have hpoke : Settles s (s.pokeBytes k bs) := .ofBays rfl rfl rfl
    exact hpoke.trans (settles_afterWrite _ _ _)

/-! ### Pieces of an inbound access -/

/-- The parts of one piece, cut at the bounds of lines. -/
def pieceParts (k n : Nat) : List (Nat × Nat) := (linesOf k n).map fun l => (max k l, min (k + n) (l + 64) - max k l)

theorem lineParts_cons (p : Nat × Nat) (ps : List (Nat × Nat)) : lineParts (p :: ps) = pieceParts p.1 p.2 ++ lineParts ps := rfl

theorem upTo_succ (n : Nat) : upTo (n + 1) = 0 :: (upTo n).map (· + 1) := by simp [upTo, List.range_succ_eq_map]

theorem pieceParts_eq (a b n : Nat) (hb : b < 64) :
    pieceParts (64 * a + b) n = (upTo ((b + n + 63) / 64)).map fun i =>
      (max (64 * a + b) ((a + i) * 64), min (64 * a + b + n) ((a + i) * 64 + 64) - max (64 * a + b) ((a + i) * 64)) := by
  have hmod : (64 * a + b) % 64 = b := by rw [Nat.mul_add_mod, Nat.mod_eq_of_lt hb]
  have hdiv : (64 * a + b) / 64 = a := by rw [Nat.mul_add_div (by decide), Nat.div_eq_of_lt hb, Nat.add_zero]
  rw [pieceParts, linesOf, List.map_map, hmod, hdiv]
  rfl

/-- A piece within one line is one part. -/
theorem pieceParts_of_line {k n : Nat} (hpos : 0 < k % 64 + n) (h : k % 64 + n ≤ 64) : pieceParts k n = [(k, n)] := by
  have hb : k % 64 < 64 := Nat.mod_lt _ (by decide)
  have hk := Nat.div_add_mod k 64
  generalize k / 64 = a at hk
  generalize k % 64 = b at *
  subst hk
  have hcount : (b + n + 63) / 64 = 1 := Nat.div_eq_of_lt_le (by omega) (by omega)
  have hmax : max (64 * a + b) (a * 64) = 64 * a + b := Nat.max_eq_left (by omega)
  have hmin : min (64 * a + b + n) (a * 64 + 64) = 64 * a + b + n := Nat.min_eq_left (by omega)
  rw [pieceParts_eq _ _ _ hb, hcount]
  simp only [upTo, List.range_one, List.map_cons, List.map_nil, Nat.add_zero, hmax, hmin, Nat.add_sub_cancel_left]

/-- A longer piece is the part up to the next line, and the parts from there on. -/
theorem pieceParts_of_long {k n : Nat} (h : 64 < k % 64 + n) :
    pieceParts k n = (k, 64 - k % 64) :: pieceParts (k + (64 - k % 64)) (n - (64 - k % 64)) := by
  have hb : k % 64 < 64 := Nat.mod_lt _ (by decide)
  have hk := Nat.div_add_mod k 64
  generalize k / 64 = a at hk
  generalize k % 64 = b at *
  subst hk
  obtain ⟨m, rfl⟩ : ∃ m, n = 64 - b + m := Nat.exists_eq_add_of_le (by omega)
  have hnext : 64 * a + b + (64 - b) = 64 * (a + 1) + 0 := by omega
  have hcount : (b + (64 - b + m) + 63) / 64 = (0 + m + 63) / 64 + 1 := by
    rw [show b + (64 - b + m) + 63 = 0 + m + 63 + 64 by omega, Nat.add_div_right _ (by decide)]
  have hmax : max (64 * a + b) (a * 64) = 64 * a + b := Nat.max_eq_left (by omega)
  have hmin : min (64 * a + b + (64 - b + m)) (a * 64 + 64) = 64 * a + b + (64 - b) := by
    rw [Nat.min_eq_right (by omega)]
    omega
  rw [hnext, Nat.add_sub_cancel_left, pieceParts_eq _ _ _ hb, pieceParts_eq _ _ _ (by decide), hcount, upTo_succ, List.map_cons, List.map_map, Nat.add_zero a,
    hmax, hmin, Nat.add_sub_cancel_left]
  refine congrArg (List.cons _) (List.map_congr_left fun i _ => ?_)
  have hline : a + (i + 1) = a + 1 + i := by omega
  have hle : 64 * (a + 1) + 0 ≤ (a + 1 + i) * 64 := by omega
  have hend : 64 * a + b + (64 - b + m) = 64 * (a + 1) + 0 + m := by omega
  rw [Function.comp_apply, hline, hend, Nat.max_eq_right (Nat.le_trans (by omega) hle), Nat.max_eq_right hle]

theorem pieceParts_of_empty {k : Nat} (h : k % 64 = 0) : pieceParts k 0 = [] := by
  simp [pieceParts, linesOf, h, upTo]

theorem memPutBytes_append (m : List Host.Cell) (k : Nat) (a b : List Byte) :
    memPutBytes m k (a ++ b) = memPutBytes (memPutBytes m k a) (k + a.length) b := by
  induction a generalizing m k with
  | nil => rfl
  | cons x r ih =>
    rw [List.cons_append, memPutBytes, ih, memPutBytes, List.length_cons]
    congr 1
    omega

section RmaWrite

/-- A part whose line no ATE holds is written at once. -/
theorem rmaWrite_cons {s : State} {k n : Nat} {r : List (Nat × Nat)} {bs : List Byte} (h : s.lineHeld k = false) :
    s.rmaWrite ((k, n) :: r) bs = (s.writeBytes k (bs.take n)).rmaWrite r (bs.drop n) := by
  simp [State.rmaWrite, h]

theorem rmaWrite_settles (ps : List (Nat × Nat)) : ∀ (s : State) (bs : List Byte), (∀ p ∈ ps, s.lineHeld p.1 = false) → Settles s (s.rmaWrite ps bs) := by
  induction ps with
  | nil => exact fun s bs _ => .refl s
  | cons p r ih =>
    intro s bs hfree
    obtain ⟨k, n⟩ := p
    have hw := settles_writeBytes s k (bs.take n)
    rw [rmaWrite_cons (hfree _ (List.mem_cons_self ..))]
    exact hw.trans (ih _ _ fun q hq => hw.free _ (hfree q (List.mem_cons_of_mem _ hq)))

/-- The parts of a piece leave memory as one write of its bytes would. -/
theorem rmaWrite_piece (n : Nat) : ∀ (s : State) (k : Nat) (bs : List Byte) (qs : List (Nat × Nat)), n ≤ bs.length →
    (∀ p ∈ pieceParts k n ++ qs, s.lineHeld p.1 = false) →
    ∃ t : State, s.rmaWrite (pieceParts k n ++ qs) bs = t.rmaWrite qs (bs.drop n) ∧ (∀ p ∈ qs, t.lineHeld p.1 = false) ∧ t.mem = memPutBytes s.mem k (bs.take n) := by
  induction n using Nat.strong_induction_on with
  | _ n ih =>
    intro s k bs qs hlen hfree
    by_cases hlong : 64 < k % 64 + n
    · generalize hm : 64 - k % 64 = m at *
      have hparts : pieceParts k n ++ qs = (k, m) :: (pieceParts (k + m) (n - m) ++ qs) := by
        rw [pieceParts_of_long hlong, hm]
        rfl
      rw [hparts] at hfree ⊢
      have hw := settles_writeBytes s k (bs.take m)
      rw [rmaWrite_cons (hfree _ (List.mem_cons_self ..))]
      obtain ⟨t, ht, hq, hmem⟩ := ih (n - m) (by omega) (s.writeBytes k (bs.take m)) (k + m) (bs.drop m) qs (by rw [List.length_drop]; omega)
        fun p hp => hw.free _ (hfree p (List.mem_cons_of_mem _ hp))
      refine ⟨t, ?_, hq, ?_⟩
      · rw [ht, List.drop_drop, Nat.add_sub_cancel' (by omega)]
      · have hsplit : bs.take n = bs.take m ++ (bs.drop m).take (n - m) := by
          rw [← List.take_add, Nat.add_sub_cancel' (by omega)]
        have hlenm : (bs.take m).length = m := by rw [List.length_take]; omega
        rw [hmem, mem_writeBytes, hsplit, memPutBytes_append, hlenm]
    · by_cases hpos : 0 < k % 64 + n
      · rw [pieceParts_of_line hpos (by omega)] at hfree ⊢
        have hw := settles_writeBytes s k (bs.take n)
        refine ⟨s.writeBytes k (bs.take n), ?_, fun p hp => hw.free _ (hfree p (List.mem_append_right _ hp)), mem_writeBytes _ _ _⟩
        exact rmaWrite_cons (hfree _ (List.mem_cons_self ..))
      · obtain ⟨hk, rfl⟩ : k % 64 = 0 ∧ n = 0 := by omega
        rw [pieceParts_of_empty hk] at hfree ⊢
        exact ⟨s, rfl, hfree, rfl⟩

end RmaWrite

end Sys2Proof.Machine
end

section
namespace Sys2Proof.Machine

/-! ### Inbound accesses -/

theorem correct_of_noWeak {s : State} (h : s.weak = []) (k n : Nat) : s.correct k n = s := by simp [State.correct, h]

theorem foldl_correct_of_noWeak {s : State} (h : s.weak = []) (ps : List (Nat × Nat)) : ps.foldl (fun t p => t.correct p.1 p.2) s = s := by
  induction ps with
  | nil => rfl
  | cons p r ih => rw [List.foldl_cons, correct_of_noWeak h, ih]

theorem walkedAt_of_noWeak {s : State} (h : s.weak = []) (asid va n : Nat) : s.walkedAt asid va n = s := by simp [State.walkedAt, h]

theorem badPartly_of_noBad {s : State} (h : s.bad = []) (k n : Nat) : s.badPartly k n = none := by simp [State.badPartly, h]

section Inbound

variable {s : State} {q : RmaReq} {rest : List RmaReq} {ps : List (Nat × Nat)}

theorem rmaPop_rmaIn (h : s.pkg.rmaIn = q :: rest) : s.rmaPop.pkg.rmaIn = rest := by
  have hpop : s.rmaPop.pkg.rmaIn = s.pkg.rmaIn.drop 1 := rfl
  rw [hpop, h]
  rfl

variable (h : s.pkg.rmaIn = q :: rest)
include h

/-- A write whose parts were on their way is acknowledged once none is (R69, R103). -/
theorem execRmaInbound_of_sent (hsent : q.sent = true) :
    execRmaInbound s = .next (if s.putsOut 0 0 then s else s.rmaPop.send (.rmaWritten q.asid q.va)) := by
  simp [execRmaInbound, h, hsent]

variable (hweak : s.weak = []) (hsent : q.sent = false)
include hweak hsent

/-- A translation that fails is answered with its reason (R36, R103). -/
theorem execRmaInbound_of_fail {e : Nat} (hp : s.rmaPieces q.asid q.va.toNat q.write q.size = .error (e, none)) :
    execRmaInbound s = .next (s.rmaPop.send (.rmaFail q.asid q.va e)) := by
  unfold execRmaInbound
  simp only [h, hsent, hp, walkedAt_of_noWeak hweak, ite_self, Bool.false_eq_true, if_false]
  rfl

theorem execRmaInbound_of_timed {k n : Nat} {more : List (Nat × Nat)} {tm : RmaTime}
    (hp : s.rmaPieces q.asid q.va.toNat q.write q.size = .ok ((k, n) :: more)) (htimed : q.timed = some tm) :
    execRmaInbound s = .next (s.rmaPop.rmaTimed q tm k) := by
  unfold execRmaInbound
  simp only [h, hsent, hp, htimed, walkedAt_of_noWeak hweak, ite_self, Bool.false_eq_true, if_false]

/-- An access whose lines no engine holds goes to memory at once. -/
theorem execRmaInbound_of_memory (hp : s.rmaPieces q.asid q.va.toNat q.write q.size = .ok ps) (htimed : q.timed = none)
    (hfree : ∀ p ∈ lineParts ps, s.lineHeld p.1 = false) : execRmaInbound s = .next (s.rmaMemory q ps) := by
  have hturn : (if q.write = true then none else (lineParts ps).find? fun p => s.turnWait 0 0 p.1 false) = none := by
    split
    · rfl
    · exact List.find?_eq_none.mpr fun p hp => by simp [State.turnWait, hfree p hp]
  unfold execRmaInbound
  simp only [h, hsent, hp, htimed, hturn, walkedAt_of_noWeak hweak, ite_self, Bool.false_eq_true, if_false]

end Inbound

section Memory

variable {s : State} {q : RmaReq} {ps : List (Nat × Nat)} (hbad : s.bad = [])
include hbad

theorem findBad_none : (ps.findSome? fun p => if q.write then s.badPartly p.1 p.2 else s.badIn p.1 p.2) = none := by
  rw [List.findSome?_eq_none_iff]
  intro p _
  rw [badPartly_of_noBad hbad, badIn_of_noBad hbad, ite_self]

/-- A read answers the bytes as they are (R103). -/
theorem rmaMemory_of_read (hweak : s.weak = []) (hwrite : q.write = false) (hturns : s.turns = []) :
    s.rmaMemory q ps = s.rmaPop.send (.rmaRead q.asid q.va (ps.flatMap fun p => s.bytesAt p.1 p.2) false) := by
  have hseen : ∀ k, s.seenByte 0 0 k = s.byteAt k := fun k => seenByte_noTurns s 0 0 k hturns
  have hpop : s.rmaPop.weak = [] := hweak
  have hdrop : s.rmaPop.dropTurns 0 0 = s.rmaPop := by
    have ht : s.rmaPop.turns = [] := hturns
    simp [State.dropTurns, ht]
  unfold State.rmaMemory
  rw [findBad_none hbad]
  simp only [hwrite, Bool.false_eq_true, if_false, foldl_correct_of_noWeak hpop, hdrop, hseen]
  rfl

/-- A write of lines that no engine holds is acknowledged (R103). -/
theorem rmaMemory_of_write (hwrite : q.write = true) (hputs : (s.rmaWrite (lineParts ps) q.data).putsOut 0 0 = false) :
    s.rmaMemory q ps = (s.rmaWrite (lineParts ps) q.data).rmaPop.send (.rmaWritten q.asid q.va) := by
  have hb := findBad_none (q := q) (ps := ps) hbad
  simp only [hwrite, if_true] at hb
  unfold State.rmaMemory
  simp only [hwrite, if_true, hb, hputs, Bool.false_eq_true, if_false]

end Memory

section Pieces

variable {s : State} {asid : Nat} {write : Bool}

theorem rmaPieces_of_stopped (h : s.running asid = false) (va n : Nat) : s.rmaPieces asid va write n = .error (0, none) := by
  simp [State.rmaPieces, h]

theorem rmaPieces_of_fail (h : s.running asid = true) {va n e : Nat} (hn : 0 < n) (hw : (walk s 0 asid (va % 2 ^ 48)).res = .fail e) :
    s.rmaPieces asid va write n = .error (e, none) := by
  unfold State.rmaPieces State.rmaWalk
  simp only [h, hw, Nat.ne_of_gt hn, Bool.not_true, Bool.false_eq_true, if_false]

/-- Every piece lies in device memory. -/
theorem rmaWalk_hbm {fuel va n k m : Nat} {more : List (Nat × Nat)} (h : s.rmaWalk asid write fuel va n = .ok ((k, m) :: more)) : ∃ pa, k = hbmKey pa := by
  cases fuel with
  | zero => simp [State.rmaWalk] at h
  | succ fuel =>
    unfold State.rmaWalk at h
    split at h
    · cases h
    · dsimp only at h
      split at h
      · cases h
      · cases h
      · next level frame w x _ =>
        split at h
        · cases h
        · obtain ⟨l, -, hl⟩ : ∃ l, s.rmaWalk asid write fuel (va + min n (65536 - va % 65536)) (n - min n (65536 - va % 65536)) = .ok l ∧
              (hbmKey (frame + va % 2 ^ (levelShift level).1), min n (65536 - va % 65536)) :: l = (k, m) :: more := by
            revert h
            cases s.rmaWalk asid write fuel (va + min n (65536 - va % 65536)) (n - min n (65536 - va % 65536)) with
            | error e => intro h; cases h
            | ok l => intro h; exact ⟨l, rfl, by injection h⟩
          injection hl with hp _
          injection hp with hk _
          exact ⟨_, hk.symm⟩

theorem rmaPieces_hbm {va n k m : Nat} {more : List (Nat × Nat)} (h : s.rmaPieces asid va write n = .ok ((k, m) :: more)) : ∃ pa, k = hbmKey pa := by
  unfold State.rmaPieces at h
  split at h
  · cases h
  · exact rmaWalk_hbm h

theorem keyDie_lt (k : Nat) : keyDie k < 4 := by
  unfold keyDie stackOf
  split
  · split
    · rw [fieldOf_eq]
      omega
    · rw [fieldOf_eq, fieldOf_eq]
      omega
  · omega

/-- The home of device memory is a die's memory controllers (R115). -/
theorem homeOf_hbm (pa : Nat) : homeOf (hbmKey pa) = 20000 + keyDie (hbmKey pa) := by
  have hsp : 7 ≤ keySpace (hbmKey pa) := by
    unfold keySpace hbmKey
    omega
  unfold homeOf
  split
  · omega
  · omega
  · omega
  · rfl

end Pieces

theorem rmaPop_die_mc (s : State) (j : Nat) : (s.rmaPop.die j).mc = (s.die j).mc := by
  unfold State.die vget
  split
  · simp [State.rmaPop]
  · rfl

/-- A peer's timed access stands last in the buffer of its home (R132). -/
theorem rmaTimed_incoming (s : State) (r : RmaReq) (m : RmaTime) (pa : Nat) :
    ∃ a : Timed, (((s.rmaPop.rmaTimed r m (hbmKey pa)).timedBuf (homeOf (hbmKey pa))).incoming = (s.timedBuf (homeOf (hbmKey pa))).incoming ++ [a]) ∧
      a.store = r.write ∧ a.loc = hbmKey pa ∧ a.size = r.size ∧ a.data = BitVec.ofNat 64 (leNat r.data) ∧ a.t = m.t ∧ a.throttle = m.throttle ∧
      a.skew = max m.bound s.pkg.skewxBound ∧ a.unlocked = !s.pkg.skewxValid ∧ a.peer = some r.asid := by
  have hd := keyDie_lt (hbmKey pa)
  rw [homeOf_hbm]
  generalize hj : keyDie (hbmKey pa) = j at hd
  have h1 : ¬ (20000 + j < 10000) := by omega
  have h2 : ¬ (20000 + j < 20000) := by omega
  have hsub : 20000 + j - 20000 = j := by omega
  unfold State.rmaTimed State.modTimed State.timedBuf
  simp only [homeOf_hbm, hj, if_neg h1, if_neg h2, hsub]
  rw [die_modDie _ _ _ hd]
  refine ⟨_, congrArg (fun b : TimedBuf => b.incoming ++ [_]) (rmaPop_die_mc s j), rfl, rfl, rfl, rfl, rfl, rfl, rfl, rfl, rfl⟩

end Sys2Proof.Machine
end

section
namespace Sys2Proof.Machine

/-! ### Remote accesses: the settlement -/

section Answers

variable {s : State} {req reason cause c u : Nat} {data : List Byte} {r : RemoteReq}
  (h : s.pkg.remotes.find? (fun r => r.id == req && !r.held && s.remoteTurn r) = some r)
  (hcopy : r.copy = none)
include h hcopy

section Scalar

variable (htimed : r.timed = none)
include htimed

/-- A store's acknowledgement lets the thread that waits go on (R35). -/
theorem execRemoteCompletion_of_store (hfind : s.findUnit r.uid = some (c, u)) (hw : r.write = true) :
    execRemoteCompletion req 0 reason cause data s = .next (((s.dropRemote req).modCtx c u id).retireAt c u ((s.ctx c u).pc + 4)) := by
  have hfind' : (s.dropRemote req).findUnit r.uid = some (c, u) := hfind
  rw [execRemoteCompletion_of_scalar h hcopy htimed, State.scalarAnswer, if_pos hw, answer_of_found id hfind']
  rfl

/-- A value for an f register lets the thread that waits go on (R35). -/
theorem execRemoteCompletion_of_fp (hfind : s.findUnit r.uid = some (c, u)) (hw : r.write = false) (hsize : r.size ≤ 8) (hfp : r.fp = true) :
    execRemoteCompletion req 0 reason cause data s =
      .next (((s.dropRemote req).modCtx c u fun x => x.setF r.dest (BitVec.ofNat 64 (leNat (data.take r.size)))).retireAt c u ((s.ctx c u).pc + 4)) := by
  have hfind' : (s.dropRemote req).findUnit r.uid = some (c, u) := hfind
  rw [execRemoteCompletion_of_scalar h hcopy htimed, State.scalarAnswer]
  simp only [hw, Bool.false_eq_true, if_false, if_neg (Nat.not_lt.mpr hsize), hfp, if_true]
  rw [answer_of_found _ hfind']
  rfl

/-- A value for an x register is on its way there (R193, R240). -/
theorem execRemoteCompletion_of_load (hw : r.write = false) (hsize : r.size ≤ 8) (hfp : r.fp = false) :
    execRemoteCompletion req 0 reason cause data s =
      .next ((s.dropRemote req).deliver r.uid r.dest (loadValue r.signed r.size (leNat (data.take r.size)))) := by
  rw [execRemoteCompletion_of_scalar h hcopy htimed, State.scalarAnswer]
  simp only [hw, Bool.false_eq_true, if_false, if_neg (Nat.not_lt.mpr hsize), hfp]

/-- The bytes of a wide read are there, and the thread makes its access again with them. -/
theorem execRemoteCompletion_of_wide (hw : r.write = false) (hsize : 8 < r.size) (hlen : data.length = r.size) :
    execRemoteCompletion req 0 reason cause data s = .next ((s.dropRemote req).modUnit r.uid fun x => { x with wide := data, wait := .no }) := by
  rw [execRemoteCompletion_of_scalar h hcopy htimed, State.scalarAnswer]
  simp only [hw, Bool.false_eq_true, if_false, if_pos hsize]
  rw [← hlen, takeFill_length]

end Scalar

section TimedAnswer

variable {a : Timed} (htimed : r.timed = some a)
include htimed

/-- A timed access with what its peer's answer tells of it (R132; log 44). -/
def Timed.answered (a : Timed) (data : List Byte) : Timed :=
  let flags := (data.getD (if a.store then 8 else a.size) 0).toNat
  { a with onTime := flags % 2 = 1, unlocked := a.unlocked || flags / 2 % 2 == 1, throttle := a.throttle || flags / 4 % 2 == 1
           arr := BitVec.ofNat 64 (leNat (data.take 8)) }

omit h hcopy htimed in
/-- A peer's answer brings the outcome of an STVA, or the value of an LDNB (R132). -/
theorem timedAnswer_eq (s : State) (a : Timed) (data : List Byte) : s.timedAnswer a data =
    if (a.answered data).store then s.sendOutcome (a.answered data)
    else (s.modCore (s.holderOf a.core) fun k => k.countUnlocked (a.answered data).unlocked).deliver a.uid a.reg (sext (leNat (data.take a.size)) (8 * a.size)) := by
  simp only [State.timedAnswer, Timed.answered, nth, fieldOf_eq, Nat.pow_one, show (2 : Nat) ^ 2 = 4 from rfl]
  rfl

theorem execRemoteCompletion_of_stva (hstore : a.store = true) :
    execRemoteCompletion req 0 reason cause data s = .next ((s.dropRemote req).sendOutcome (a.answered data)) := by
  rw [execRemoteCompletion_of_timed h hcopy htimed, timedAnswer_eq, if_pos (show (a.answered data).store = true from hstore)]

theorem execRemoteCompletion_of_ldnb (hstore : a.store = false) :
    execRemoteCompletion req 0 reason cause data s =
      .next (((s.dropRemote req).modCore ((s.dropRemote req).holderOf a.core) fun k => k.countUnlocked (a.answered data).unlocked).deliver a.uid a.reg
        (sext (leNat (data.take a.size)) (8 * a.size))) := by
  have hs : (a.answered data).store = false := hstore
  rw [execRemoteCompletion_of_timed h hcopy htimed, timedAnswer_eq, hs]
  rfl

end TimedAnswer

end Answers

section InboundWrite

variable {s : State} {q : RmaReq} {rest : List RmaReq} {ps : List (Nat × Nat)}

/-- An inbound write whose lines no engine holds is performed and acknowledged, and leaves memory as one write of the bytes of each piece would (R103). -/
theorem execRmaInbound_of_write (h : s.pkg.rmaIn = q :: rest) (hbad : s.bad = []) (hweak : s.weak = []) (hsent : q.sent = false)
    (hp : s.rmaPieces q.asid q.va.toNat q.write q.size = .ok ps) (htimed : q.timed = none) (hfree : ∀ p ∈ lineParts ps, s.lineHeld p.1 = false)
    (hw : q.write = true) (hputs : s.putsOut 0 0 = false) :
    ∃ t : State, execRmaInbound s = .next (t.send (.rmaWritten q.asid q.va)) ∧ t.pkg.rmaIn = rest ∧
      (∀ k n, ps = [(k, n)] → n = q.size → q.data.length = n → t.mem = (s.writeBytes k q.data).mem) ∧
      (∀ k n k2 n2, ps = [(k, n), (k2, n2)] → n + n2 = q.size → q.data.length = q.size →
        t.mem = ((s.writeBytes k (q.data.take n)).writeBytes k2 (q.data.drop n)).mem) := by
  have hsettles := rmaWrite_settles (lineParts ps) s q.data hfree
  refine ⟨(s.rmaWrite (lineParts ps) q.data).rmaPop, ?_, ?_, ?_, ?_⟩
  · rw [execRmaInbound_of_memory h hweak hsent hp htimed hfree, rmaMemory_of_write hbad hw (hsettles.puts 0 0 hputs)]
  · refine rmaPop_rmaIn (q := q) ?_
    rw [hsettles.pkg, h]
  · rintro k n rfl - hlen
    have hparts : lineParts [(k, n)] = pieceParts k n ++ [] := lineParts_cons (k, n) []
    rw [hparts] at hfree ⊢
    obtain ⟨t, ht, -, hmem⟩ := rmaWrite_piece n s k q.data [] (by omega) hfree
    rw [ht, mem_writeBytes]
    exact hmem.trans (by rw [← hlen, List.take_length])
  · rintro k n k2 n2 rfl hsum hlen
    have hparts : lineParts [(k, n), (k2, n2)] = pieceParts k n ++ (pieceParts k2 n2 ++ []) := lineParts_cons (k, n) _
    rw [hparts] at hfree ⊢
    obtain ⟨t, ht, hfree2, hmem⟩ := rmaWrite_piece n s k q.data _ (by omega) hfree
    obtain ⟨t2, ht2, -, hmem2⟩ := rmaWrite_piece n2 t k2 (q.data.drop n) [] (by rw [List.length_drop]; omega) hfree2
    rw [ht, ht2, mem_writeBytes, mem_writeBytes, ← hmem]
    refine hmem2.trans ?_
    rw [List.take_of_length_le (by rw [List.length_drop]; omega)]

end InboundWrite

theorem mem_modTimed (s : State) (h : Nat) (f : TimedBuf → TimedBuf) : (s.modTimed h f).mem = s.mem := by
  unfold State.modTimed
  split
  · exact modCore_mem _ _ _
  · split
    · exact modBay_mem _ _ _
    · exact modDie_mem _ _ _

theorem rmaTimed_mem (s : State) (r : RmaReq) (m : RmaTime) (k : Nat) : (s.rmaPop.rmaTimed r m k).mem = s.mem := by
  unfold State.rmaTimed
  rw [mem_modTimed]
  rfl

theorem remoteAccessesComplete : RemoteAccessesComplete := by
  unfold RemoteAccessesComplete
  intro s req status reason cause c u data r
  refine ⟨?none, ?scalar, ?timed, ?inbound, rfl⟩
  case none => exact fun hn => execRemoteCompletion_of_none (reason := reason) (cause := cause) (data := data) status hn
  case scalar =>
    intro h hcopy htimed hfind
    refine ⟨execRemoteCompletion_of_store (reason := reason) h hcopy htimed hfind, execRemoteCompletion_of_fp (reason := reason) h hcopy htimed hfind, execRemoteCompletion_of_load (reason := reason) h hcopy htimed,
      execRemoteCompletion_of_wide (reason := reason) h hcopy htimed, fun st hs hroom hst hdie => ⟨fun hgone => ?_, fun hgone hrun hu => ?_⟩⟩
    · obtain ⟨cz, hexec⟩ := execRemoteCompletion_of_failed (reason := reason) (cause := cause) (data := data) h hs
      obtain ⟨hjoin, hlist⟩ := holdRemote_of_goneOn hdie hroom hst hgone (if st = 1 then 6 else 7) cz
      exact ⟨_, hexec, hjoin, hlist⟩
    · obtain ⟨cz, hexec⟩ := execRemoteCompletion_of_failed (reason := reason) (cause := cause) (data := data) h hs
      obtain ⟨hjoin, hwait⟩ := holdRemote_of_waiting hdie hroom hst hcopy htimed hgone hfind hrun hu (if st = 1 then 6 else 7) cz
      exact ⟨_, hexec, hjoin, hwait⟩
  case timed =>
    intro a h hcopy htimed
    exact ⟨execRemoteCompletion_of_stva (reason := reason) h hcopy htimed, execRemoteCompletion_of_ldnb (reason := reason) h hcopy htimed⟩
  case inbound =>
    intro q rest hq hbad hweak
    refine ⟨rmaPop_rmaIn hq, rfl, fun hsent => ⟨fun hp => ?_, fun hp => ?_⟩, fun hsent => ⟨fun hrun => ?_, fun e hrun hsize hwalk => ?_,
      fun ps hp htimed hfree => ⟨fun hw hturns => ?_, fun hw hputs => ?_⟩, fun k n more tm hp htimed => ?_⟩⟩
    · rw [exec_rmaInbound, execRmaInbound_of_sent hq hsent, if_pos hp]
    · rw [exec_rmaInbound, execRmaInbound_of_sent hq hsent, hp]
      rfl
    · exact execRmaInbound_of_fail hq hweak hsent (rmaPieces_of_stopped hrun _ _)
    · exact execRmaInbound_of_fail hq hweak hsent (rmaPieces_of_fail hrun hsize hwalk)
    · rw [exec_rmaInbound, execRmaInbound_of_memory hq hweak hsent hp htimed hfree, rmaMemory_of_read hbad hweak hw hturns]
      rfl
    · exact execRmaInbound_of_write hq hbad hweak hsent hp htimed hfree hw hputs
    · obtain ⟨pa, rfl⟩ := rmaPieces_hbm hp
      obtain ⟨a, hin, hstore, hloc, hsize, hdata, ht, hthr, hskew, hunl, hpeer⟩ := rmaTimed_incoming s q tm pa
      refine ⟨_, a, execRmaInbound_of_timed hq hweak hsent hp htimed, hin, hstore, hloc, hsize, hdata, ht, hthr, hskew, hunl, hpeer, rmaTimed_mem s q tm _⟩

end Sys2Proof.Machine
end

section
namespace Sys2Proof.Machine

/-! ### Fields of a word -/

section Fields

variable (w : Word) {lo n : Nat} (v : Nat) (h : lo + n ≤ 64)
include h

/-- A word with a field replaced: what lies below it, the field, and what lies above. -/
theorem wput_toNat : (wput w lo n v).toNat = w.toNat % 2 ^ lo + 2 ^ lo * (v % 2 ^ n + 2 ^ n * (w.toNat / 2 ^ lo / 2 ^ n)) := by
  have hx := w.isLt
  rw [wput, BitVec.toNat_ofNat]
  generalize w.toNat = x at hx ⊢
  have hlow := Nat.mod_add_div x (2 ^ lo)
  have hmid := Nat.mod_add_div (x / 2 ^ lo) (2 ^ n)
  have hsub : x - fieldOf x lo n * 2 ^ lo = x % 2 ^ lo + 2 ^ lo * (2 ^ n * (x / 2 ^ lo / 2 ^ n)) := by
    rw [fieldOf_eq]
    have hx' : x = x % 2 ^ lo + 2 ^ lo * (2 ^ n * (x / 2 ^ lo / 2 ^ n)) + x / 2 ^ lo % 2 ^ n * 2 ^ lo := by
      calc x = x % 2 ^ lo + 2 ^ lo * (x / 2 ^ lo % 2 ^ n + 2 ^ n * (x / 2 ^ lo / 2 ^ n)) := by rw [hmid, hlow]
        _ = _ := by ring
    omega
  have hlt : x % 2 ^ lo + 2 ^ lo * (v % 2 ^ n + 2 ^ n * (x / 2 ^ lo / 2 ^ n)) < 2 ^ 64 := by
    have h1 : x % 2 ^ lo < 2 ^ lo := Nat.mod_lt _ (by positivity)
    have h2 : v % 2 ^ n < 2 ^ n := Nat.mod_lt _ (by positivity)
    have h3 : x / 2 ^ lo / 2 ^ n < 2 ^ (64 - (lo + n)) := by
      rw [Nat.div_div_eq_div_mul, ← pow_add, Nat.div_lt_iff_lt_mul (by positivity), ← pow_add]
      rwa [show 64 - (lo + n) + (lo + n) = 64 by omega]
    have h4 : v % 2 ^ n + 2 ^ n * (x / 2 ^ lo / 2 ^ n) < 2 ^ n * 2 ^ (64 - (lo + n)) := by
      calc v % 2 ^ n + 2 ^ n * (x / 2 ^ lo / 2 ^ n) < 2 ^ n * (x / 2 ^ lo / 2 ^ n + 1) := by rw [Nat.mul_succ]; omega
        _ ≤ 2 ^ n * 2 ^ (64 - (lo + n)) := Nat.mul_le_mul_left _ h3
    calc x % 2 ^ lo + 2 ^ lo * (v % 2 ^ n + 2 ^ n * (x / 2 ^ lo / 2 ^ n)) < 2 ^ lo * (v % 2 ^ n + 2 ^ n * (x / 2 ^ lo / 2 ^ n) + 1) := by rw [Nat.mul_succ]; omega
      _ ≤ 2 ^ lo * (2 ^ n * 2 ^ (64 - (lo + n))) := Nat.mul_le_mul_left _ h4
      _ = 2 ^ 64 := by rw [← pow_add, ← pow_add]; congr 1; omega
  have heq : x - fieldOf x lo n * 2 ^ lo + v % 2 ^ n * 2 ^ lo = x % 2 ^ lo + 2 ^ lo * (v % 2 ^ n + 2 ^ n * (x / 2 ^ lo / 2 ^ n)) := by
    rw [hsub]
    ring
  rw [heq, Nat.mod_eq_of_lt hlt]

theorem wfield_wput_same : wfield (wput w lo n v) lo n = v % 2 ^ n := by
  rw [wfield, fieldOf_eq, wput_toNat w v h]
  rw [Nat.add_mul_div_left _ _ (by positivity), Nat.div_eq_of_lt (Nat.mod_lt _ (by positivity)), Nat.zero_add, Nat.add_mul_mod_self_left, Nat.mod_mod]

theorem wfield_wput_below {lo' n' : Nat} (hd : lo' + n' ≤ lo) : wfield (wput w lo n v) lo' n' = wfield w lo' n' := by
  have hcut : ∀ y : Nat, y / 2 ^ lo' % 2 ^ n' = y % 2 ^ lo / 2 ^ lo' % 2 ^ n' := fun y => by
    obtain ⟨d, rfl⟩ := Nat.exists_eq_add_of_le hd
    rw [pow_add, pow_add, Nat.mul_assoc, Nat.mod_mul_right_div_self, Nat.mod_mul_right_mod]
  rw [wfield, wfield, fieldOf_eq, fieldOf_eq, hcut, hcut w.toNat, wput_toNat w v h, Nat.add_mul_mod_self_left, Nat.mod_mod]

theorem wfield_wput_above {lo' n' : Nat} (hd : lo + n ≤ lo') : wfield (wput w lo n v) lo' n' = wfield w lo' n' := by
  have hcut : ∀ y : Nat, y / 2 ^ lo' = y / 2 ^ lo / 2 ^ n / 2 ^ (lo' - (lo + n)) := fun y => by
    rw [Nat.div_div_eq_div_mul, Nat.div_div_eq_div_mul, ← pow_add, ← pow_add, ← Nat.add_assoc, Nat.add_sub_cancel' hd]
  rw [wfield, wfield, fieldOf_eq, fieldOf_eq, hcut, hcut w.toNat, wput_toNat w v h]
  rw [Nat.add_mul_div_left _ _ (by positivity), Nat.div_eq_of_lt (Nat.mod_lt _ (by positivity)), Nat.zero_add,
    Nat.add_mul_div_left _ _ (by positivity), Nat.div_eq_of_lt (Nat.mod_lt _ (by positivity)), Nat.zero_add]

end Fields

/-- A word whose topmost field is cleared. -/
theorem wput_toNat_of_cleared (w : Word) {lo n : Nat} (h : lo + n ≤ 64) (hw : w.toNat < 2 ^ (lo + n)) : (wput w lo n 0).toNat = w.toNat % 2 ^ lo := by
  rw [wput_toNat w 0 h, Nat.zero_mod, Nat.div_div_eq_div_mul, ← pow_add, Nat.div_eq_of_lt hw, Nat.mul_zero, Nat.add_zero, Nat.mul_zero, Nat.add_zero]

theorem getLsbD_eq_wfield (w : Word) (i : Nat) : w.getLsbD i = decide (wfield w i 1 = 1) := by
  rw [BitVec.getLsbD, Nat.testBit_eq_decide_div_mod_eq, wfield, fieldOf_eq, Nat.pow_one]

theorem div_eq_wfield (w : Word) : w.toNat / 2 ^ 48 = wfield w 48 16 := by
  have h := w.isLt
  rw [wfield, fieldOf_eq]
  omega

theorem div_mod_eq_wfield (w : Word) (lo n : Nat) : w.toNat / 2 ^ lo % 2 ^ n = wfield w lo n := by rw [wfield, fieldOf_eq]

theorem satN_mod (n v : Nat) : satN n v % 2 ^ n = min v (2 ^ n - 1) := by
  rw [satN]
  refine Nat.mod_eq_of_lt (lt_of_le_of_lt (Nat.min_le_right _ _) ?_)
  have h : 0 < 2 ^ n := by positivity
  omega

/-! ### The error log -/

/-- ECCSTAT with one more uncorrectable event counted (R75). -/
def eccCounted (w : Word) : Word := wput w 48 16 (satN 16 (wfield w 48 16 + 1))

theorem eccCounted_count (w : Word) : wfield (eccCounted w) 48 16 = min (wfield w 48 16 + 1) (2 ^ 16 - 1) := by
  rw [eccCounted, wfield_wput_same _ _ (by omega), satN_mod]

theorem eccCounted_below (w : Word) {lo n : Nat} (h : lo + n ≤ 48) : wfield (eccCounted w) lo n = wfield w lo n := by
  rw [eccCounted, wfield_wput_below _ _ (by omega) h]

section Log

variable {e : Die} {g lvl now : Nat}

/-- The first event fills the log (R75). -/
theorem logEcc_of_empty (h : wfield e.eccstat 0 1 ≠ 1) (scrub : Bool) :
    (e.logEcc g lvl now scrub).eccstat = wput (wput (wput (eccCounted e.eccstat) 0 1 1) 5 3 lvl) 4 1 (b2n scrub) ∧
      (e.logEcc g lvl now scrub).eccaddr = BitVec.ofNat 64 g := by
  have hst : ¬ wfield (eccCounted e.eccstat) 0 1 = 1 := by rwa [eccCounted_below _ (by omega)]
  have hc : wput e.eccstat 48 16 (satN 16 (wfield e.eccstat 48 16 + 1)) = eccCounted e.eccstat := rfl
  unfold Die.logEcc
  simp only [hc, if_neg hst, and_self]

/-- A later event sets MULTI; the address stays but for one of the same cycle that lies lower (R75, R76). -/
theorem logEcc_of_full (h : wfield e.eccstat 0 1 = 1) (scrub : Bool) :
    (e.logEcc g lvl now scrub).eccstat =
      wput (if e.eccAt = now ∧ g < e.eccaddr.toNat then wput (if e.eccAt = now ∧ g < e.eccTop then eccCounted e.eccstat else wput (eccCounted e.eccstat) 4 1 (b2n scrub)) 5 3 lvl
        else if e.eccAt = now ∧ g < e.eccTop then eccCounted e.eccstat else wput (eccCounted e.eccstat) 4 1 (b2n scrub)) 3 1 1 ∧
      (e.logEcc g lvl now scrub).eccaddr = if e.eccAt = now ∧ g < e.eccaddr.toNat then BitVec.ofNat 64 g else e.eccaddr := by
  have hst : wfield (eccCounted e.eccstat) 0 1 = 1 := by rwa [eccCounted_below _ (by omega)]
  have hc : wput e.eccstat 48 16 (satN 16 (wfield e.eccstat 48 16 + 1)) = eccCounted e.eccstat := rfl
  unfold Die.logEcc
  simp only [hc, if_pos hst, and_self]

/-- Every event is counted (R75). -/
theorem logEcc_count (scrub : Bool) : wfield (e.logEcc g lvl now scrub).eccstat 48 16 = min (wfield e.eccstat 48 16 + 1) (2 ^ 16 - 1) := by
  by_cases h : wfield e.eccstat 0 1 = 1
  · rw [(logEcc_of_full h scrub).1, wfield_wput_above _ _ (by omega) (by omega)]
    have hinner : wfield (if e.eccAt = now ∧ g < e.eccTop then eccCounted e.eccstat else wput (eccCounted e.eccstat) 4 1 (b2n scrub)) 48 16 =
        min (wfield e.eccstat 48 16 + 1) (2 ^ 16 - 1) := by
      split
      · exact eccCounted_count _
      · rw [wfield_wput_above _ _ (by omega) (by omega), eccCounted_count]
    split
    · rw [wfield_wput_above _ _ (by omega) (by omega), hinner]
    · exact hinner
  · rw [(logEcc_of_empty h scrub).1, wfield_wput_above _ _ (by omega) (by omega), wfield_wput_above _ _ (by omega) (by omega),
      wfield_wput_above _ _ (by omega) (by omega), eccCounted_count]

/-- The first event is valid, names its level and says who found it. -/
theorem logEcc_of_empty_fields (h : wfield e.eccstat 0 1 ≠ 1) (scrub : Bool) :
    wfield (e.logEcc g lvl now scrub).eccstat 0 1 = 1 ∧ wfield (e.logEcc g lvl now scrub).eccstat 4 1 = b2n scrub % 2 ∧
      wfield (e.logEcc g lvl now scrub).eccstat 5 3 = lvl % 8 := by
  rw [(logEcc_of_empty h scrub).1]
  refine ⟨?_, wfield_wput_same _ _ (by omega), ?_⟩
  · rw [wfield_wput_below _ _ (by omega) (by omega), wfield_wput_below _ _ (by omega) (by omega)]
    exact wfield_wput_same _ _ (by omega)
  · rw [wfield_wput_above _ _ (by omega) (by omega)]
    exact wfield_wput_same _ _ (by omega)

/-- A later event says who found it, and of another cycle leaves the level. -/
theorem logEcc_of_full_fields (h : wfield e.eccstat 0 1 = 1) (scrub : Bool) :
    wfield (e.logEcc g lvl now scrub).eccstat 3 1 = 1 ∧
      (e.eccAt ≠ now → wfield (e.logEcc g lvl now scrub).eccstat 4 1 = b2n scrub % 2 ∧
        wfield (e.logEcc g lvl now scrub).eccstat 5 3 = wfield e.eccstat 5 3) := by
  rw [(logEcc_of_full h scrub).1]
  refine ⟨wfield_wput_same _ _ (by omega), fun hat => ?_⟩
  rw [if_neg (by tauto), if_neg (by tauto)]
  constructor
  · rw [wfield_wput_above _ _ (by omega) (by omega)]
    exact wfield_wput_same _ _ (by omega)
  · rw [wfield_wput_above _ _ (by omega) (by omega), wfield_wput_above _ _ (by omega) (by omega), eccCounted_below _ (by omega)]

end Log

theorem eccLevel_mod (s : State) (g : Nat) : s.eccLevel g % 8 = s.eccLevel g := by
  unfold State.eccLevel
  split
  · rfl
  · split <;> rfl

theorem raiseIrq_die (s : State) (d cls j : Nat) : (s.raiseIrq d cls).die j = s.die j := by
  unfold State.raiseIrq State.irqAt
  dsimp only
  split <;> rfl

theorem raiseIrq_bad (s : State) (d cls : Nat) : (s.raiseIrq d cls).bad = s.bad := by
  unfold State.raiseIrq State.irqAt
  dsimp only
  split <;> rfl

theorem raiseIrq_mem (s : State) (d cls : Nat) : (s.raiseIrq d cls).mem = s.mem := by
  unfold State.raiseIrq State.irqAt
  dsimp only
  split <;> rfl

section Scrub

variable {s : State} {die g : Nat} (halign : g % s.granuleSize g = 0) (hdie : keyDie g = die)
include halign hdie

theorem execScrubRead_of_bad (hg : g ∈ s.bad) : execScrubRead die g s = .next (s.logUncorrectable g true) := by
  simp [execScrubRead, State.granuleOf, halign, hdie, hg]

theorem execScrubRead_of_good (hg : g ∉ s.bad) : execScrubRead die g s = .next (s.correct g (s.granuleSize g)) := by
  simp [execScrubRead, State.granuleOf, halign, hdie, hg]

end Scrub

section Lines

variable (x : Nat)

theorem line_div {m : Nat} (hm : 64 ∣ m) : x / 64 * 64 / m = x / m := by
  obtain ⟨q, rfl⟩ := hm
  rw [← Nat.div_div_eq_div_mul, Nat.mul_div_cancel _ (by decide), Nat.div_div_eq_div_mul]

theorem line_sub (c : Nat) : x / 64 * 64 - 64 * c = (x - 64 * c) / 64 * 64 := by
  rw [Nat.sub_mul_div, Nat.mul_comm 64 c, Nat.sub_mul]

theorem line_lt (c : Nat) : x / 64 * 64 < 64 * c ↔ x < 64 * c := by
  rw [Nat.mul_comm 64 c, Nat.mul_lt_mul_right (by decide), Nat.div_lt_iff_lt_mul (by decide)]

/-- A line lies in its bytes' stack. -/
theorem stackOf_line : stackOf (x / 64 * 64) = stackOf x := by
  have hlow : 0x4000000000 = 64 * 0x100000000 := rfl
  simp only [stackOf, fieldOf_eq, hlow, line_lt, line_sub, line_div _ (show 64 ∣ 2 ^ 12 by decide), line_div _ (show 64 ∣ 2 ^ 35 by decide)]

end Lines

/-- A line has its own key's home. -/
theorem homeBay_line {k : Nat} (h : keySpace k = 7) : homeBay (k / 64 * 64) = homeBay k := by
  have hsp : keySpace (k / 64 * 64) = 7 := (line_div k (by decide)).trans h
  have hbase : 0x7000300000000000 = 64 * 0x1c000c000000000 := rfl
  simp only [homeBay, keyDie, hsp, h, if_true, hbase, line_sub, stackOf_line, line_div _ (show 64 ∣ 4096 by decide)]

theorem hotLine_line (s : State) {k : Nat} (h : keySpace k = 7) : s.hotLine (k / 64 * 64) = s.hotLine k := by
  unfold State.hotLine
  rw [homeBay_line h, Nat.mul_div_cancel _ (by omega)]

theorem wordsIn_of_word {k : Nat} (h : k % 8 = 0) : wordsIn k 8 = [k] := by
  have hcount : (k + 8 - 1) / 8 - k / 8 + 1 = 1 := by omega
  simp only [wordsIn, hcount, upTo, List.range_one, List.map_cons, List.map_nil, List.cons.injEq, and_true]
  omega

/-- A granule's bytes touch that granule alone (R71). -/
theorem granulesOf_granule {s : State} {g : Nat} (h : g % s.granuleSize g = 0) : s.granulesOf g (s.granuleSize g) = [g] := by
  unfold State.granuleSize at h ⊢
  unfold State.granulesOf
  by_cases hsp : keySpace g = 7
  · by_cases hhot : s.hotLine g = true
    · simp only [hsp, hhot, decide_true, Bool.not_true, Bool.and_false, Bool.false_eq_true, if_false, if_true] at h ⊢
      have hcount : (g % 64 + 8 + 63) / 64 = 1 := by omega
      have hline : (g / 64 + 0) * 64 = g / 64 * 64 := by omega
      have hmax : max g (g / 64 * 64) = g := by omega
      have hmin : min (g + 8) (g / 64 * 64 + 64) - g = 8 := by omega
      simp only [linesOf, hcount, upTo, List.range_one, List.map_cons, List.map_nil, List.flatMap_cons, List.flatMap_nil, List.append_nil, hline,
        hotLine_line s hsp, hhot, if_true, hmax, hmin]
      exact wordsIn_of_word h
    · simp only [hsp, hhot, decide_true, Bool.not_false, Bool.and_self, if_true] at h ⊢
      have hcount : (g % 64 + 64 + 63) / 64 = 1 := by omega
      have hline : (g / 64 + 0) * 64 = g := by omega
      simp only [linesOf, hcount, upTo, List.range_one, List.map_cons, List.map_nil, List.flatMap_cons, List.flatMap_nil, List.append_nil, hline,
        hhot, Bool.false_eq_true, if_false]
  · simp only [hsp, decide_false, Bool.false_and, Bool.false_eq_true, if_false] at h ⊢
    exact wordsIn_of_word h

/-- A read of a weak granule corrects it and counts it (R72, R75). -/
theorem correct_granule {s : State} {g : Nat} (h : g % s.granuleSize g = 0) (hg : g ∈ s.weak) :
    s.correct g (s.granuleSize g) = { s.modDie (keyDie g) Die.countCorrection with weak := s.weak.filter (· ≠ g) } := by
  have hne : s.weak.isEmpty = false := by
    cases hw : s.weak with
    | nil => rw [hw] at hg; cases hg
    | cons a r => rfl
  have hhit : [g].filter (fun k => s.weak.contains k) = [g] := by simp [hg]
  unfold State.correct
  rw [granulesOf_granule h]
  simp only [hne, Bool.false_eq_true, if_false, hhit, List.foldl_cons, List.foldl_nil]
  rfl

theorem correct_of_strong {s : State} {g : Nat} (h : g % s.granuleSize g = 0) (hg : g ∉ s.weak) : s.correct g (s.granuleSize g) = s := by
  have hhit : [g].filter (fun k => s.weak.contains k) = [] := by simp [hg]
  unfold State.correct
  rw [granulesOf_granule h]
  simp only [hhit, List.foldl_nil, ite_self]

/-- A write of CLR zeroes the two counts (R75). -/
theorem eccstatPut_clr (w : Word) : (eccstatPut w 2).toNat = w.toNat % 2 ^ 16 := by
  have hw := w.isLt
  have hones : 18446744073709551615#64 = BitVec.allOnes 64 := rfl
  have hkeep : CtlOp.apply .write 0 0x9 w 2 = w := by
    simp [CtlOp.apply]
    rw [hones, BitVec.and_allOnes, BitVec.and_allOnes]
  have hbit : (2 : Word).getLsbD 1 = true := by decide
  have hhigh : (wput w 48 16 0).toNat = w.toNat % 2 ^ 48 := wput_toNat_of_cleared w (by decide) hw
  have hlow : (wput w 48 16 0).toNat < 2 ^ (16 + 32) := hhigh ▸ Nat.mod_lt _ (by decide)
  rw [eccstatPut, hkeep, if_pos hbit, wput_toNat_of_cleared _ (by decide) hlow, hhigh, Nat.mod_mod_of_dvd _ (by decide)]

theorem errorsAreLoggedAndCorrected : ErrorsAreLoggedAndCorrected := by
  unfold ErrorsAreLoggedAndCorrected
  intro s die g hdie halign hkey
  refine ⟨fun hg => ?_, fun hb hg => ?_, fun hb hg => ?_, ?_⟩
  · have hlog : (s.logUncorrectable g true).die die = (s.die die).logEcc g (s.eccLevel g) s.cycle true := by
      rw [State.logUncorrectable, raiseIrq_die, hkey, die_modDie _ _ _ hdie]
    refine ⟨_, execScrubRead_of_bad halign hkey hg, raiseIrq_mem _ _ _, raiseIrq_bad _ _ _, ?_, fun h0 => ?_, fun h1 => ?_⟩
    · rw [hlog, div_eq_wfield, logEcc_count, ← div_eq_wfield]
    · rw [getLsbD_eq_wfield, decide_eq_false_iff_not] at h0
      obtain ⟨hv, hs, hl⟩ := logEcc_of_empty_fields (g := g) (lvl := s.eccLevel g) (now := s.cycle) h0 true
      rw [hlog, getLsbD_eq_wfield, getLsbD_eq_wfield, hv, hs]
      exact ⟨rfl, rfl, (logEcc_of_empty h0 true).2, (div_mod_eq_wfield _ 5 3).trans (hl.trans (eccLevel_mod s g))⟩
    · rw [getLsbD_eq_wfield, decide_eq_true_iff] at h1
      obtain ⟨hm, hlater⟩ := logEcc_of_full_fields (g := g) (lvl := s.eccLevel g) (now := s.cycle) h1 true
      rw [hlog, getLsbD_eq_wfield, getLsbD_eq_wfield, hm]
      refine ⟨rfl, (logEcc_of_full h1 true).2, fun hat => ?_⟩
      obtain ⟨hs, hl⟩ := hlater hat
      rw [hs]
      exact ⟨rfl, (div_mod_eq_wfield _ 5 3).trans (hl.trans (div_mod_eq_wfield _ 5 3).symm)⟩
  · refine ⟨_, execScrubRead_of_good halign hkey hb, ?_, ?_, ?_⟩
    · exact correct_mem _ _ _
    · rw [correct_granule halign hg]
      simp
    · rw [correct_granule halign hg, hkey]
      change ((s.modDie die Die.countCorrection).die die).eccstat.toNat / 2 ^ 16 % 2 ^ 32 = _
      rw [die_modDie _ _ _ hdie, div_mod_eq_wfield, div_mod_eq_wfield, Die.countCorrection, Die.withEccstat, wfield_wput_same _ _ (by omega), satN_mod]
  · rw [exec_scrubRead, execScrubRead_of_good halign hkey hb, correct_of_strong halign hg]
  · refine ⟨_, rfl, rfl, ?_, ?_⟩
    · rw [die_modDie _ _ _ hdie]
      exact eccstatPut_clr _
    · rw [die_modDie _ _ _ hdie]

/-- Settles O45: remote accesses complete in turn at their port, and errors of memory are logged and corrected. -/
theorem remoteAccessesAndMemoryErrors : Obligations.RemoteAccessesAndMemoryErrors := by
  unfold Obligations.RemoteAccessesAndMemoryErrors
  exact ⟨remoteAccessesComplete, errorsAreLoggedAndCorrected⟩

end Sys2Proof.Machine
end

section
namespace Sys2Proof.Machine

/-! ### Interrupts and notices of the system cores -/

/-- A system core by its number. -/
def State.sysCore (s : State) (j : Nat) : SysCore := vget s.pkg.sysCores j SysCore.reset

/-- The state in which a system core is replaced. -/
def State.withSysCore (s : State) (sc : Nat) (c : SysCore) : State := s.modPkg fun p => { p with sysCores := vset p.sysCores sc c }

section Irq

variable (s : State) {i j : Nat} (cls die : Nat)

theorem sysCore_withSysCore (v : SysCore) (hi : i < 8) : (s.withSysCore i v).sysCore i = v :=
  vget_vset_same _ _ _ _ hi

theorem sysCore_withSysCore_other (v : SysCore) (h : j ≠ i) : (s.withSysCore i v).sysCore j = s.sysCore j :=
  vget_vset_other _ _ _ _ _ h

theorem irqAt_sysCore_other (h : j ≠ i) : (s.irqAt i cls die).sysCore j = s.sysCore j := by
  unfold State.irqAt
  dsimp only
  split
  · rfl
  · exact vget_vset_other _ _ _ _ _ h

theorem irqAt_raised (hi : i < 8) : (cls, die) ∈ ((s.irqAt i cls die).sysCore i).pending := by
  unfold State.irqAt
  dsimp only
  split
  case isTrue h => exact List.contains_iff_mem.mp h
  case isFalse => simp [State.sysCore, State.modPkg, vget_vset_same, hi]

theorem irqAt_die (d : Nat) : (s.irqAt i cls die).die d = s.die d := by
  unfold State.irqAt
  dsimp only
  split <;> rfl

/-- Raises a class at each system core of a list. -/
def State.irqAll (l : List Nat) : State := l.foldl (fun s i => s.irqAt i cls die) s

theorem irqAll_die (l : List Nat) (d : Nat) : (s.irqAll cls die l).die d = s.die d :=
  foldl_keeps (fun t => t.die d) _ (fun t _ => irqAt_die t cls die d) l s

theorem irqAll_sysCore_other (l : List Nat) (h : j ∉ l) : (s.irqAll cls die l).sysCore j = s.sysCore j := by
  induction l generalizing s with
  | nil => rfl
  | cons i l ih =>
    obtain ⟨hi, hl⟩ := List.ne_and_not_mem_of_not_mem_cons h
    exact (ih (s.irqAt i cls die) hl).trans (irqAt_sysCore_other s cls die hi)

theorem irqAll_raised (l : List Nat) (h : j ∈ l) (hj : j < 8) : (cls, die) ∈ ((s.irqAll cls die l).sysCore j).pending := by
  induction l generalizing s with
  | nil => cases h
  | cons i l ih =>
    by_cases hl : j ∈ l
    · exact ih (s.irqAt i cls die) hl
    · have hij : j = i := (List.mem_cons.mp h).resolve_right hl
      subst hij
      have hrest := irqAll_sysCore_other (s.irqAt j cls die) cls die l hl
      rw [State.irqAll] at hrest
      rw [State.irqAll, List.foldl_cons, hrest]
      exact irqAt_raised s cls die hj

end Irq

/-- The record of a system core's notice (R406). -/
def sysRecord (sc : Nat) (cause : Cause) : StopRec := { kind := 5, slot := 0, cause := cause.code, asid := 0, lcore := 0, tid := 0, sc := some sc }

section Notice

variable (s : State) (sc : Nat) {cause : Cause}

/-- The notice is written at once where no record waits and the ring's entry is not new (R398). -/
theorem sysNotice_of_room (hcls : (sysRecord sc cause).cls = 18) (hwait : (s.die 0).stopWait = []) (hring : (s.die 0).ringBlocked = false) :
    s.sysNotice sc cause = (s.modDie 0 fun d => { d with stopRing := tput d.stopRing d.stopNext (sysRecord sc cause).bits,
                                                         stopNext := (d.stopNext + 1) % 1024 }).irqAll 18 0 ((upTo 8).filter (· ≠ sc)) := by
  have hpush : ((s.die 0).stopWait.isEmpty && !(s.die 0).ringBlocked) = true := by rw [hwait, hring]; rfl
  rw [State.irqAll, ← hcls]
  exact if_pos hpush

/-- The notice waits behind the records that wait. -/
theorem sysNotice_of_full (h : (s.die 0).stopWait ≠ [] ∨ (s.die 0).ringBlocked = true) :
    s.sysNotice sc cause = s.modDie 0 fun d => { d with stopWait := d.stopWait ++ [sysRecord sc cause] } := by
  refine if_neg fun hpush => ?_
  rw [Bool.and_eq_true, List.isEmpty_iff, Bool.not_eq_true'] at hpush
  obtain ⟨hwait, hring⟩ := hpush
  rcases h with h | h
  · exact h hwait
  · rw [hring] at h
    cases h

/-- The other system cores, and no more, hear of a notice. -/
theorem sysNotice_sysCore (hcls : (sysRecord sc cause).cls = 18) : (s.sysNotice sc cause).sysCore sc = s.sysCore sc := by
  by_cases hroom : (s.die 0).stopWait = [] ∧ (s.die 0).ringBlocked = false
  · rw [sysNotice_of_room s sc hcls hroom.1 hroom.2, irqAll_sysCore_other _ _ _ _ (by simp)]
    rfl
  · rw [sysNotice_of_full s sc (by rw [← Bool.not_eq_false]; tauto)]
    rfl

theorem sysNotice_raises (hcls : (sysRecord sc cause).cls = 18) (hwait : (s.die 0).stopWait = []) (hring : (s.die 0).ringBlocked = false) (j : Nat)
    (hj : j < 8) (hne : j ≠ sc) : (18, 0) ∈ ((s.sysNotice sc cause).sysCore j).pending := by
  rw [sysNotice_of_room s sc hcls hwait hring]
  refine irqAll_raised _ _ _ _ ?_ hj
  simp [upTo, hj, hne]

theorem sysNotice_waits (h : (s.die 0).stopWait ≠ [] ∨ (s.die 0).ringBlocked = true) :
    ((s.sysNotice sc cause).die 0).stopWait = (s.die 0).stopWait ++ [sysRecord sc cause] := by
  rw [sysNotice_of_full s sc h, die_modDie _ _ _ (by decide)]

end Notice

/-! ### Double faults -/

/-- A system core that enters the escalation handler (R406). -/
def SysCore.escalate (c : SysCore) (scause scode : Nat) (stval saddr : Word) : SysCore :=
  { c with frozen := true, oint := decide (2 ^ 63 ≤ scause), ocode := scause % 256, scode := scode % 256, dfaddr := stval, dfsaddr := saddr, escalated := true
           mode := 3, mepc := c.pc, mstatus := wput c.mstatus 11 2 c.mode }

section Fault

variable {s : State} {sc : Nat}

theorem execDoubleFault_of_halted (h : (s.sysCore sc).halted = true) (scause scode : Nat) (stval saddr : Word) :
    execDoubleFault sc scause scode stval saddr s = .next s :=
  congrArg _ (if_pos (.inr h))

theorem not_absent_or_halted (hsc : sc < 8) (h : (s.sysCore sc).halted = false) : ¬ (8 ≤ sc ∨ (s.sysCore sc).halted = true) := by
  rw [h]
  simp
  omega

theorem execDoubleFault_of_first (hsc : sc < 8) (h : (s.sysCore sc).halted = false) (hf : (s.sysCore sc).frozen = false) (scause scode : Nat) (stval saddr : Word) :
    execDoubleFault sc scause scode stval saddr s =
      .next ((s.withSysCore sc ((s.sysCore sc).escalate scause scode stval saddr)).sysNotice sc .double) :=
  congrArg _ ((if_neg (not_absent_or_halted hsc h)).trans (if_neg (hf.symm ▸ Bool.false_ne_true)))

theorem execDoubleFault_of_frozen (hsc : sc < 8) (h : (s.sysCore sc).halted = false) (hf : (s.sysCore sc).frozen = true) (scause scode : Nat) (stval saddr : Word) :
    execDoubleFault sc scause scode stval saddr s = .next ((s.withSysCore sc { s.sysCore sc with halted := true }).sysNotice sc .machinechk) :=
  congrArg _ ((if_neg (not_absent_or_halted hsc h)).trans (if_pos hf))

end Fault

/-- A notice after a change of the system core that sends it: what the core is, and who is told. -/
theorem sysNotice_withSysCore (s : State) {sc : Nat} (hsc : sc < 8) (c : SysCore) {cause : Cause} (hcls : (sysRecord sc cause).cls = 18) :
    let t := (s.withSysCore sc c).sysNotice sc cause
    t.sysCore sc = c ∧
      ((s.die 0).stopWait = [] → (s.die 0).ringBlocked = false → ∀ j, j < 8 → j ≠ sc → (18, 0) ∈ (t.sysCore j).pending) ∧
      ((s.die 0).stopWait ≠ [] ∨ (s.die 0).ringBlocked = true →
        ∃ r, (t.die 0).stopWait = (s.die 0).stopWait ++ [r] ∧ r.cause = cause.code ∧ r.sc = some sc ∧ r.kind = 5) :=
  ⟨(sysNotice_sysCore _ sc hcls).trans (sysCore_withSysCore s c hsc), fun hwait hring j hj hne => sysNotice_raises (s.withSysCore sc c) sc hcls hwait hring j hj hne,
    fun h => ⟨sysRecord sc cause, sysNotice_waits (s.withSysCore sc c) sc h, rfl, rfl, rfl⟩⟩

theorem systemCoresDoubleFault : SystemCoresDoubleFault := by
  unfold SystemCoresDoubleFault
  intro s sc scause scode stval saddr hsc
  refine ⟨fun h => execDoubleFault_of_halted h _ _ _ _, fun h hf => ?_, fun h hf => ?_, ?_⟩
  · obtain ⟨hnow, htells⟩ := sysNotice_withSysCore s hsc ((s.sysCore sc).escalate scause scode stval saddr) (cause := .double) rfl
    have hfields : ∀ c, c = (s.sysCore sc).escalate scause scode stval saddr → c.frozen = true ∧ c.escalated = true ∧ c.halted = false ∧ c.mode = 3 ∧
        c.mepc = (s.sysCore sc).pc ∧ c.ocode = scause % 256 ∧ c.oint = decide (2 ^ 63 ≤ scause) ∧ c.scode = scode % 256 ∧ c.dfaddr = stval ∧ c.dfsaddr = saddr := by
      rintro c rfl
      exact ⟨rfl, rfl, h, rfl, rfl, rfl, rfl, rfl, rfl, rfl⟩
    obtain ⟨h1, h2, h3, h4, h5, h6, h7, h8, h9, h10⟩ := hfields _ hnow
    exact ⟨_, execDoubleFault_of_first hsc h hf _ _ _ _, h1, h2, h3, h4, h5, h6, h7, h8, h9, h10, htells⟩
  · obtain ⟨hnow, htells⟩ := sysNotice_withSysCore s hsc { s.sysCore sc with halted := true } (cause := .machinechk) rfl
    have hfields : ∀ c, c = { s.sysCore sc with halted := true } → c.halted = true ∧ c.dfaddr = (s.sysCore sc).dfaddr ∧ c.ocode = (s.sysCore sc).ocode := by
      rintro c rfl
      exact ⟨rfl, rfl, rfl⟩
    obtain ⟨h1, h2, h3⟩ := hfields _ hnow
    exact ⟨_, execDoubleFault_of_frozen hsc h hf _ _ _ _, h1, h2, h3, htells⟩
  · have hread : execDfcauseRead sc s = .next (s.withSysCore sc { s.sysCore sc with loaded := (s.sysCore sc).dfcause, frozen := false }) :=
      congrArg _ (if_neg (Nat.not_le.mpr hsc))
    have hnow := sysCore_withSysCore s { s.sysCore sc with loaded := (s.sysCore sc).dfcause, frozen := false } hsc
    exact ⟨_, hread, congrArg SysCore.frozen hnow, congrArg SysCore.loaded hnow, fun j hj => sysCore_withSysCore_other s _ hj⟩

end Sys2Proof.Machine
end

section
namespace Sys2Proof.Machine

/-! ### The command that starts a migration -/

section Command

variable {s : State} {die asid lcore c target : Nat}

theorem execCxcmdMigrate_of_absent (h : s.running asid = false ∨ s.lcoreCore asid lcore = none) :
    execCxcmdMigrate die asid lcore target s = .next (s.cxErr die) := by
  have hnone : (if s.running asid then s.lcoreCore asid lcore else none) = none := by
    rcases h with h | h
    · rw [h, if_neg Bool.false_ne_true]
    · rw [h, ite_self]
  unfold execCxcmdMigrate
  rw [hnone]

section Present

variable (hrun : s.running asid = true) (hlc : s.lcoreCore asid lcore = some c)
include hrun hlc

theorem execCxcmdMigrate_of_taken (h : s.reserveBent asid target = false) : execCxcmdMigrate die asid lcore target s = .next (s.cxErr die) := by
  unfold execCxcmdMigrate
  rw [hrun, if_pos rfl, hlc]
  dsimp only
  rw [if_pos (.inr (.inl (by rw [h]; rfl)))]

theorem execCxcmdMigrate_of_reserve (htarget : target < 4608) (h : s.reserveBent asid target = true)
    (hmoves : s.movesOf asid lcore c target = [{ src := c, dst := target }]) (hmig : (s.core c).migrating = none) (hholds : (s.core c).holds = true) :
    execCxcmdMigrate die asid lcore target s =
      .next ((([0, 1, 2, 3].foldl (fun t u => t.reachBoundary c u) s).modCore c fun k => { k with migrating := some target, migDie := die }).modDie die
        fun d => { d with cxBusy := true }) := by
  have hfree : ¬ (Config.gatewayBase ≤ target ∨ !s.reserveBent asid target ∨
      [({ src := c, dst := target } : Move)].any fun m => (s.core m.src).migrating.isSome || !(s.core m.src).holds) := by
    simp only [h, hmig, hholds, List.any_cons, List.any_nil, Bool.not_true, Option.isSome_none, Bool.or_false, Bool.false_eq_true, or_false]
    exact Nat.not_le.mpr htarget
  unfold execCxcmdMigrate
  rw [hrun, if_pos rfl, hlc]
  dsimp only
  have hthreads : upTo 4 = [0, 1, 2, 3] := rfl
  rw [hmoves, if_neg hfree, hthreads]
  simp only [List.foldl_cons, List.foldl_nil]

end Present

end Command

/-! ### Boundaries -/

section Boundary

variable {s : State} {c u : Nat}

theorem reachBoundary_of_free (h : (s.thr c u).running = false ∨ ((s.ctx c u).stopsDue = [] ∧ (s.ctx c u).desched = false) ∨ (s.ctx c u).redo ≠ none) :
    s.reachBoundary c u = s := by
  refine if_pos ?_
  rcases h with h | ⟨hdue, hd⟩ | h
  · rw [h]
    rfl
  · rw [Ctx.stopDue, hdue, hd]
    simp
  · rw [Option.isSome_iff_ne_none.mpr h, Bool.or_true]

theorem boundaryOf_of_desched (hdue : (s.ctx c u).stopsDue = []) (hd : (s.ctx c u).desched = true) :
    s.boundaryOf c u = some ((s.modCtx c u fun x => { x with desched := false }).takeStop c u 3 none {}) := by
  unfold State.boundaryOf
  dsimp only
  rw [hdue]
  exact if_pos hd

theorem reachBoundary_of_desched (hrun : (s.thr c u).running = true) (hdue : (s.ctx c u).stopsDue = []) (hd : (s.ctx c u).desched = true)
    (hredo : (s.ctx c u).redo = none) (hpre : s.preciseStop c u = none) :
    s.reachBoundary c u = (s.modCtx c u fun x => { x with desched := false }).takeStop c u 3 none {} := by
  have hgo : ¬ (!(s.thr c u).running || !(s.ctx c u).stopDue || (s.ctx c u).redo.isSome) = true := by
    rw [hrun, Ctx.stopDue, hd, hredo]
    simp
  unfold State.reachBoundary
  rw [if_neg hgo, hpre, boundaryOf_of_desched hdue hd]
  rfl

end Boundary

/-! ### The end of a migration -/

section Complete

variable {s : State} {die c target : Nat} (hmig : (s.core c).migrating = some target) (hmoves : s.movesTo target = [{ src := c, dst := target }])
  (hdie : (s.core c).migDie = die)
include hmig hmoves

theorem execMigrationComplete_of_mustFinish (h : s.mustFinish c = true) : execMigrationComplete c true s = .next s := by
  unfold execMigrationComplete
  rw [hmig]
  dsimp only
  rw [hmoves, if_pos (by simp [h])]

include hdie

/-- The state of a core whose move has failed: it goes on in place, and a notice is sent (R410). -/
theorem execMigrationComplete_of_failed :
    let logged := match s.streamBad c with | some g => s.logUncorrectable g false | none => s
    let stays := (((logged.modCore c fun k => { k with migrating := none }).noticeOf c .migrate 0).serveArrivals c).modDie die fun d => { d with mfail := true }
    execMigrationComplete c false s = .next (stays.modDie die fun d => { d with cxBusy := stays.stillBusy die }) := by
  unfold execMigrationComplete
  rw [hmig]
  dsimp only
  rw [hmoves, hdie, Bool.false_and, if_neg Bool.false_ne_true, Bool.false_and, if_neg Bool.false_ne_true]
  cases h : s.streamBad c <;> simp only [List.filterMap_cons, List.filterMap_nil, h] <;> rfl

theorem execMigrationComplete_of_arrived (hbad : s.bad = []) (h : s.mustFinish c = false) :
    execMigrationComplete c true s = (let after := ((s.moveCore { src := c, dst := target }).runHome target false).serveArrivals target
      .next (after.modDie die fun d => { d with cxBusy := after.stillBusy die })) := by
  have hstream : s.streamBad c = none := by simp [State.streamBad, State.badIn, hbad]
  unfold execMigrationComplete
  rw [hmig]
  dsimp only
  rw [hmoves, hdie, if_neg (by simp [h])]
  simp only [List.filterMap_cons, hstream, List.filterMap_nil]
  rfl

end Complete

/-! ### Scarfs -/

section Scarf

variable {s : State} {die c target : Nat}

theorem execScarfForward_of_message (h : (s.core c).scarf = some target) (hholds : (s.core c).holds = false) {m : Msg} {rest : List Msg}
    (hin : (s.core c).inbound = m :: rest) :
    execScarfForward c s = .next ((s.modCore c fun k => { k with inbound := rest }).modCore target fun k => { k with inbound := k.inbound ++ [{ m with target := target }] }) := by
  unfold execScarfForward
  dsimp only
  rw [h]
  dsimp only
  rw [hholds, if_neg Bool.false_ne_true, State.forwardOne]
  rw [hin]

theorem execCxcmdClearScarf_of_none (h : (s.core c).scarf = none) : execCxcmdClearScarf die c s = .next (s.cxErr die) := by
  unfold execCxcmdClearScarf
  dsimp only
  rw [h]

theorem execCxcmdClearScarf_of_empty (h : (s.core c).scarf = some target) (hq : (s.core c).scarfQueue = 0) :
    execCxcmdClearScarf die c s = .next ((s.modCore c fun k => { k with scarf := none }).clearCore c) := by
  unfold execCxcmdClearScarf
  dsimp only
  rw [h]
  dsimp only
  rw [hq]
  rfl

end Scarf

end Sys2Proof.Machine
end

section
namespace Sys2Proof.Machine

/-! ### Ranges of memory -/

section Bytes

variable (e : Byte)

/-- A byte whose key is not listed. -/
theorem memGet_of_unlisted (m : List Host.Cell) {k : Nat} (h : ∀ c ∈ m, c.1 ≠ k) : memGet e m k = e := by
  induction m with
  | nil => rfl
  | cons c r ih =>
    obtain ⟨i, b⟩ := c
    rw [memGet, if_neg (h (i, b) List.mem_cons_self), ih fun c hc => h c (List.mem_cons_of_mem _ hc), ite_self]

/-- A byte of the part of a memory whose keys a predicate names. -/
theorem memGet_filter (p : Host.Cell → Bool) (m : List Host.Cell) {lo k : Nat} (h : memWfFrom e lo m = true) (hp : ∀ b, p (k, b) = true) :
    memGet e (m.filter p) k = memGet e m k := by
  induction m generalizing lo with
  | nil => rfl
  | cons c r ih =>
    obtain ⟨i, b⟩ := c
    simp only [memWfFrom, Bool.and_eq_true, decide_eq_true_eq] at h
    obtain ⟨-, hr⟩ := h
    by_cases hi : i = k
    · subst hi
      rw [List.filter_cons_of_pos (hp b), memGet, memGet, if_pos rfl, if_pos rfl]
    · by_cases hpi : p (i, b) = true
      · rw [List.filter_cons_of_pos hpi, memGet, memGet, ih hr]
      · rw [List.filter_cons_of_neg hpi, ih hr, memGet, if_neg hi]
        split
        case isTrue hlt => exact memGet_below _ r _ _ hr (by omega)
        case isFalse => rfl

/-- The listed keys lie at or above the bound of the canonical form. -/
theorem le_of_mem_of_memWf (m : List Host.Cell) {lo : Nat} (h : memWfFrom e lo m = true) : ∀ c ∈ m, lo ≤ c.1 := by
  induction m generalizing lo with
  | nil => simp
  | cons d r ih =>
    simp only [memWfFrom, Bool.and_eq_true, decide_eq_true_eq] at h
    obtain ⟨⟨hd, -⟩, hr⟩ := h
    intro c hc
    rcases List.mem_cons.mp hc with rfl | hc
    · exact hd
    · exact Nat.le_trans hd (Nat.le_of_succ_le (ih hr c hc))

theorem memWfFrom_of_le (m : List Host.Cell) {lo lo' : Nat} (h : memWfFrom e lo m = true) (hle : ∀ c ∈ m, lo' ≤ c.1) : memWfFrom e lo' m = true := by
  cases m with
  | nil => rfl
  | cons d r =>
    simp only [memWfFrom, Bool.and_eq_true, decide_eq_true_eq] at h ⊢
    exact ⟨⟨hle d List.mem_cons_self, h.1.2⟩, h.2⟩

end Bytes

/-- The listed bytes of a range that begins at `src`, written from `dst` on. -/
def copyOnto (src dst : Nat) (l m : List Host.Cell) : List Host.Cell := l.foldl (fun m c => memPut Config.emptyByte m (dst + (c.1 - src)) c.2) m

section Copy

variable (src dst : Nat)

theorem copyOnto_other (l m : List Host.Cell) {j : Nat} (hm : Memory.wf m = true) (h : ∀ c ∈ l, dst + (c.1 - src) ≠ j) :
    memGet Config.emptyByte (copyOnto src dst l m) j = memGet Config.emptyByte m j := by
  induction l generalizing m with
  | nil => rfl
  | cons c r ih =>
    rw [copyOnto, List.foldl_cons]
    refine (ih _ (memPut_wf _ m 0 _ c.2 hm (Nat.zero_le _)) fun d hd => h d (List.mem_cons_of_mem _ hd)).trans ?_
    rw [memGet_memPut _ m 0 _ _ _ hm, if_neg (h c List.mem_cons_self).symm]

/-- A byte of the copy is the byte it is a copy of. -/
theorem copyOnto_byte (l m : List Host.Cell) {lo off : Nat} (hl : memWfFrom Config.emptyByte lo l = true) (hlo : src ≤ lo) (hm : Memory.wf m = true)
    (h : memGet Config.emptyByte m (dst + off) = Config.emptyByte) :
    memGet Config.emptyByte (copyOnto src dst l m) (dst + off) = memGet Config.emptyByte l (src + off) := by
  induction l generalizing m lo with
  | nil => exact h
  | cons c r ih =>
    obtain ⟨i, b⟩ := c
    simp only [memWfFrom, Bool.and_eq_true, decide_eq_true_eq] at hl
    obtain ⟨⟨hi, -⟩, hr⟩ := hl
    have hwf : Memory.wf (memPut Config.emptyByte m (dst + (i - src)) b) = true := memPut_wf _ m 0 _ b hm (Nat.zero_le _)
    rw [copyOnto, List.foldl_cons]
    by_cases hoff : i = src + off
    · have hkey : dst + (i - src) = dst + off := by omega
      rw [memGet, if_pos hoff]
      refine (copyOnto_other src dst r _ hwf fun d hd => ?_).trans ?_
      · have := le_of_mem_of_memWf _ r hr d hd
        omega
      · rw [memGet_memPut _ m 0 _ _ _ hm, if_pos hkey.symm]
    · have hkey : dst + off ≠ dst + (i - src) := by omega
      refine (ih _ hr (by omega) hwf ?_).trans ?_
      · rw [memGet_memPut _ m 0 _ _ _ hm, if_neg hkey, h]
      · rw [memGet, if_neg hoff]
        split
        case isTrue hlt => exact memGet_below _ r _ _ hr (by omega)
        case isFalse => rfl

end Copy

theorem mem_copyRange (s : State) (src dst : Nat) {n : Nat} (hn : n ≠ 0) :
    (s.copyRange src dst n).mem = copyOnto src dst (s.listed src n) (s.mem.filter fun c => !(decide (dst ≤ c.1) && decide (c.1 < dst + n))) := by
  unfold State.copyRange
  rw [if_neg hn, afterWrite_mem]
  rfl

theorem mem_zeroRange (s : State) (k : Nat) {n : Nat} (hn : n ≠ 0) :
    (s.zeroRange k n).mem = s.mem.filter fun c => !(decide (k ≤ c.1) && decide (c.1 < k + n)) := by
  unfold State.zeroRange
  rw [if_neg hn, afterWrite_mem]

section Ranges

variable (s : State) (src dst : Nat) {n : Nat} (hwf : Memory.wf s.mem = true)
include hwf

/-- The bytes that a copy writes. -/
theorem byteAt_copyRange {off : Nat} (hoff : off < n) : (s.copyRange src dst n).byteAt (dst + off) = s.byteAt (src + off) := by
  have hclear : memGet Config.emptyByte (s.mem.filter fun c => !(decide (dst ≤ c.1) && decide (c.1 < dst + n))) (dst + off) = Config.emptyByte := by
    refine memGet_of_unlisted _ _ fun c hc hkey => ?_
    have h := (List.mem_filter.mp hc).2
    rw [hkey] at h
    simp at h
    omega
  have hlisted : memWfFrom Config.emptyByte src (s.listed src n) = true :=
    memWfFrom_of_le _ _ (memWf_filter _ _ _ _ hwf) fun c hc => by
      have h := (List.mem_filter.mp hc).2
      simp at h
      exact h.1
  rw [State.byteAt, mem_copyRange _ _ _ (by omega), copyOnto_byte src dst _ _ hlisted (Nat.le_refl _) (memWf_filter _ _ _ _ hwf) hclear]
  refine memGet_filter _ _ _ hwf fun b => ?_
  simp
  omega

/-- A copy changes no other byte. -/
theorem byteAt_copyRange_other {j : Nat} (hj : j < dst ∨ dst + n ≤ j) : (s.copyRange src dst n).byteAt j = s.byteAt j := by
  by_cases hn : n = 0
  · rw [State.copyRange, if_pos hn]
  rw [State.byteAt, mem_copyRange _ _ _ hn, copyOnto_other src dst _ _ (memWf_filter _ _ _ _ hwf) fun c hc => ?_]
  · refine memGet_filter _ _ _ hwf fun b => ?_
    simp
    omega
  · have h := (List.mem_filter.mp hc).2
    simp at h
    omega

end Ranges

/-- No byte of a cleared range is listed (R55), and no other is listed anew. -/
theorem mem_of_mem_zeroRange {s : State} {k n : Nat} {c : Host.Cell} (h : c ∈ (s.zeroRange k n).mem) : c ∈ s.mem ∧ ¬ (k ≤ c.1 ∧ c.1 < k + n) := by
  by_cases hn : n = 0
  · rw [State.zeroRange, if_pos hn] at h
    exact ⟨h, by omega⟩
  · rw [mem_zeroRange _ _ hn, List.mem_filter] at h
    obtain ⟨hmem, hout⟩ := h
    simp at hout
    exact ⟨hmem, by omega⟩

/-- A core's scratchpad reads zero once its storage is cleared (R55). -/
theorem byteAt_clearCore (s : State) (c : Nat) {off : Nat} (hoff : off < 0x20000) : (s.clearCore c).byteAt (scratchKey c 0 + off) = 0 := by
  refine memGet_of_unlisted _ _ fun d hd hkey => ?_
  obtain ⟨hscratch, -⟩ := mem_of_mem_zeroRange hd
  obtain ⟨-, hout⟩ := mem_of_mem_zeroRange hscratch
  omega

theorem scratchKey_add (c off : Nat) : scratchKey c off = scratchKey c 0 + off := by
  unfold scratchKey
  split <;> omega

/-! ### What a write leaves of the cores -/

section Cores

variable {β : Type} (p : Core → β)

theorem core_modUnit_keeps (s : State) (uid c : Nat) (f : Ctx → Ctx) (hp : ∀ k, p (Core.updated uid f k) = p k) : p ((s.modUnit uid f).core c) = p (s.core c) := by
  unfold State.core tgetD
  rw [modUnit_cores, tget_tmap]
  cases tget s.cores c with
  | none => rfl
  | some k => exact hp k

/-- A projection of cores that no update of a unit's watches changes is not changed by what a write sets off. -/
theorem core_afterWrite_keeps (hp : ∀ uid f k, (∀ y, (f y).regs = y.regs) → p (Core.updated uid f k) = p k) (s : State) (k n c : Nat) :
    p ((s.afterWrite k n).core c) = p (s.core c) := by
  have hdeps : ∀ t : State, (t.readyDeps k n).core c = t.core c := fun t => by
    refine foldl_keeps (fun u => u.core c) _ (fun u d => ?_) _ t
    exact modPart_core _ _ _ _
  have hwatch : ∀ t : State, p ((t.fireWatches k n).core c) = p (t.core c) := fun t => by
    unfold State.fireWatches
    split
    · rfl
    · exact foldl_keeps (fun u => p (u.core c)) _ (fun u x => core_modUnit_keeps p u _ _ _ fun y => hp _ _ y fun z => fireWatches_regs z _ _ _ _) _ t
  have hrepair : (s.repair k n).core c = s.core c := by
    unfold State.repair
    split <;> rfl
  rw [State.afterWrite, hdeps, hwatch, hrepair]

theorem core_zeroRange_keeps (hp : ∀ uid f k, (∀ y, (f y).regs = y.regs) → p (Core.updated uid f k) = p k) (s : State) (k n c : Nat) :
    p ((s.zeroRange k n).core c) = p (s.core c) := by
  unfold State.zeroRange
  split
  · rfl
  · exact core_afterWrite_keeps p hp _ k n c

theorem core_copyRange_keeps (hp : ∀ uid f k, (∀ y, (f y).regs = y.regs) → p (Core.updated uid f k) = p k) (s : State) (src dst n c : Nat) :
    p ((s.copyRange src dst n).core c) = p (s.core c) := by
  unfold State.copyRange
  split
  · rfl
  · exact core_afterWrite_keeps p hp _ dst n c

end Cores

/-- Clearing a core's storage leaves its scarf as it is. -/
theorem clearCore_scarf (s : State) (c : Nat) : ((s.clearCore c).core c).scarf = (s.core c).scarf := by
  have hp : ∀ uid f (k : Core), (∀ y : Ctx, (f y).regs = y.regs) → (Core.updated uid f k).scarf = k.scarf := fun _ _ _ _ => rfl
  rw [State.clearCore, core_zeroRange_keeps Core.scarf hp, core_zeroRange_keeps Core.scarf hp]

end Sys2Proof.Machine
end

section
namespace Sys2Proof.Machine

/-! ### What a move keeps of a core's context -/

/-- Whether a thread runs, its program counter and its registers. -/
def Thread.seen (th : Thread) : Bool × Word × Vector Word 64 := (th.running, th.ctx.pc, th.ctx.x)

/-- The launch of a core, its LCORE, and what its threads are. -/
def Core.context (k : Core) : Option Nat × Nat × (Nat → Bool × Word × Vector Word 64) := (k.asid, k.lcore, fun u => (k.thr u).seen)

theorem vget_map_keeps {α β : Type} {n : Nat} (p : α → β) (f : α → α) (hf : ∀ a, p (f a) = p a) (v : Vector α n) (i : Nat) (d : α) :
    p (vget (v.map f) i d) = p (vget v i d) := by
  unfold vget
  split
  · rw [Vector.getElem_map, hf]
  · rfl

/-- A core whose threads are changed one by one. -/
theorem Core.context_of_map {j k : Core} {f : Thread → Thread} (hasid : j.asid = k.asid) (hlcore : j.lcore = k.lcore) (hthr : j.threads = k.threads.map f)
    (hf : ∀ th, (f th).seen = th.seen) : j.context = k.context := by
  have h : (fun u => (j.thr u).seen) = fun u => (k.thr u).seen := funext fun u => by
    rw [Core.thr, hthr, vget_map_keeps Thread.seen f hf]
    rfl
  rw [Core.context, Core.context, hasid, hlcore, h]

theorem Core.updated_context (uid : Nat) (f : Ctx → Ctx) (k : Core) (hf : ∀ y, (f y).regs = y.regs) : (k.updated uid f).context = k.context := by
  refine Core.context_of_map rfl rfl (f := Thread.updated uid f) rfl fun th => ?_
  have hregs := Thread.updated_regs uid f hf th
  have hrun : (th.updated uid f).running = th.running := by
    unfold Thread.updated
    split <;> rfl
  unfold Ctx.regs at hregs
  simp only [Prod.mk.injEq] at hregs
  obtain ⟨hx, -, -, -, -, hpc⟩ := hregs
  rw [Thread.seen, hrun, hx, hpc]
  rfl

/-- A step leaves a core's context, and which launches run, as they are. -/
structure Carries (c : Nat) (s t : State) : Prop where
  context : (t.core c).context = (s.core c).context
  running : ∀ a, t.running a = s.running a

namespace Carries

variable {c : Nat} {s t u : State}

theorem refl (s : State) : Carries c s s := ⟨rfl, fun _ => rfl⟩

theorem trans (h : Carries c s t) (g : Carries c t u) : Carries c s u := ⟨g.context.trans h.context, fun a => (g.running a).trans (h.running a)⟩

theorem ofCore (h : t.core c = s.core c) (hr : t.parts = s.parts) : Carries c s t := ⟨by rw [h], fun a => by rw [State.running, hr]; rfl⟩

theorem foldl {α : Type} (f : State → α → State) (h : ∀ s a, Carries c s (f s a)) (l : List α) (s : State) : Carries c s (l.foldl f s) := by
  induction l generalizing s with
  | nil => exact refl s
  | cons a r ih => exact (h s a).trans (ih (f s a))

end Carries

section Carried

variable (s : State) (c : Nat)

theorem running_modPart (a b : Nat) (f : Partition → Partition) : (s.modPart a f).running b = s.running b := by
  rw [State.running, State.running, tget_modPart]
  split
  · exact Option.isSome_map
  · rfl

theorem carries_modPart (a : Nat) (f : Partition → Partition) : Carries c s (s.modPart a f) := ⟨by rw [modPart_core], fun b => running_modPart s a b f⟩

theorem carries_modCore (f : Core → Core) (hf : ∀ k, (f k).context = k.context) : Carries c s (s.modCore c f) := ⟨by rw [core_modCore, hf], fun _ => rfl⟩

theorem carries_modDie (d : Nat) (f : Die → Die) : Carries c s (s.modDie d f) := .ofCore rfl rfl

theorem carries_leaveQueue (asid : Nat) (x : Ctx) : Carries c s (s.leaveQueue asid x) := by
  unfold State.leaveQueue
  split
  · exact .refl s
  · exact carries_modPart s c _ _

theorem carries_withdrawCore : Carries c s (s.withdrawCore c) := by
  have hqueues : Carries c s (((s.core c).threads.toList.map fun th => th.ctx).foldl (fun t x => t.leaveQueue (t.core c).asidN x) s) :=
    .foldl _ (fun t x => carries_leaveQueue t c _ x) _ s
  unfold State.withdrawCore
  dsimp only
  refine hqueues.trans (Carries.trans (carries_modDie _ c _ _) (carries_modCore _ c _ ?_))
  exact fun k => Core.context_of_map rfl rfl rfl fun _ => rfl

theorem carries_markMoved (m : Move) (h : m.src = c) : Carries c s (s.markMoved m) := by
  subst h
  have hup : Carries m.src s (s.modCore m.src fun k => { k with
      threads := k.threads.map fun (th : Thread) => { th with ctx := { th.ctx with after := s.nextAge } }
      ready := k.ready.map fun e => match e.item with | .ctx x => { e with item := .ctx { x with after := s.nextAge } } | _ => e }) :=
    carries_modCore s m.src _ fun k => Core.context_of_map rfl rfl rfl fun _ => rfl
  exact hup.trans (.ofCore rfl rfl)

theorem running_afterWrite (k n a : Nat) : (s.afterWrite k n).running a = s.running a := by
  have hdeps : ∀ t : State, (t.readyDeps k n).running a = t.running a := fun t => by
    refine foldl_keeps (fun u => u.running a) _ (fun u d => ?_) _ t
    exact running_modPart _ _ _ _
  have hwatch : ∀ t : State, (t.fireWatches k n).running a = t.running a := fun t => by
    unfold State.fireWatches
    split
    · rfl
    · refine foldl_keeps (fun u => u.running a) _ (fun u x => ?_) _ t
      rfl
  rw [State.afterWrite, hdeps, hwatch, State.repair]
  split <;> rfl

theorem carries_copyRange (src dst n : Nat) : Carries c s (s.copyRange src dst n) where
  context := core_copyRange_keeps Core.context (fun uid f k hf => Core.updated_context uid f k hf) s src dst n c
  running a := by
    unfold State.copyRange
    split
    · rfl
    · exact running_afterWrite _ _ _ a

theorem carries_moveAtes (m : Move) : Carries c s (s.moveAtes m) := by
  unfold State.moveAtes
  dsimp only
  split
  · exact .ofCore rfl rfl
  · exact .ofCore rfl rfl

end Carried

/-! ### The parts of a move -/

section Parts

variable (s : State) (m : Move)

/-- The source's own accesses are withdrawn, and what it has issued comes before what it issues at the target. -/
def State.departed : State := (s.withdrawCore m.src).markMoved m

/-- The storage of the source stands at the target. -/
def State.carried : State :=
  ((s.copyRange (scratchKey m.src 0) (scratchKey m.dst 0) 0x20000).copyRange (windowKey m.src 0) (windowKey m.dst 0) 0x40000).moveAtes m

/-- A core whose names follow the move. -/
def Core.renamed (m : Move) (k : Core) : Core := { k.moved m with scarf := if k.scarf = some m.src then some m.dst else k.scarf }

/-- Everything that names the source names the target. -/
def State.renamed : State :=
  { s with
    cores := tmap s.cores fun _ k => k.renamed m
    dies := s.dies.map fun (d : Die) => { d with slots := tmap d.slots fun _ (e : Slot) => { e with ctx := e.ctx.moved m }, mc := d.mc.moved m }
    turns := s.turns.map fun t => { t with line := m.key (64 * t.line) / 64 }
    pkg := { s.pkg with remotes := s.pkg.remotes.map (RemoteReq.moved m) } }

/-- A core that stands where another stood, whose fence and bond stay (R395). -/
def Core.placedAt (k t : Core) : Core :=
  { k with migrating := none, scarf := none, holds := true, me := { k.me with fenced := t.me.fenced, bondBad := t.me.bondBad } }

/-- The core of the target, and what the source has become. -/
def State.exchanged (asid : Nat) : State :=
  (s.setCore m.dst ((s.core m.src).placedAt (s.core m.dst))).setCore m.src { (s.core m.src).vacate with asid := some asid, scarf := some m.dst }

/-- The state in which the cores change places. -/
def State.readied : State :=
  (((s.departed m).carried m).renamed m).modPart ((s.departed m).core m.src).asidN fun p => p.moved m ((s.departed m).core m.src).lcore

theorem moveCore_eq : s.moveCore m = (s.readied m).exchanged m ((s.departed m).core m.src).asidN := rfl

theorem Core.renamed_context (k : Core) : (k.renamed m).context = k.context :=
  Core.context_of_map rfl rfl rfl fun _ => rfl

theorem carries_departed : Carries m.src s (s.departed m) := (carries_withdrawCore s m.src).trans (carries_markMoved _ _ m rfl)

theorem carries_carried (c : Nat) : Carries c s (s.carried m) :=
  (carries_copyRange s c _ _ _).trans ((carries_copyRange _ c _ _ _).trans (carries_moveAtes _ c m))

theorem carries_renamed (c : Nat) : Carries c s (s.renamed m) where
  context := by
    change (((tget (tmap s.cores fun _ k => k.renamed m) c)).getD Core.reset).context = _
    rw [tget_tmap]
    unfold State.core tgetD
    cases tget s.cores c with
    | none => rfl
    | some k => exact Core.renamed_context m k
  running _ := rfl

theorem carries_readied : Carries m.src s (s.readied m) :=
  (carries_departed s m).trans ((carries_carried _ m _).trans ((carries_renamed _ m _).trans (carries_modPart _ _ _ _)))

end Parts

/-! ### Memory -/

section Moved

variable (s : State) (m : Move)

theorem departed_mem : (s.departed m).mem = s.mem := by
  have hq : ∀ (t : State) (asid : Nat) (x : Ctx), (t.leaveQueue asid x).mem = t.mem := fun t asid x => by
    unfold State.leaveQueue
    split
    · rfl
    · exact modPart_mem _ _ _
  exact foldl_keeps State.mem (fun t x => t.leaveQueue (t.core m.src).asidN x) (fun t x => hq t _ x) ((s.core m.src).threads.toList.map fun th => th.ctx) s

theorem moveAtes_mem : (s.moveAtes m).mem = s.mem := by
  unfold State.moveAtes
  dsimp only
  split <;> rfl

theorem moveCore_mem : (s.moveCore m).mem =
    (((s.departed m).copyRange (scratchKey m.src 0) (scratchKey m.dst 0) 0x20000).copyRange (windowKey m.src 0) (windowKey m.dst 0) 0x40000).mem :=
  (modPart_mem _ _ _).trans (moveAtes_mem _ m)

/-- A scratchpad lies below every B-window. -/
theorem scratchKey_lt_windowKey {c : Nat} (hc : c < 4608) (d : Nat) {off : Nat} (hoff : off < 0x20000) : scratchKey c off < windowKey d 0 := by
  have hscratch : scratchKey c off < 0x3000000000000000 := by
    have hdie := coreDie_lt hc
    have hrow : coreRow c < 36 := Nat.div_lt_of_lt_mul (Nat.mod_lt _ (by decide))
    have hcol : coreCol c < 32 := Nat.mod_lt _ (by decide)
    have hgate : ¬ isGateway c = true := by simp [isGateway, hc]
    rw [scratchKey, if_neg hgate]
    omega
  have hwindow : 0x3000000000000000 ≤ windowKey d 0 := by
    unfold windowKey vaultKey
    split <;> omega
  exact Nat.lt_of_lt_of_le hscratch hwindow

theorem moveCore_scratch (hwf : Memory.wf s.mem = true) (hdst : m.dst < 4608) {off : Nat} (hoff : off < 0x20000) :
    (s.moveCore m).byteAt (scratchKey m.dst off) = s.byteAt (scratchKey m.src off) := by
  have hwf' : Memory.wf (s.departed m).mem = true := by rwa [departed_mem]
  rw [byteAt_of_mem (moveCore_mem s m), byteAt_copyRange_other _ _ _ (copyRange_wf _ _ _ _ hwf') (.inl (scratchKey_lt_windowKey hdst m.dst hoff)),
    scratchKey_add m.dst off, scratchKey_add m.src off, byteAt_copyRange _ _ _ hwf' hoff, byteAt_of_mem (departed_mem s m)]

/-! ### Who stands where after a move -/

variable (hne : m.src ≠ m.dst)
include hne

theorem moveCore_dst : (s.moveCore m).core m.dst = ((s.readied m).core m.src).placedAt ((s.readied m).core m.dst) := by
  rw [moveCore_eq, State.exchanged, core_setCore_other _ _ _ _ hne.symm, core_setCore]

theorem moveCore_dst_context : ((s.moveCore m).core m.dst).context = (s.core m.src).context := by
  rw [moveCore_dst s m hne]
  exact (carries_readied s m).context

omit hne in
theorem moveCore_src : (s.moveCore m).core m.src = { ((s.readied m).core m.src).vacate with asid := some ((s.departed m).core m.src).asidN, scarf := some m.dst } := by
  rw [moveCore_eq, State.exchanged, core_setCore]

omit hne in
/-- The LCORE is the target's (R408). -/
theorem moveCore_lcore {asid : Nat} (hasid : (s.core m.src).asid = some asid) (hrun : s.running asid = true) :
    (s.moveCore m).lcoreCore asid (s.core m.src).lcore = some m.dst := by
  have hctx := (carries_departed s m).context
  simp only [Core.context, Prod.mk.injEq] at hctx
  obtain ⟨ha, hl, -⟩ := hctx
  have haN : ((s.departed m).core m.src).asidN = asid := by rw [Core.asidN, ha, hasid]; rfl
  have hpart : (((s.departed m).carried m).renamed m).running asid = true := by
    rw [(carries_renamed _ m m.src).running, (carries_carried _ m m.src).running, (carries_departed s m).running, hrun]
  change tget ((s.readied m).part asid).launch.lcores _ = _
  rw [State.readied, haN, part_modPart _ _ _ hpart, hl]
  exact tget_tput_same _ _ _

end Moved

/-- What stands at the target and at the source once a core has moved (R408). -/
theorem moveCore_arrives {s : State} {c target asid : Nat} (hne : c ≠ target) (htarget : target < 4608) (hasid : (s.core c).asid = some asid)
    (hrun : s.running asid = true) (hwf : Memory.wf s.mem = true) :
    let t := s.moveCore { src := c, dst := target }
    (t.core target).holds = true ∧ (t.core target).lcore = (s.core c).lcore ∧ (t.core target).asid = some asid ∧
      (t.core target).migrating = none ∧ (t.core c).holds = false ∧ (t.core c).scarf = some target ∧ t.lcoreCore asid (s.core c).lcore = some target ∧
      (∀ u, u < 5 → (t.thr target u).running = (s.thr c u).running ∧ (t.ctx target u).pc = (s.ctx c u).pc ∧ (t.ctx target u).x = (s.ctx c u).x) ∧
      (∀ off, off < 0x20000 → t.byteAt (scratchKey target off) = s.byteAt (scratchKey c off)) := by
  have hdst := moveCore_dst s { src := c, dst := target } hne
  have hsrc := moveCore_src s { src := c, dst := target }
  have hctx := moveCore_dst_context s { src := c, dst := target } hne
  simp only [Core.context, Prod.mk.injEq] at hctx
  obtain ⟨ha, hl, hthr⟩ := hctx
  refine ⟨congrArg Core.holds hdst, hl, ha.trans hasid, congrArg Core.migrating hdst, congrArg Core.holds hsrc, congrArg Core.scarf hsrc,
    moveCore_lcore s _ hasid hrun, fun u _ => ?_, fun off hoff => moveCore_scratch s _ hwf htarget hoff⟩
  have hseen := congrFun hthr u
  simp only [Thread.seen, Prod.mk.injEq] at hseen
  exact hseen

theorem coresMigrate : CoresMigrate := by
  unfold CoresMigrate
  intro s die asid lcore c target hdie hc htarget hne
  refine ⟨execCxcmdMigrate_of_absent, fun hrun hlc => ⟨execCxcmdMigrate_of_taken hrun hlc, execCxcmdMigrate_of_reserve hrun hlc htarget⟩,
    fun u => reachBoundary_of_free, fun u => reachBoundary_of_desched, ?_, fun hscarf hholds => ⟨fun m rest => execScarfForward_of_message hscarf hholds, fun hq => ?_⟩,
    execCxcmdClearScarf_of_none⟩
  · intro hmig hmoves hmd hasid hlcore hrun hwf
    subst hlcore
    exact ⟨execMigrationComplete_of_mustFinish hmig hmoves,
      fun hbad hfin => ⟨_, execMigrationComplete_of_arrived hmig hmoves hmd hbad hfin, moveCore_arrives hne htarget hasid hrun hwf⟩,
      execMigrationComplete_of_failed hmig hmoves hmd⟩
  · refine ⟨_, execCxcmdClearScarf_of_empty hscarf hq, ?_, fun off hoff => ?_⟩
    · rw [clearCore_scarf, core_modCore]
    · rw [scratchKey_add]
      exact byteAt_clearCore _ c hoff

/-- Settles O51: cores migrate with their contexts and storage, scarfs forward and are cleared, and double faults are saved and told. -/
theorem migrationAndDoubleFaults : Obligations.MigrationAndDoubleFaults := by
  unfold Obligations.MigrationAndDoubleFaults
  exact ⟨coresMigrate, systemCoresDoubleFault⟩

end Sys2Proof.Machine
end

section
namespace Sys2Proof.Machine

/-! ### The diagram space of the tests

The two longest computations of the text are the tests' witnesses for DDSWAP and for MakeNode. A replay of the text takes its declarations in the order of the
hashes of their names and keeps what it has allocated, so it needs the least memory when it meets these two first. The names here come first in that order, and
the proofs cite the two witnesses. -/

/-- The tests' diagram space has not used up its nodes. -/
theorem testSpace_nodes_le_limit : Tests.space.alloc ≤ Tests.space.limit := Tests.witness_swap.2.2.2

/-- The tests' diagram space takes requests, with space left. -/
theorem testDdSpace_takes_requests_with_space_left : DdReady Tests.diagram Tests.space ∧ Tests.space.alloc ≤ Tests.space.limit :=
  ⟨Tests.witness_make_node.1, testSpace_nodes_le_limit⟩

end Sys2Proof.Machine
end

section
namespace Sys2Proof.Machine

/-! ### An atomic engine's turn -/

/-- An engine that takes a request changes no byte. -/
theorem setHot_mem (s : State) (bay : Nat) (hot : List Nat) : (s.setHot bay hot).mem = s.mem := by
  unfold State.setHot
  dsimp only
  split
  · rfl
  · exact foldl_keeps State.mem _ (fun t l => correct_mem t l 64) _ s

@[simp] theorem ateTake_mem (s : State) (bay : Nat) (r : AteReq) : (s.ateTake bay r).mem = s.mem := setHot_mem _ _ _

section Turn

variable {s : State} {bay : Nat} {r : AteReq} (h : s.atePick bay = some r)

include h

theorem execAteAccept_of_pick (hd : r.op.isDone = false) : execAteAccept bay s = .next ((s.ateTake bay r).atePerform r.op) := by
  simp [execAteAccept, State.ateTurn, h, hd]

theorem execDoneMessage_of_pick (hd : r.op.isDone = true) : execDoneMessage bay s = .next ((s.ateTake bay r).atePerform r.op) := by
  simp [execDoneMessage, State.ateTurn, h, hd]

end Turn

theorem wfield_zero (v : Word) (n : Nat) : wfield v 0 n = v.toNat % 2 ^ n := by simp [wfield, fieldOf_eq]

@[simp] theorem deliver_mem (s : State) (uid : Nat) (d : Reg) (v : Word) : (s.deliver uid d v).mem = s.mem := by
  unfold State.deliver
  split <;> rfl

theorem deliver_eq (s : State) (uid : Nat) (d : Reg) (v : Word) :
    s.deliver uid d v = if d = 0 then s else s.modUnit uid fun c => { c with producers := c.producers ++ [(d.toNat, v)] } := rfl

/-- A write of n bytes is read back, and every other byte stays, once the old value is on its way. -/
theorem readLe_deliver_writeLe {m : State} (hwf : Memory.wf m.mem = true) (k n v uid : Nat) (d : Reg) (old : Word) :
    ((m.writeLe k n v).deliver uid d old).readLe k n = v % 2 ^ (8 * n) := by
  rw [readLe_of_mem (deliver_mem _ uid d old), readLe_writeLe m k n v hwf, Nat.pow_mul]

theorem byteAt_deliver_writeLe_other {m : State} (hwf : Memory.wf m.mem = true) (k n v uid : Nat) (d : Reg) (old : Word) {j : Nat}
    (hj : j < k ∨ k + n ≤ j) : ((m.writeLe k n v).deliver uid d old).byteAt j = m.byteAt j := by
  rw [byteAt_of_mem (deliver_mem _ uid d old), byteAt_writeLe_other m k n v j hwf hj]

/-- Settles O8: the engine takes the request and performs it; what it writes is read back, and a delivered value is the unit's producer. -/
theorem atomicEnginesReadModifyWrite : Obligations.AtomicEnginesReadModifyWrite := by
  unfold Obligations.AtomicEnginesReadModifyWrite
  intro s bay fn n k opnd exp new uid d r hpick hn hwf w old x accepted returns extended writes
  have htaken (hloc : r.op.loc = k) : s.ateTake bay r = accepted := by rw [State.ateTake, hloc]
  have hmem : accepted.mem = s.mem := setHot_mem _ _ _
  have hold : accepted.readLe k n = old := readLe_of_mem hmem k n
  have hwf' : Memory.wf accepted.mem = true := by rw [hmem]; exact hwf
  have hwrites (v : Nat) : writes ((accepted.writeLe k n v).deliver uid d (if fn = 7 then BitVec.ofNat 64 old else extended)) v :=
    ⟨deliver_eq _ _ _ _, readLe_deliver_writeLe hwf' .., fun _ hj => (byteAt_deliver_writeLe_other hwf' k n v uid d _ hj).trans (byteAt_of_mem hmem _)⟩
  refine ⟨fun hop hfn => ?_, fun hop hfn => ?_⟩
  · rw [exec_ateAccept, execAteAccept_of_pick hpick (by rw [hop]; rfl), htaken (by rw [hop]; rfl), hop]
    refine ⟨_, rfl, ?_⟩
    simp only [State.atePerform, hold, wfield_zero]
    refine Eq.subst (motive := writes _) ?_ (hwrites (amoNew fn w old x))
    have hw : (w = 32) = (n = 4) := by simp only [w]; rcases hn with rfl | rfl <;> simp
    interval_cases fn <;> simp only [amoNew, hw]
  · rw [exec_ateAccept, execAteAccept_of_pick hpick (by rw [hop]; rfl), htaken (by rw [hop]; rfl), hop]
    refine ⟨_, rfl, fun he => ?_, fun he => ?_⟩
    · simp only [State.atePerform, hold, wfield_zero]
      rw [if_pos he]
      have := hwrites (new.toNat % 2 ^ w)
      rwa [hfn] at this
    · simp only [State.atePerform, hold, wfield_zero]
      rw [if_neg he]
      rfl

end Sys2Proof.Machine
end

section
namespace Sys2Proof.Machine

/-! ### Timed accesses at their homes -/

section Home

variable {s : State} {h : Nat} {a l : Timed}

/-- The home's buffers without what is due there (R116, R117). -/
def State.withoutDue (s : State) (h : Nat) : State :=
  s.modTimed h fun b => { b with stores := b.stores.filter fun x => !s.timedDue h x, loads := b.loads.filter fun x => !s.timedDue h x }

theorem execHomeTick_of_moving (hm : s.homeMoves h = true) : execHomeTick h s = .next s := by simp [execHomeTick, hm]

theorem execHomeTick_of_still (hm : s.homeMoves h = false) : execHomeTick h s = .next (s.runHome h true) := by simp [execHomeTick, hm]

theorem runHome_of_one (hb : (s.timedBuf h).stores ++ (s.timedBuf h).loads = [a]) (ha : s.timedDue h a = true) :
    s.runHome h true = (s.withoutDue h).applyTimed h a := by
  simp [State.runHome, hb, ha, sortLex, insertLex, State.withoutDue]

/-- Of one tick a load comes behind a store (R118). -/
theorem timedOrder_load_not_before_store (ha : a.store = true) (hl : l.store = false) (ht : a.tick = l.tick) :
    lexLt (s.timedOrder true l) (s.timedOrder true a) = false := by
  simp [State.timedOrder, lexLt, ha, hl, ht, b2n]

theorem runHome_of_pair (hs : (s.timedBuf h).stores = [a]) (hl : (s.timedBuf h).loads = [l]) (ha : a.store = true) (hll : l.store = false)
    (ht : a.tick = l.tick) (hda : s.timedDue h a = true) (hdl : s.timedDue h l = true) :
    s.runHome h true = ((s.withoutDue h).applyTimed h a).applyTimed h l := by
  have hsort : sortLex (s.timedOrder true) [a, l] = [a, l] := by
    simp [sortLex, insertLex, timedOrder_load_not_before_store ha hll ht]
  simp [State.runHome, hs, hl, hda, hdl, hsort, State.withoutDue]

section Entry

variable {h : Nat} {store : Bool}

theorem execStvaArrival_of_onTime (he : s.timedEntrant h true = some a) (ht : (s.enterTimed h a).onTime = true) :
    execStvaArrival h s = .next (s.modTimed h fun b => { b with incoming := b.incoming.erase a, stores := b.stores ++ [s.enterTimed h a] }) := by
  simp [execStvaArrival, he, ht]

theorem execStvaArrival_of_late (he : s.timedEntrant h true = some a) (ht : (s.enterTimed h a).onTime = false) :
    execStvaArrival h s =
      .next (((s.modTimed h fun b => { b with incoming := b.incoming.erase a }).runHome h true).applyTimed h (s.enterTimed h a)) := by
  simp [execStvaArrival, he, ht]

theorem execLdnbArrival_of_entrant (he : s.timedEntrant h false = some a) :
    execLdnbArrival h s = .next (s.modTimed h fun b => { b with incoming := b.incoming.erase a, loads := b.loads ++ [s.enterTimed h a] }) := by
  simp [execLdnbArrival, he]

end Entry

theorem execTwaitWake_of_reached {core thread : Nat} {t : Word} (hw : (s.ctx core thread).wait = .twait t)
    (hr : (s.thr core thread).running = true) (ht : t.toNat ≤ (s.gtime core).toNat) :
    execTwaitWake core thread s = .next (s.retireAt core thread ((s.ctx core thread).pc + 4)) := by
  simp [execTwaitWake, hw, hr, ht]

theorem applyTimed_of_held (hl : s.lineHeld a.loc = true) :
    s.applyTimed h a = (s.modTimed h fun b => { b with fwd := b.fwd ++ [a] }).ateSend a.rank (.timed a.loc a.order) := if_pos hl

theorem applyTimed_of_free (hl : s.lineHeld a.loc = false) :
    s.applyTimed h a = s.performTimed h a := by simp [State.applyTimed, hl]

theorem applyStva_of_good (hb : s.badPartly a.loc a.size = none) :
    s.applyStva a = (s.writeLe a.loc a.size (a.data.toNat % 2 ^ (8 * a.size))).sendOutcome a := by
  simp only [State.applyStva, hb, wfield_zero]

theorem performLdnb_of_own (hp : a.peer = none) (hb : s.badIn a.loc a.size = none) :
    s.performLdnb a = (((s.correct a.loc a.size).modCore ((s.correct a.loc a.size).holderOf a.core) fun k => k.countUnlocked a.unlocked).deliver
      a.uid a.reg (sext (s.readLe a.loc a.size) (8 * a.size))) := by
  simp only [State.performLdnb, hb, hp]

end Home

theorem homesPerformTimedAccesses : HomesPerformTimedAccesses := by
  unfold HomesPerformTimedAccesses
  intro s h a l arrived left
  refine ⟨fun he ht => execStvaArrival_of_onTime he ht, fun he ht => execStvaArrival_of_late he ht, fun he => execLdnbArrival_of_entrant he,
    fun hm => execHomeTick_of_moving hm, ?_, fun core thread t hw hr ht => execTwaitWake_of_reached hw hr ht, applyTimed_of_held, ?_,
    applyStva_of_good, ?_⟩
  · rintro b rfl hm
    rw [exec_homeTick, execHomeTick_of_still hm]
    exact ⟨fun hb ha => congrArg _ (runHome_of_one hb ha), fun hs hl ha hll ht hda hdl => congrArg _ (runHome_of_pair hs hl ha hll ht hda hdl)⟩
  · rintro hl u rfl
    exact applyTimed_of_free hl
  · rintro hp hb m rfl
    exact performLdnb_of_own hp hb

/-! ### Outcomes of timed stores -/

section Outcome

variable {s : State} {core : Nat} {o : StvaOutcome} {rest : List StvaOutcome}

/-- The mode under which a miss is counted (R126). -/
def State.missMode (s : State) (core : Nat) (a : Timed) : Nat :=
  if wfield a.dlmode 0 2 = 0 ∧ (s.launchOf core).deterministic then 1 else wfield a.dlmode 0 2

/-- The state once an outcome is taken: the unlocked bit is counted and the entry is done (R124, R127). -/
def State.outcomeTaken (s : State) (core : Nat) (a : Timed) (rest : List StvaOutcome) : State :=
  (s.modCore core fun k => ({ k with outcomes := rest } : Core).countUnlocked a.unlocked).setOp a.uid a.op 2 none

/-- The state once a miss is counted too (R126 to R128). -/
def State.missCounted (s : State) (core : Nat) (a : Timed) (rest : List StvaOutcome) : State :=
  (s.outcomeTaken core a rest).modCore core fun k =>
    k.countMiss a (s.missMode core a != 0) (s.missWaits (s.core core).asidN a.uid a.tid)

variable (h : (s.core core).outcomes = o :: rest)

include h

theorem execDeadlineOutcome_of_hit (hm : o.missed = false) : execDeadlineOutcome core s = .next (s.outcomeTaken core o.acc rest) := by
  simp [execDeadlineOutcome, h, hm, State.outcomeTaken]

theorem execDeadlineOutcome_of_miss (hm : o.missed = true) :
    execDeadlineOutcome core s = .next (if 2 ≤ s.missMode core o.acc
      then (s.missCounted core o.acc rest).raiseMiss (s.core core).asidN o.acc.uid o.acc.tid else s.missCounted core o.acc rest) := by
  simp only [execDeadlineOutcome, h, hm, Bool.not_true, Bool.false_eq_true, if_false]
  rfl

end Outcome

theorem deadlineOutcomesAreCounted : DeadlineOutcomesAreCounted := by
  unfold DeadlineOutcomesAreCounted
  intro s core o rest h a asid mode s1 s2
  have hmode : s.missMode core o.acc = mode := by simp only [State.missMode, wfield_zero]; rfl
  have hs2 : s.missCounted core o.acc rest = s2 := by simp only [State.missCounted, hmode]; rfl
  rw [exec_deadlineOutcome, ← hs2]
  refine ⟨execDeadlineOutcome_of_hit h, fun hm hlt => ?_, fun hm hge => ?_⟩ <;> rw [execDeadlineOutcome_of_miss h hm, hmode]
  · rw [if_neg (not_le.mpr hlt)]
  · rw [if_pos hge]

/-- Settles O10: homes by the cases of their steps, and outcomes by whether they are misses and in which mode. -/
theorem homesPerformTimedAccessesAndReportOutcomes : Obligations.HomesPerformTimedAccessesAndReportOutcomes :=
  ⟨homesPerformTimedAccesses, deadlineOutcomesAreCounted⟩

end Sys2Proof.Machine
end

section
namespace Sys2Proof.Machine

/-! ### A launch's settings, and the causes that wait for a task -/

theorem launch_modPart (s : State) (a b : Nat) (f : Partition → Partition) (hf : ∀ p, (f p).launch = p.launch) :
    ((s.modPart a f).part b).launch = (s.part b).launch := by
  by_cases hr : s.running a = true
  · by_cases hb : b = a
    · subst hb; rw [part_modPart s b f hr, hf]
    · rw [part_modPart_other s a b f hb]
  · have hr' : ¬ (tget s.parts a).isSome = true := hr
    rw [State.modPart, if_neg hr']

theorem launchOf_modPart (s : State) (a c : Nat) (f : Partition → Partition) (hf : ∀ p, (f p).launch = p.launch) :
    (s.modPart a f).launchOf c = s.launchOf c := by
  rw [State.launchOf, State.launchOf, modPart_core, launch_modPart s a _ f hf]

/-- A thread with no cause pending. -/
def Thread.calm (th : Thread) : Thread := { th with ctx := { th.ctx with pend := [] } }

/-- A state that differs, of memory and of one thread, in the thread's pending causes only. -/
structure AddsCauses (c u : Nat) (s t : State) : Prop where
  mem : t.mem = s.mem
  thread : (t.thr c u).calm = (s.thr c u).calm

section AddsCauses

variable {c u : Nat} {s t r : State}

theorem AddsCauses.refl (s : State) : AddsCauses c u s s := ⟨rfl, rfl⟩

theorem AddsCauses.trans (h : AddsCauses c u s t) (g : AddsCauses c u t r) : AddsCauses c u s r := ⟨g.mem.trans h.mem, g.thread.trans h.thread⟩

/-- Causes that a partition kept for a task become pending. -/
theorem addsCauses_pend (hu : u < 5) (s : State) (a : Nat) (f : Partition → Partition) (l : List Pending) :
    AddsCauses c u s ((s.modPart a f).modCtx c u fun x => { x with pend := x.pend ++ l }) where
  mem := modPart_mem s a f
  thread := by simp [State.thr, State.modCtx, Core.modCtx, hu, Thread.calm]

theorem addsCauses_takeGone (hu : u < 5) (s : State) (a : Nat) : AddsCauses c u s (s.takeGone a c u) := by
  unfold State.takeGone
  dsimp only
  split
  · exact .refl s
  · exact addsCauses_pend hu s a _ _

theorem addsCauses_takeMissed (hu : u < 5) (s : State) (a : Nat) : AddsCauses c u s (s.takeMissed a c u) := by
  unfold State.takeMissed
  dsimp only
  split
  · exact addsCauses_pend hu s a _ _
  · exact .refl s

theorem addsCauses_takeFaulted (hu : u < 5) (s : State) (a : Nat) : AddsCauses c u s (s.takeFaulted a c u) := by
  unfold State.takeFaulted
  dsimp only
  split
  · exact .refl s
  · exact addsCauses_pend hu s a _ _

theorem addsCauses_all (hu : u < 5) (s : State) (a : Nat) : AddsCauses c u s (((s.takeGone a c u).takeMissed a c u).takeFaulted a c u) :=
  ((addsCauses_takeGone hu s a).trans (addsCauses_takeMissed hu _ a)).trans (addsCauses_takeFaulted hu _ a)

end AddsCauses

/-! ### Starting the task of a peg -/

theorem place_mem (s : State) (c t : Nat) (x : Ctx) : (s.place c t x).mem = s.mem := rfl

theorem place_thr (s : State) (c : Nat) {t : Nat} (ht : t < 5) (x : Ctx) :
    ((s.place c t x).thr c t).running = true ∧ ((s.place c t x).thr c t).ctx = { x with deqt := s.gtime c } := by
  unfold State.place
  dsimp only
  rw [thr_modThr _ _ _ _ ht]
  exact ⟨rfl, rfl⟩

theorem unpark_mem (s : State) (a tid : Nat) : (s.unpark a tid).2.mem = s.mem := by
  unfold State.unpark
  split
  · exact modPart_mem s a _
  · rfl

theorem unpark_launchOf (s : State) (a tid c : Nat) : (s.unpark a tid).2.launchOf c = s.launchOf c := by
  unfold State.unpark
  split
  · exact launchOf_modPart s a c _ fun _ => rfl
  · rfl

/-- A unit of work has its words in x1 to x5 (R164, R165). -/
theorem start_arg (l : Launch) (uid : Nat) (kind : UnitKind) (pc w1 w2 : Word) (args : List Word) (tmpl : BitVec 16) {i : Nat}
    (h1 : 1 ≤ i) (h5 : i ≤ 5) : vget (Ctx.start l uid kind pc w1 w2 args tmpl).x i 0 = nth 0 args (i - 1) := by
  have hlist : upTo 5 = [0, 1, 2, 3, 4] := rfl
  simp only [Ctx.start, hlist, List.foldl_cons, List.foldl_nil]
  interval_cases i <;> simp [vget_vset_other]

theorem isFull_of_reset {x : Ctx} (h : x.full = Ctx.reset.full) (r : Reg) : x.isFull r = true := by
  have hr : r.toNat < 64 := r.isLt
  simp [Ctx.isFull, h, Ctx.reset, vget, hr]

theorem nth_drop_words (p : Peg) {i : Nat} (h : i < 5) : nth 0 (p.w.toList.drop 3) i = vget p.w (i + 3) 0 := by
  have h8 : i + 3 < 8 := by omega
  simp [nth, vget, h8, Nat.add_comm 3 i]

/-- The unit that a peg starts as (R164, R165). -/
def Started (l : Launch) (p : Peg) (x : Ctx) : Prop :=
  x.pc = vget p.w 0 0 ∧ x.w1 = vget p.w 1 0 ∧ x.w2 = vget p.w 2 0 ∧ (∀ i, 1 ≤ i → i ≤ 5 → vget x.x i 0 = vget p.w (i + 2) 0) ∧
    x.fctl = l.fctl0 ∧ x.warn = l.warn0 ∧ ∀ r, x.isFull r = true

/-- The context of a peg's task. -/
def Peg.unit (p : Peg) (l : Launch) (uid : Nat) (kind : UnitKind) (snaps : Vector (Option Snap) 4) : Ctx :=
  { Ctx.start l uid kind (vget p.w 0 0) (vget p.w 1 0) (vget p.w 2 0) (p.w.toList.drop 3) (BitVec.ofNat 16 (wfield (vget p.w 1 0) 48 16)) with
    snaps := snaps, enqt := p.enqt, enqLcore := p.enqLcore, stolen := p.stolen }

theorem started_unit (l : Launch) (p : Peg) (uid : Nat) (kind : UnitKind) (snaps : Vector (Option Snap) 4) : Started l p (p.unit l uid kind snaps) := by
  refine ⟨rfl, rfl, rfl, fun i h1 h5 => ?_, rfl, rfl, isFull_of_reset rfl⟩
  rw [Peg.unit, start_arg _ _ _ _ _ _ _ _ h1 h5, nth_drop_words p (by omega), show i - 1 + 3 = i + 2 by omega]

/-- With no reserved bit in word 1 the thread runs the peg's task, and no byte changes. -/
theorem startTask_starts (s : State) (c : Nat) {t : Nat} (ht : t < 5) (p : Peg) (hw : (vget p.w 1 0).toNat < 2 ^ 58) (hd : p.sdom < 4) :
    ((s.startTask c t p).thr c t).running = true ∧ Started (s.launchOf c) p ((s.startTask c t p).ctx c t) ∧ (s.startTask c t p).mem = s.mem := by
  have hrsv : wfield (vget p.w 1 0) 58 6 = 0 := by rw [wfield, fieldOf_eq, Nat.div_eq_of_lt hw, Nat.zero_mod]
  have hgo : ¬ (wfield (vget p.w 1 0) 58 6 ≠ 0 ∨ 4 ≤ p.sdom) := by omega
  unfold State.startTask
  dsimp only
  rw [if_neg hgo, unpark_launchOf]
  generalize hx : ({ Ctx.start _ _ _ _ _ _ _ _ with snaps := _, enqt := _, enqLcore := _, stolen := _ } : Ctx) = x
  have hstarted : Started (s.launchOf c) p x := by rw [← hx]; exact started_unit ..
  generalize hr : (State.unpark _ _ _).2 = r
  have hmem : r.mem = s.mem := by rw [← hr]; exact unpark_mem ..
  have hadds := addsCauses_all (c := c) ht (r.place c t x) (s.core c).asidN
  generalize ((State.takeGone _ _ _ _).takeMissed _ _ _).takeFaulted _ _ _ = e at hadds
  obtain ⟨hrun, hctx⟩ := place_thr r c ht x
  have hthread := hadds.thread
  refine ⟨(congrArg Thread.running hthread).trans hrun, ?_, hadds.mem.trans hmem⟩
  have hcalm : { e.ctx c t with pend := [] } = { x with deqt := r.gtime c, pend := [] } := by
    have h1 := congrArg Thread.ctx hthread
    rw [Thread.calm, Thread.calm, hctx] at h1
    exact h1
  exact (hcalm ▸ hstarted : Started (s.launchOf c) p { e.ctx c t with pend := [] })

/-! ### Idle threads -/

section Idle

variable {s : State} {core thread : Nat} (hm : s.mayTake core thread = true)

include hm

theorem execTakeWork_of_ready {e : ReadyEntry} (he : (s.core core).firstReady = some e)
    (hd : (s.core core).deque = [] ∨ ∃ p r, (s.core core).deque = p :: r ∧ p.pri ≤ (s.core core).urgency e.item) :
    execTakeWork core thread s = .next ((s.takeReady core thread e).dropPull core) := by
  rcases hd with hd | ⟨p, r, hd, hle⟩
  · simp [execTakeWork, State.takeWork, hm, he, hd]
  · simp [execTakeWork, State.takeWork, hm, he, hd, not_lt.mpr hle]

theorem execTakeWork_of_peg {p : Peg} {r : List Peg} (hd : (s.core core).deque = p :: r)
    (he : ∀ e, (s.core core).firstReady = some e → (s.core core).urgency e.item < p.pri) :
    execTakeWork core thread s = .next (s.popPeg core thread p) := by
  cases hf : (s.core core).firstReady with
  | none => simp [execTakeWork, State.takeWork, hm, hf, hd]
  | some e => simp [execTakeWork, State.takeWork, hm, hf, hd, he e hf]

/-- A thief takes the oldest peg that it may (R168, R169). -/
theorem execSteal_of_oldest {victim : Nat} {p : Peg} {r : List Peg} (hdet : (s.launchOf core).deterministic = false)
    (hready : (s.core core).ready = []) (hdeque : (s.core core).deque = []) (hne : victim ≠ core) (hasid : (s.core victim).asid = (s.core core).asid)
    (hold : takeOldest (fun q => q.stealable victim core) (s.core victim).deque = some (p, r)) :
    execSteal core thread victim s = .next ((((((s.fetchPeg victim p).2.modCore victim fun k => { k with deque := r }).settleDeque victim).modCore core fun k =>
      { k with stealOk := satN 64 (k.stealOk + 1) }).startTask core thread { (s.fetchPeg victim p).1 with stolen := true }).dropPull core) := by
  have hgo : ¬ (!s.mayTake core thread || (s.launchOf core).deterministic || !(s.core core).ready.isEmpty || !(s.core core).deque.isEmpty) = true := by
    simp [hm, hdet, hready, hdeque]
  have hother : ¬ (victim = core ∨ (s.core victim).asid ≠ (s.core core).asid) := by simp [hne, hasid]
  simp only [execSteal, State.stealFrom, if_neg hgo, if_neg hother, hold]

end Idle

theorem idleThreadsTakeWork : IdleThreadsTakeWork := by
  unfold IdleThreadsTakeWork
  intro s core thread victim hm k read newest
  refine ⟨fun e he hd => execTakeWork_of_ready hm he (.inl hd), fun e p r he hd hle => execTakeWork_of_ready hm he (.inr ⟨p, r, hd, hle⟩),
    fun e p r he hd hlt => ?_, fun p r he hd => ?_, fun p r hdet hready hdeque hne hasid hold => execSteal_of_oldest hm hdet hready hdeque hne hasid hold,
    fun p ht hw hd => ?_⟩
  · refine execTakeWork_of_peg hm hd fun e' he' => ?_
    rw [he] at he'
    exact Option.some.inj he' ▸ hlt
  · refine execTakeWork_of_peg hm hd fun e' he' => ?_
    rw [he] at he'
    cases he'
  · obtain ⟨hrun, ⟨hpc, hw1, hw2, hargs, hfctl, hwarn, hfull⟩, hmem⟩ := startTask_starts s core ht p hw hd
    exact ⟨hrun, hpc, hw1, hw2, hargs, hfctl, hwarn, hfull, hmem⟩

/-! ### Done messages and wakes -/

section Done

variable {s : State} {k tid asid w : Nat} {status : Word}

theorem doneAt_of_bad (h : s.badIn k 16 ≠ none) :
    s.doneAt k status tid asid w = (s.logRange k 16).notice (keyDie k) .eccunc asid 0 tid := by
  obtain ⟨g, hg⟩ := Option.ne_none_iff_exists'.mp h
  simp only [State.doneAt, hg]

theorem doneAt_of_spent (hb : s.badIn k 16 = none) (hc : (s.correct k 16).contribute k status w = none) :
    s.doneAt k status tid asid w = (s.correct k 16).notice (keyDie k) .joinbad asid 0 tid := by
  simp only [State.doneAt, hb, hc]

theorem doneAt_of_counted {t : State} (hb : s.badIn k 16 = none) (hc : (s.correct k 16).contribute k status w = some t) :
    s.doneAt k status tid asid w = t := by
  simp only [State.doneAt, hb, hc]

theorem contribute_of_zero (h : s.readLe k 8 = 0) : s.contribute k status w = none := by simp [State.contribute, h]

theorem contribute_of_count (h : s.readLe k 8 ≠ 0) : ∃ t, s.contribute k status w = some t := by simp [State.contribute, h]

end Done

section Wake

variable {s : State} {core slot : Nat} {j : JoinSlot} {v : Word}

/-- The peg of a join slot with the value of its wake (R261). -/
def JoinSlot.woken (j : JoinSlot) (v now : Word) : Peg :=
  { j.peg with w := if 1 ≤ j.dest.toNat ∧ j.dest.toNat ≤ 5 then vset j.peg.w (j.dest.toNat + 2) v else j.peg.w, enqt := now }

theorem wakeJoin_of_value (hj : tget (s.core core).joins slot = some j) (hv : j.value = some v) :
    s.wakeJoin core slot =
      (s.modCore core fun k => { k with joins := tdel k.joins slot }).readyItem core (s.gtime core) (.peg (j.woken v (s.gtime core))) := by
  simp only [State.wakeJoin, hj, hv]
  rfl

variable (hr : (s.core core).receives = true) (hd : (s.launchOf core).deterministic = false)

include hr hd

theorem execJoinWake_of_receiving : execJoinWake core slot s = .next (s.wakeJoin core slot) := by simp [execJoinWake, hr, hd]

theorem execBarrierWake_of_receiving : execBarrierWake core slot s = .next (s.wakeJoin core slot) := by simp [execBarrierWake, hr, hd]

end Wake

theorem doneMessagesAndWakesArrive : DoneMessagesAndWakesArrive := by
  unfold DoneMessagesAndWakesArrive
  intro s bay k tid asid w core slot r rec status j v m value woken
  refine ⟨fun hpick hop => ?_, fun hr hd hj hv => ?_⟩
  · have htaken : s.ateTake bay r = m := by rw [State.ateTake, hop]; rfl
    have hrun : exec (.doneMessage bay) s = .next (m.doneAt k status tid asid w) := by
      rw [exec_doneMessage, execDoneMessage_of_pick hpick (by rw [hop]; rfl), htaken, hop]
      rfl
    have hread : (m.correct k 16).readLe k 8 = s.readLe k 8 := readLe_of_mem ((correct_mem m k 16).trans (setHot_mem _ _ _)) k 8
    rw [hrun, ← hread]
    refine ⟨fun hb => congrArg _ (doneAt_of_bad hb), fun hb => ⟨fun h0 => congrArg _ (doneAt_of_spent hb (contribute_of_zero h0)), fun h0 => ?_⟩⟩
    obtain ⟨t, ht⟩ := contribute_of_count (status := status) (w := w) h0
    exact ⟨t, congrArg _ (doneAt_of_counted hb ht), ht⟩
  · rw [exec_joinWake, exec_barrierWake, execJoinWake_of_receiving hr hd, execBarrierWake_of_receiving hr hd, wakeJoin_of_value hj hv]
    exact ⟨rfl, rfl⟩

/-- Settles O24: idle threads by what their core has to do, done messages by the record's count, and wakes by the value in their join slot. -/
theorem idleThreadsTakeWorkAndWakesArrive : Obligations.IdleThreadsTakeWorkAndWakesArrive := ⟨idleThreadsTakeWork, doneMessagesAndWakesArrive⟩

end Sys2Proof.Machine
end

section
namespace Sys2Proof.Machine

/-! ### Where a core stands -/

/-- The launch of a core, its LCORE, whether it holds it, and which of its threads run. -/
def Core.place (k : Core) : Option Nat × Nat × Bool × (Nat → Bool) := (k.asid, k.lcore, k.holds, fun u => (k.thr u).running)

theorem Core.updated_place (uid : Nat) (f : Ctx → Ctx) (k : Core) : (k.updated uid f).place = k.place := by
  have hrun : (fun u => ((k.updated uid f).thr u).running) = fun u => (k.thr u).running := funext fun u => by
    refine vget_map_keeps Thread.running _ (fun th => ?_) k.threads u Thread.reset
    unfold Thread.updated
    split <;> rfl
  rw [Core.place, hrun]
  rfl

theorem Core.join_place (k : Core) (asid : Nat) (l : Option Nat) (slott : Word) (cycle : Nat) :
    (k.join asid l slott cycle).place = (some asid, l.getD 0, l.isSome, fun _ => false) := by
  have hidle : (fun u => (Core.reset.thr u).running) = fun _ => false := funext fun u => by
    unfold Core.thr vget
    split
    · simp [Core.reset, Thread.reset]
    · rfl
  have hthr : (fun u => ((k.join asid l slott cycle).thr u).running) = fun u => (Core.reset.thr u).running := rfl
  rw [Core.place, hthr, hidle]
  rfl

/-! ### What clearing storage leaves -/

/-- A step that clears storage: cores stay where they are, launches go on with the settings they had, no request comes or goes, and no byte is listed anew. -/
structure Clears (s t : State) : Prop where
  place : ∀ c, (t.core c).place = (s.core c).place
  launch : ∀ a, (t.part a).launch = (s.part a).launch
  running : ∀ a, t.running a = s.running a
  reqs : t.pkg.launchReqs = s.pkg.launchReqs
  mem : ∀ d ∈ t.mem, d ∈ s.mem

namespace Clears

variable {s t u : State}

theorem refl (s : State) : Clears s s := ⟨fun _ => rfl, fun _ => rfl, fun _ => rfl, rfl, fun _ h => h⟩

theorem trans (h : Clears s t) (g : Clears t u) : Clears s u where
  place c := (g.place c).trans (h.place c)
  launch a := (g.launch a).trans (h.launch a)
  running a := (g.running a).trans (h.running a)
  reqs := g.reqs.trans h.reqs
  mem d hd := h.mem d (g.mem d hd)

theorem foldl {α : Type} (f : State → α → State) (h : ∀ s a, Clears s (f s a)) (l : List α) (s : State) : Clears s (l.foldl f s) := by
  induction l generalizing s with
  | nil => exact refl s
  | cons a r ih => exact (h s a).trans (ih (f s a))

end Clears

theorem launch_afterWrite (s : State) (k n a : Nat) : ((s.afterWrite k n).part a).launch = (s.part a).launch := by
  have hdeps : ∀ t : State, ((t.readyDeps k n).part a).launch = (t.part a).launch := fun t => by
    refine foldl_keeps (fun u => (u.part a).launch) _ (fun u d => ?_) _ t
    exact launch_modPart _ d.2.1 a _ fun _ => rfl
  have hwatch : ∀ t : State, (t.fireWatches k n).part a = t.part a := fun t => by
    unfold State.fireWatches
    split
    · rfl
    · refine foldl_keeps (fun u => u.part a) _ (fun u x => ?_) _ t
      rfl
  rw [State.afterWrite, hdeps, hwatch, State.repair]
  split <;> rfl

theorem clears_zeroRange (s : State) (k n : Nat) : Clears s (s.zeroRange k n) where
  place c := core_zeroRange_keeps Core.place (fun uid f k _ => Core.updated_place uid f k) s k n c
  launch a := by
    unfold State.zeroRange
    split
    · rfl
    · exact launch_afterWrite _ k n a
  running a := by
    unfold State.zeroRange
    split
    · rfl
    · exact running_afterWrite _ k n a
  reqs := by
    unfold State.zeroRange
    split
    · rfl
    · exact congrArg Pkg.launchReqs (settles_afterWrite _ k n).pkg
  mem _ h := (mem_of_mem_zeroRange h).1

theorem clears_clearCore (s : State) (c : Nat) : Clears s (s.clearCore c) := (clears_zeroRange _ _ _).trans (clears_zeroRange _ _ _)

theorem clears_clearShare (s : State) (bay : Nat) (e : Share) : Clears s (s.clearShare bay e) := (clears_zeroRange _ _ _).trans (clears_zeroRange _ _ _)

theorem clears_modPkg (s : State) (f : Pkg → Pkg) (hf : (f s.pkg).launchReqs = s.pkg.launchReqs) : Clears s (s.modPkg f) :=
  ⟨fun _ => rfl, fun _ => rfl, fun _ => rfl, hf, fun _ h => h⟩

/-- The cores whose storage is cleared have no byte of their scratchpads listed. -/
theorem clearCores_unlisted {c off : Nat} (hoff : off < 0x20000) (l : List Nat) (s : State) (hc : c ∈ l) :
    ∀ d ∈ (l.foldl State.clearCore s).mem, d.1 ≠ scratchKey c off := by
  induction l generalizing s with
  | nil => cases hc
  | cons b r ih =>
    intro d hd
    by_cases hr : c ∈ r
    · exact ih (s.clearCore b) hr d hd
    · obtain rfl : c = b := (List.mem_cons.mp hc).resolve_right hr
      have hmem := (Clears.foldl State.clearCore clears_clearCore r (s.clearCore c)).mem d hd
      obtain ⟨hscratch, -⟩ := mem_of_mem_zeroRange hmem
      obtain ⟨-, hout⟩ := mem_of_mem_zeroRange hscratch
      rw [scratchKey_add]
      omega

/-! ### Cores that are changed one after another -/

section Cores

variable {α : Type} (g : α → Nat) (f : State → α → Core → Core)

theorem core_foldl_modCore_other {c : Nat} (l : List α) (s : State) (hc : c ∉ l.map g) :
    (l.foldl (fun s e => s.modCore (g e) (f s e)) s).core c = s.core c := by
  induction l generalizing s with
  | nil => rfl
  | cons a r ih =>
    rw [List.map_cons, List.mem_cons, not_or] at hc
    rw [List.foldl_cons, ih _ hc.2, core_modCore_other _ _ _ _ hc.1]

theorem core_foldl_modCore {e : α} (l : List α) (s : State) (he : e ∈ l) (hl : (l.map g).Nodup) :
    ∃ t k, (l.foldl (fun s e => s.modCore (g e) (f s e)) s).core (g e) = f t e k := by
  induction l generalizing s with
  | nil => cases he
  | cons a r ih =>
    rw [List.map_cons, List.nodup_cons] at hl
    rcases List.mem_cons.mp he with rfl | hr
    · exact ⟨s, s.core (g e), by rw [List.foldl_cons, core_foldl_modCore_other g f r _ hl.1, core_modCore]⟩
    · exact ih _ hr hl.2

end Cores

/-! ### The start of a launch -/

/-- The LCOREs of a request's cores. -/
def LaunchReq.lcores (r : LaunchReq) : Tbl Nat := (upTo r.cores.length).zip r.cores

theorem LaunchReq.lcores_cores (r : LaunchReq) : r.lcores.map Prod.snd = r.cores := by
  simp [LaunchReq.lcores, upTo, List.map_snd_zip]

theorem tget_zip_range' {α : Type} (l : List α) (i n : Nat) (h : i < l.length) (d : α) : tget ((List.range' n l.length).zip l) (n + i) = some (l.getD i d) := by
  induction l generalizing i n with
  | nil => cases h
  | cons a r ih =>
    rw [List.length_cons, List.range'_succ, List.zip_cons_cons, tget]
    cases i with
    | zero => simp
    | succ i =>
      have hi : i < r.length := by simpa using h
      rw [if_neg (by omega), show n + (i + 1) = (n + 1) + i by omega, ih i (n + 1) hi]
      rfl

theorem LaunchReq.tget_lcores (r : LaunchReq) {l : Nat} (h : l < r.cores.length) : tget r.lcores l = some (r.cores.getD l 0) := by
  have hzip := tget_zip_range' r.cores l 0 h 0
  rwa [Nat.zero_add, ← List.range_eq_range'] at hzip

/-- The cores of a request: each with its LCORE, those of reserve bents with none. -/
def LaunchReq.seats (r : LaunchReq) : List (Option Nat × Nat) := (r.lcores.map fun p => (some p.1, p.2)) ++ r.spares.map fun c => (none, c)

theorem LaunchReq.seats_cores (r : LaunchReq) : r.seats.map Prod.snd = r.cores ++ r.spares := by
  have hcores := r.lcores_cores
  simp only [LaunchReq.seats, List.map_append, List.map_map, Function.comp_def, List.map_id']
  rw [hcores]

theorem LaunchReq.seat_of_lcore (r : LaunchReq) {l : Nat} (h : l < r.cores.length) : (some l, r.cores.getD l 0) ∈ r.seats :=
  List.mem_append_left _ (List.mem_map_of_mem (f := fun p => (some p.1, p.2)) (mem_of_tget (r.tget_lcores h)))

theorem LaunchReq.seat_of_spare (r : LaunchReq) {c : Nat} (h : c ∈ r.spares) : (none, c) ∈ r.seats := List.mem_append_right _ (List.mem_map_of_mem h)

/-- A core takes its seat in a launch. -/
def State.seat (r : LaunchReq) (s : State) (e : Option Nat × Nat) : State :=
  s.modCore e.2 fun k => k.join r.asid e.1 (if r.launch.deterministic then 0 else r.slott) s.cycle

/-- A launch's partition is there and its cores have joined it; nothing is cleared yet (R372). -/
def State.joined (s : State) (r : LaunchReq) : State := r.seats.foldl (State.seat r) { s with parts := tput s.parts r.asid (r.partition s.cycle) }

section Joined

variable (s : State) (r : LaunchReq)

theorem joined_parts : (s.joined r).parts = tput s.parts r.asid (r.partition s.cycle) := by
  rw [State.joined]
  exact foldl_keeps State.parts (State.seat r) (fun _ _ => rfl) _ _

theorem joined_pkg : (s.joined r).pkg = s.pkg := by
  rw [State.joined]
  exact foldl_keeps State.pkg (State.seat r) (fun _ _ => rfl) _ _

theorem joined_part : (s.joined r).part r.asid = r.partition s.cycle := by
  rw [State.part, joined_parts, tgetD_tput_same]

theorem joined_running : (s.joined r).running r.asid = true := by
  simp [State.running, joined_parts]

theorem joined_place (hnodup : (r.cores ++ r.spares).Nodup) {e : Option Nat × Nat} (he : e ∈ r.seats) :
    ((s.joined r).core e.2).place = (some r.asid, e.1.getD 0, e.1.isSome, fun _ => false) := by
  obtain ⟨t, k, hk⟩ := core_foldl_modCore Prod.snd (fun s e k => k.join r.asid e.1 (if r.launch.deterministic then 0 else r.slott) s.cycle) r.seats
    { s with parts := tput s.parts r.asid (r.partition s.cycle) } he (by rwa [r.seats_cores])
  have hcore : (s.joined r).core e.2 = _ := hk
  rw [hcore, Core.join_place]

end Joined

/-- The storage of a launch's cores, its shares and its ranges of HBM are cleared (R55, R372). -/
def State.clearStorage (s : State) (r : LaunchReq) : State :=
  r.clear.foldl (fun s e => s.zeroRange (hbmKey e.1) e.2)
    (r.launch.shares.foldl (fun s e => s.clearShare e.1 e.2) ((r.cores ++ r.spares).foldl State.clearCore s))

/-- The code of a privileged launch is measured (R433). -/
def State.measureCode (s : State) (r : LaunchReq) : State := if r.launch.privileged then s.modPkg fun p => p.extend 3 r.code else s

/-- A recording starts anew. -/
def State.dropResume (s : State) (r : LaunchReq) : State :=
  if wfield r.rplctl 62 2 = 1 then s.modPkg fun p => { p with resumes := tdel p.resumes (r.rplbase.toNat / 4096) } else s

/-- What a launch without a diagram space does once its cores have joined. -/
def State.readyStorage (s : State) (r : LaunchReq) : State := ((s.clearStorage r).measureCode r).dropResume r

theorem startLaunch_eq (s : State) (r : LaunchReq) (hdd : r.diagram = 0) : s.startLaunch r = (s.joined r).readyStorage r := by
  have hjoined : s.joined r = r.spares.foldl (fun s c => State.seat r s (none, c))
      (r.lcores.foldl (fun s p => State.seat r s (some p.1, p.2)) { s with parts := tput s.parts r.asid (r.partition s.cycle) }) := by
    rw [State.joined, LaunchReq.seats, List.foldl_append, List.foldl_map, List.foldl_map]
  unfold State.startLaunch
  rw [hjoined]
  exact if_pos hdd

theorem clears_measureCode (s : State) (r : LaunchReq) : Clears s (s.measureCode r) := by
  unfold State.measureCode
  split
  · exact clears_modPkg s (fun p => p.extend 3 r.code) (by rw [Pkg.extend])
  · exact .refl s

theorem clears_dropResume (s : State) (r : LaunchReq) : Clears s (s.dropResume r) := by
  unfold State.dropResume
  split
  · exact clears_modPkg s _ rfl
  · exact .refl s

theorem clears_clearShares (s : State) (l : Tbl Share) : Clears s (l.foldl (fun s e => s.clearShare e.1 e.2) s) := by
  refine Clears.foldl _ (fun t e => ?_) l s
  exact clears_clearShare t e.1 e.2

theorem clears_clearHbm (s : State) (l : List (Nat × Nat)) : Clears s (l.foldl (fun s e => s.zeroRange (hbmKey e.1) e.2) s) :=
  .foldl (fun s e => s.zeroRange (hbmKey e.1) e.2) (fun s e => clears_zeroRange s (hbmKey e.1) e.2) l s

theorem clearStorage_clears (s : State) (r : LaunchReq) : Clears ((r.cores ++ r.spares).foldl State.clearCore s) (s.clearStorage r) := by
  unfold State.clearStorage
  exact (clears_clearShares _ _).trans (clears_clearHbm _ _)

/-- Once the storage of the cores is clear, a starting launch clears more. -/
theorem readyStorage_clears (s : State) (r : LaunchReq) : Clears ((r.cores ++ r.spares).foldl State.clearCore s) (s.readyStorage r) :=
  (clearStorage_clears s r).trans ((clears_measureCode (s.clearStorage r) r).trans (clears_dropResume ((s.clearStorage r).measureCode r) r))

theorem clears_readyStorage (s : State) (r : LaunchReq) : Clears s (s.readyStorage r) := (Clears.foldl State.clearCore clears_clearCore _ s).trans (readyStorage_clears s r)

theorem readyStorage_scratch (s : State) (r : LaunchReq) {c off : Nat} (hc : c ∈ r.cores) (hoff : off < 0x20000) : (s.readyStorage r).byteAt (scratchKey c off) = 0 :=
  memGet_of_unlisted _ _ fun d hd => clearCores_unlisted hoff _ s (List.mem_append_left _ hc) d ((readyStorage_clears s r).mem d hd)

end Sys2Proof.Machine
end

section
namespace Sys2Proof.Machine

/-! ### The end of a launch -/

theorem tget_tdel_other {α : Type} (t : Tbl α) {k j : Nat} (h : j ≠ k) : tget (tdel t k) j = tget t j := by
  induction t with
  | nil => rfl
  | cons p r ih =>
    obtain ⟨i, a⟩ := p
    rw [tdel]
    split
    · rename_i hi
      rw [tget, if_neg (by omega)]
    · rw [tget, tget, ih]

/-- Nothing of a launch is left: no core is its, none of its contexts lies in a slot, nothing is held for it; every other launch that ran runs. -/
structure Gone (asid : Nat) (s t : State) : Prop where
  cores : ∀ c, (t.core c).asid ≠ some asid
  others : ∀ a, a ≠ asid → (tget t.parts a).isSome = (tget s.parts a).isSome
  slots : ∀ d, d < 4 → ∀ e ∈ (t.die d).slots, e.2.asid ≠ asid
  held : ∀ d, d < 4 → ∀ h ∈ (t.die d).held, h.asid ≠ asid

theorem dropDds_running (s : State) (asid a : Nat) : (s.dropDds asid).running a = s.running a := by
  unfold State.dropDds
  split
  · rfl
  · exact running_modPart _ _ _ _

theorem dropDds_pkg (s : State) (asid : Nat) : (s.dropDds asid).pkg = s.pkg := by
  unfold State.dropDds
  split
  · rfl
  · exact modPart_pkg _ _ _

theorem die_of_map {s t : State} {f : Die → Die} (h : t.dies = s.dies.map f) {d : Nat} (hd : d < 4) : t.die d = f (s.die d) := by
  simp [State.die, h, vget, hd]

/-- A launch that leaves leaves nothing (R413). -/
theorem removeLaunch_gone (s : State) (asid : Nat) : Gone asid s (s.removeLaunch asid) where
  cores c := by
    have hcore : (s.removeLaunch asid).core c = ((tget (s.dropDds asid).cores c).map fun k => if k.asid = some asid then k.vacate else k).getD Core.reset :=
      congrArg (·.getD Core.reset) (tget_tmap (s.dropDds asid).cores (fun _ k => if k.asid = some asid then k.vacate else k) c)
    rw [hcore]
    cases tget (s.dropDds asid).cores c with
    | none => simp [Core.reset]
    | some k =>
      by_cases hk : k.asid = some asid
      · simp [hk, Core.vacate, Core.reset]
      · simp [hk]
  others a ha := by
    have hparts : (s.removeLaunch asid).parts = tdel (s.dropDds asid).parts asid := rfl
    rw [hparts, tget_tdel_other _ ha]
    exact dropDds_running s asid a
  slots d hd e he := by
    rw [die_of_map (t := s.removeLaunch asid) rfl hd] at he
    simpa using (List.mem_filter.mp he).2
  held d hd h hh := by
    rw [die_of_map (t := s.removeLaunch asid) rfl hd] at hh
    simpa using (List.mem_filter.mp hh).2

theorem removeLaunch_hostOut (s : State) (asid : Nat) : (s.removeLaunch asid).pkg.hostOut = s.pkg.hostOut := by
  have hkeep : (s.removeLaunch asid).pkg.hostOut = (s.dropDds asid).pkg.hostOut := rfl
  rw [hkeep, dropDds_pkg]

theorem Gone.modPkg {asid : Nat} {s t : State} (h : Gone asid s t) (f : Pkg → Pkg) : Gone asid s (t.modPkg f) := ⟨h.cores, h.others, h.slots, h.held⟩

/-! ### The HALT that decides -/

theorem lexLt_irrefl (l : List Nat) : lexLt l l = false := by
  induction l with
  | nil => rfl
  | cons a r ih => simp [lexLt, ih]

theorem lexLt_asymm {l m : List Nat} (h : lexLt l m = true) : lexLt m l = false := by
  induction l generalizing m with
  | nil => cases m <;> rfl
  | cons a r ih =>
    cases m with
    | nil => cases h
    | cons b q =>
      simp only [lexLt, Bool.or_eq_true, decide_eq_true_eq, Bool.and_eq_true, beq_iff_eq] at h
      rcases h with hlt | ⟨rfl, hr⟩
      · simp [lexLt]
        omega
      · simp [lexLt, ih hr]

section Sorted

variable {α : Type} (f : α → List Nat)

theorem mem_insertLex {a b : α} {l : List α} (h : b ∈ insertLex f a l) : b = a ∨ b ∈ l := by
  induction l with
  | nil => exact List.mem_cons.mp h
  | cons c r ih =>
    rw [insertLex] at h
    split at h
    · exact List.mem_cons.mp h
    · rcases List.mem_cons.mp h with rfl | hr
      · exact .inr List.mem_cons_self
      · exact (ih hr).imp_right (List.mem_cons_of_mem _)

variable {h : α}

/-- An element that precedes all others comes first when it is inserted. -/
theorem head_insertLex_least {l : List α} (hl : ∀ b ∈ l, b ≠ h → lexLt (f h) (f b) = true) : (insertLex f h l).head? = some h := by
  cases l with
  | nil => rfl
  | cons b r =>
    rw [insertLex]
    by_cases hb : b = h
    · subst hb
      rw [lexLt_irrefl, if_neg Bool.false_ne_true, List.head?_cons]
    · rw [if_pos (hl b List.mem_cons_self hb), List.head?_cons]

/-- It stays first when another is inserted. -/
theorem head_insertLex_keeps {a : α} {l : List α} (ha : a ≠ h → lexLt (f h) (f a) = true) (hl : l.head? = some h) : (insertLex f a l).head? = some h := by
  obtain ⟨r, rfl⟩ := List.head?_eq_some_iff.mp hl
  have hnot : lexLt (f a) (f h) = false := by
    by_cases hah : a = h
    · rw [hah, lexLt_irrefl]
    · exact lexLt_asymm (ha hah)
  rw [insertLex, hnot, if_neg Bool.false_ne_true, List.head?_cons]

/-- The element that precedes all others comes first. -/
theorem head_sortLex {l : List α} (hmem : h ∈ l) (hl : ∀ b ∈ l, b ≠ h → lexLt (f h) (f b) = true) : (sortLex f l).head? = some h := by
  obtain ⟨pre, post, rfl⟩ := List.append_of_mem hmem
  have hpre : ∀ (m acc : List α), (∀ b ∈ m, b ≠ h → lexLt (f h) (f b) = true) → (∀ b ∈ acc, b ≠ h → lexLt (f h) (f b) = true) →
      ∀ b ∈ m.foldl (fun acc a => insertLex f a acc) acc, b ≠ h → lexLt (f h) (f b) = true := fun m => by
    induction m with
    | nil => exact fun acc _ hacc => hacc
    | cons a r ih =>
      intro acc hm hacc
      refine ih _ (fun b hb => hm b (List.mem_cons_of_mem _ hb)) fun b hb => ?_
      rcases mem_insertLex f hb with rfl | hb
      · exact hm _ List.mem_cons_self
      · exact hacc b hb
  have hpost : ∀ (m acc : List α), (∀ b ∈ m, b ≠ h → lexLt (f h) (f b) = true) → acc.head? = some h →
      (m.foldl (fun acc a => insertLex f a acc) acc).head? = some h := fun m => by
    induction m with
    | nil => exact fun acc _ hacc => hacc
    | cons a r ih =>
      exact fun acc hm hacc => ih _ (fun b hb => hm b (List.mem_cons_of_mem _ hb)) (head_insertLex_keeps f (hm a List.mem_cons_self) hacc)
  rw [sortLex, List.foldl_append, List.foldl_cons]
  refine hpost post _ (fun b hb => hl b (by simp [hb])) (head_insertLex_least f fun b hb => ?_)
  exact hpre pre [] (fun b hb => hl b (by simp [hb])) (fun b hb => by cases hb) b hb

end Sorted

/-- The earliest HALT decides, of one time that of the lowest LCORE (R413). -/
theorem haltStatus_of_first {p : Partition} {h : HaltRec} (hh : h ∈ p.halts) (hdet : p.launch.deterministic = false)
    (hfirst : ∀ g ∈ p.halts, g ≠ h → h.time.toNat < g.time.toNat ∨ (h.time = g.time ∧ h.lcore < g.lcore)) : p.haltStatus = h.status := by
  unfold Partition.haltStatus
  rw [head_sortLex _ hh fun g hg hne => ?_]
  simp only [lexLt, hdet, Bool.false_eq_true, if_false, Bool.or_eq_true, decide_eq_true_eq, Bool.and_eq_true, beq_iff_eq, Bool.or_false, Bool.and_false]
  exact (hfirst g hg hne).imp_right fun ⟨ht, hl⟩ => ⟨by rw [ht], hl⟩

/-! ### The watchdog -/

theorem not_any_slots {s : State} {asid : Nat} (h : ∀ d, d < 4 → ∀ e ∈ (s.die d).slots, e.2.asid ≠ asid) :
    (s.dies.toList.any fun (d : Die) => d.slots.any fun e => e.2.asid == asid) = false := by
  refine List.any_eq_false.mpr fun d hd => ?_
  obtain ⟨i, hi, rfl⟩ := List.mem_iff_getElem.mp hd
  have hi4 : i < 4 := by simpa using hi
  rw [Bool.not_eq_true]
  refine List.any_eq_false.mpr fun e he => ?_
  rw [beq_iff_eq]
  exact h i hi4 e (by simpa [State.die, vget, hi4] using he)

/-- The watchdog fires once its period has passed in an active launch no context of which lies in a slot (R411). -/
theorem watchdogDue_of_period {s : State} {asid : Nat} (hstop : (s.part asid).stopping = false) (hfrozen : (s.part asid).frozen = false)
    (hperiod : (s.part asid).wdcfg.toNat % 2 ^ 32 ≠ 0) (hdue : (s.part asid).wdLast + 1200 * ((s.part asid).wdcfg.toNat % 2 ^ 32) ≤ s.cycle)
    (hslots : ∀ d, d < 4 → ∀ e ∈ (s.die d).slots, e.2.asid ≠ asid) : s.watchdogDue asid = true := by
  have hactive : (s.part asid).active = true := by simp [Partition.active, hstop, hfrozen]
  simp only [State.watchdogDue, wfield_zero, hactive, not_any_slots hslots, Bool.not_false, Bool.and_true, Bool.and_eq_true, bne_iff_ne, ne_eq, decide_eq_true_eq]
  exact ⟨hperiod, hdue⟩

/-! ### Starts and ends -/

/-- A launch that starts: its request is gone, and its partition is there with its cores in their places and their scratchpads clear (R55, R372). -/
theorem startLaunch_starts (s : State) (r : LaunchReq) (hdd : r.diagram = 0) (hnodup : (r.cores ++ r.spares).Nodup) :
    let t := s.startLaunch r
    t.running r.asid = true ∧ t.pkg.launchReqs = s.pkg.launchReqs ∧ (t.part r.asid).launch = (r.partition s.cycle).launch ∧
      (∀ e ∈ r.seats, (t.core e.2).place = (some r.asid, e.1.getD 0, e.1.isSome, fun _ => false)) ∧
      ∀ c ∈ r.cores, ∀ off, off < 0x20000 → t.byteAt (scratchKey c off) = 0 := by
  have hclears := clears_readyStorage (s.joined r) r
  dsimp only
  rw [startLaunch_eq s r hdd]
  refine ⟨(hclears.running _).trans (joined_running s r), hclears.reqs.trans (congrArg Pkg.launchReqs (joined_pkg s r)), ?_, fun e he => ?_, fun c hc off hoff => ?_⟩
  · rw [hclears.launch, joined_part]
  · rw [hclears.place, joined_place s r hnodup he]
  · exact readyStorage_scratch _ r hc hoff

/-- What is known of a core by its place. -/
theorem Core.of_place {k : Core} {a : Option Nat} {l : Nat} {b : Bool} (h : k.place = (a, l, b, fun _ => false)) :
    k.asid = a ∧ k.lcore = l ∧ k.holds = b ∧ ∀ u, (k.thr u).running = false := by
  simp only [Core.place, Prod.mk.injEq] at h
  obtain ⟨hasid, hlcore, hholds, hidle⟩ := h
  exact ⟨hasid, hlcore, hholds, fun u => congrFun hidle u⟩

theorem launchesStartAndEnd : LaunchesStartAndEnd := by
  intro s asid r
  refine ⟨fun hfind hdd hnodup _ => ?_, fun hfind => ?_, fun hrun hstop hfrozen hsettled => ?_, fun h hh hdet hfirst => haltStatus_of_first hh hdet hfirst,
    fun hrun hfrozen hsettled => ?_, fun hrun hstop hfrozen hperiod hdue hslots => ?_⟩
  · refine ⟨_, by rw [exec_launchStart, execLaunchStart, hfind], ?_⟩
    obtain ⟨hrunning, hreqs, hlaunch, hplace, hscratch⟩ := startLaunch_starts (s.modPkg fun p => { p with launchReqs := p.launchReqs.erase r }) r hdd hnodup
    refine ⟨hrunning, hreqs, by rw [hlaunch]; rfl, by rw [hlaunch]; rfl, fun l hl => ?_, fun c hc => ?_⟩
    · obtain ⟨hasid, hlcore, hholds, hidle⟩ := Core.of_place (hplace _ (r.seat_of_lcore hl))
      have hmem : r.cores.getD l 0 ∈ r.cores := by
        rw [List.getD_eq_getElem _ _ hl]
        exact List.getElem_mem hl
      refine ⟨hasid, hlcore, hholds, fun u _ => hidle u, ?_, hscratch _ hmem⟩
      rw [State.lcoreCore, hlaunch]
      exact r.tget_lcores hl
    · obtain ⟨hasid, -, hholds, -⟩ := Core.of_place (hplace _ (r.seat_of_spare hc))
      exact ⟨hasid, hholds⟩
  · rw [exec_launchStart, execLaunchStart, hfind]
  · refine ⟨(s.removeLaunch asid).modPkg fun k => { k with hostOut := k.hostOut ++ [.launchEnd asid (s.part asid).haltStatus (s.part asid).warnSum] }, ?_, ?_⟩
    · rw [exec_launchEnd, execLaunchEnd, if_neg (by simp [hrun, hstop, hfrozen, hsettled])]
    · obtain ⟨hcores, hothers, hslots, hheld⟩ := (removeLaunch_gone s asid).modPkg
        fun k => { k with hostOut := k.hostOut ++ [.launchEnd asid (s.part asid).haltStatus (s.part asid).warnSum] }
      exact ⟨⟨hcores, hothers, hslots, hheld⟩, congrArg (· ++ _) (removeLaunch_hostOut s asid)⟩
  · obtain ⟨hcores, hothers, hslots, hheld⟩ := removeLaunch_gone s asid
    refine ⟨s.removeLaunch asid, ?_, ⟨hcores, hothers, hslots, hheld⟩, removeLaunch_hostOut s asid⟩
    rw [exec_endFrozenLaunch, execEndFrozenLaunch, if_neg (by simp [hrun, hfrozen, hsettled])]
  · rw [exec_watchdog, execWatchdog, hrun, watchdogDue_of_period hstop hfrozen hperiod hdue hslots]
    rfl

end Sys2Proof.Machine
end

section
namespace Sys2Proof.Machine

/-! ### An end of quantum at which nothing is to be done -/

/-- A fold whose every step leaves one state as it is. -/
theorem foldl_fixed {α : Type} (f : State → α → State) (s : State) (l : List α) (h : ∀ a ∈ l, f s a = s) : l.foldl f s = s := by
  induction l with
  | nil => rfl
  | cons a r ih => rw [List.foldl_cons, h a List.mem_cons_self, ih fun b hb => h b (List.mem_cons_of_mem a hb)]

section Quiet

variable {s : State} {asid : Nat}

/-- Where no hardware queue slot of a partition holds a queue. -/
def State.noQueues (s : State) (asid : Nat) : Prop := ∀ i, i < 16 → (s.hqs asid i).v = false

theorem refreshHead_of_empty {i : Nat} (h : (s.hqs asid i).v = false) : s.refreshHead asid i = s := by
  have hplan : s.headPlan asid i = .none := if_pos (.inl (by simp [h]))
  unfold State.refreshHead
  dsimp only
  rw [hplan]
  split <;> rfl

theorem refreshHeads_of_noQueues (h : s.noQueues asid) : s.refreshHeads asid = s :=
  foldl_fixed _ s _ fun i hi => refreshHead_of_empty (h i (List.mem_range.mp hi))

theorem Sched.nslot_le (q : Sched) : q.nslot ≤ 16 := by
  unfold Sched.nslot
  dsimp only
  split <;> omega

theorem selectSlot_of_noQueues (h : s.noQueues asid) : s.selectSlot asid = none := by
  have hnone : ((upTo (s.part asid).sched.nslot).filter fun i => (s.hqs asid i).v && (s.hqs asid i).readySince.isSome) = [] := by
    refine List.filter_eq_nil_iff.mpr fun i hi => ?_
    have hslot := h i (Nat.lt_of_lt_of_le (List.mem_range.mp hi) (Sched.nslot_le _))
    simp [hslot]
  unfold State.selectSlot
  dsimp only
  rw [hnone]
  split <;> rfl

theorem selections_of_noQueues (h : s.noQueues asid) (n : Nat) : s.selections asid (n + 1) = s := by
  rw [State.selections, refreshHeads_of_noQueues h, selectSlot_of_noQueues h]

theorem handouts_of_noCells (h : (s.part asid).sdir.cells = []) (n : Nat) : s.handouts asid n = s := by
  have hnext : (s.part asid).sdir.nextReady = none := by simp [Sdir.nextReady, h]
  have hdue : s.handoutDue asid = false := by
    unfold State.handoutDue
    dsimp only
    rw [hnext, ite_self]
  cases n with
  | zero => rfl
  | succ n => rw [State.handouts, hdue, if_neg Bool.false_ne_true]

theorem genClose_of_not_closable (h : (s.part asid).sdir.closable = false) : s.genClose asid = s := by
  unfold State.genClose
  dsimp only
  rw [h]
  rfl

theorem kicksNow_of_no_kicks {q n : Nat} (h : (s.part asid).sched.kicks = []) (hcmp : (s.part asid).dbg.compares = false) : s.kicksNow asid q n = ([], []) := by
  unfold State.kicksNow
  dsimp only
  rw [h, hcmp]
  rfl

theorem quantumResumes_of_no_slots (h : ∀ d, d < 4 → (s.die d).slots = []) (q : Nat) : s.quantumResumes asid q = s :=
  foldl_fixed _ s _ fun d hd => by rw [h d (List.mem_range.mp hd)]; rfl

theorem endCores_of_ended {q : Nat} {l : List Nat} (h : ∀ c ∈ l, q < (s.core c).det.ended) :
    l.foldl (fun s c => if (s.core c).det.ended ≤ q then s.endCoreQuantum c else s) s = s :=
  foldl_fixed _ s _ fun c hc => if_neg (by have := h c hc; omega)

theorem servePulls_of_no_pulls (h : (s.part asid).sched.pulls = []) (q : Nat) (d : Digests) : s.servePulls asid q d = (s, d) := by
  simp only [State.servePulls, h, List.filter_nil, sortLex, List.foldl_nil]

end Quiet

/-- With nothing to serve, the number of the quantum alone advances (R391). -/
theorem quantumWork_quiet {s : State} {asid q : Nat} (hrun : s.running asid = true) (hcmp : (s.part asid).dbg.compares = false)
    (hreqs : (s.part asid).qreqs = []) (hkicks : (s.part asid).sched.kicks = []) (hpulls : (s.part asid).sched.pulls = [])
    (hclose : (s.part asid).sdir.closable = false) (hcells : (s.part asid).sdir.cells = []) (hqueues : s.noQueues asid)
    (hslots : ∀ d, d < 4 → (s.die d).slots = []) (hended : ∀ c ∈ s.launchCores asid, q < (s.core c).det.ended) :
    (s.quantumWork asid q).1 = s.modSched asid fun k => { k with kicks := [], quanta := q + 1 } := by
  have hpart : ((s.modSched asid fun k => { k with kicks := [], quanta := q + 1 }).part asid).sched = { (s.part asid).sched with kicks := [], quanta := q + 1 } := by
    rw [State.modSched, part_modPart _ _ _ hrun]
  have hslots' : ∀ d, d < 4 → ((s.modSched asid fun k => { k with kicks := [], quanta := q + 1 }).die d).slots = [] := fun d hd => by
    rw [State.die, State.modSched, modPart_dies]
    exact hslots d hd
  have hqueues' : (s.modSched asid fun k => { k with kicks := [], quanta := q + 1 }).noQueues asid := fun i hi => by
    rw [State.hqs, hpart]
    exact hqueues i hi
  have hserve : sortLex (fun (r : QReq) => [r.quantum, r.lcore]) ((s.part asid).qreqs.filter fun r => decide (r.quantum ≤ q)) = [] := by
    rw [hreqs]
    rfl
  simp only [State.quantumWork, hserve, serveAll, endCores_of_ended hended, genClose_of_not_closable hclose, handouts_of_noCells hcells, kicksNow_of_no_kicks hkicks hcmp, State.applyKicks, List.foldl_nil,
    quantumResumes_of_no_slots hslots', selections_of_noQueues hqueues']
  rw [servePulls_of_no_pulls (by rw [hpart]; exact hpulls)]

/-! ### The end of a quantum -/

theorem Debug.mode_of_off {g : Debug} (h : g.rplctl = 0) : g.mode = 0 := by
  rw [Debug.mode, h]
  decide

theorem Debug.compares_of_off {g : Debug} (h : g.rplctl = 0) : g.compares = false := by simp [Debug.compares, Debug.mode_of_off h]

/-- Without recording or comparison an end of quantum does its work and no more. The work is a variable where the definition is opened, behind an `id` that keeps it one:
the kernel, comparing the opened definition with itself, would evaluate the work. -/
theorem endQuantum_of_off {s : State} {asid : Nat} (h : (s.part asid).dbg.rplctl = 0) :
    s.endQuantum asid = (s.quantumWork asid (s.part asid).sched.quanta).1 := by
  obtain ⟨f, hf⟩ : ∃ f, State.endQuantum = f := ⟨_, rfl⟩
  rw [hf]
  delta State.endQuantum at hf
  subst hf
  generalize State.quantumWork = work
  revert work
  refine id fun work => ?_
  simp only [Debug.mode_of_off h, Debug.compares_of_off h, if_neg Nat.zero_ne_one, Bool.not_false, if_true]

theorem quantumDue_of_off {s : State} {asid : Nat} (hrun : s.running asid = true) (hdet : (s.part asid).launch.deterministic = true)
    (hstop : (s.part asid).stopping = false) (hfrozen : (s.part asid).frozen = false) (hoff : (s.part asid).dbg.rplctl = 0) :
    s.quantumDue asid = s.quantumOver asid := by
  simp [State.quantumDue, hrun, hdet, Partition.active, hstop, hfrozen, Debug.compares_of_off hoff]

theorem quantumDue_of_not_over {s : State} {asid : Nat} (h : s.quantumOver asid = false) : s.quantumDue asid = false := by
  simp [State.quantumDue, h]

/-! ### A request for a block number -/

/-- A request that is served with a value leaves the queue, and its unit takes the value. -/
theorem serveAll_answered {s t : State} {asid q : Nat} {r : QReq} {v : Word} (hr : r ∈ (s.part asid).qreqs)
    (hserve : (s.modPart asid fun p => { p with qreqs := p.qreqs.erase r }).serveReq asid r = .ans v (.x v t)) (d : Digests) :
    (serveAll asid q [r] s d).1 = t.answer r.uid fun x => (x.setX r.dest v).markFull r.dest := by
  have hin : ((s.part asid).qreqs.contains r) = true := List.contains_iff_mem.mpr hr
  rw [serveAll]
  simp only [hin, Bool.not_true, Bool.false_eq_true, if_false, hserve]
  rfl

/-- A request for a block number is answered with what the counters at its location have left (R344, R391). -/
theorem serveReq_bqtake (s : State) (asid : Nat) {r : QReq} {loc : Nat} {va : Word} (h : r.op = .bqtake loc va) :
    s.serveReq asid r = .ans (s.takeBlock loc).1 (.x (s.takeBlock loc).1 (s.takeBlock loc).2) := by
  simp only [State.serveReq, h]

theorem takeBlock_of_left {s : State} {k : Nat} (h : s.readLe k 8 < s.readLe (k + 8) 8) :
    s.takeBlock k = (BitVec.ofNat 64 (s.readLe k 8), s.writeLe k 8 ((s.readLe k 8 + 1) % 2 ^ 64)) := by
  rw [State.takeBlock]
  simp only [if_pos h]

theorem takeBlock_of_none_left {s : State} {k : Nat} (h : s.readLe (k + 8) 8 ≤ s.readLe k 8) : s.takeBlock k = (BitVec.allOnes 64, s) := by
  rw [State.takeBlock]
  simp only [if_neg (Nat.not_lt.mpr h)]
  rfl

/-- An end of quantum takes requests off a partition's list without touching memory. -/
theorem readLe_modPart (s : State) (a : Nat) (f : Partition → Partition) (k n : Nat) : (s.modPart a f).readLe k n = s.readLe k n :=
  readLe_of_mem (modPart_mem _ _ _) k n

theorem quantaEnd : QuantaEnd := by
  intro s asid
  refine ⟨fun hover => ?_, fun hrun hdet hstop hfrozen hoff hover => ⟨?_, fun hreqs hkicks hpulls hclose hcells hqueues hslots hended => ?_⟩,
    fun r loc va hop hr hrun => ⟨fun hleft => ?_, fun hnone => ?_⟩⟩
  · rw [exec_quantumEnd, execQuantumEnd, quantumDue_of_not_over hover]
    rfl
  · rw [exec_quantumEnd, execQuantumEnd, quantumDue_of_off hrun hdet hstop hfrozen hoff, hover, if_pos rfl, endQuantum_of_off hoff]
  · dsimp only
    rw [quantumWork_quiet hrun (Debug.compares_of_off hoff) hreqs hkicks hpulls hclose hcells (fun i hi => (hqueues i hi).1) hslots hended, State.modSched, part_modPart _ _ _ hrun]
    exact ⟨rfl, modPart_mem _ _ _, modPart_cores _ _ _, modPart_dies _ _ _, modPart_pkg _ _ _⟩
  · refine serveAll_answered hr ?_ []
    rw [serveReq_bqtake _ _ hop, takeBlock_of_left (by rwa [readLe_modPart, readLe_modPart]), readLe_modPart]
  · refine serveAll_answered hr ?_ []
    rw [serveReq_bqtake _ _ hop, takeBlock_of_none_left (by rwa [readLe_modPart, readLe_modPart])]

/-- Settles O48. A start is its cores' joining followed by steps that only clear storage, an end leaves nothing of the launch, and a quiet end of quantum is the identity in each of its parts. -/
theorem launchesAndQuantaEnd : Obligations.LaunchesAndQuantaEnd := ⟨launchesStartAndEnd, quantaEnd⟩

end Sys2Proof.Machine
end

section
namespace Sys2Proof.Machine

/-! ### A packet table that lists a number twice -/

/-- An empty packet of which `pos` writes are said to be made. -/
def emptyPacket (pos : Nat) : Packet := { first := 0, count := 0, bytes := [], hid := none, redo := none, stamp := none, pos := pos, landAt := none, acks := 0 }

/-- A copy into memory of elements of type 0, which are 32 bits wide, with two packets of number 0. -/
def twinPackets : CopyOp := { CopyOp.start (Cmd.blank 0 0 1 0 0) 0 with packets := [(0, emptyPacket 0), (0, emptyPacket 1)] }

/-- A core that has the copy, and at whose loopback port a write of it waits. -/
def twinCore : Core := { Core.reset with copies := [(0, twinPackets)], loop := [{ uid := 1, rank := 0, loc := 0, size := 8, act := .put 0 0 0 }] }

/-- The part after reset, but for that core. -/
def twinState : State := { State.reset with cores := [(0, twinCore)] }

/-- The writes made of each packet of copy 0 of core 0. -/
def State.packetPos (s : State) : Option (List Nat) := (s.copyOp 0 0).map fun o => o.packets.map (·.2.pos)

/-- The packet of number 0 that lands is the first entry, and makes no write; the step adds that to what each entry of the number has. -/
theorem twinState_lands : ∃ t, exec (.packetLand 0 0 0) twinState = .next t ∧ t.packetPos = some [0, 1] := ⟨_, rfl, by decide +kernel⟩

/-- Refutes O39: nothing in its clause about landing excludes a packet table that lists a number twice. There the step adds the writes that it makes to what each entry
of the number has, and the clause sets each entry to the number of writes made: of `twinState` the one gives 0 and 1, the other 0 and 0. -/
theorem not_copiesMoveTheirElements : ¬ Obligations.CopiesMoveTheirElements := by
  rintro ⟨-, hland, -⟩
  obtain ⟨hstays, -⟩ := hland twinState 0 0 0 twinPackets (emptyPacket 0) (fun _ => 0) (fun _ => twinState) rfl rfl rfl rfl rfl
    (by decide +kernel) (by decide +kernel) (by decide +kernel) rfl (fun i hi => absurd hi (Nat.not_lt_zero i)) rfl
  obtain ⟨t, ht, hpos⟩ := twinState_lands
  have hstep := hstays (.inr (by decide +kernel))
  rw [ht] at hstep
  rw [Host.Outcome.next.inj hstep] at hpos
  exact absurd hpos (by decide +kernel)

end Sys2Proof.Machine
end

section
namespace Sys2Proof.Machine

/-! ### Instructions that issue, by what their body comes to -/

/-- An instruction with no x operand does what its body says. -/
theorem issue_noOperands (body : State → Res) (s : State) : issue [] none body s = .next (body s).next := issue_full [] none body s (by simp) (by simp)

/-- A retirement that changes nothing of its unit's context. -/
theorem retire_runsTo_id (s : State) : RunsTo (.next s.retire) s id (s.cur.pc + 4) := ⟨_, rfl, (retireAt_retired s _).modCur_id id rfl⟩

/-- An instruction with one source and a destination, both full, does what its body says. -/
theorem issue_of_fullAt {s : State} {a d : Reg} (hf : FullAt s [a, d]) (ma : Bool) (body : State → Res) :
    issue [(a, ma)] (some d) body s = .next (body s).next := by
  refine issue_full _ _ _ _ (by simpa using hf.sub (r := a) (by simp)) fun r hr => ?_
  obtain rfl : d = r := by injection hr
  exact hf.sub (by simp)

/-! ### Fences -/

section Fences

variable {s : State} {scope : BitVec 3} {kind : BitVec 4}

/-- Has the issuing unit an access outstanding of the preceding group that a fence of this kind names (R87, R248)? -/
def State.fenceWaits (s : State) (kind : BitVec 4) : Bool :=
  ((kind.getLsbD 3 || kind.getLsbD 2) && s.loadsOut s.cur.uid) || ((kind.getLsbD 1 || kind.getLsbD 0) && s.storesOut s.cur.uid)

theorem execFence_of_reserved (h : 6 ≤ scope.toNat) : execFence scope kind s = .next (s.trap .rsvfld) := by
  rw [execFence, issue_noOperands, if_pos h]
  rfl

theorem execFence_of_waiting (h : scope.toNat < 6) (hw : s.fenceWaits kind = true) : execFence scope kind s = .next s := by
  rw [execFence, issue_noOperands, if_neg (Nat.not_le.mpr h)]
  exact congrArg (fun r : Res => Host.Outcome.next r.next) (if_pos hw)

theorem execFence_of_done (h : scope.toNat < 6) (hw : s.fenceWaits kind = false) : execFence scope kind s = .next s.retire := by
  rw [execFence, issue_noOperands, if_neg (Nat.not_le.mpr h)]
  exact congrArg (fun r : Res => Host.Outcome.next r.next) (if_neg (Bool.eq_false_iff.mp hw))

theorem execFenceLoop_of_waiting (h : s.loadsOut s.cur.uid = true ∨ s.storesOut s.cur.uid = true) : execFenceLoop s = .next s := by
  have hout : s.accessesOut s.cur.uid = true := by simpa [State.accessesOut] using h
  rw [execFenceLoop, issue_noOperands, if_pos hout]
  rfl

theorem execFenceLoop_of_done (hl : s.loadsOut s.cur.uid = false) (hs : s.storesOut s.cur.uid = false) : execFenceLoop s = .next s.retire := by
  have hout : s.accessesOut s.cur.uid = false := by simp [State.accessesOut, hl, hs]
  rw [execFenceLoop, issue_noOperands, hout]
  rfl

end Fences

theorem fencesWaitForTheirPrecedingGroup : FencesWaitForTheirPrecedingGroup := by
  unfold FencesWaitForTheirPrecedingGroup
  intro s scope kind loads stores waits
  rw [exec_fence, exec_fenceLoop]
  refine ⟨execFence_of_reserved, fun h => ⟨execFence_of_waiting h, fun hw => ?_⟩, execFenceLoop_of_waiting, fun hl hs => ?_⟩
  · rw [execFence_of_done h hw]
    exact retire_runsTo_id s
  · rw [execFenceLoop_of_done hl hs]
    exact retire_runsTo_id s

/-! ### FEMARK and FEWAIT -/

section Marks

variable {s : State} {d a : Reg} {ma : Bool} {k : Nat} (hf : FullAt s [a, d])

include hf

theorem execFemark_of_x0 (hd : d = 0) : execFemark d a ma s = .next (s.trap .rsvfld) := by
  rw [execFemark, issue_of_fullAt hf, if_pos hd]
  rfl

variable (hd : d ≠ 0)

include hd

theorem execFemark_of_misplaced (h : 131072 ≤ (s.cur.xr a).toNat ∨ (s.cur.xr a).toNat % 8 ≠ 0) :
    execFemark d a ma s = .next (s.trap .access { d0 := s.cur.xr a, d1 := 8 }) := by
  rw [execFemark, issue_of_fullAt hf, if_neg hd, if_pos h]
  rfl

variable (hlow : (s.cur.xr a).toNat < 131072) (halign : (s.cur.xr a).toNat % 8 = 0)
  (hcheck : s.check (s.agent s.curCore) .load 8 8 (s.cur.xr a) = .ok (.mem k))

include hlow halign hcheck

theorem execFemark_of_fourWatches (h : 4 ≤ s.cur.watches.length) : execFemark d a ma s = .next (s.trap .qfull) := by
  rw [execFemark, issue_of_fullAt hf, if_neg hd, if_neg (by omega), hcheck]
  simp only [if_pos h, Res.next]

variable (hroom : s.cur.watches.length < 4)

include hroom

theorem execFemark_of_waiting (h : s.interlocked false (s.cur.xr a) 8 = true ∨ s.mustFollow s.cur.uid false (s.cur.xr a) 8 (.mem k) = true) :
    execFemark d a ma s = .next s := by
  rw [execFemark, issue_of_fullAt hf, if_neg hd, if_neg (by omega), hcheck]
  simp only [if_neg (Nat.not_le.mpr hroom), Bool.or_eq_true, if_pos h, Res.next]

/-- The mark empties the register and arms the watch (R249). -/
theorem execFemark_arms (hi : s.interlocked false (s.cur.xr a) 8 = false) (hm : s.mustFollow s.cur.uid false (s.cur.xr a) 8 (.mem k) = false) :
    RunsTo (execFemark d a ma s) s (fun x => { x.markEmpty d with watches := x.watches ++ [{ reg := d, off := keyOff k }] }) (s.cur.pc + 4) := by
  refine retire_runsTo _ _ _ _ ?_
  rw [execFemark, issue_of_fullAt hf, if_neg hd, if_neg (by omega), hcheck]
  simp only [if_neg (Nat.not_le.mpr hroom), hi, hm, Bool.or_false, Bool.false_eq_true, if_false, Res.next, State.retire, cur_modCur, pc_markEmpty]
  rfl

end Marks

theorem execFewait_of_full {s : State} {a : Reg} (h : s.cur.isFull a = true) (ma : Bool) : execFewait a ma s = .next s.retire := by
  rw [execFewait, issue_full _ _ _ _ (by simpa using h) (by simp)]
  rfl

/-! ### Writes to watched words -/

section Watches

variable {x : Ctx} {off n now : Nat} {word : Nat → Word}

/-- The first write that meets a watched word ends the watch, and the word's value is on its way to the register (R249). -/
theorem fireWatches_ends {w : Watch} (hw : w ∈ x.watches) (h : overlap w.off 8 off n = true) :
    w ∉ (x.fireWatches off n now word).watches ∧
      ({ reg := w.reg.toNat, off := w.off, value := word w.off, cycle := now } : WatchFill) ∈ (x.fireWatches off n now word).watchFills := by
  refine ⟨fun hmem => ?_, List.mem_append_right _ (List.mem_map_of_mem (List.mem_filter.mpr ⟨hw, h⟩))⟩
  have hkept := (List.mem_filter.mp hmem).2
  rw [h] at hkept
  cases hkept

/-- What else is written to the word in the cycle in which its watch ended goes to the register with it (R249). -/
theorem fireWatches_merges {f : WatchFill} (hf : f ∈ x.watchFills) (h : f.meets off n now = true) :
    ({ f with value := word f.off } : WatchFill) ∈ (x.fireWatches off n now word).watchFills :=
  List.mem_append_left _ (List.mem_map.mpr ⟨f, hf, if_pos h⟩)

theorem fireWatches_leaves {f : WatchFill} (hf : f ∈ x.watchFills) (h : f.meets off n now = false) : f ∈ (x.fireWatches off n now word).watchFills :=
  List.mem_append_left _ (List.mem_map.mpr ⟨f, hf, if_neg (Bool.eq_false_iff.mp h)⟩)

end Watches

theorem watchesEmptyARegisterUntilAWrite : WatchesEmptyARegisterUntilAWrite := by
  unfold WatchesEmptyARegisterUntilAWrite
  rintro s d a ma va rfl hf
  rw [exec_femark, exec_fewait]
  refine ⟨execFemark_of_x0 hf, execFemark_of_misplaced hf, fun hd hlow halign k hcheck => ⟨execFemark_of_fourWatches hf hd hlow halign hcheck,
    execFemark_of_waiting hf hd hlow halign hcheck, execFemark_arms hf hd hlow halign hcheck⟩, ?_, fun x off n now word => ⟨fun w hw h1 h2 => ?_,
    fun f hmem hnow h1 h2 => ?_, fun f hmem hnow => ?_⟩⟩
  · rw [execFewait_of_full (hf.sub (by simp))]
    exact retire_runsTo_id s
  · exact fireWatches_ends hw (by simp [overlap, h1, h2])
  · exact fireWatches_merges hmem (by simp [WatchFill.meets, overlap, hnow, h1, h2])
  · exact fireWatches_leaves hmem (by simp [WatchFill.meets, hnow])

/-- Settles O11: each fence and mark by the branch of its body that its hypotheses choose, and a write's effect on watches and fills by whether it meets their word. -/
theorem fencesAndWatches : Obligations.FencesAndWatches := ⟨fencesWaitForTheirPrecedingGroup, watchesEmptyARegisterUntilAWrite⟩

end Sys2Proof.Machine
end

section
namespace Sys2Proof.Machine

/-! ### What an engine leaves unchanged when it takes a request -/

section Taken

variable (s : State) (bay : Nat)

theorem setHot_cores (hot : List Nat) : (s.setHot bay hot).cores = s.cores := by
  unfold State.setHot
  dsimp only
  split
  · rfl
  · exact foldl_keeps State.cores _ (fun t l => correct_cores t l 64) _ s

theorem setHot_parts (hot : List Nat) : (s.setHot bay hot).parts = s.parts := by
  unfold State.setHot
  dsimp only
  split
  · rfl
  · exact foldl_keeps State.parts _ (fun t l => correct_parts t l 64) _ s

@[simp] theorem ateTake_core (r : AteReq) (c : Nat) : (s.ateTake bay r).core c = s.core c := by
  unfold State.core
  rw [State.ateTake, setHot_cores]
  rfl

@[simp] theorem ateTake_rootAt (r : AteReq) (loc : Nat) : (s.ateTake bay r).rootAt loc = s.rootAt loc := by
  unfold State.rootAt
  rw [State.ateTake, setHot_parts]
  rfl

end Taken

/-! ### Numbers in memory -/

section Numbers

variable {s t : State} {j k n : Nat}

theorem leNat_lt (l : List Byte) : leNat l < 256 ^ l.length := by
  induction l with
  | nil => simp [leNat]
  | cons b r ih =>
    have hb : b.toNat < 256 := b.isLt
    rw [leNat, List.length_cons, Nat.pow_succ]
    omega

theorem readLe_lt (s : State) (k n : Nat) : s.readLe k n < 256 ^ n := by
  have h := leNat_lt (s.bytesAt k n)
  rwa [show (s.bytesAt k n).length = n by simp [State.bytesAt, upTo]] at h

/-- A number depends on its bytes alone. -/
theorem readLe_congr (h : ∀ i, k ≤ i → i < k + n → t.byteAt i = s.byteAt i) : t.readLe k n = s.readLe k n := by
  have hbytes : t.bytesAt k n = s.bytesAt k n := List.map_congr_left fun i hi => h (k + i) (by omega) (by have := List.mem_range.mp hi; omega)
  rw [State.readLe, State.readLe, hbytes]

/-- A write leaves the numbers beside it. -/
theorem readLe_writeLe_other (hwf : Memory.wf s.mem = true) {m v : Nat} (h : j + m ≤ k ∨ k + n ≤ j) : (s.writeLe k n v).readLe j m = s.readLe j m :=
  readLe_congr fun i h1 h2 => byteAt_writeLe_other s k n v i hwf (by omega)

/-- A number that fits its bytes is read back as it was written. -/
theorem readLe_writeLe_fit (hwf : Memory.wf s.mem = true) {v : Nat} (hv : v < 256 ^ n) : (s.writeLe k n v).readLe k n = v := by
  rw [readLe_writeLe s k n v hwf, Nat.mod_eq_of_lt hv]

end Numbers

/-! ### Contributions to a join record -/

theorem sendWakes_mem (v : Word) (w : Nat) (l : List Waiter) (s : State) : (l.foldl (State.sendWake · v w ·) s).mem = s.mem :=
  foldl_mem (State.sendWake · v w ·) (fun _ _ => rfl) s l

section Record

variable {s : State} {k w : Nat} {status : Word}

/-- The memory of a record once a contribution has been made: the status combined, the count lower by one (R172). -/
def State.contributed (s : State) (k : Nat) (status : Word) : State :=
  (s.writeLe (k + 8) 8 (combine (BitVec.ofNat 64 (s.readLe (k + 8) 8)) status).toNat).writeLe k 8 (s.readLe k 8 - 1)

/-- A contribution that is not the last one only counts (R172). -/
theorem contribute_of_more (h : 1 < s.readLe k 8) : ∃ n, s.contribute k status w = some n ∧ n.mem = (s.contributed k status).mem := by
  have h0 : s.readLe k 8 ≠ 0 := by omega
  have h1 : s.readLe k 8 ≠ 1 := by omega
  unfold State.contribute
  simp only [if_neg h0, if_neg h1]
  exact ⟨_, rfl, rfl⟩

variable (hwf : Memory.wf s.mem = true)

include hwf

theorem contributed_count : (s.contributed k status).readLe k 8 = s.readLe k 8 - 1 :=
  readLe_writeLe_fit (writeLe_wf _ _ _ _ hwf) (Nat.lt_of_le_of_lt (Nat.sub_le _ _) (readLe_lt s k 8))

theorem contributed_status : (s.contributed k status).readLe (k + 8) 8 = (combine (BitVec.ofNat 64 (s.readLe (k + 8) 8)) status).toNat := by
  rw [State.contributed, readLe_writeLe_other (writeLe_wf _ _ _ _ hwf) (.inr (Nat.le_refl _)), readLe_writeLe_fit hwf (BitVec.isLt _)]

theorem contributed_other {j : Nat} (hj : j < k ∨ k + 16 ≤ j) : (s.contributed k status).byteAt j = s.byteAt j := by
  rw [State.contributed, byteAt_writeLe_other _ _ _ _ _ (writeLe_wf _ _ _ _ hwf) (by omega), byteAt_writeLe_other _ _ _ _ _ hwf (by omega)]

end Record

/-! ### Arrivals at a barrier object -/

theorem settleWins_mem (s : State) (loc : Nat) (t : Wins) : (s.settleWins loc t).mem = s.mem := by
  unfold State.settleWins
  dsimp only
  rw [foldl_mem]
  · rfl
  · exact fun _ e => sendWakes_mem ..

/-- The counts and the phase of a barrier object as an update leaves them: the arrivals, the word that holds the bytes, and, where the object advances, the phase. -/
def State.barCounted (s : State) (k arr bytes : Nat) : State := (s.writeLe (k + 4) 4 arr).writeLe (k + 16) 8 bytes

section Object

variable {s : State} {k w : Nat}

/-- An arrival that does not complete the expectation is counted (R98, R273). -/
theorem barUpdate_of_short (h : s.barArr k + 1 < s.barExpA k) :
    (s.barUpdate k 1 0 w).mem = (s.barCounted k (s.barArr k + 1) (s.readLe (k + 16) 8)).mem := by
  have hexp : s.barExpA k < 2 ^ 32 := readLe_lt s k 4
  have hbytes : s.readLe (k + 16) 8 / 2 ^ 48 * 2 ^ 48 + satN 48 (s.barBytes k + 0) = s.readLe (k + 16) 8 := by
    unfold State.barBytes satN
    omega
  have harr : satN 32 (s.barArr k + 1) = s.barArr k + 1 := by
    unfold satN
    omega
  unfold State.barUpdate
  dsimp only
  rw [harr, hbytes, if_neg (by omega), settleWins_mem]
  rfl

/-- An arrival that completes the expectation, of no bytes, advances the object by a phase (R98, R273). -/
theorem barUpdate_of_met (h : s.barArr k + 1 = s.barExpA k) (hexp : s.barExpB k = 0) (hbytes : s.readLe (k + 16) 8 = 0) :
    (s.barUpdate k 1 0 w).mem = ((s.barCounted k 0 0).writeLe (k + 24) 8 ((s.barPhase k + 1) % 2 ^ 64)).mem := by
  have hlt : s.barExpA k < 2 ^ 32 := readLe_lt s k 4
  have harr : satN 32 (s.barArr k + 1) = s.barExpA k := by
    unfold satN
    omega
  have hb : s.barBytes k = 0 := by rw [State.barBytes, hbytes, Nat.zero_mod]
  unfold State.barUpdate
  dsimp only
  rw [harr, hb, hexp, hbytes, if_pos ⟨Nat.le_refl _, Nat.zero_le _⟩, settleWins_mem, sendWakes_mem, Nat.sub_self]
  rfl

variable {arr bytes : Nat} (hwf : Memory.wf s.mem = true)

include hwf

theorem barCounted_wf : Memory.wf (s.barCounted k arr bytes).mem = true := writeLe_wf _ _ _ _ (writeLe_wf _ _ _ _ hwf)

theorem barCounted_arr (h : arr < 2 ^ 32) : (s.barCounted k arr bytes).readLe (k + 4) 4 = arr := by
  rw [State.barCounted, readLe_writeLe_other (writeLe_wf _ _ _ _ hwf) (by omega), readLe_writeLe_fit hwf h]

theorem barCounted_bytes (h : bytes < 2 ^ 64) : (s.barCounted k arr bytes).readLe (k + 16) 8 = bytes := readLe_writeLe_fit (writeLe_wf _ _ _ _ hwf) h

theorem barCounted_expected : (s.barCounted k arr bytes).readLe (k + 8) 8 = s.readLe (k + 8) 8 := by
  rw [State.barCounted, readLe_writeLe_other (writeLe_wf _ _ _ _ hwf) (by omega), readLe_writeLe_other hwf (by omega)]

theorem barCounted_other {j : Nat} (hj : j < k + 4 ∨ k + 24 ≤ j) : (s.barCounted k arr bytes).byteAt j = s.byteAt j := by
  rw [State.barCounted, byteAt_writeLe_other _ _ _ _ _ (writeLe_wf _ _ _ _ hwf) (by omega), byteAt_writeLe_other _ _ _ _ _ hwf (by omega)]

end Object

/-! ### Requests at a record or an object -/

section Requests

variable {s : State} {k uid core slot : Nat} {d : Reg} {phase : Word}

theorem atePerform_joinw_of_zero (h : s.readLe k 8 = 0) :
    s.atePerform (.joinw k uid core slot d) = (s.freeJoin core slot).answer uid fun x => x.setX d (BitVec.ofNat 64 (s.readLe (k + 8) 8)) := by
  simp only [State.atePerform, if_pos h]

/-- A second waiter, or one at a root's completion record, is JOINBAD (R261). -/
theorem atePerform_joinw_of_taken (h : s.readLe k 8 ≠ 0) (ht : (s.bay (homeBay k)).ate.waitersAt k false ≠ [] ∨ s.rootAt k ≠ none) :
    s.atePerform (.joinw k uid core slot d) = s.joinCause core slot uid .joinbad := by
  have htaken : (!((s.bay (homeBay k)).ate.waitersAt k false).isEmpty || (s.rootAt k).isSome) = true := by
    simpa [Option.isSome_iff_ne_none] using ht
  simp only [State.atePerform, if_neg h, if_pos htaken]

theorem atePerform_joinw_of_free (h : s.readLe k 8 ≠ 0) (hw : (s.bay (homeBay k)).ate.waitersAt k false = []) (hr : s.rootAt k = none) :
    s.atePerform (.joinw k uid core slot d) = s.register { loc := k, core := core, slot := slot, barrier := false, phase := 0 } uid := by
  simp [State.atePerform, h, hw, hr]

theorem atePerform_barwait_of_passed (h : phase.toNat < s.barPhase k) :
    s.atePerform (.barwait k phase uid core slot d) = (s.freeJoin core slot).answer uid fun x => x.setX d (BitVec.ofNat 64 (s.barPhase k)) := by
  simp only [State.atePerform, if_pos h]

variable (h : s.barPhase k ≤ phase.toNat)

include h

theorem atePerform_barwait_of_room (hroom : ((s.bay (homeBay k)).ate.waitersAt k true).length < 16) :
    s.atePerform (.barwait k phase uid core slot d) = s.register { loc := k, core := core, slot := slot, barrier := true, phase := phase } uid := by
  simp only [State.atePerform, if_neg (Nat.not_lt.mpr h), if_neg (Nat.not_le.mpr hroom)]

/-- A seventeenth waiter is BARBAD (R275). -/
theorem atePerform_barwait_of_sixteen (hfull : 16 ≤ ((s.bay (homeBay k)).ate.waitersAt k true).length) :
    s.atePerform (.barwait k phase uid core slot d) = s.joinCause core slot uid .barbad := by
  simp only [State.atePerform, if_neg (Nat.not_lt.mpr h), if_pos hfull]

end Requests

theorem atePerform_jdec (s : State) (k uid w : Nat) (va status : Word) :
    s.atePerform (.jdec k va status uid w) = ((s.contribute k status w).map fun t => t.answer uid id).getD (s.answerCause uid .joinbad { d0 := va }) := by
  cases h : s.contribute k status w <;> simp only [State.atePerform, h] <;> rfl

/-- Settles O21: the engine takes the request, which changes neither memory, cores nor roots, and each request then comes to one of its cases. -/
theorem joinRecordsAndBarrierObjectsCount : Obligations.JoinRecordsAndBarrierObjectsCount := by
  unfold Obligations.JoinRecordsAndBarrierObjectsCount
  intro s bay k uid core slot d r va status phase w hpick hloc hwf m freed named count sum same registers
  have htaken : s.ateTake bay r = m := by rw [State.ateTake, hloc]
  have hmem : m.mem = s.mem := setHot_mem _ _ _
  have hread (j n : Nat) : m.readLe j n = s.readLe j n := readLe_of_mem hmem j n
  have hwfm : Memory.wf m.mem = true := by rw [hmem]; exact hwf
  have hroot : m.rootAt k = s.rootAt k := htaken ▸ ateTake_rootAt s bay r k
  have hcause (c : Cause) : m.joinCause core slot uid c = freed.answerCause uid c { d0 := named } := by
    have hcore : m.core core = s.core core := htaken ▸ ateTake_core s bay r core
    rw [State.joinCause, hcore]
    rfl
  have hgives {op : AteOp} {t : State} (hop : r.op = op) (hd : op.isDone = false) (h : m.atePerform op = t) : exec (.ateAccept bay) s = .next t := by
    rw [exec_ateAccept, execAteAccept_of_pick hpick (hop ▸ hd), htaken, hop, h]
  have hcount : m.readLe k 8 = count := hread k 8
  have hphase : m.barPhase k = s.readLe (k + 24) 8 := hread (k + 24) 8
  have harr : m.barArr k + 1 = sum := congrArg (· + 1) (hread (k + 4) 4)
  refine ⟨fun hop => ?_, fun hop => ?_, fun hop => ?_, fun hop => ?_⟩
  · refine ⟨fun h0 => hgives hop rfl ?_, fun h0 hw hr => ?_, fun h0 ht => hgives hop rfl ?_⟩
    · rw [atePerform_joinw_of_zero (hcount.trans h0), hread]
      rfl
    · exact hgives hop rfl (atePerform_joinw_of_free (hcount ▸ h0) hw (hroot.trans hr))
    · rw [atePerform_joinw_of_taken (hcount ▸ h0) (hroot ▸ ht), hcause]
  · refine ⟨fun h1 => ?_, fun h0 => hgives hop rfl ?_⟩
    · obtain ⟨n, hn, hnew⟩ := contribute_of_more (status := status) (w := w) (hcount ▸ h1 : 1 < m.readLe k 8)
      refine ⟨n, n.answer uid id, hgives hop rfl (by rw [atePerform_jdec, hn]; rfl), rfl, ?_, ?_, fun j hj => ?_⟩
      · rw [readLe_of_mem hnew, contributed_count hwfm, hcount]
      · rw [readLe_of_mem hnew, contributed_status hwfm, hread]
      · rw [byteAt_of_mem hnew, contributed_other hwfm hj, byteAt_of_mem hmem]
    · rw [atePerform_jdec, contribute_of_zero (hcount.trans h0)]
      rfl
  · refine ⟨fun hlt => hgives hop rfl ?_, fun hle => ⟨fun hroom => ?_, fun hfull => hgives hop rfl ?_⟩⟩
    · rw [atePerform_barwait_of_passed (hphase ▸ hlt), hphase]
      rfl
    · exact hgives hop rfl (atePerform_barwait_of_room (hphase ▸ hle) hroom)
    · rw [atePerform_barwait_of_sixteen (hphase ▸ hle) hfull, hcause]
  · refine ⟨fun hlt => ?_, fun heq hexp hbytes => ?_⟩
    · have hsum : m.barArr k + 1 < m.barExpA k := by rw [harr, State.barExpA, hread]; exact hlt
      have hnew := barUpdate_of_short (w := w) hsum
      refine ⟨m.barUpdate k 1 0 w, hgives hop rfl rfl, ?_, ?_, ?_, fun j hj => ?_⟩
      · rw [readLe_of_mem hnew, barCounted_arr hwfm (hsum.trans (readLe_lt m k 4)), harr]
      · rw [readLe_of_mem hnew, barCounted_expected hwfm, hread]
      · rw [readLe_of_mem hnew, barCounted_bytes hwfm (readLe_lt m _ 8), hread]
      · rw [byteAt_of_mem hnew, barCounted_other hwfm hj, byteAt_of_mem hmem]
    · have hsum : m.barArr k + 1 = m.barExpA k := by rw [harr, State.barExpA, hread]; exact heq
      have hnew := barUpdate_of_met (w := w) hsum (show m.barExpB k = 0 by rw [State.barExpB, hread]; exact hexp) ((hread _ _).trans hbytes)
      have hwfc : Memory.wf (m.barCounted k 0 0).mem = true := barCounted_wf hwfm
      have hfit : (m.barPhase k + 1) % 2 ^ 64 < 256 ^ 8 := Nat.mod_lt _ (by decide)
      refine ⟨m.barUpdate k 1 0 w, hgives hop rfl rfl, ?_, ?_, ?_, ?_, fun j hj => ?_⟩
      · rw [readLe_of_mem hnew, readLe_writeLe_other hwfc (by omega), barCounted_arr hwfm (by decide)]
      · rw [readLe_of_mem hnew, readLe_writeLe_other hwfc (by omega), barCounted_expected hwfm, hread]
      · rw [readLe_of_mem hnew, readLe_writeLe_other hwfc (by omega), barCounted_bytes hwfm (by decide)]
      · rw [readLe_of_mem hnew, readLe_writeLe_fit hwfc hfit, hphase]
      · rw [byteAt_of_mem hnew, byteAt_writeLe_other _ _ _ _ _ hwfc (by omega), barCounted_other hwfm (by omega), byteAt_of_mem hmem]

end Sys2Proof.Machine
end

section
namespace Sys2Proof.Machine

/-! ### The unit that issued a command -/

/-- The unit that issued a command runs on a thread, with context `x`; it is the first of its handle, no slot keeps it, and it is not stepped. -/
structure Issuer (q : Cmd) (core thread : Nat) (s : State) (x : Ctx) : Prop where
  running : (s.thr core thread).running = true
  ctx : s.ctx core thread = x
  uid : x.uid = q.uid
  found : s.findUnit q.uid = some (core, thread)
  noSlot : s.inSlot q.uid = false
  unstepped : s.stepped q.asid q.tid = false

section Updates

variable (s : State) (uid : Nat) {f : Ctx → Ctx}

/-- A core of which a thread runs is in the table. -/
theorem core_of_running {core thread : Nat} (h : (s.thr core thread).running = true) : ∃ k, tget s.cores core = some k ∧ s.core core = k := by
  cases hk : tget s.cores core with
  | some k => exact ⟨k, rfl, by rw [State.core, tgetD, hk]; rfl⟩
  | none =>
    have hreset : (Core.reset.thr thread).running = false := by
      unfold Core.thr vget
      split
      · simp [Core.reset, Thread.reset]
      · rfl
    rw [State.thr, State.core, tgetD, hk, Option.getD_none, hreset] at h
    cases h

theorem thr_modUnit {core thread : Nat} (h : (s.thr core thread).running = true) :
    (s.modUnit uid f).thr core thread = (s.thr core thread).updated uid f := by
  obtain ⟨k, hk, hcore⟩ := core_of_running s h
  have hnew : (s.modUnit uid f).core core = k.updated uid f := by
    rw [State.core, tgetD, modUnit_cores, tget_tmap, hk]
    rfl
  rw [State.thr, hcore] at h
  rw [State.thr, State.thr, hnew, hcore]
  unfold Core.thr vget at h ⊢
  by_cases ht : thread < 5
  · rw [dif_pos ht, dif_pos ht]
    exact Vector.getElem_map ..
  · rw [dif_neg ht] at h
    cases h

/-- What `findUnit` asks of a thread. -/
def Thread.has (v : Nat) (th : Thread) : Bool := (th.running || th.stopped.isSome) && th.ctx.uid == v

section Handle

variable (hf : ∀ y, (f y).uid = y.uid)

include hf

theorem Thread.updated_has (v : Nat) (th : Thread) : (th.updated uid f).has v = th.has v := by
  unfold Thread.updated
  split
  · have huid : (if th.ctx.uid = uid then f th.ctx else th.ctx).uid = th.ctx.uid := by
      split
      · exact hf _
      · rfl
    rw [Thread.has, huid, Thread.has]
  · rfl

theorem findUnit_modUnit (v : Nat) : (s.modUnit uid f).findUnit v = s.findUnit v := by
  have hcore (k : Core) (t : Nat) : ((k.updated uid f).thr t).has v = (k.thr t).has v :=
    vget_map_keeps (Thread.has v) (Thread.updated uid f) (Thread.updated_has uid hf v) k.threads t Thread.reset
  have hthreads : (s.modUnit uid f).threadsWhere (fun _ _ th => th.has v) = s.threadsWhere fun _ _ th => th.has v := by
    rw [State.threadsWhere, modUnit_cores, tmap, List.flatMap_map]
    simp only [hcore]
    rfl
  exact congrArg List.head? hthreads

theorem inSlot_modUnit (v : Nat) : (s.modUnit uid f).inSlot v = s.inSlot v := by
  have huid (y : Ctx) : (if y.uid = uid then f y else y).uid = y.uid := by
    split
    · exact hf y
    · rfl
  simp only [State.inSlot, State.modUnit, Vector.toList_map, List.any_map, Function.comp_def, huid]

end Handle

/-- A change of a partition outside its debug state leaves which units are stepped. -/
theorem stepped_modPart (a : Nat) {f : Partition → Partition} (hf : ∀ p, (f p).dbg = p.dbg) (asid tid : Nat) :
    (s.modPart a f).stepped asid tid = s.stepped asid tid := by
  have hdbg : ((s.modPart a f).part asid).dbg = (s.part asid).dbg := by
    unfold State.part tgetD
    rw [tget_modPart]
    split
    · cases tget s.parts asid with
      | none => rfl
      | some p => exact hf p
    · rfl
  rw [State.stepped, hdbg, State.stepped]

end Updates

namespace Issuer

variable {q : Cmd} {core thread : Nat} {s t : State} {x : Ctx}

/-- The issuer's own update reaches its context. -/
theorem modUnit (h : Issuer q core thread s x) (f : Ctx → Ctx) (hf : ∀ y, (f y).uid = y.uid) : Issuer q core thread (s.modUnit q.uid f) (f x) := by
  have hthr := thr_modUnit s q.uid (f := f) h.running
  have hx : (s.thr core thread).ctx = x := h.ctx
  have hnew : (s.thr core thread).updated q.uid f = { s.thr core thread with ctx := f x } := by
    simp [Thread.updated, h.running, hx, h.uid]
  rw [hnew] at hthr
  exact {
    running := by rw [hthr]; exact h.running
    ctx := by rw [State.ctx, hthr]
    uid := (hf x).trans h.uid
    found := (findUnit_modUnit s q.uid hf q.uid).trans h.found
    noSlot := (inSlot_modUnit s q.uid hf q.uid).trans h.noSlot
    unstepped := h.unstepped }

/-- A state with the same cores and dies, in which the issuer is stepped as before, has the same issuer. -/
theorem of_rest (h : Issuer q core thread s x) (hcores : t.cores = s.cores) (hdies : t.dies = s.dies)
    (hstep : t.stepped q.asid q.tid = s.stepped q.asid q.tid) : Issuer q core thread t x := by
  have hcore (c : Nat) : t.core c = s.core c := by rw [State.core, hcores]; rfl
  have hthr (c u : Nat) : t.thr c u = s.thr c u := by rw [State.thr, hcore]; rfl
  exact {
    running := by rw [hthr]; exact h.running
    ctx := by rw [State.ctx, hthr]; exact h.ctx
    uid := h.uid
    found := by
      rw [State.findUnit, State.threadsWhere, hcores]
      exact h.found
    noSlot := by
      rw [State.inSlot, hdies]
      exact h.noSlot
    unstepped := hstep.trans h.unstepped }

theorem unitCtx (h : Issuer q core thread s x) : s.unitCtx q.uid = some x := by
  simp [State.unitCtx, h.found, h.ctx]

theorem queueOf (h : Issuer q core thread s x) : s.queueOf (.vq q.uid) = x.vq := by
  simp [State.queueOf, h.unitCtx]

theorem setQueue (h : Issuer q core thread s x) (l : List Cmd) : Issuer q core thread (s.setQueue (.vq q.uid) l) { x with vq := l } :=
  h.modUnit (fun x => { x with vq := l }) fun _ => rfl

theorem dropTurns (h : Issuer q core thread s x) (u seq : Nat) : Issuer q core thread (s.dropTurns u seq) x := by
  unfold State.dropTurns
  split
  · exact h
  · exact h.of_rest rfl rfl rfl

/-- The watchdog of the partition notes that the command has ended (R411). -/
theorem noteProgress (h : Issuer q core thread s x) (a now : Nat) : Issuer q core thread (s.modPart a fun p => { p with wdLast := now }) x :=
  have hdbg (p : Partition) : { p with wdLast := now }.dbg = p.dbg := rfl
  h.of_rest (modPart_cores _ _ _) (modPart_dies _ _ _) (stepped_modPart s a hdbg _ _)

/-- Flags accrue in the issuer's FCTL (R206, R219). -/
theorem orWarnings (h : Issuer q core thread s x) : ∃ w, Issuer q core thread (s.orWarnings q) { x with fctl := accrue x.fctl q.flags, warn := w } := by
  have hlive : (s.unitCtx q.uid).isSome = true := by rw [h.unitCtx]; rfl
  unfold State.orWarnings
  dsimp only
  rw [if_pos hlive]
  exact ⟨_, h.modUnit (fun x => { x with fctl := accrue x.fctl q.flags, warn := x.warn ||| _ }) fun _ => rfl⟩

/-- The issuer's entry has its new state (R420); with no slot, it is not late. -/
theorem setOp (h : Issuer q core thread s x) (st : Nat) (c : Option Cause) : Issuer q core thread (s.setOp q.uid q.seq st c) (x.setOp false q.seq st c) := by
  unfold State.setOp
  dsimp only
  rw [h.noSlot]
  exact h.modUnit (Ctx.setOp · false q.seq st c) fun _ => rfl

/-- The cause waits for the issuer's next boundary (R296, R396). -/
theorem pendTask (h : Issuer q core thread s x) (c : Cause) (d : Detail) :
    Issuer q core thread (s.pendTask q.asid q.uid q.tid c d) { x with pend := x.pend ++ [{ cause := c, det := d }] } := by
  have htask : s.taskUid q.asid q.uid q.tid = some q.uid := by
    rw [State.taskUid, h.unitCtx]
    rfl
  rw [State.pendTask, htask]
  simp only [State.pendCause, h.noSlot]
  exact h.modUnit (fun x => { x with pend := x.pend ++ [{ cause := c, det := d }] }) fun _ => rfl

end Issuer

/-- A context for whose register a token's value is on its way (R93). -/
def Ctx.filled (x : Ctx) (token : Reg) (v : Word) : Ctx := { x with producers := if token = 0 then x.producers else x.producers ++ [(token.toNat, v)] }

theorem Issuer.fillToken {q : Cmd} {core thread : Nat} {s : State} {x : Ctx} (h : Issuer q core thread s x) :
    ∃ v, Issuer q core thread (s.fillToken q) (x.filled q.token v) := by
  have hfresh : Issuer q core thread s.newFree.2 x := h.of_rest rfl rfl rfl
  refine ⟨Config.tokenValue s.newFree.1, ?_⟩
  unfold State.fillToken Ctx.filled
  by_cases htoken : q.token = 0
  · rw [if_pos htoken, if_pos htoken]
    exact h
  · rw [if_neg htoken, if_neg htoken]
    dsimp only
    rw [State.deliver, if_neg htoken]
    exact hfresh.modUnit (fun x => { x with producers := x.producers ++ [(q.token.toNat, Config.tokenValue s.newFree.1)] }) fun _ => rfl

/-! ### The cause with which a command ends -/

/-- Of raised exceptions, listed from FCTL bit 10 on, the cause with the lowest code (R219). -/
theorem argMin_fxCause (nx uf of dz nv sat : Bool) :
    argMin Cause.code (((upTo 6).filter fun i => nth false [nx, uf, of, dz, nv, sat] i).map fxCause) =
      if nv then some .fpinv else if dz then some .fpdz else if of then some .fpovf else if uf then some .fpunf else if nx then some .fpinx
      else if sat then some .fpsat else none := by
  revert nx uf of dz nv sat
  decide

theorem enabledCause_eq_trapOf (fctl : Word) (flags : BitVec 6) : enabledCause fctl flags = trapOf fctl flags :=
  argMin_fxCause (flags.getLsbD 0 && fctl.getLsbD 24) (flags.getLsbD 1 && fctl.getLsbD 25) (flags.getLsbD 2 && fctl.getLsbD 26)
    (flags.getLsbD 3 && fctl.getLsbD 27) (flags.getLsbD 4 && fctl.getLsbD 28) (flags.getLsbD 5 && fctl.getLsbD 29)

/-- The fault with which a command ends: the one met or, with none, the enabled trap of lowest code (R219). -/
def Cmd.ending (q : Cmd) (fault : Option (Cause × Detail)) : Option (Cause × Detail) :=
  match fault with
  | some f => some f
  | none => (enabledCause q.fctl q.flags).map fun c => (c, {})

theorem ending_cause (q : Cmd) (fault : Option (Cause × Detail)) :
    (q.ending fault).map (·.1) = match fault with | some f => some f.1 | none => trapOf q.fctl q.flags := by
  cases fault with
  | some f => rfl
  | none => simp [Cmd.ending, enabledCause_eq_trapOf, Function.comp_def]

/-! ### Ends of commands -/

/-- The in-flight entry of a command that ends, and the watchdog of its partition, are settled (R411, R420). -/
def State.settle (s : State) (q : Cmd) (e : Option (Cause × Detail)) : State :=
  let t := s.setOp q.uid q.seq (if e.isSome then 3 else 2) (e.map (·.1))
  t.modPart q.asid fun p => { p with wdLast := t.cycle }

/-- The end of an engine's command of a unit that is not stepped: a cause stops nothing (R419). -/
theorem endCmd_of_unstepped {s t : State} {q : Cmd} {fault : Option (Cause × Detail)}
    (ht : t = (((s.orWarnings q).fillToken q).dropTurns q.uid q.seq).settle q (q.ending fault)) (hu : t.stepped q.asid q.tid = false) :
    s.endCmd q fault = t := by
  have heq : s.endCmd q fault = match q.ending fault with
      | some (c, d) => if t.stepped q.asid q.tid && !t.inSlot q.uid then t.pendEng q.uid c d false else t
      | none => t := by
    rw [ht]
    rfl
  rw [heq, hu]
  cases q.ending fault <;> rfl

/-- The end of a vector instruction, but for what its cause does. -/
def State.endedVec (s : State) (p : Port) (q : Cmd) (fault : Option (Cause × Detail)) : State := ((s.orWarnings q).popHead p).settle q (q.ending fault)

/-- What a unit has queued at a port is withdrawn (R296). -/
def State.withdraw (s : State) (p : Port) (uid : Nat) : State := s.setQueue p ((s.queueOf p).filter fun r => r.uid != uid)

section Vec

variable {s t : State} {p : Port} {q : Cmd} {fault : Option (Cause × Detail)}

theorem endVec_eq (ht : t = (s.endedVec p q fault).withdraw p q.uid) :
    s.endVec p q fault = match q.ending fault with
      | some (c, d) => if t.stepped q.asid q.tid && (t.findUnit q.uid).isSome && !t.inSlot q.uid then t.pendEng q.uid c d true else t.pendTask q.asid q.uid q.tid c d
      | none => s.endedVec p q fault := by
  rw [ht]
  rfl

theorem endVec_of_none (he : q.ending fault = none) : s.endVec p q fault = s.endedVec p q fault := by rw [endVec_eq rfl, he]

/-- The fault of a vector instruction of a unit that is not stepped withdraws what the unit has queued, and waits for its task (R296). -/
theorem endVec_of_some {c : Cause} {d : Detail} (ht : t = (s.endedVec p q fault).withdraw p q.uid) (he : q.ending fault = some (c, d))
    (hu : t.stepped q.asid q.tid = false) : s.endVec p q fault = t.pendTask q.asid q.uid q.tid c d := by
  rw [endVec_eq ht, he, hu]
  rfl

end Vec

/-- The context of a command's issuer once the command has ended with a cause or without one: its flags have accrued and its entry is settled (R206, R219, R420). -/
def Cmd.noted (q : Cmd) (cause : Option Cause) (warn : Word) (x : Ctx) : Ctx :=
  { x with fctl := accrue x.fctl q.flags, warn := warn }.setOp false q.seq (if cause.isSome then 3 else 2) cause

theorem noted_ops_of_none (q : Cmd) (warn : Word) (x : Ctx) : (q.noted none warn x).ops =
    x.ops.map fun (o : InFlight) => if o.seq = q.seq ∧ o.state < 2 then { o with state := 2, cause := none, late := false } else o := rfl

theorem noted_ops_of_some (q : Cmd) (c : Cause) (warn : Word) (x : Ctx) : (q.noted (some c) warn x).ops =
    x.ops.map fun (o : InFlight) => if o.seq = q.seq ∧ o.state < 2 then { o with state := 3, cause := some c, late := false } else o := rfl

section Ends

variable {q : Cmd} {core thread : Nat} {s : State} {x : Ctx} (h : Issuer q core thread s x)

include h

theorem settle_issuer (e : Option (Cause × Detail)) : Issuer q core thread (s.settle q e) (x.setOp false q.seq (if e.isSome then 3 else 2) (e.map (·.1))) :=
  (h.setOp _ _).noteProgress _ _

/-- An engine's command accrues its flags, fills its token and settles its entry (R93, R219, R420). -/
theorem endCmd_issuer (fault : Option (Cause × Detail)) :
    ∃ w v, Issuer q core thread (s.endCmd q fault) (q.noted ((q.ending fault).map (·.1)) w (x.filled q.token v)) := by
  obtain ⟨w, hwarn⟩ := h.orWarnings
  obtain ⟨v, hfill⟩ := hwarn.fillToken
  have hdone := settle_issuer (hfill.dropTurns q.uid q.seq) (q.ending fault)
  refine ⟨w, v, ?_⟩
  rw [endCmd_of_unstepped rfl hdone.unstepped, Cmd.noted, Option.isSome_map]
  exact hdone

/-- A vector instruction leaves its queue, accrues its flags and settles its entry (R219, R296, R420). -/
theorem endedVec_issuer (fault : Option (Cause × Detail)) :
    ∃ w, Issuer q core thread (s.endedVec (.vq q.uid) q fault) (q.noted ((q.ending fault).map (·.1)) w { x with vq := x.vq.drop 1 }) := by
  obtain ⟨w, hwarn⟩ := h.orWarnings
  have hpop := hwarn.setQueue (((s.orWarnings q).queueOf (.vq q.uid)).drop 1)
  rw [hwarn.queueOf] at hpop
  have hdone := settle_issuer hpop (q.ending fault)
  refine ⟨w, ?_⟩
  rw [Cmd.noted, Option.isSome_map, State.endedVec, State.popHead, hwarn.queueOf]
  exact hdone

theorem withdraw_issuer : Issuer q core thread (s.withdraw (.vq q.uid) q.uid) { x with vq := x.vq.filter fun r => r.uid != q.uid } := by
  rw [State.withdraw, h.queueOf]
  exact h.setQueue _

theorem endVec_issuer_of_none {fault : Option (Cause × Detail)} (he : q.ending fault = none) :
    ∃ w, Issuer q core thread (s.endVec (.vq q.uid) q fault) (q.noted none w { x with vq := x.vq.drop 1 }) := by
  have hdone := endedVec_issuer h fault
  rw [he] at hdone
  rw [endVec_of_none he]
  exact hdone

/-- A fault takes what the unit has queued behind the instruction with it, and waits for the unit's next boundary (R296). -/
theorem endVec_issuer_of_some {fault : Option (Cause × Detail)} {c : Cause} {d : Detail} (he : q.ending fault = some (c, d)) :
    ∃ w, Issuer q core thread (s.endVec (.vq q.uid) q fault)
      (q.noted (some c) w { x with vq := (x.vq.drop 1).filter (fun r => r.uid != q.uid), pend := x.pend ++ [{ cause := c, det := d }] }) := by
  obtain ⟨w, hdone⟩ := endedVec_issuer h fault
  rw [he] at hdone
  have hless := withdraw_issuer hdone
  rw [endVec_of_some rfl he hless.unstepped]
  exact ⟨w, hless.pendTask c d⟩

end Ends

/-- Settles O35: the issuer's context follows the end of its command step by step; the cause is the command's `ending`. -/
theorem commandsEndWithFlagsAndToken : Obligations.CommandsEndWithFlagsAndToken := by
  unfold Obligations.CommandsEndWithFlagsAndToken
  intro s core thread q fault _ hrun hfound huid hslot hstep x cause noted
  have h : Issuer q core thread s x := { running := hrun, ctx := rfl, uid := huid, found := hfound, noSlot := hslot, unstepped := hstep }
  have hcause : (q.ending fault).map (·.1) = cause := ending_cause q fault
  have hnoted (w : Word) (z : Ctx) (hf : z.fctl = x.fctl) (ho : z.ops = x.ops) : noted (q.noted cause w z) :=
    ⟨congrArg (accrue · q.flags) hf, fun hc => by rw [hc, noted_ops_of_none, ho], fun c hc => by rw [hc, noted_ops_of_some, ho]⟩
  constructor
  · obtain ⟨w, v, hend⟩ := endCmd_issuer h fault
    rw [hcause] at hend
    dsimp only
    rw [hend.ctx]
    exact ⟨hnoted w _ rfl rfl, fun ht => if_pos ht, fun ht => ⟨v, if_neg ht⟩, rfl, rfl, rfl⟩
  · dsimp only
    rcases he : q.ending fault with _ | ⟨c, d⟩
    · have hnone : cause = none := by rw [← hcause, he]; rfl
      obtain ⟨w, hend⟩ := endVec_issuer_of_none h he
      rw [hend.ctx, ← hnone]
      exact ⟨hnoted w _ rfl rfl, fun _ => ⟨rfl, rfl⟩, fun c hc => (by rw [hnone] at hc; cases hc), rfl, rfl, rfl⟩
    · have hsome : cause = some c := by rw [← hcause, he]; rfl
      obtain ⟨w, hend⟩ := endVec_issuer_of_some h he
      rw [hend.ctx, ← hsome]
      refine ⟨hnoted w _ rfl rfl, fun hc => (by rw [hsome] at hc; cases hc), fun c' hc => ⟨rfl, _, rfl, ?_⟩, rfl, rfl, rfl⟩
      exact Option.some.inj (hsome.symm.trans hc)

end Sys2Proof.Machine
end
